-- ==== Sys2Proof/Word.lean ====
section
/-! DEFINITION. The word types of the device and their plainest arithmetic (00_scope R7, R8, R10). -/
namespace Sys2Proof

/-- One byte of a link, a table or the Cistern. -/
abbrev Byte := BitVec 8

/-- A written value in a field of `w` bits, as a number. -/
abbrev Raw (w : Nat) := BitVec w

/-- 1 KB, 1 MB and 1 GB of a memory, buffer, region or wrap size (R10). -/
def KB : Nat := 1024
def MB : Nat := 1024 * 1024
def GB : Nat := 1024 * 1024 * 1024

end Sys2Proof
end

