-- ==== Sys2Proof/Syntax.lean ====
section
/-! DEFINITION. The commands of the CJ9612: one constructor of `Instr` per row of spec/opcode_table.json,
with the operands that a sender or the world outside the balls supplies. -/
namespace Sys2Proof

/-- The path of a dictionary write (12_control_dictionary R326, R328): CoE SDO, TSP CONTROL or a RxPDO entry.
Over the RxPDO no abort can be returned (R27, R28). -/
inductive Path where
  | sdo | tsp | pdo
  deriving DecidableEq, Repr

/-- The sensor that gives a page edge (03_line_timing R83). -/
inductive PageSensor where
  | psync | pmark
  deriving DecidableEq, Repr

/-- What the ECC check of a read gives (09_cistern_dma R225, R226), with the address of the block. -/
inductive Ecc where
  | clean
  | corrected (address : Nat)
  | uncorrectable (address : Nat)
  deriving DecidableEq, Repr

/-- One pixel as the tile delivers it (02_tile_front_end R43, R44): its charge after reset removal and the reset
level that CDS removes, both in zeptocoulombs. -/
structure Pixel where
  charge : Int
  reset : Int
  deriving DecidableEq, Repr

/-- The pixels that one port delivers in one slot, in readout order (R38). -/
structure Reading where
  port : Fin 96
  pixels : List Pixel
  deriving DecidableEq, Repr

/-- A received frame up to its TSP payload (10_host_stream R244, R245, Table 10.1). -/
structure Frame where
  lane : Fin 16
  /-- EtherType IPv4. -/
  ipv4 : Bool
  fragment : Bool
  options : Bool
  ipChecksumBad : Bool
  protocol : BitVec 8
  dstIp : BitVec 32
  dstPort : BitVec 16
  /-- The UDP checksum is non-zero and wrong. -/
  udpChecksumBad : Bool
  udpLength : BitVec 16
  srcMac : BitVec 48
  srcIp : BitVec 32
  srcPort : BitVec 16
  magic : BitVec 16
  version : BitVec 8
  laneField : BitVec 8
  streamId : BitVec 8
  session : BitVec 32
  item : BitVec 64
  length : BitVec 16
  deriving DecidableEq, Repr

/-- A SyncManager as the master programs it (12_control_dictionary Table 12.1): start address and length in bytes. -/
structure SyncManager where
  start : Nat
  length : Nat
  deriving DecidableEq, Repr

/-- An FMMU as the master programs it: bytes from a logical address on are those from a physical address on, for reads or for
writes; length 0 where it is not in use. -/
structure Fmmu where
  logical : Nat
  length : Nat
  physical : Nat
  writes : Bool
  deriving DecidableEq, Repr

/-- What the other parties put on a two-wire bus during one step of a transaction (17_two_wire R422, R425): a released line is
high, and a line that anyone pulls is low. -/
structure TwSeen where
  /-- Their levels of SDA in the eight bits of a byte, the first bit of the bus highest. -/
  bits : Byte
  /-- They pull SDA low in the ninth bit, or where the device sends a repeated START or a STOP. -/
  low : Bool
  deriving DecidableEq, Repr

/-- What a bus test samples (R423): SCL and SDA after TW_BUF, SDA at the end of the high phase of each clock, and whether SDA
is high and stays high for TW_BUF after the STOP. -/
structure TwTest where
  scl : Bool
  sda : Bool
  clocks : List Bool
  held : Bool
  deriving DecidableEq, Repr

/-- What another controller does in a transaction that addresses a target (R429, R431): the bytes it writes until the START or
STOP that ends the transaction, or how many bytes it reads. -/
inductive TwTransfer where
  | write (bytes : List Byte)
  | read (count : Nat)
  deriving DecidableEq, Repr

/-- A command: one row of spec/opcode_table.json. -/
inductive Instr where
  /- 01 Architecture: device modes -/
  | modeRequestStandby (via : Path)
  | modeRequestReady (via : Path)
  | modeRequestInline (via : Path)
  | modeRequestSheet (via : Path)
  | modeRequestInvalid (via : Path) (code : BitVec 8)
  | modeTransitionDone
  | objectWrite (via : Path) (index sub : Nat) (data : List Byte)
  /- 02 Tile front end -/
  | hostAssign (via : Path) (k : Fin 8) (port : BitVec 8)
  | handover (k : Fin 8)
  | toneWindowEnd (k : Fin 8) (amplitudes : List (Fin 96 × Nat))
  | faultClear (via : Path) (p : Fin 96)
  | groupOutputWrite (via : Path) (k : Fin 8) (vrst : Bool) (mv : BitVec 16)
  | settlingWindowClose (k : Fin 8)
  /- 03 Line timing -/
  | nop
  | line
  | slot
  | tone
  | loop
  | jump
  | programSelect (via : Path) (v : BitVec 8)
  | slotEnd
  | startPulse (k : Fin 8) (readings : List Reading)
  | lineHoldRelease
  | lineCommit
  | lineTrigger
  | internalTrigger
  | sync0Trigger
  | ltrigEdge (rising : Bool)
  | encCount (e : Fin 2) (a b : Bool)
  | encIndex (e : Fin 2) (level : Bool)
  | encPositionWrite (via : Path) (e : Fin 2) (v : BitVec 64)
  | webHalt
  | holdAssert
  | holdRelease
  | pageEdge (sensor : PageSensor)
  | pageStartNow (via : Path)
  /- 04 Illumination -/
  | latch (returned : List (List (BitVec 208)))
  | levelWrite (via : Path) (c : Fin 3) (v : BitVec 16)
  | lampFaultClear (via : Path)
  | engineRun (via : Path) (i : Fin 4) (v : BitVec 8)
  | engineTick (i : Fin 4)
  | indNop (i : Fin 4)
  | set (i : Fin 4)
  | ramp (i : Fin 4)
  | wait (i : Fin 4)
  | indLoop (i : Fin 4)
  | indJump (i : Fin 4)
  | rotate (i : Fin 4)
  | test (i : Fin 4)
  | halt (i : Fin 4)
  /- 05, 06 Correction and registration -/
  | bulkDownloadComplete (via : Path) (index sub : Nat) (data : List Byte)
  | bankSwitch (via : Path)
  | bankSwitchEffect
  | refCapture (via : Path)
  | captureBegin
  | captureMoveDone
  | captureMoveTimeout
  | capturePhaseEnd
  | captureEvaluate
  | staggerMeasure (via : Path)
  | staggerMeasureDone
  /- 07 Calibration -/
  | calEvaluate
  | calRequest (via : Path) (v : BitVec 8)
  | spareCheck (k : Fin 8) (sweep1 sweep2 : List Nat)
  | passStart (k : Fin 8)
  | calWindowClose (k : Fin 8)
  | sweepDone (k : Fin 8) (sums : List Nat)
  | attemptJudge (k : Fin 8)
  | calWindowTimeout (k : Fin 8)
  | leavenDeferred (k : Fin 8)
  | pwRegionAdd (via : Path) (data : List Byte)
  | pwRegionDone
  | pwRelearn (via : Path)
  | recordClear (via : Path) (v : BitVec 16)
  | recordStore (ok : Bool)
  | leavenStatusClear (via : Path) (v : BitVec 16)
  /- 08 Compare -/
  | bandCompare (ecc : Ecc)
  | prefetchFetch
  | refOpen (via : Path) (v : BitVec 16)
  | refRelease (via : Path) (v : BitVec 16)
  | pageAssign (via : Path) (data : List Byte)
  | defaultRefWrite (via : Path) (v : BitVec 16)
  | cmpStatusClear (via : Path) (v : BitVec 16)
  /- 09 Cistern and DMA -/
  | regionSizeWrite (via : Path) (i : Fin 9) (v : BitVec 64)
  | scrubStep (ecc : Ecc)
  | dramStatusClear (via : Path) (v : BitVec 16)
  | dmaStart (via : Path) (ch : Fin 32)
  | dmaStop (via : Path) (ch : Fin 32)
  | dmaKick (via : Path) (ch : Fin 32)
  | descriptorFetch (ch : Fin 32) (ecc : Ecc)
  | descriptorDone (ch : Fin 32) (ecc : Ecc)
  | dmaStatusClear (via : Path) (v : BitVec 32)
  /- 10 Host stream -/
  | sessionOpen (f : Frame) (mask : BitVec 16) (expectedStream : BitVec 8)
  | sessionClose (f : Frame)
  | sessionTimeout
  | credit (f : Frame) (mask : BitVec 16) (limits : List (BitVec 64))
  | read (f : Frame) (index sub : Nat)
  | write (f : Frame) (index sub : Nat) (data : List Byte)
  | readSegment (f : Frame) (index sub offset len : Nat)
  | writeSegment (f : Frame) (index sub offset : Nat) (data : List Byte) (final : Bool)
  | scratchWrite (f : Frame) (offset : Nat) (data : List Byte) (ecc : Ecc)
  | scratchRead (f : Frame) (offset len : Nat) (ecc : Ecc)
  | reference (f : Frame) (offset : Nat) (data : List Byte)
  | arpRequest (lane : Fin 16) (target : BitVec 32)
  | pauseFrame (lane : Fin 16) (quanta : BitVec 16)
  | pauseEnd (lane : Fin 16)
  | itemSend (lane : Fin 16) (ecc : Ecc)
  | statusSend
  | laneDown (lane : Fin 16)
  | streamEnd
  | streamStatusClear (via : Path) (v : BitVec 16)
  | weirEvaluate
  | restartBegin
  | backupTargetReached
  | restartDecision
  | restartAttemptFailed
  /- 11 Motion -/
  | moveAbs (via : Path) (a : Fin 6)
  | moveRel (via : Path) (a : Fin 6)
  | velocity (via : Path) (a : Fin 6)
  | stop (via : Path) (a : Fin 6)
  | home (via : Path) (a : Fin 6)
  | runList (via : Path) (a : Fin 6)
  | follow (via : Path) (a : Fin 6)
  | energise (via : Path) (a : Fin 6)
  | deEnergise (via : Path) (a : Fin 6)
  | clearError (via : Path) (a : Fin 6)
  | axisPositionWrite (via : Path) (a : Fin 6) (v : BitVec 32)
  | axisUpdate (a : Fin 6)
  | vdsOvercurrent (a : Fin 6)
  | gateUndervoltage
  | openCoil (a : Fin 6)
  /-- The mean phase voltages in mV and the mean phase currents in mA of the last 100 µs, phases A and B (R303). -/
  | loadEstimate (a : Fin 6) (uA uB iA iB : Int)
  | stall (a : Fin 6)
  | holdDelayExpire (a : Fin 6)
  | standstillOffExpire (a : Fin 6)
  | mrefEdge (a : Fin 6) (active : Bool)
  | homeTimeout (a : Fin 6)
  | segNop (a : Fin 6)
  | move (a : Fin 6)
  | speed (a : Fin 6)
  | accel (a : Fin 6)
  | dwell (a : Fin 6)
  | dwellEnd (a : Fin 6)
  | segWait (a : Fin 6)
  | sync (a : Fin 6)
  | segLoop (a : Fin 6)
  | segJump (a : Fin 6)
  | notify (a : Fin 6)
  | segHalt (a : Fin 6)
  | xstepEdge (e : Fin 2) (dirHigh : Bool)
  | pacerUpdate
  | mstopAssert
  | mstopRelease
  | mcWatchdog
  | pcWatchdog
  | motionStatusClear (via : Path) (v : BitVec 16)
  | axisStatusClear (via : Path) (a : Fin 6) (v : BitVec 16)
  /- 12 Control dictionary -/
  | alRequestInit
  /-- SM0 and SM1 as the master has programmed them. -/
  | alRequestPreOp (sms : SyncManager × SyncManager)
  /-- SM2, SM3 and the FMMUs as the master has programmed them, and the SYNC0 cycle in ns if SYNC0 is active. -/
  | alRequestSafeOp (sms : SyncManager × SyncManager) (fmmus : List Fmmu) (sync0 : Option Nat)
  /-- The distributed-clock system time at the entry to Op. -/
  | alRequestOp (dcTime : BitVec 64)
  | alRequestBoot
  | pdoTimeout
  | rxpdoUpdate (data : List Byte)
  | sdoDownload (index sub : Nat) (complete : Bool) (size : Nat) (data : List Byte)
  | sdoUpload (index sub : Nat) (complete : Bool)
  | sdoSegment (toggle : Bool) (last : Bool) (data : List Byte)
  | sdoTimeout
  | sdoInformation (index sub : Nat)
  | siiWrite (address : Nat) (data : List Byte)
  | configCommit (via : Path)
  | commitComplete (ok : Bool)
  | configRevert (via : Path)
  | configDefaults (via : Path)
  | configStatusClear (via : Path) (v : BitVec 16)
  /- 14 Power -/
  | vinUndervoltage
  | voltMonitorSample (mv : List Nat)
  | afeRailRestore (k : Fin 8)
  | buckCurrentLimit (b : Fin 4)
  | tempMonitorSample (centi : List Int)
  | thermalShutdown (monitor : Fin 24)
  | processMonitorSample (readings : List Nat)
  | refclkLost
  | pllUnlock (n : Fin 7)
  | pllRelock (n : Fin 7)
  | domainPowerUp (d : Fin 20)
  /-- The mean output of the bucks and the VGD draw over 10 ms, in mW (R357). -/
  | governorEvaluate (milliwatts : Nat)
  | govEnableWrite (via : Path) (v : BitVec 8)
  | govAllowHalfResWrite (via : Path) (v : BitVec 8)
  | railStatusClear (via : Path) (v : BitVec 16)
  | monStatusClear (via : Path) (v : BitVec 16)
  | govStatusClear (via : Path) (v : BitVec 16)
  /- 15 Startup -/
  | powerOn (xtalSel testMode : Bool)
  | resetPin (low : Bool) (xtalSel testMode : Bool)
  | mpWatchdog
  | softwareReset (via : Path)
  | resetRestart (xtalSel testMode : Bool)
  | railGood
  | railStartTimeout (monitor : Fin 20)
  | starter
  | starterRetry
  | bootActions
  | dramTrainingDone (ok0 ok1 : Bool)
  | tileDiscover (via : Path)
  | discoveryDone (answers : List (Fin 2 × List TwSeen))
  /- 16 Management -/
  | mailboxSend (d : Fin 8) (message : List Byte)
  | mailboxDeliver (d : Fin 8)
  | mailboxTimeout (d : Fin 8)
  | mailboxRelease (d : Fin 8)
  | pcRelease
  | hmSend (via : Path) (message : List Byte)
  | mhRelease (via : Path) (v : BitVec 16)
  | mboxStatusClear (via : Path) (v : BitVec 8)
  | logFlush (ok : Bool)
  | logClear (via : Path)
  | leavenReclaim (ok : Bool)
  | flashPatrol
  | flashStatusClear (via : Path) (v : BitVec 16)
  | telemetrySnapshot
  | updBegin (via : Path)
  | updateEraseDone (ok : Bool)
  | updateData (via : Path) (offset : Nat) (data : List Byte) (ok : Bool)
  | verify (via : Path)
  | updateVerifyDone
  | activate (via : Path)
  | confirm (via : Path)
  | revert (via : Path)
  | updAbort (via : Path)
  /- 17 Two-wire: `seen` is what the bus shows to the steps of the transaction, from its START on -/
  | twRequest (via : Path) (data : List Byte)
  | twTransaction (b : Fin 2) (seen : List TwSeen)
  | twStretchTimeout (b : Fin 2) (seen : List TwSeen)
  | recover (via : Path) (b : Fin 2)
  | twBusTest (b : Fin 2) (result : TwTest)
  | twEnableWrite (via : Path) (b : Fin 2) (v : BitVec 8)
  /-- One transaction in which another controller sends an address, until the START or STOP that ends it. -/
  | twTargetTransaction (b : Fin 2) (address : BitVec 7) (transfer : TwTransfer)
  | twWindowRefresh
  | twSensorPoll (b : Fin 2) (sensor : Fin 8) (seen : List TwSeen)
  | twStatusClear (via : Path) (v : BitVec 16)
  /- 18 Errors, and rows added later -/
  | firstErrorAck (via : Path) (v : BitVec 32)
  | rxDropped (f : Frame) (typ : BitVec 8)
  | blockLockGained (lane : Fin 16)
  | txpdoSample
  | configRevertComplete (ok : Bool)
  | mailboxInRead
  deriving DecidableEq, Repr

end Sys2Proof
end

