-- ==== Sys2Proof/Config.lean ====
section
/-! DEFINITION. What one part fixes and the spec leaves open: the free values. A free value has no body, so
nothing can be proved about it and every statement holds for each of its values. -/
namespace Sys2Proof.Config

/-- Log entry 1. The value, as a number, that a field of `w` bits takes where the spec states no value; `n` is the
counter of the state at the moment it is taken. -/
opaque freeBits (w : Nat) : Nat → BitVec w

/-- Log entry 2. What an unsigned count of `w` bits reads after it has passed `2 ^ w - 1`, where the spec neither
wraps nor saturates it; `n` is the true count. -/
opaque countPast (w : Nat) : Nat → BitVec w

/-- Log entry 71. The sixteen bytes of SOFTWARE_VERSION of an image of a given version: the spec gives no form for the
string. -/
opaque softwareVersion : Nat → BitVec 128

/-- Log entry 172. Which of the two instruction codes that IEEE 1149.1 leaves to an implementation is SAMPLE/PRELOAD: its bit
next to TDO. -/
opaque sampleLow : Bool

end Sys2Proof.Config
end

