-- ==== Sys2Proof/Machine/Arith.lean ====
section
/-! DEFINITION. Exact arithmetic, rounding, medians, byte order and check words (00_scope R7, R8, R475). -/
namespace Sys2Proof.Machine

/-! ## Fractions -/

/-- A rational number with a positive denominator. "Every product and quotient is formed at full precision" (R475). -/
structure Frac where
  num : Int
  den : Nat
  deriving DecidableEq, Repr

/-- A fraction in lowest terms; a zero denominator gives 0. -/
def Frac.mk' (n : Int) (d : Int) : Frac :=
  if d = 0 then ⟨0, 1⟩
  else
    let g := Nat.gcd n.natAbs d.natAbs
    let s : Int := if d < 0 then -1 else 1
    ⟨s * n / (g : Int), d.natAbs / g⟩

def Frac.ofInt (n : Int) : Frac := ⟨n, 1⟩
def Frac.ofNat (n : Nat) : Frac := ⟨n, 1⟩
def Frac.zero : Frac := ⟨0, 1⟩
def Frac.one : Frac := ⟨1, 1⟩
def Frac.add (a b : Frac) : Frac := mk' (a.num * b.den + b.num * a.den) (a.den * b.den)
def Frac.neg (a : Frac) : Frac := ⟨-a.num, a.den⟩
def Frac.sub (a b : Frac) : Frac := a.add b.neg
def Frac.mul (a b : Frac) : Frac := mk' (a.num * b.num) (a.den * b.den)
def Frac.div (a b : Frac) : Frac := mk' (a.num * b.den) (a.den * b.num)
def Frac.lt (a b : Frac) : Bool := decide (a.num * b.den < b.num * a.den)
def Frac.le (a b : Frac) : Bool := decide (a.num * b.den ≤ b.num * a.den)
def Frac.eq (a b : Frac) : Bool := decide (a.num * b.den = b.num * a.den)
def Frac.abs (a : Frac) : Frac := ⟨a.num.natAbs, a.den⟩
def Frac.isZero (a : Frac) : Bool := decide (a.num = 0)
def Frac.min (a b : Frac) : Frac := if a.le b then a else b
def Frac.max (a b : Frac) : Frac := if a.le b then b else a
def Frac.pow (a : Frac) : Nat → Frac
  | 0 => one
  | n + 1 => (a.pow n).mul a
def Frac.floor (a : Frac) : Int := Int.fdiv a.num a.den
def Frac.ceil (a : Frac) : Int := -(Int.fdiv (-a.num) a.den)

/-- round(): to the nearest integer, halves away from zero (R475). -/
def Frac.round (a : Frac) : Int :=
  if a.num < 0 then -(((2 * a.num.natAbs + a.den) / (2 * a.den) : Nat) : Int)
  else (((2 * a.num.natAbs + a.den) / (2 * a.den) : Nat) : Int)

/-- round(n / d) with halves away from zero (R475). -/
def roundDiv (n d : Int) : Int := (Frac.mk' n d).round

/-- ⌈n / d⌉ of naturals. -/
def ceilDiv (n d : Nat) : Nat := if d = 0 then 0 else (n + d - 1) / d

/-- Limits a value to `lo` … `hi`. -/
def clampInt (lo hi v : Int) : Int := if v < lo then lo else if hi < v then hi else v

/-- floor of the square root, by bits from `k` down. -/
def isqrtAux (n : Nat) : Nat → Nat → Nat
  | 0, r => r
  | k + 1, r =>
    let t := r + 2 ^ k
    isqrtAux n k (if t * t ≤ n then t else r)

/-- floor(√n). -/
def isqrt (n : Nat) : Nat := isqrtAux n (Nat.log2 n / 2 + 1) 0

/-! ## Lists -/

/-- Inserts into an ascending list. -/
def insertSorted (x : Int) : List Int → List Int
  | [] => [x]
  | y :: ys => if x ≤ y then x :: y :: ys else y :: insertSorted x ys

/-- The list in ascending order. -/
def sortInts : List Int → List Int
  | [] => []
  | x :: xs => insertSorted x (sortInts xs)

/-- The median (R475); the mean of the two middle values for an even number. An empty list gives 0. -/
def median (l : List Int) : Frac :=
  let s := sortInts l
  let n := s.length
  if n = 0 then Frac.zero
  else if n % 2 = 1 then Frac.ofInt (s.getD (n / 2) 0)
  else Frac.mk' (s.getD (n / 2 - 1) 0 + s.getD (n / 2) 0) 2

def sumInts (l : List Int) : Int := l.foldl (· + ·) 0
def sumNats (l : List Nat) : Nat := l.foldl (· + ·) 0
def maxNat (l : List Nat) : Nat := l.foldl Nat.max 0

/-- The list with element `i` changed by `f`. -/
def modifyAt {α : Type} (f : α → α) : Nat → List α → List α
  | _, [] => []
  | 0, x :: xs => f x :: xs
  | n + 1, x :: xs => x :: modifyAt f n xs

/-- The list with element `i` set to `v`. -/
def setAt {α : Type} (l : List α) (i : Nat) (v : α) : List α := modifyAt (fun _ => v) i l

/-! ## Bits and bytes -/

/-- Bits [hi:lo] of a number (R7). -/
def bits (v hi lo : Nat) : Nat := (v / 2 ^ lo) % 2 ^ (hi + 1 - lo)

/-- Bit `i` of a number. -/
def bitOf (v i : Nat) : Bool := decide ((v / 2 ^ i) % 2 = 1)

/-- The number with bit `i` set or cleared. -/
def setBit (v i : Nat) (b : Bool) : Nat :=
  if bitOf v i = b then v else if b then v + 2 ^ i else v - 2 ^ i

/-- The number with the bits of `m` below `w` cleared. -/
def clearBits : Nat → Nat → Nat → Nat
  | v, _, 0 => v
  | v, m, w + 1 => clearBits (if bitOf m w then setBit v w false else v) m w

/-- How many of the low `w` bits are set. -/
def popcount (v : Nat) : Nat → Nat
  | 0 => 0
  | w + 1 => popcount v w + (if bitOf v w then 1 else 0)

def b2n (b : Bool) : Nat := if b then 1 else 0

/-- A signed value as its two's-complement number of `w` bits. -/
def toRaw (w : Nat) (v : Int) : Nat := (v % (2 ^ w : Int)).toNat

/-- The signed value of a two's-complement number of `w` bits. -/
def toSigned (w : Nat) (v : Nat) : Int := if v < 2 ^ (w - 1) then (v : Int) else (v : Int) - (2 ^ w : Int)

/-- The `n` bytes of a number, little-endian (R8). -/
def leBytes : Nat → Nat → List Byte
  | 0, _ => []
  | n + 1, v => BitVec.ofNat 8 v :: leBytes n (v / 256)

/-- The number of little-endian bytes (R8). -/
def leNat : List Byte → Nat
  | [] => 0
  | b :: bs => b.toNat + 256 * leNat bs

/-- The `n` bytes of a number, most significant first (SEC 1 fields of R410). -/
def beBytes (n v : Nat) : List Byte := (leBytes n v).reverse

def beNat (l : List Byte) : Nat := leNat l.reverse

/-- `n` bytes of a byte string from an offset; bytes beyond its end read 0. -/
def slice (l : List Byte) (off n : Nat) : List Byte :=
  let t := (l.drop off).take n
  t ++ List.replicate (n - t.length) 0

/-- The little-endian field of `n` bytes at an offset. -/
def fieldAt (l : List Byte) (off n : Nat) : Nat := leNat (slice l off n)

/-- A byte string padded with 0x00 to `n` bytes. -/
def padTo (n : Nat) (l : List Byte) : List Byte := l ++ List.replicate (n - l.length) 0

/-- Little-endian 16-bit words of a byte string, and back. -/
def words16 : List Byte → List Nat
  | a :: b :: t => (a.toNat + 256 * b.toNat) :: words16 t
  | _ => []

def words32 (l : List Byte) : List Nat :=
  let rec go : Nat → List Byte → List Nat
    | 0, _ => []
    | n + 1, t => leNat (t.take 4) :: go n (t.drop 4)
  go (l.length / 4) l

def words64 (l : List Byte) : List Nat :=
  let rec go : Nat → List Byte → List Nat
    | 0, _ => []
    | n + 1, t => leNat (t.take 8) :: go n (t.drop 8)
  go (l.length / 8) l

/-- ASCII text as bytes. -/
def asciiBytes (s : String) : List Byte := s.toList.map (fun c => BitVec.ofNat 8 c.toNat)

/-! ## Check words -/

/-- One byte through a reflected CRC of polynomial `poly` (32 bits). -/
def crcByte (poly : Nat) (crc : Nat) (b : Nat) : Nat :=
  let step (c : Nat) : Nat := if c % 2 = 1 then Nat.xor (c / 2) poly else c / 2
  let x := Nat.xor crc b
  step (step (step (step (step (step (step (step x)))))))

/-- A reflected CRC-32 with initial value and final XOR 0xFFFFFFFF. -/
def crc32With (poly : Nat) (l : List Byte) : Nat :=
  Nat.xor (l.foldl (fun c b => crcByte poly c b.toNat) 0xFFFFFFFF) 0xFFFFFFFF

/-- CRC-32 of a configuration set (12_control_dictionary R340). -/
def crc32 (l : List Byte) : Nat := crc32With 0xEDB88320 l

/-- CRC-32C (07_calibration R179). -/
def crc32c (l : List Byte) : Nat := crc32With 0x82F63B78 l

/-- A count as an object of `w` bits reads it: the count, or a free value once it no longer fits (log entry 2). -/
def readCount (w n : Nat) : Nat := if n < 2 ^ w then n else (Config.countPast w n).toNat

end Sys2Proof.Machine
end

