-- ==== Sys2Proof/Machine/Objects.lean ====
section
/-! DEFINITION. Every object of the dictionary: index, subindex, type, access, default and the range or set of values
of its own (13_object_index R349 to R353 and the object tables of the home chapters). -/
namespace Sys2Proof.Machine

/-- The types of Table 12.4. -/
inductive ObjType where
  | bool | i16 | i32 | i64 | u8 | u16 | u32 | u64 | real32
  | str (n : Nat)
  | domain (max : Nat)
  deriving DecidableEq, Repr

/-- The access codes (R325), with RW in Pre-Op for the mapping objects (R336). -/
inductive Access where
  | ro | wo | rw | rwp | preOp
  deriving DecidableEq, Repr

/-- The range or set of values of an object's own (R328, cause 5), or its reserved bits (R9). -/
inductive Check where
  | any
  | rng (lo hi : Int)
  /-- From `lo` to `hi` in steps of `step` counted from 0. -/
  | grid (lo hi step : Int)
  | oneOf (vs : List Int)
  | nonzero
  | reserved (mask : Nat)
  deriving DecidableEq, Repr

/-- One row: `count` indices `stride` apart from `base`, and `subs` subindices from `sub`. -/
structure Row where
  base : Nat
  stride : Nat
  count : Nat
  sub : Nat
  subs : Nat
  ty : ObjType
  acc : Access
  dflt : Nat
  chk : Check
  name : String
  deriving DecidableEq, Repr

/-- An object as the machine refers to it: its key (index × 256 + subindex) and its default. -/
structure Ref where
  key : Nat
  dflt : Nat
  deriving DecidableEq, Repr

/-- The key of an index and subindex. -/
def objKey (index sub : Nat) : Nat := index * 256 + sub

/-- The size in bytes of a value of fixed length (Table 12.4). -/
def ObjType.size : ObjType → Nat
  | .bool => 1 | .i16 => 2 | .i32 => 4 | .i64 => 8
  | .u8 => 1 | .u16 => 2 | .u32 => 4 | .u64 => 8 | .real32 => 4
  | .str n => n
  | .domain m => m

/-- The width in bits that a PDO mapping entry states (R332): BOOL is mapped as 1 bit. -/
def ObjType.mapBits : ObjType → Nat
  | .bool => 1
  | t => 8 * t.size

/-- Signed integer types. -/
def ObjType.signed : ObjType → Bool
  | .i16 | .i32 | .i64 => true
  | _ => false

/-- The types that may be mapped into a PDO (R332). -/
def ObjType.mappable : ObjType → Bool
  | .str _ | .domain _ => false
  | _ => true

/-- The objects whose values are byte strings. -/
def ObjType.isBulk : ObjType → Bool
  | .str _ | .domain _ => true
  | _ => false

/-- The CoE code of a type (Table 12.4). -/
def ObjType.code : ObjType → Nat
  | .bool => 0x0001 | .i16 => 0x0003 | .i32 => 0x0004 | .i64 => 0x0015
  | .u8 => 0x0005 | .u16 => 0x0006 | .u32 => 0x0007 | .u64 => 0x001B | .real32 => 0x0008
  | .str _ => 0x0009
  | .domain _ => 0x000F

/-- Whether a value obeys the object's own range or set of values. Reserved bits are not a range (R9). -/
def Check.ok : Check → Int → Bool
  | .any, _ => true
  | .rng lo hi, v => decide (lo ≤ v) && decide (v ≤ hi)
  | .grid lo hi step, v => decide (lo ≤ v) && decide (v ≤ hi) && decide (v % step = 0)
  | .oneOf vs, v => vs.contains v
  | .nonzero, v => decide (v ≠ 0)
  | .reserved _, _ => true

/-- The reserved bits of an object (R9). -/
def Check.reservedMask : Check → Nat
  | .reserved m => m
  | _ => 0

/-- Whether the row holds the index. -/
def Row.hasIndex (r : Row) (index : Nat) : Bool :=
  if r.stride = 0 then decide (index = r.base)
  else decide (r.base ≤ index) && decide ((index - r.base) % r.stride = 0)
    && decide ((index - r.base) / r.stride < r.count)

/-- Whether the row holds the index and subindex. -/
def Row.has (r : Row) (index sub : Nat) : Bool :=
  r.hasIndex index && decide (r.sub ≤ sub) && decide (sub < r.sub + r.subs)

/-- Objects from 0x1000:00 on. -/
def objTable00 : List Row := [
  ⟨0x1000, 0, 1, 0x00, 1, .u32, .ro, 0x00000000, .any, "DEVICE_TYPE"⟩,
  ⟨0x1001, 0, 1, 0x00, 1, .u8, .ro, 0, .any, "ERROR_REGISTER"⟩,
  ⟨0x1008, 0, 1, 0x00, 1, (.str 16), .ro, 0, .any, "DEVICE_NAME"⟩,
  ⟨0x1009, 0, 1, 0x00, 1, (.str 16), .ro, 0, .any, "HARDWARE_VERSION"⟩,
  ⟨0x100A, 0, 1, 0x00, 1, (.str 16), .ro, 0, .any, "SOFTWARE_VERSION"⟩,
  ⟨0x1018, 0, 1, 0x01, 1, .u32, .ro, 0x00000D79, .any, "VENDOR_ID"⟩,
  ⟨0x1018, 0, 1, 0x02, 1, .u32, .ro, 0x00009612, .any, "PRODUCT_CODE"⟩,
  ⟨0x1018, 0, 1, 0x03, 1, .u32, .ro, 0x00010000, .any, "REVISION_NUMBER"⟩,
  ⟨0x1018, 0, 1, 0x04, 1, .u32, .ro, 0, .any, "SERIAL_NUMBER"⟩,
  ⟨0x1600, 0, 1, 0x00, 1, .u8, .preOp, 6, .any, "RXPDO_MAP"⟩,
  ⟨0x1600, 0, 1, 0x01, 1, .u32, .preOp, 0x20000208, .any, "RXPDO_MAP"⟩,
  ⟨0x1600, 0, 1, 0x02, 1, .u32, .preOp, 0x22100308, .any, "RXPDO_MAP"⟩,
  ⟨0x1600, 0, 1, 0x03, 1, .u32, .preOp, 0x29000f08, .any, "RXPDO_MAP"⟩,
  ⟨0x1600, 0, 1, 0x04, 1, .u32, .preOp, 0x21001601, .any, "RXPDO_MAP"⟩,
  ⟨0x1600, 0, 1, 0x05, 1, .u32, .preOp, 0x7, .any, "RXPDO_MAP"⟩,
  ⟨0x1600, 0, 1, 0x06, 1, .u32, .preOp, 0x20, .any, "RXPDO_MAP"⟩,
  ⟨0x1600, 0, 1, 0x07, 26, .u32, .preOp, 0, .any, "RXPDO_MAP"⟩,
  ⟨0x1A00, 0, 1, 0x00, 1, .u8, .preOp, 14, .any, "TXPDO_MAP"⟩,
  ⟨0x1A00, 0, 1, 0x01, 1, .u32, .preOp, 0x20000108, .any, "TXPDO_MAP"⟩,
  ⟨0x1A00, 0, 1, 0x02, 1, .u32, .preOp, 0x20000308, .any, "TXPDO_MAP"⟩,
  ⟨0x1A00, 0, 1, 0x03, 1, .u32, .preOp, 0x10010008, .any, "TXPDO_MAP"⟩,
  ⟨0x1A00, 0, 1, 0x04, 1, .u32, .preOp, 0x8, .any, "TXPDO_MAP"⟩,
  ⟨0x1A00, 0, 1, 0x05, 1, .u32, .preOp, 0x21000e10, .any, "TXPDO_MAP"⟩,
  ⟨0x1A00, 0, 1, 0x06, 1, .u32, .preOp, 0x28000e10, .any, "TXPDO_MAP"⟩,
  ⟨0x1A00, 0, 1, 0x07, 1, .u32, .preOp, 0x22000910, .any, "TXPDO_MAP"⟩,
  ⟨0x1A00, 0, 1, 0x08, 1, .u32, .preOp, 0x26001510, .any, "TXPDO_MAP"⟩,
  ⟨0x1A00, 0, 1, 0x09, 1, .u32, .preOp, 0x21001520, .any, "TXPDO_MAP"⟩,
  ⟨0x1A00, 0, 1, 0x0A, 1, .u32, .preOp, 0x21000f20, .any, "TXPDO_MAP"⟩,
  ⟨0x1A00, 0, 1, 0x0B, 1, .u32, .preOp, 0x29000a20, .any, "TXPDO_MAP"⟩,
  ⟨0x1A00, 0, 1, 0x0C, 1, .u32, .preOp, 0x28010508, .any, "TXPDO_MAP"⟩,
  ⟨0x1A00, 0, 1, 0x0D, 1, .u32, .preOp, 0x28010c08, .any, "TXPDO_MAP"⟩,
  ⟨0x1A00, 0, 1, 0x0E, 1, .u32, .preOp, 0x10, .any, "TXPDO_MAP"⟩,
  ⟨0x1A00, 0, 1, 0x0F, 18, .u32, .preOp, 0, .any, "TXPDO_MAP"⟩,
  ⟨0x1C00, 0, 1, 0x01, 1, .u8, .ro, 1, .any, "SM_TYPE"⟩,
  ⟨0x1C00, 0, 1, 0x02, 1, .u8, .ro, 2, .any, "SM_TYPE"⟩,
  ⟨0x1C00, 0, 1, 0x03, 1, .u8, .ro, 3, .any, "SM_TYPE"⟩,
  ⟨0x1C00, 0, 1, 0x04, 1, .u8, .ro, 4, .any, "SM_TYPE"⟩,
  ⟨0x1C12, 0, 1, 0x00, 1, .u8, .preOp, 1, .rng 0 1, "SM2_ASSIGN"⟩,
  ⟨0x1C12, 0, 1, 0x01, 1, .u16, .preOp, 0x1600, .oneOf [5632], "SM2_ASSIGN"⟩,
  ⟨0x1C13, 0, 1, 0x00, 1, .u8, .preOp, 1, .rng 0 1, "SM3_ASSIGN"⟩ ]

/-- Objects from 0x1C13:01 on. -/
def objTable01 : List Row := [
  ⟨0x1C13, 0, 1, 0x01, 1, .u16, .preOp, 0x1a00, .oneOf [6656], "SM3_ASSIGN"⟩,
  ⟨0x1C32, 0, 1, 0x01, 1, .u16, .rwp, 0, .rng 0 2, "SYNC_MODE"⟩,
  ⟨0x1C32, 0, 1, 0x02, 1, .u32, .ro, 0, .any, "CYCLE_TIME"⟩,
  ⟨0x1C33, 0, 1, 0x01, 1, .u16, .ro, 0, .any, "INPUT_SYNC_MODE"⟩,
  ⟨0x2000, 0, 1, 0x01, 1, .u8, .ro, 0x01, .any, "MODE_STATE"⟩,
  ⟨0x2000, 0, 1, 0x02, 1, .u8, .rw, 0x01, .any, "MODE_REQUEST"⟩,
  ⟨0x2000, 0, 1, 0x03, 1, .u8, .ro, 0x00, .any, "MODE_STATUS"⟩,
  ⟨0x2000, 0, 1, 0x04, 1, .u64, .ro, 0, .any, "MODE_CHANGE_TIME"⟩,
  ⟨0x2000, 0, 1, 0x05, 1, .u8, .ro, 0x00, .any, "MODE_REFUSAL"⟩,
  ⟨0x2001, 0, 1, 0x01, 1, .u8, .ro, 0x01, .any, "ECAT_STATE"⟩,
  ⟨0x2001, 0, 1, 0x02, 1, .u16, .ro, 0x0000, .any, "AL_STATUS_CODE"⟩,
  ⟨0x2001, 0, 1, 0x03, 1, .u16, .rwp, 0, .any, "STATION_ALIAS"⟩,
  ⟨0x2001, 0, 1, 0x04, 1, .u16, .rw, 100, .rng 1 10000, "PDO_TIMEOUT"⟩,
  ⟨0x2001, 0, 1, 0x05, 1, .u8, .ro, 0x00, .any, "PORT_LINK"⟩,
  ⟨0x2001, 0, 1, 0x06, 1, .i64, .ro, 0, .any, "TIME_STEP_LAST"⟩,
  ⟨0x2001, 0, 1, 0x07, 1, .u32, .ro, 0, .any, "OP_LOST_COUNT"⟩,
  ⟨0x2010, 0, 1, 0x01, 1, .u32, .ro, 0, .any, "CONFIG_VERSION_ACTIVE"⟩,
  ⟨0x2010, 0, 1, 0x02, 1, .u8, .ro, 0, .any, "CONFIG_SOURCE"⟩,
  ⟨0x2010, 0, 1, 0x03, 1, .bool, .ro, 0, .any, "CONFIG_MODIFIED"⟩,
  ⟨0x2010, 0, 1, 0x04, 1, .u16, .ro, 0x0000, .any, "CONFIG_STATUS"⟩,
  ⟨0x2010, 0, 1, 0x05, 1, .u16, .wo, 0, .any, "CONFIG_STATUS_CLEAR"⟩,
  ⟨0x2010, 0, 1, 0x06, 1, .u32, .ro, 0, .any, "CONFIG_ENTRIES_REJECTED"⟩,
  ⟨0x2010, 0, 1, 0x11, 4, (.domain 32), .ro, 0, .any, "CONFIG_SLOT"⟩,
  ⟨0x2011, 0, 1, 0x01, 1, .bool, .wo, 0, .any, "CONFIG_COMMIT"⟩,
  ⟨0x2011, 0, 1, 0x02, 1, .u8, .ro, 0, .any, "CONFIG_COMMIT_RESULT"⟩,
  ⟨0x2011, 0, 1, 0x03, 1, .u32, .ro, 0, .any, "CONFIG_COMMIT_VERSION"⟩,
  ⟨0x2011, 0, 1, 0x04, 1, (.str 16), .rw, 0, .any, "CONFIG_LABEL"⟩,
  ⟨0x2012, 0, 1, 0x01, 1, .bool, .wo, 0, .any, "CONFIG_REVERT"⟩,
  ⟨0x2012, 0, 1, 0x02, 1, .u8, .ro, 0, .any, "CONFIG_REVERT_RESULT"⟩,
  ⟨0x2012, 0, 1, 0x03, 1, .bool, .wo, 0, .any, "CONFIG_DEFAULTS"⟩,
  ⟨0x2100, 0, 1, 0x01, 1, .u8, .rwp, 0, .rng 0 3, "TRIG_SOURCE"⟩,
  ⟨0x2100, 0, 1, 0x02, 1, .u8, .rwp, 0, .rng 0 1, "POS_ENCODER"⟩,
  ⟨0x2100, 0, 1, 0x03, 1, .u16, .rw, 64, .rng 16 65535, "LINE_DIVIDER"⟩,
  ⟨0x2100, 0, 1, 0x04, 1, .u32, .rw, 25000000, .rng 16500000 4000000000, "INTERNAL_PERIOD"⟩,
  ⟨0x2100, 0, 1, 0x05, 1, .u16, .rw, 1, .rng 1 1024, "SYNC0_LINES"⟩,
  ⟨0x2100, 0, 1, 0x06, 1, .u8, .rwp, 0, .rng 0 1, "LTRIG_EDGE"⟩,
  ⟨0x2100, 0, 1, 0x07, 1, .u8, .rw, 4, .any, "INPUT_FILTER"⟩,
  ⟨0x2100, 0, 1, 0x08, 1, .u8, .rw, 0, .rng 0 2, "PROGRAM_SELECT"⟩,
  ⟨0x2100, 0, 1, 0x09, 1, .u8, .ro, 0, .any, "PROGRAM_ACTIVE"⟩,
  ⟨0x2100, 0, 1, 0x0A, 1, .u16, .wo, 0, .any, "STATUS_CLEAR"⟩ ]

/-- Objects from 0x2100:0B on. -/
def objTable02 : List Row := [
  ⟨0x2100, 0, 1, 0x0B, 1, .u16, .rw, 400, .rng 0 1000, "START_GUARD"⟩,
  ⟨0x2100, 0, 1, 0x0C, 1, .u32, .rw, 10000, .rng 100 10000000, "WEB_HALT_TIMEOUT"⟩,
  ⟨0x2100, 0, 1, 0x0D, 1, .u32, .ro, 0, .any, "TRIG_OVERRUN_COUNT"⟩,
  ⟨0x2100, 0, 1, 0x0E, 1, .u16, .ro, 0x0000, .any, "TIMING_STATUS"⟩,
  ⟨0x2100, 0, 1, 0x0F, 1, .u32, .ro, 0, .any, "LINE_RATE"⟩,
  ⟨0x2100, 0, 1, 0x10, 1, .u8, .rw, 0, .rng 0 3, "PAGE_SOURCE"⟩,
  ⟨0x2100, 0, 1, 0x11, 1, .u32, .rw, 0, .any, "PAGE_OFFSET"⟩,
  ⟨0x2100, 0, 1, 0x12, 1, .u32, .rw, 1000, .any, "PAGE_LOCKOUT"⟩,
  ⟨0x2100, 0, 1, 0x13, 1, .u32, .rw, 0, .any, "PAGE_LENGTH"⟩,
  ⟨0x2100, 0, 1, 0x14, 1, .u32, .rw, 0, .any, "PAGE_NUMBER_START"⟩,
  ⟨0x2100, 0, 1, 0x15, 1, .u32, .ro, 0, .any, "PAGE_NUMBER"⟩,
  ⟨0x2100, 0, 1, 0x16, 1, .bool, .wo, 0, .any, "PAGE_START_NOW"⟩,
  ⟨0x2100, 0, 1, 0x17, 1, .u32, .ro, 0, .any, "PAGE_STARTS_IGNORED"⟩,
  ⟨0x2100, 0, 1, 0x18, 1, .bool, .rw, 0, .any, "HOLD_ENABLE"⟩,
  ⟨0x2100, 0, 1, 0x19, 1, .u32, .ro, 0, .any, "WEB_HALT_COUNT"⟩,
  ⟨0x2100, 0, 1, 0x1A, 1, .u32, .ro, 0, .any, "DIAG_LINES_RUN"⟩,
  ⟨0x2100, 0, 1, 0x1B, 1, .u16, .ro, 0, .any, "LAG_MAX"⟩,
  ⟨0x2100, 0, 1, 0x1C, 1, .u32, .ro, 0, .any, "TONE_WINDOWS_SHORTENED"⟩,
  ⟨0x2104, 0, 1, 0x01, 1, .u16, .rw, 0x0024, .any, "SLOT_ORDER"⟩,
  ⟨0x2104, 0, 1, 0x02, 1, .u8, .rw, 3, .rng 3 8, "SLOT_COUNT"⟩,
  ⟨0x2104, 0, 1, 0x03, 1, .u64, .rw, 8332500, .grid 5500000 10485757500 2500, "SLOT_WIDTH"⟩,
  ⟨0x2104, 0, 1, 0x04, 1, .u8, .rw, 1, .any, "TONE_INTERVAL"⟩,
  ⟨0x2104, 0, 1, 0x05, 1, .u32, .rw, 400000, .grid 0 4294967295 2500, "TONE_LENGTH"⟩,
  ⟨0x2110, 1, 2, 0x01, 1, .bool, .rw, 0, .any, "ENC_INVERT"⟩,
  ⟨0x2110, 1, 2, 0x02, 1, .u8, .rw, 4, .any, "ENC_FILTER"⟩,
  ⟨0x2110, 1, 2, 0x03, 1, .bool, .rw, 1, .any, "ENC_TERMINATION"⟩,
  ⟨0x2110, 1, 2, 0x04, 1, .i32, .ro, 0, .any, "ENC_RATE"⟩,
  ⟨0x2110, 1, 2, 0x05, 1, .i64, .rw, 0, .any, "ENC_POSITION"⟩,
  ⟨0x2110, 1, 2, 0x06, 1, .i64, .ro, 0, .any, "ENC_INDEX_POSITION"⟩,
  ⟨0x2110, 1, 2, 0x07, 1, .u64, .ro, 0, .any, "ENC_INDEX_TIME"⟩,
  ⟨0x2110, 1, 2, 0x08, 1, .u32, .ro, 0, .any, "ENC_INDEX_COUNT"⟩,
  ⟨0x2110, 1, 2, 0x09, 1, .u32, .ro, 0, .any, "ENC_ERROR_COUNT"⟩,
  ⟨0x2200, 0, 1, 0x01, 1, .u32, .rwp, 25000, .rng 1000 25000, "LC_CLOCK"⟩,
  ⟨0x2200, 0, 1, 0x03, 1, .u16, .rw, 500, .rng 10 10000, "OPEN_DETECT_MIN"⟩,
  ⟨0x2200, 0, 1, 0x04, 1, .u16, .rw, 32, .any, "LAMP_SETTLE_LINES"⟩,
  ⟨0x2200, 0, 1, 0x05, 1, .u16, .rw, 24, .any, "MON_FLOOR"⟩,
  ⟨0x2200, 0, 1, 0x06, 1, .u8, .rw, 70, .rng 10 95, "MON_LOW"⟩,
  ⟨0x2200, 0, 1, 0x07, 1, .u8, .rw, 3, .rng 1 255, "MON_FAIL_SLOTS"⟩,
  ⟨0x2200, 0, 1, 0x08, 1, .u16, .rw, 0, .any, "DIAG_PULSE"⟩,
  ⟨0x2200, 0, 1, 0x09, 1, .u16, .ro, 0x0000, .any, "LAMP_STATUS"⟩ ]

/-- Objects from 0x2200:0A on. -/
def objTable03 : List Row := [
  ⟨0x2200, 0, 1, 0x0A, 1, .u32, .ro, 0, .any, "LATCH_COUNT"⟩,
  ⟨0x2200, 0, 1, 0x0B, 1, .bool, .wo, 0, .any, "LAMP_FAULT_CLEAR"⟩,
  ⟨0x2200, 0, 1, 0x0C, 1, .u8, .ro, 0x00, .any, "DIAG_RESULT"⟩,
  ⟨0x2200, 0, 1, 0x0D, 1, .u32, .ro, 0, .any, "LAMP_OPEN_COUNT"⟩,
  ⟨0x2201, 1, 4, 0x01, 1, .u8, .rwp, 0, .rng 0 16, "CHAIN_CHIPS"⟩,
  ⟨0x2201, 1, 4, 0x02, 1, .u32, .ro, 0, .any, "CHAIN_ERROR_COUNT"⟩,
  ⟨0x2208, 1, 3, 0x01, 1, .u16, .rw, 0, .rng 0 4095, "LEVEL"⟩,
  ⟨0x2208, 1, 3, 0x02, 1, .u16, .rw, 100, .rng 1 10000, "FADE_TIME"⟩,
  ⟨0x2208, 1, 3, 0x03, 1, .u32, .rw, 0, .grid 0 4294967295 2500, "EXPOSURE"⟩,
  ⟨0x2208, 1, 3, 0x04, 1, .u8, .rw, 16, .rng 1 64, "SUBPULSES"⟩,
  ⟨0x2208, 1, 3, 0x05, 1, .u32, .ro, 0, .any, "EXPOSURE_ACTUAL"⟩,
  ⟨0x2208, 1, 3, 0x06, 1, .u8, .ro, 0, .any, "SUBPULSES_ACTUAL"⟩,
  ⟨0x2208, 1, 3, 0x07, 1, .u16, .ro, 0, .any, "LEVEL_ACTUAL"⟩,
  ⟨0x2208, 1, 3, 0x08, 1, .u8, .ro, 0, .any, "MON_DIM_TILES"⟩,
  ⟨0x2210, 0, 1, 0x01, 1, .u64, .rw, 0x0000FFFFFFFFFFFF, .any, "IND_OWNER"⟩,
  ⟨0x2210, 0, 1, 0x03, 1, .u8, .rw, 0x00, .reserved 0xF0, "IND_HOST_FLAGS"⟩,
  ⟨0x2211, 0, 1, 0x01, 12, .u8, .rw, 100, .rng 0 200, "IND_CURRENT"⟩,
  ⟨0x2212, 0, 1, 0x01, 12, .u8, .rw, 0, .any, "IND_LEVEL"⟩,
  ⟨0x2218, 1, 4, 0x01, 1, .bool, .rw, 0, .any, "ENGINE_RUN"⟩,
  ⟨0x2218, 1, 4, 0x02, 1, .u8, .rw, 10, .rng 1 255, "ENGINE_TICK"⟩,
  ⟨0x2218, 1, 4, 0x03, 1, .u8, .ro, 0, .any, "ENGINE_STATE"⟩,
  ⟨0x2218, 1, 4, 0x04, 1, .u8, .ro, 0, .any, "ENGINE_PC"⟩,
  ⟨0x2300, 0, 1, 0x01, 1, .bool, .rw, 1, .any, "STAGE_B_ENABLE"⟩,
  ⟨0x2300, 0, 1, 0x02, 1, .bool, .rw, 0, .any, "LIN_ENABLE"⟩,
  ⟨0x2300, 0, 1, 0x03, 1, .bool, .rw, 1, .any, "DEFECT_ENABLE"⟩,
  ⟨0x2300, 0, 1, 0x04, 1, .bool, .rwp, 1, .any, "STITCH_ENABLE"⟩,
  ⟨0x2300, 0, 1, 0x05, 1, .u8, .rwp, 0, .rng 0 1, "ROW_A_PARITY"⟩,
  ⟨0x2300, 0, 1, 0x06, 1, .u8, .rwp, 0, .rng 0 1, "LEADING_ROW"⟩,
  ⟨0x2300, 0, 1, 0x07, 1, .u8, .ro, 0, .any, "BANK_ACTIVE"⟩,
  ⟨0x2300, 0, 1, 0x08, 1, .bool, .wo, 0, .any, "BANK_SWITCH"⟩,
  ⟨0x2300, 0, 1, 0x09, 1, .u16, .ro, 0x0000, .any, "SHADING_STATUS"⟩,
  ⟨0x2300, 0, 1, 0x0A, 1, .u16, .wo, 0, .any, "SHADING_STATUS_CLEAR"⟩,
  ⟨0x2300, 0, 1, 0x0B, 1, .u16, .rw, 57344, .rng 4096 65535, "STRIP_TARGET_RED"⟩,
  ⟨0x2300, 0, 1, 0x0C, 1, .u16, .rw, 57344, .rng 4096 65535, "STRIP_TARGET_GREEN"⟩,
  ⟨0x2300, 0, 1, 0x0D, 1, .u16, .rw, 57344, .rng 4096 65535, "STRIP_TARGET_BLUE"⟩,
  ⟨0x2300, 0, 1, 0x0E, 1, .bool, .rw, 0, .any, "SEAM_EDGE_ENABLE"⟩,
  ⟨0x2300, 0, 1, 0x0F, 1, .u32, .ro, 0, .any, "DEFECT_UNRESOLVED_COUNT"⟩,
  ⟨0x2300, 0, 1, 0x10, 1, .u32, .ro, 0, .any, "STAGGER_DEPTH"⟩,
  ⟨0x2300, 0, 1, 0x11, 1, .u32, .ro, 0, .any, "STAGGER_SHORT_COUNT"⟩,
  ⟨0x2300, 0, 1, 0x12, 1, .u8, .ro, 0, .any, "BANK_STATE_0"⟩ ]

/-- Objects from 0x2300:13 on. -/
def objTable04 : List Row := [
  ⟨0x2300, 0, 1, 0x13, 1, .u8, .ro, 0, .any, "BANK_STATE_1"⟩,
  ⟨0x2300, 0, 1, 0x14, 1, .u64, .ro, 0, .any, "BANK_TIME_0"⟩,
  ⟨0x2300, 0, 1, 0x15, 1, .u64, .ro, 0, .any, "BANK_TIME_1"⟩,
  ⟨0x2310, 0, 1, 0x01, 1, .bool, .wo, 0, .any, "REF_CAPTURE"⟩,
  ⟨0x2310, 0, 1, 0x02, 1, .u8, .ro, 0, .any, "REF_STATE"⟩,
  ⟨0x2310, 0, 1, 0x03, 1, .u8, .ro, 0, .any, "REF_RESULT"⟩,
  ⟨0x2310, 0, 1, 0x04, 1, .u8, .rw, 0, .oneOf [0, 1, 2, 3, 4, 5, 255], "REF_AXIS"⟩,
  ⟨0x2310, 0, 1, 0x05, 1, .i32, .rw, 0, .any, "REF_POS_IN"⟩,
  ⟨0x2310, 0, 1, 0x06, 1, .i32, .rw, 0, .any, "REF_POS_OUT"⟩,
  ⟨0x2310, 0, 1, 0x07, 1, .u32, .rw, 25000000, .rng 16500000 4000000000, "REF_LINE_PERIOD"⟩,
  ⟨0x2310, 0, 1, 0x08, 1, .u16, .rw, 64, .rng 8 4096, "REF_BLACK_LINES"⟩,
  ⟨0x2310, 0, 1, 0x09, 1, .u16, .rw, 64, .rng 8 4096, "REF_WHITE_LINES"⟩,
  ⟨0x2310, 0, 1, 0x0A, 1, .u16, .rw, 32, .any, "REF_BLACK_TOL"⟩,
  ⟨0x2310, 0, 1, 0x0B, 1, .u16, .rw, 50, .any, "REF_WHITE_TOL"⟩,
  ⟨0x2310, 0, 1, 0x0C, 1, .u16, .rw, 64, .any, "REF_FAIL_MAX"⟩,
  ⟨0x2310, 0, 1, 0x0D, 1, .u8, .rw, 1, .rng 0 3, "REF_RETRIES"⟩,
  ⟨0x2310, 0, 1, 0x0E, 1, .u8, .rw, 50, .rng 10 90, "REF_WHITE_MIN"⟩,
  ⟨0x2310, 0, 1, 0x0F, 1, .bool, .rw, 0, .any, "REF_LINES_SEND"⟩,
  ⟨0x2310, 0, 1, 0x10, 1, .u32, .ro, 0, .any, "REF_COUNT"⟩,
  ⟨0x2310, 0, 1, 0x11, 1, .u32, .ro, 0, .any, "REF_FAIL_COUNT"⟩,
  ⟨0x2310, 0, 1, 0x12, 1, .u64, .ro, 0, .any, "REF_LAST_TIME"⟩,
  ⟨0x2310, 0, 1, 0x13, 1, .u32, .rw, 5000, .rng 10 60000, "REF_TIMEOUT"⟩,
  ⟨0x2400, 0, 1, 0x01, 1, .u8, .rw, 0, .rng 0 2, "REG_MODE"⟩,
  ⟨0x2400, 0, 1, 0x03, 1, .u32, .rw, 661458, .rng 1000 100000000, "ENC_PITCH"⟩,
  ⟨0x2400, 0, 1, 0x04, 1, .u32, .rw, 8000000, .rng 0 50000000, "STAGGER_DISTANCE"⟩,
  ⟨0x2400, 0, 1, 0x05, 1, .i64, .ro, 0, .any, "STAGGER_COUNTS"⟩,
  ⟨0x2400, 0, 1, 0x06, 1, .u32, .rw, 0, .any, "REG_NOMINAL_RATE"⟩,
  ⟨0x2400, 0, 1, 0x07, 1, .u32, .rw, 256, .rng 16 1048576, "REG_SPAN_MAX"⟩,
  ⟨0x2400, 0, 1, 0x08, 1, .u8, .rw, 1, .oneOf [1, 2, 3, 4, 6], "XAVG_RATIO"⟩,
  ⟨0x2400, 0, 1, 0x09, 1, .bool, .rw, 0, .any, "YAVG_ENABLE"⟩,
  ⟨0x2400, 0, 1, 0x0A, 1, .u8, .rw, 8, .oneOf [8, 10, 12], "OUT_BITS"⟩,
  ⟨0x2400, 0, 1, 0x0B, 1, .u8, .rw, 0, .rng 0 1, "OUT_LAYOUT"⟩,
  ⟨0x2400, 0, 1, 0x0C, 1, .u16, .ro, 0x0000, .any, "REG_STATUS"⟩,
  ⟨0x2400, 0, 1, 0x0D, 1, .u16, .wo, 0, .any, "REG_STATUS_CLEAR"⟩,
  ⟨0x2400, 0, 1, 0x0E, 1, .u32, .ro, 0, .any, "REG_CLAMP_COUNT"⟩,
  ⟨0x2400, 0, 1, 0x0F, 1, .u32, .ro, 0, .any, "REG_DISCONTINUITY_COUNT"⟩,
  ⟨0x2400, 0, 1, 0x10, 1, .u32, .ro, 0, .any, "YAVG_SINGLE_COUNT"⟩,
  ⟨0x2400, 0, 1, 0x11, 1, .u32, .ro, 78336, .any, "OUT_PIXELS"⟩,
  ⟨0x2400, 0, 1, 0x12, 1, .u32, .ro, 235008, .any, "OUT_LINE_BYTES"⟩,
  ⟨0x2400, 0, 1, 0x13, 1, .bool, .wo, 0, .any, "STAGGER_MEASURE"⟩ ]

/-- Objects from 0x2400:14 on. -/
def objTable05 : List Row := [
  ⟨0x2400, 0, 1, 0x14, 1, .u32, .ro, 0, .any, "STAGGER_MEASURED"⟩,
  ⟨0x2400, 0, 1, 0x15, 1, .u8, .ro, 0, .any, "STAGGER_MEASURE_RESULT"⟩,
  ⟨0x2400, 0, 1, 0x16, 1, .u16, .rw, 4096, .rng 256 65535, "STAGGER_MEASURE_LINES"⟩,
  ⟨0x2400, 0, 1, 0x17, 1, .u16, .ro, 0x0000, .any, "REG_PHASE_LAST"⟩,
  ⟨0x2500, 0, 1, 0x01, 1, .bool, .rw, 1, .any, "LEAVEN_ENABLE"⟩,
  ⟨0x2500, 0, 1, 0x02, 1, .u16, .rw, 200, .rng 50 1000, "CAL_DELTA_T"⟩,
  ⟨0x2500, 0, 1, 0x03, 1, .u16, .rw, 1024, .rng 256 16384, "CAL_WINDOW_LINES"⟩,
  ⟨0x2500, 0, 1, 0x04, 1, .u32, .rw, 1000, .rng 10 60000, "CAL_WINDOW_TIMEOUT"⟩,
  ⟨0x2500, 0, 1, 0x05, 1, .u16, .rw, 32, .rng 8 256, "CAL_OFFSET_TOL"⟩,
  ⟨0x2500, 0, 1, 0x06, 1, .u16, .rw, 10, .rng 1 100, "CAL_GAIN_TOL"⟩,
  ⟨0x2500, 0, 1, 0x07, 1, .u8, .rw, 3, .rng 0 3, "CAL_RETRIES"⟩,
  ⟨0x2500, 0, 1, 0x08, 1, .u16, .rw, 48, .rng 8 512, "CAL_INL_MAX"⟩,
  ⟨0x2500, 0, 1, 0x09, 1, .u16, .rw, 16, .rng 4 256, "CAL_INL_TOL"⟩,
  ⟨0x2500, 0, 1, 0x0A, 1, .u16, .rw, 256, .rng 16 4000, "CAL_MON_MIN"⟩,
  ⟨0x2500, 0, 1, 0x0B, 1, .bool, .rw, 0, .any, "UNRECORDED_HANDOVER"⟩,
  ⟨0x2500, 0, 1, 0x0C, 1, .u32, .rw, 0, .any, "CAL_MAX_AGE"⟩,
  ⟨0x2500, 0, 1, 0x0D, 1, .u8, .wo, 0, .any, "CAL_REQUEST"⟩,
  ⟨0x2500, 0, 1, 0x0E, 1, .u8, .rw, 8, .rng 1 8, "LEAVEN_MAX_GROUPS"⟩,
  ⟨0x2500, 0, 1, 0x0F, 1, .u16, .wo, 0, .any, "RECORD_CLEAR"⟩,
  ⟨0x2500, 0, 1, 0x10, 1, .u16, .ro, 0x0000, .any, "LEAVEN_STATUS"⟩,
  ⟨0x2500, 0, 1, 0x11, 1, .u16, .wo, 0, .any, "LEAVEN_STATUS_CLEAR"⟩,
  ⟨0x2500, 0, 1, 0x12, 1, .bool, .rw, 1, .any, "PW_ENABLE"⟩,
  ⟨0x2500, 0, 1, 0x13, 1, .u8, .rw, 20, .rng 5 90, "PW_MIN_FRACTION"⟩,
  ⟨0x2500, 0, 1, 0x14, 1, .u16, .rw, 10, .rng 1 100, "PW_TOL"⟩,
  ⟨0x2500, 0, 1, 0x15, 1, .u16, .rw, 50, .rng 1 500, "PW_STEP_MAX"⟩,
  ⟨0x2500, 0, 1, 0x16, 1, .bool, .wo, 0, .any, "PW_RELEARN"⟩,
  ⟨0x2500, 0, 1, 0x17, 1, .u32, .ro, 0, .any, "ACCEPT_COUNT"⟩,
  ⟨0x2500, 0, 1, 0x18, 1, .u32, .ro, 0, .any, "REJECT_COUNT"⟩,
  ⟨0x2500, 0, 1, 0x19, 1, .u32, .ro, 0, .any, "ABANDON_COUNT"⟩,
  ⟨0x2500, 0, 1, 0x1A, 1, .u32, .ro, 0, .any, "RECORD_STORE_FAIL_COUNT"⟩,
  ⟨0x2500, 0, 1, 0x1B, 1, .u32, .rw, 60, .rng 1 86400, "CAL_DEFER_MAX"⟩,
  ⟨0x2501, 0, 1, 0x01, 1, (.domain 16), .wo, 0, .any, "PW_REGION_ADD"⟩,
  ⟨0x2501, 0, 1, 0x02, 1, .u8, .ro, 0, .any, "PW_REGIONS_WAITING"⟩,
  ⟨0x2501, 0, 1, 0x03, 1, .u32, .ro, 0, .any, "PW_REGIONS_DROPPED"⟩,
  ⟨0x2508, 1, 8, 0x01, 1, .i16, .ro, 0, .any, "GROUP_TEMP"⟩,
  ⟨0x2508, 1, 8, 0x02, 1, .i16, .ro, 0, .any, "GROUP_TEMP_CAL"⟩,
  ⟨0x2508, 1, 8, 0x03, 1, .u8, .ro, 0, .any, "GROUP_CAL_STATE"⟩,
  ⟨0x2508, 1, 8, 0x04, 1, .u8, .ro, 0xFF, .any, "GROUP_CAL_PORT"⟩,
  ⟨0x2508, 1, 8, 0x05, 1, .u64, .ro, 0, .any, "GROUP_CAL_TIME"⟩,
  ⟨0x2508, 1, 8, 0x06, 1, .u8, .ro, 0, .any, "GROUP_UNRECORDED"⟩ ]

/-- Objects from 0x2600:01 on. -/
def objTable06 : List Row := [
  ⟨0x2600, 0, 1, 0x01, 1, .bool, .rw, 0, .any, "CMP_ENABLE"⟩,
  ⟨0x2600, 0, 1, 0x02, 1, .u8, .rw, 1, .rng 1 2, "CMP_Y_RATIO"⟩,
  ⟨0x2600, 0, 1, 0x03, 1, .bool, .rw, 1, .any, "CMP_IMAGE_SEND"⟩,
  ⟨0x2600, 0, 1, 0x04, 1, .u8, .rw, 1, .rng 0 1, "CMP_NEIGHBOUR"⟩,
  ⟨0x2600, 0, 1, 0x05, 1, .u8, .rw, 77, .any, "CMP_WEIGHT_RED"⟩,
  ⟨0x2600, 0, 1, 0x06, 1, .u8, .rw, 150, .any, "CMP_WEIGHT_GREEN"⟩,
  ⟨0x2600, 0, 1, 0x07, 1, .u8, .rw, 29, .any, "CMP_WEIGHT_BLUE"⟩,
  ⟨0x2600, 0, 1, 0x08, 1, .u8, .rw, 0, .rng 0 1, "CMP_SETTLING_MODE"⟩,
  ⟨0x2600, 0, 1, 0x09, 1, .u32, .rw, 4096, .any, "ALIGN_MIN_PIXELS"⟩,
  ⟨0x2600, 0, 1, 0x0A, 1, .u8, .rw, 80, .rng 10 100, "ALIGN_CONTRAST"⟩,
  ⟨0x2600, 0, 1, 0x0B, 1, .u8, .rw, 4, .rng 1 16, "PREFETCH_BANDS"⟩,
  ⟨0x2600, 0, 1, 0x0C, 1, .u8, .rw, 4, .rng 0 8, "PREFETCH_SLACK"⟩,
  ⟨0x2600, 0, 1, 0x0D, 1, .u16, .rw, 64, .rng 4 4096, "CMP_QUEUE_BANDS"⟩,
  ⟨0x2600, 0, 1, 0x0E, 1, .u16, .rw, 0xFFFF, .any, "DEFAULT_REF"⟩,
  ⟨0x2600, 0, 1, 0x0F, 1, .bool, .rw, 1, .any, "CROP_ENABLE"⟩,
  ⟨0x2600, 0, 1, 0x10, 1, .u8, .rw, 16, .any, "CROP_MARGIN"⟩,
  ⟨0x2600, 0, 1, 0x11, 1, .u32, .rw, 16777216, .rng 4096 268435456, "CROP_MAX_BYTES"⟩,
  ⟨0x2600, 0, 1, 0x12, 1, .u16, .rw, 256, .rng 1 65535, "BLOB_MAX_BANDS"⟩,
  ⟨0x2600, 0, 1, 0x13, 1, .u16, .rw, 1024, .rng 1 65535, "DEFECT_MAX_PAGE"⟩,
  ⟨0x2600, 0, 1, 0x14, 1, .u8, .ro, 0, .any, "CMP_RES_ACTIVE"⟩,
  ⟨0x2600, 0, 1, 0x15, 1, .u16, .ro, 0x0000, .any, "CMP_STATUS"⟩,
  ⟨0x2600, 0, 1, 0x16, 1, .u16, .wo, 0, .any, "CMP_STATUS_CLEAR"⟩,
  ⟨0x2600, 0, 1, 0x17, 1, .u32, .ro, 0, .any, "BANDS_COMPARED"⟩,
  ⟨0x2600, 0, 1, 0x18, 1, .u32, .ro, 0, .any, "BANDS_SKIPPED"⟩,
  ⟨0x2600, 0, 1, 0x19, 1, .u32, .ro, 0, .any, "DISCARD_PAGE"⟩,
  ⟨0x2600, 0, 1, 0x1A, 1, .u32, .ro, 0, .any, "DISCARD_SPEED"⟩,
  ⟨0x2600, 0, 1, 0x1B, 1, .u32, .ro, 0, .any, "DISCARD_ALIGN"⟩,
  ⟨0x2600, 0, 1, 0x1C, 1, .u32, .ro, 0, .any, "DEFECTS_REPORTED"⟩,
  ⟨0x2600, 0, 1, 0x1D, 1, .u32, .ro, 0, .any, "BLOBS_LOST"⟩,
  ⟨0x2600, 0, 1, 0x1E, 1, .u32, .ro, 0, .any, "PAGES_COMPARED"⟩,
  ⟨0x2600, 0, 1, 0x1F, 1, .u32, .ro, 0, .any, "PAGES_NOT_COMPARED"⟩,
  ⟨0x2601, 0, 1, 0x01, 1, .u16, .wo, 0, .any, "REF_OPEN"⟩,
  ⟨0x2601, 0, 1, 0x02, 1, .u16, .wo, 0, .any, "REF_RELEASE"⟩,
  ⟨0x2601, 0, 1, 0x03, 1, .u64, .ro, 0, .any, "REF_FREE_BYTES"⟩,
  ⟨0x2601, 0, 1, 0x04, 1, (.domain 12), .wo, 0, .any, "PAGE_ASSIGN"⟩,
  ⟨0x2601, 0, 1, 0x05, 1, .u16, .ro, 0, .any, "PAGE_ASSIGN_WAITING"⟩,
  ⟨0x2601, 0, 1, 0x06, 1, .u16, .ro, 0xFFFF, .any, "REF_UPLOAD_ID"⟩,
  ⟨0x2601, 0, 1, 0x07, 1, .u64, .ro, 0, .any, "REF_UPLOAD_BYTES"⟩,
  ⟨0x2608, 0, 1, 0x01, 1, .u8, .rw, 24, .any, "CLASS_LIMIT"⟩,
  ⟨0x2608, 0, 1, 0x02, 1, .u16, .rw, 4, .rng 1 4096, "CLASS_MIN_PIXELS"⟩ ]

/-- Objects from 0x2608:03 on. -/
def objTable07 : List Row := [
  ⟨0x2608, 1, 4, 0x03, 1, .u32, .ro, 0, .any, "CLASS_CELLS"⟩,
  ⟨0x2609, 0, 1, 0x01, 1, .u8, .rw, 16, .any, "CLASS_LIMIT"⟩,
  ⟨0x2609, 0, 1, 0x02, 1, .u16, .rw, 4, .rng 1 4096, "CLASS_MIN_PIXELS"⟩,
  ⟨0x260A, 0, 1, 0x01, 1, .u8, .rw, 10, .any, "CLASS_LIMIT"⟩,
  ⟨0x260A, 0, 1, 0x02, 1, .u16, .rw, 8, .rng 1 4096, "CLASS_MIN_PIXELS"⟩,
  ⟨0x260B, 0, 1, 0x01, 1, .u8, .rw, 255, .any, "CLASS_LIMIT"⟩,
  ⟨0x260B, 0, 1, 0x02, 1, .u16, .rw, 1, .rng 1 4096, "CLASS_MIN_PIXELS"⟩,
  ⟨0x2700, 0, 1, 0x01, 1, .u8, .rwp, 64, .oneOf [16, 32, 64], "DRAM_CH0_CAPACITY"⟩,
  ⟨0x2700, 0, 1, 0x02, 1, .u8, .rwp, 64, .oneOf [0, 16, 32, 64], "DRAM_CH1_CAPACITY"⟩,
  ⟨0x2700, 0, 1, 0x03, 1, .u16, .rwp, 4800, .oneOf [3200, 4000, 4800], "DRAM_RATE"⟩,
  ⟨0x2700, 0, 1, 0x04, 1, .u8, .rwp, 1, .rng 1 2, "DRAM_RANKS"⟩,
  ⟨0x2700, 0, 1, 0x05, 1, .u64, .ro, 0, .any, "CISTERN_CAPACITY"⟩,
  ⟨0x2700, 0, 1, 0x06, 1, .u16, .ro, 0x0000, .any, "DRAM_STATUS"⟩,
  ⟨0x2700, 0, 1, 0x07, 1, .u16, .wo, 0, .any, "DRAM_STATUS_CLEAR"⟩,
  ⟨0x2700, 0, 1, 0x08, 1, .u16, .rw, 24, .rng 1 720, "SCRUB_PERIOD"⟩,
  ⟨0x2700, 0, 1, 0x09, 1, .u8, .ro, 0, .any, "SCRUB_PROGRESS"⟩,
  ⟨0x2700, 0, 1, 0x0A, 1, .u32, .ro, 0, .any, "ECC_CORRECTED_COUNT"⟩,
  ⟨0x2700, 0, 1, 0x0B, 1, .u32, .ro, 0, .any, "ECC_UNCORRECTABLE_COUNT"⟩,
  ⟨0x2700, 0, 1, 0x0C, 1, .u64, .ro, 0, .any, "ECC_LAST_ADDRESS"⟩,
  ⟨0x2700, 0, 1, 0x0D, 1, .u8, .ro, 0, .any, "CISTERN_LOAD"⟩,
  ⟨0x2700, 0, 1, 0x0E, 1, .u32, .ro, 0, .any, "SCRUB_PASSES"⟩,
  ⟨0x2700, 0, 1, 0x0F, 1, .bool, .ro, 0, .any, "LAYOUT_PENDING"⟩,
  ⟨0x2700, 0, 1, 0x10, 1, .u32, .ro, 0, .any, "ECC_DATA_LOST"⟩,
  ⟨0x2710, 0, 1, 0x01, 1, .u64, .rw, 4294967296, .any, "REGION_SIZE"⟩,
  ⟨0x2710, 1, 9, 0x02, 1, .u64, .ro, 0, .any, "REGION_BASE"⟩,
  ⟨0x2710, 1, 9, 0x03, 1, .u64, .ro, 0, .any, "REGION_SIZE_ACTIVE"⟩,
  ⟨0x2710, 1, 9, 0x04, 1, .u64, .ro, 0, .any, "REGION_HIGH_WATER"⟩,
  ⟨0x2711, 0, 1, 0x01, 1, .u64, .rw, 0, .any, "REGION_SIZE"⟩,
  ⟨0x2712, 0, 1, 0x01, 1, .u64, .rw, 268435456, .any, "REGION_SIZE"⟩,
  ⟨0x2713, 0, 1, 0x01, 1, .u64, .rw, 1073741824, .any, "REGION_SIZE"⟩,
  ⟨0x2714, 0, 1, 0x01, 1, .u64, .rw, 1073741824, .any, "REGION_SIZE"⟩,
  ⟨0x2715, 0, 1, 0x01, 1, .u64, .rw, 536870912, .any, "REGION_SIZE"⟩,
  ⟨0x2716, 0, 1, 0x01, 1, .u64, .rw, 16777216, .any, "REGION_SIZE"⟩,
  ⟨0x2717, 0, 1, 0x01, 1, .u64, .rw, 1073741824, .any, "REGION_SIZE"⟩,
  ⟨0x2718, 0, 1, 0x01, 1, .u64, .rw, 0, .any, "REGION_SIZE"⟩,
  ⟨0x2720, 0, 1, 0x01, 1, .u32, .ro, 0x00000000, .any, "DMA_STATUS"⟩,
  ⟨0x2720, 0, 1, 0x02, 1, .u32, .wo, 0, .any, "DMA_STATUS_CLEAR"⟩,
  ⟨0x2740, 1, 32, 0x01, 1, .u64, .rw, 0, .any, "DMA_CH_START"⟩,
  ⟨0x2740, 1, 32, 0x02, 1, .u8, .wo, 0, .any, "DMA_CH_CONTROL"⟩,
  ⟨0x2740, 1, 32, 0x03, 1, .u8, .ro, 0, .any, "DMA_CH_STATE"⟩ ]

/-- Objects from 0x2740:04 on. -/
def objTable08 : List Row := [
  ⟨0x2740, 1, 32, 0x04, 1, .u64, .ro, 0, .any, "DMA_CH_CURRENT"⟩,
  ⟨0x2740, 1, 32, 0x05, 1, .u32, .ro, 0, .any, "DMA_CH_DONE_COUNT"⟩,
  ⟨0x2740, 1, 32, 0x06, 1, .u32, .ro, 0, .any, "DMA_CH_BAD_COUNT"⟩,
  ⟨0x2740, 1, 32, 0x07, 1, .u64, .ro, 0, .any, "DMA_CH_LAST_ERROR"⟩,
  ⟨0x2740, 1, 32, 0x08, 1, .u32, .ro, 0, .any, "DMA_CH_NOTIFY_COUNT"⟩,
  ⟨0x2800, 0, 1, 0x01, 1, .u16, .rwp, 0xFFFF, .any, "LANE_ENABLE"⟩,
  ⟨0x2800, 0, 1, 0x02, 1, .u16, .rwp, 0x0000, .any, "LANE_FEC"⟩,
  ⟨0x2800, 0, 1, 0x03, 1, .u16, .rwp, 9000, .rng 1500 9000, "LANE_MTU"⟩,
  ⟨0x2800, 0, 1, 0x04, 1, .u64, .rwp, 18446744073709551616, .reserved 0xFFFF000000000000, "DEVICE_MAC"⟩,
  ⟨0x2800, 0, 1, 0x05, 1, .u32, .rwp, 0xC0A80A10, .any, "DEVICE_IP"⟩,
  ⟨0x2800, 0, 1, 0x06, 1, .u16, .rwp, 47100, .any, "DEVICE_PORT"⟩,
  ⟨0x2800, 0, 1, 0x07, 1, .u8, .rwp, 0, .any, "STREAM_ID"⟩,
  ⟨0x2800, 0, 1, 0x08, 1, .u16, .rw, 0xFFFF, .any, "PAUSE_HONOUR"⟩,
  ⟨0x2800, 0, 1, 0x09, 1, .u16, .rw, 1000, .rng 10 60000, "SESSION_TIMEOUT"⟩,
  ⟨0x2800, 0, 1, 0x0A, 1, .u16, .rw, 10, .rng 1 1000, "STATUS_PERIOD"⟩,
  ⟨0x2800, 0, 1, 0x0B, 1, .u32, .ro, 0, .any, "SESSION_NUMBER"⟩,
  ⟨0x2800, 0, 1, 0x0C, 1, .u16, .ro, 0x0000, .any, "DATA_LANES"⟩,
  ⟨0x2800, 0, 1, 0x0D, 1, .u64, .ro, 0, .any, "ITEM_NEXT"⟩,
  ⟨0x2800, 0, 1, 0x0E, 1, .u16, .ro, 0x0000, .any, "STREAM_STATUS"⟩,
  ⟨0x2800, 0, 1, 0x0F, 1, .u16, .wo, 0, .any, "STREAM_STATUS_CLEAR"⟩,
  ⟨0x2800, 0, 1, 0x10, 1, .u32, .ro, 0, .any, "ITEMS_HELD"⟩,
  ⟨0x2801, 0, 1, 0x01, 1, .u32, .rw, 64, .any, "SPILL_MARGIN"⟩,
  ⟨0x2801, 0, 1, 0x02, 1, .u32, .rw, 4096, .rng 256 1048576, "SPILL_BLOCK_LINES"⟩,
  ⟨0x2801, 0, 1, 0x03, 1, .u32, .ro, 0, .any, "SLOTS_TOTAL"⟩,
  ⟨0x2801, 0, 1, 0x04, 1, .u32, .ro, 0, .any, "SLOTS_HELD"⟩,
  ⟨0x2801, 0, 1, 0x05, 1, .u8, .ro, 0, .any, "FILL"⟩,
  ⟨0x2801, 0, 1, 0x06, 1, .u32, .ro, 0, .any, "PAGES_DROPPED"⟩,
  ⟨0x2801, 0, 1, 0x07, 1, .u32, .ro, 0, .any, "LINES_DROPPED"⟩,
  ⟨0x2801, 0, 1, 0x08, 1, .u8, .rw, 25, .rng 1 98, "WEIR_LOW"⟩,
  ⟨0x2801, 0, 1, 0x09, 1, .u8, .rw, 75, .rng 3 100, "WEIR_HIGH"⟩,
  ⟨0x2801, 0, 1, 0x0A, 1, .u8, .rw, 40, .rng 2 99, "WEIR_RESUME"⟩,
  ⟨0x2801, 0, 1, 0x0B, 1, .u8, .rw, 20, .rng 5 100, "WEIR_MIN_SPEED"⟩,
  ⟨0x2801, 0, 1, 0x0C, 1, .u8, .ro, 0, .any, "WEIR_STATE"⟩,
  ⟨0x2801, 0, 1, 0x0D, 1, .u32, .ro, 0, .any, "WEIR_OVERRUN_COUNT"⟩,
  ⟨0x2801, 0, 1, 0x0E, 1, .u8, .ro, 0, .any, "SPEED_REQUEST"⟩,
  ⟨0x2802, 0, 1, 0x01, 1, .u16, .rw, 400, .rng 64 16384, "RESTART_BACKUP_LINES"⟩,
  ⟨0x2802, 0, 1, 0x02, 1, .u8, .rw, 8, .rng 1 32, "RESTART_SEARCH"⟩,
  ⟨0x2802, 0, 1, 0x03, 1, .u8, .rw, 50, .rng 5 95, "RESTART_MATCH_MAX"⟩,
  ⟨0x2802, 0, 1, 0x04, 1, .u16, .rw, 32, .any, "RESTART_MIN_CONTRAST"⟩,
  ⟨0x2802, 0, 1, 0x05, 1, .u8, .rw, 2, .rng 0 3, "RESTART_RETRIES"⟩ ]

/-- Objects from 0x2802:06 on. -/
def objTable09 : List Row := [
  ⟨0x2802, 0, 1, 0x06, 1, .u32, .ro, 0, .any, "RESTART_COUNT"⟩,
  ⟨0x2802, 0, 1, 0x07, 1, .u32, .ro, 0, .any, "RESTART_UNMATCHED_COUNT"⟩,
  ⟨0x2802, 0, 1, 0x08, 1, .u8, .ro, 0, .any, "RESTART_LAST_RESULT"⟩,
  ⟨0x2802, 0, 1, 0x09, 1, .i32, .ro, 0, .any, "RESTART_LAST_OFFSET"⟩,
  ⟨0x2802, 0, 1, 0x0A, 1, .i32, .ro, 0, .any, "RESTART_EPSILON"⟩,
  ⟨0x2810, 1, 16, 0x01, 1, .u8, .ro, 0x00, .any, "LANE_STATUS"⟩,
  ⟨0x2810, 1, 16, 0x02, 1, .u64, .ro, 0, .any, "HOST_MAC"⟩,
  ⟨0x2810, 1, 16, 0x03, 1, .u32, .ro, 0, .any, "HOST_IP"⟩,
  ⟨0x2810, 1, 16, 0x04, 1, .u16, .ro, 0, .any, "HOST_PORT"⟩,
  ⟨0x2810, 1, 16, 0x05, 1, .u64, .ro, 0, .any, "LANE_BYTES_SENT"⟩,
  ⟨0x2810, 1, 16, 0x06, 1, .u64, .ro, 0, .any, "LANE_CREDIT_LIMIT"⟩,
  ⟨0x2810, 1, 16, 0x07, 1, .u32, .ro, 0, .any, "LANE_PAUSE_COUNT"⟩,
  ⟨0x2810, 1, 16, 0x08, 1, .u32, .ro, 0, .any, "LANE_RX_DROPPED"⟩,
  ⟨0x2900, 0, 1, 0x01, 1, .u16, .ro, 0x0000, .any, "MOTION_STATUS"⟩,
  ⟨0x2900, 0, 1, 0x02, 1, .u16, .wo, 0, .any, "MOTION_STATUS_CLEAR"⟩,
  ⟨0x2900, 0, 1, 0x03, 1, .u8, .rwp, 0x00, .reserved 0xC0, "TRANSPORT_AXES"⟩,
  ⟨0x2900, 0, 1, 0x04, 1, .u32, .rw, 1000000, .rng 1000 10000000, "TRANSPORT_SPEED_NOM"⟩,
  ⟨0x2900, 0, 1, 0x05, 1, .u32, .rw, 5000, .rng 10 100000, "TRANSPORT_ACCEL"⟩,
  ⟨0x2900, 0, 1, 0x06, 1, .u8, .rw, 0, .rng 0 1, "TRANSPORT_RAMP_SHAPE"⟩,
  ⟨0x2900, 0, 1, 0x07, 1, .u32, .rw, 20000, .rng 100 500000, "TRANSPORT_EMERGENCY_DECEL"⟩,
  ⟨0x2900, 0, 1, 0x08, 1, .u32, .rw, 2000, .rng 10 1000000, "TRANSPORT_EMERGENCY_JERK"⟩,
  ⟨0x2900, 0, 1, 0x09, 1, .u32, .rw, 10000, .any, "TRANSPORT_TAKEUP_SPEED"⟩,
  ⟨0x2900, 0, 1, 0x0A, 1, .i32, .ro, 0, .any, "TRANSPORT_SPEED_ACTUAL"⟩,
  ⟨0x2900, 0, 1, 0x0B, 1, .u8, .ro, 100, .any, "GOVERNOR_SPEED_CAP"⟩,
  ⟨0x2900, 0, 1, 0x0C, 1, .bool, .rw, 1, .any, "MSTOP_ENABLE"⟩,
  ⟨0x2900, 0, 1, 0x0D, 1, .u8, .rw, 0, .rng 0 1, "MSTOP_LEVEL"⟩,
  ⟨0x2900, 0, 1, 0x0E, 1, .u8, .rw, 20, .any, "MOTION_INPUT_FILTER"⟩,
  ⟨0x2900, 0, 1, 0x0F, 1, .u8, .rw, 0x00, .reserved 0xF0, "SEG_HOST_FLAGS"⟩,
  ⟨0x2900, 0, 1, 0x10, 1, .u16, .ro, 0, .any, "GATE_SUPPLY"⟩,
  ⟨0x2A00, 16, 6, 0x01, 1, .bool, .rwp, 0, .any, "AXIS_ENABLE"⟩,
  ⟨0x2A00, 16, 6, 0x02, 1, .u8, .wo, 0, .any, "AXIS_COMMAND"⟩,
  ⟨0x2A00, 16, 6, 0x03, 1, .i32, .rw, 0, .any, "AXIS_TARGET"⟩,
  ⟨0x2A00, 16, 6, 0x04, 1, .i32, .rw, 0, .any, "AXIS_POSITION"⟩,
  ⟨0x2A00, 16, 6, 0x05, 1, .i32, .ro, 0, .any, "AXIS_VELOCITY"⟩,
  ⟨0x2A00, 16, 6, 0x06, 1, .u8, .ro, 0, .any, "AXIS_STATE"⟩,
  ⟨0x2A00, 16, 6, 0x07, 1, .u16, .ro, 0x0000, .any, "AXIS_STATUS"⟩,
  ⟨0x2A00, 16, 6, 0x08, 1, .u8, .ro, 0, .any, "AXIS_OWNER"⟩,
  ⟨0x2A00, 16, 6, 0x09, 1, .u32, .rw, 100000, .rng 1 5000000, "MOVE_SPEED"⟩,
  ⟨0x2A00, 16, 6, 0x0A, 1, .u32, .rw, 1000000, .rng 1000 4000000000, "MOVE_ACCEL"⟩,
  ⟨0x2A00, 16, 6, 0x0B, 1, .u8, .rw, 0, .rng 0 1, "RAMP_SHAPE"⟩ ]

/-- Objects from 0x2A00:0C on. -/
def objTable10 : List Row := [
  ⟨0x2A00, 16, 6, 0x0C, 1, .u16, .rw, 2000, .rng 100 50000, "RAMP_BLEND"⟩,
  ⟨0x2A00, 16, 6, 0x0D, 1, .u32, .rw, 20000000, .rng 10000 4000000000, "EMERGENCY_DECEL"⟩,
  ⟨0x2A00, 16, 6, 0x0E, 1, .u32, .rw, 20000000, .rng 1000 4000000000, "EMERGENCY_JERK"⟩,
  ⟨0x2A00, 16, 6, 0x0F, 1, .i32, .rw, 0, .rng (-5000000) 5000000, "JOG_VELOCITY"⟩,
  ⟨0x2A00, 16, 6, 0x10, 1, .u16, .rw, 500, .any, "RUN_CURRENT_BASE"⟩,
  ⟨0x2A00, 16, 6, 0x11, 1, .u16, .rw, 1000, .any, "RUN_CURRENT_MAX"⟩,
  ⟨0x2A00, 16, 6, 0x12, 1, .u16, .rw, 250, .any, "HOLD_CURRENT"⟩,
  ⟨0x2A00, 16, 6, 0x13, 1, .u16, .rw, 100, .rng 0 60000, "HOLD_DELAY"⟩,
  ⟨0x2A00, 16, 6, 0x14, 1, .u32, .rw, 0, .any, "STANDSTILL_OFF"⟩,
  ⟨0x2A00, 16, 6, 0x15, 1, .u8, .rw, 0, .rng 0 2, "RETAIN_MODE"⟩,
  ⟨0x2A00, 16, 6, 0x16, 1, .u16, .rw, 50, .rng 1 10000, "PARK_FADE"⟩,
  ⟨0x2A00, 16, 6, 0x17, 1, .u16, .rwp, 50, .rng 10 1000, "SENSE_RESISTANCE"⟩,
  ⟨0x2A00, 16, 6, 0x18, 1, .u16, .rw, 1000, .any, "COIL_RESISTANCE"⟩,
  ⟨0x2A00, 16, 6, 0x19, 1, .u16, .rw, 2000, .any, "COIL_INDUCTANCE"⟩,
  ⟨0x2A00, 16, 6, 0x1A, 1, .u16, .rw, 100, .rng 10 640, "CHOP_OFF_TIME"⟩,
  ⟨0x2A00, 16, 6, 0x1B, 1, .u16, .rw, 1000, .rng 200 5000, "CHOP_BLANK"⟩,
  ⟨0x2A00, 16, 6, 0x1C, 1, .u8, .rw, 25, .rng 0 100, "CHOP_FAST_FRACTION"⟩,
  ⟨0x2A00, 16, 6, 0x1D, 1, .u16, .rwp, 200, .grid 50 1000 10, "DEAD_TIME"⟩,
  ⟨0x2A00, 16, 6, 0x1E, 1, .u16, .rw, 500, .rng 100 2000, "VDS_LIMIT"⟩,
  ⟨0x2A00, 16, 6, 0x1F, 1, .u16, .rw, 300, .any, "LOAD_ANGLE_LOW"⟩,
  ⟨0x2A00, 16, 6, 0x20, 1, .u16, .rw, 600, .any, "LOAD_ANGLE_HIGH"⟩,
  ⟨0x2A00, 16, 6, 0x21, 1, .u16, .rw, 800, .rng 100 1800, "STALL_ANGLE"⟩,
  ⟨0x2A00, 16, 6, 0x22, 1, .u16, .rw, 5, .rng 1 1000, "STALL_TIME"⟩,
  ⟨0x2A00, 16, 6, 0x23, 1, .u8, .rw, 1, .rng 0 2, "STALL_ACTION"⟩,
  ⟨0x2A00, 16, 6, 0x24, 1, .u32, .rw, 20000, .any, "LOAD_MIN_SPEED"⟩,
  ⟨0x2A00, 16, 6, 0x25, 1, .u16, .rw, 100, .rng 1 10000, "CURRENT_RISE"⟩,
  ⟨0x2A00, 16, 6, 0x26, 1, .u16, .rw, 20, .rng 1 10000, "CURRENT_FALL"⟩,
  ⟨0x2A00, 16, 6, 0x27, 1, .i16, .ro, 0, .any, "LOAD_ANGLE"⟩,
  ⟨0x2A00, 16, 6, 0x28, 1, .u16, .ro, 0, .any, "CURRENT_ACTUAL"⟩,
  ⟨0x2A00, 16, 6, 0x29, 1, .u8, .rw, 0, .rng 0 1, "STEP_SOURCE"⟩,
  ⟨0x2A00, 16, 6, 0x2A, 1, .u16, .rw, 16, .rng 1 4096, "EXT_STEP_SIZE"⟩,
  ⟨0x2A00, 16, 6, 0x2B, 1, .u32, .rw, 10000, .rng 10 10000000, "EXT_TIMEOUT"⟩,
  ⟨0x2A00, 16, 6, 0x2C, 1, .i32, .rw, 0, .any, "PATH_SCALE"⟩,
  ⟨0x2A00, 16, 6, 0x2D, 1, .u16, .rw, 0, .any, "BACKLASH"⟩,
  ⟨0x2A00, 16, 6, 0x2E, 1, .i32, .rw, 20000, .nonzero, "HOME_VELOCITY"⟩,
  ⟨0x2A00, 16, 6, 0x2F, 1, .i32, .rw, 0, .any, "HOME_POSITION"⟩,
  ⟨0x2A00, 16, 6, 0x30, 1, .u32, .rw, 10000, .rng 100 600000, "HOME_TIMEOUT"⟩,
  ⟨0x2A00, 16, 6, 0x31, 1, .i32, .ro, 0, .any, "MREF_LATCH_POSITION"⟩,
  ⟨0x2A00, 16, 6, 0x32, 1, .u8, .ro, 0, .any, "SEG_STATE"⟩,
  ⟨0x2A00, 16, 6, 0x33, 1, .u8, .ro, 0, .any, "SEG_PC"⟩ ]

/-- Objects from 0x2A00:34 on. -/
def objTable11 : List Row := [
  ⟨0x2A00, 16, 6, 0x34, 1, .u8, .ro, 0, .any, "SEG_STOP_REASON"⟩,
  ⟨0x2A00, 16, 6, 0x35, 1, .u16, .ro, 0, .any, "SEG_NOTIFY_LAST"⟩,
  ⟨0x2A00, 16, 6, 0x36, 1, .u32, .ro, 0, .any, "SEG_REPLANS"⟩,
  ⟨0x2A00, 16, 6, 0x37, 1, .u32, .ro, 0, .any, "STALL_COUNT"⟩,
  ⟨0x2A00, 16, 6, 0x38, 1, .u32, .ro, 0, .any, "AXIS_ERROR_COUNT"⟩,
  ⟨0x2A00, 16, 6, 0x39, 1, .u16, .wo, 0, .any, "AXIS_STATUS_CLEAR"⟩,
  ⟨0x2C00, 0, 1, 0x01, 1, (.domain 36), .wo, 0, .any, "TW_REQUEST"⟩,
  ⟨0x2C00, 0, 1, 0x02, 1, (.domain 36), .ro, 0, .any, "TW_RESULT"⟩,
  ⟨0x2C00, 0, 1, 0x03, 1, .u16, .rw, 1000, .rng 100 60000, "TW_SENSOR_PERIOD"⟩,
  ⟨0x2C00, 0, 1, 0x04, 1, .u16, .rw, 0x0000, .any, "TW_SENSOR_MASK"⟩,
  ⟨0x2C00, 0, 1, 0x05, 1, .u16, .ro, 0x0000, .any, "TW_STATUS"⟩,
  ⟨0x2C00, 0, 1, 0x06, 1, .u16, .wo, 0, .any, "TW_STATUS_CLEAR"⟩,
  ⟨0x2C00, 0, 1, 0x07, 1, (.domain 128), .rw, 0, .any, "TW_TARGET_SCRATCH"⟩,
  ⟨0x2C10, 1, 2, 0x01, 1, .bool, .rw, 1, .any, "TW_ENABLE"⟩,
  ⟨0x2C10, 1, 2, 0x02, 1, .u16, .rw, 160, .rng 20 1000, "TW_SCL_LOW"⟩,
  ⟨0x2C10, 1, 2, 0x03, 1, .u16, .rw, 80, .rng 10 1000, "TW_SCL_HIGH"⟩,
  ⟨0x2C10, 1, 2, 0x04, 1, .u16, .rw, 30, .rng 0 300, "TW_HD_DAT"⟩,
  ⟨0x2C10, 1, 2, 0x05, 1, .u16, .rw, 70, .rng 10 1000, "TW_SU_STA"⟩,
  ⟨0x2C10, 1, 2, 0x06, 1, .u16, .rw, 70, .rng 10 1000, "TW_HD_STA"⟩,
  ⟨0x2C10, 1, 2, 0x07, 1, .u16, .rw, 70, .rng 10 1000, "TW_SU_STO"⟩,
  ⟨0x2C10, 1, 2, 0x08, 1, .u16, .rw, 150, .rng 20 1000, "TW_BUF"⟩,
  ⟨0x2C10, 1, 2, 0x09, 1, .u16, .rw, 10, .rng 1 1000, "TW_STRETCH_TIMEOUT"⟩,
  ⟨0x2C10, 1, 2, 0x0A, 1, .u8, .rwp, 0x70, .rng 0x70 0x77, "TW_OWN_ADDRESS"⟩,
  ⟨0x2C10, 1, 2, 0x0B, 1, .bool, .rwp, 0, .any, "TW_TARGET_ENABLE"⟩,
  ⟨0x2C10, 1, 2, 0x0C, 1, .u8, .wo, 0, .any, "TW_CONTROL"⟩,
  ⟨0x2C10, 1, 2, 0x0D, 1, .u8, .ro, 0, .any, "TW_BUS_STATE"⟩,
  ⟨0x2C10, 1, 2, 0x0E, 1, .u32, .ro, 0, .any, "TW_ARB_LOST_COUNT"⟩,
  ⟨0x2C10, 1, 2, 0x0F, 1, .u32, .ro, 0, .any, "TW_NACK_COUNT"⟩,
  ⟨0x2C10, 1, 2, 0x10, 1, .u32, .ro, 0, .any, "TW_TIMEOUT_COUNT"⟩,
  ⟨0x2C10, 1, 2, 0x11, 1, .u32, .ro, 0, .any, "TW_STUCK_COUNT"⟩,
  ⟨0x2C10, 1, 2, 0x12, 1, .u32, .ro, 0, .any, "TW_TARGET_COUNT"⟩,
  ⟨0x2C20, 0, 1, 0x01, 16, .i16, .ro, 0, .any, "BAR_TEMP"⟩,
  ⟨0x2D00, 0, 1, 0x01, 1, (.domain 64), .wo, 0, .any, "HM_SEND"⟩,
  ⟨0x2D00, 0, 1, 0x02, 1, .u8, .ro, 0, .any, "MH_PENDING"⟩,
  ⟨0x2D00, 0, 1, 0x03, 1, (.domain 64), .ro, 0, .any, "MH_RECEIVE"⟩,
  ⟨0x2D00, 0, 1, 0x04, 1, .u16, .wo, 0, .any, "MH_RELEASE"⟩,
  ⟨0x2D00, 0, 1, 0x05, 1, .u32, .ro, 0, .any, "MH_LOST"⟩,
  ⟨0x2D00, 0, 1, 0x06, 1, .u32, .ro, 0, .any, "HM_UNKNOWN"⟩,
  ⟨0x2D00, 0, 1, 0x07, 1, .u8, .ro, 0x00, .any, "MBOX_STATUS"⟩,
  ⟨0x2D00, 0, 1, 0x08, 1, .u8, .wo, 0, .any, "MBOX_STATUS_CLEAR"⟩ ]

/-- Objects from 0x2D10:01 on. -/
def objTable12 : List Row := [
  ⟨0x2D10, 1, 8, 0x01, 1, .u16, .rw, 1000, .rng 10 60000, "MBOX_TIMEOUT"⟩,
  ⟨0x2D10, 1, 8, 0x02, 1, .u32, .ro, 0, .any, "MBOX_DELIVERED"⟩,
  ⟨0x2D10, 1, 8, 0x03, 1, .u32, .ro, 0, .any, "MBOX_TIMEOUTS"⟩,
  ⟨0x2D10, 1, 8, 0x04, 1, .u8, .ro, 0, .any, "MBOX_FILL"⟩,
  ⟨0x2D10, 1, 8, 0x05, 1, .u8, .ro, 0, .any, "MBOX_HIGH_WATER"⟩,
  ⟨0x2D10, 1, 8, 0x06, 1, .u32, .ro, 0, .any, "MBOX_WAKES"⟩,
  ⟨0x2D10, 1, 8, 0x07, 1, .u8, .ro, 0, .any, "MBOX_RECEIVER_STATE"⟩,
  ⟨0x2E30, 0, 1, 0x01, 1, .u16, .rwp, 1000, .grid 500 2000 50, "BUCK_FREQ"⟩,
  ⟨0x2E30, 0, 1, 0x02, 1, .u16, .ro, 0x0000, .any, "RAIL_STATUS"⟩,
  ⟨0x2E30, 0, 1, 0x03, 1, .u16, .wo, 0, .any, "RAIL_STATUS_CLEAR"⟩,
  ⟨0x2E30, 0, 1, 0x04, 1, .u32, .ro, 0x00000000, .any, "DOMAIN_STATE"⟩,
  ⟨0x2E30, 0, 1, 0x05, 1, .u32, .ro, 0, .any, "DEVICE_POWER"⟩,
  ⟨0x2E30, 0, 1, 0x06, 1, .u8, .ro, 0x00, .any, "AFE_RAIL_GROUPS"⟩,
  ⟨0x2E31, 0, 1, 0x01, 1, .i16, .ro, 0, .any, "TJ_MAX"⟩,
  ⟨0x2E31, 0, 1, 0x02, 1, .u8, .ro, 0, .any, "TJ_MAX_MONITOR"⟩,
  ⟨0x2E31, 0, 1, 0x03, 1, .i16, .rw, 11000, .rng 9000 11500, "TJ_LIMIT"⟩,
  ⟨0x2E31, 0, 1, 0x04, 1, .u16, .ro, 0, .any, "GRADIENT_MAX"⟩,
  ⟨0x2E31, 0, 1, 0x05, 1, .u16, .ro, 0x0000, .any, "MON_STATUS"⟩,
  ⟨0x2E31, 0, 1, 0x06, 1, .u16, .wo, 0, .any, "MON_STATUS_CLEAR"⟩,
  ⟨0x2E32, 0, 1, 0x01, 24, .i16, .ro, 0, .any, "TEMP_READING"⟩,
  ⟨0x2E33, 0, 1, 0x01, 20, .u16, .ro, 0, .any, "VOLT_READING"⟩,
  ⟨0x2E34, 0, 1, 0x01, 12, .u16, .ro, 0, .any, "PROC_READING"⟩,
  ⟨0x2E40, 0, 1, 0x01, 1, .bool, .rw, 1, .any, "GOV_ENABLE"⟩,
  ⟨0x2E40, 0, 1, 0x02, 1, .u16, .rw, 11500, .rng 2000 11500, "POWER_CAP"⟩,
  ⟨0x2E40, 0, 1, 0x03, 1, .i16, .rw, 9500, .rng 6000 10500, "TJ_TARGET"⟩,
  ⟨0x2E40, 0, 1, 0x04, 1, .u16, .rw, 300, .rng 50 2000, "POWER_HYST"⟩,
  ⟨0x2E40, 0, 1, 0x05, 1, .u16, .rw, 300, .rng 50 2000, "TJ_HYST"⟩,
  ⟨0x2E40, 0, 1, 0x06, 1, .u16, .rw, 100, .rng 10 10000, "GOV_STEP_TIME"⟩,
  ⟨0x2E40, 0, 1, 0x07, 1, .u16, .rw, 1000, .rng 100 60000, "GOV_RELEASE_TIME"⟩,
  ⟨0x2E40, 0, 1, 0x08, 1, .u8, .rw, 5, .rng 1 25, "GOV_SPEED_STEP"⟩,
  ⟨0x2E40, 0, 1, 0x09, 1, .u8, .rw, 50, .rng 10 100, "GOV_SPEED_FLOOR"⟩,
  ⟨0x2E40, 0, 1, 0x0A, 1, .u8, .ro, 0, .any, "GOV_LEVEL"⟩,
  ⟨0x2E40, 0, 1, 0x0B, 1, .u16, .ro, 0x0000, .any, "GOV_STATUS"⟩,
  ⟨0x2E40, 0, 1, 0x0C, 1, .u16, .wo, 0, .any, "GOV_STATUS_CLEAR"⟩,
  ⟨0x2E40, 0, 1, 0x0D, 1, .bool, .rw, 1, .any, "GOV_ALLOW_HALF_RES"⟩,
  ⟨0x2E40, 0, 1, 0x0E, 1, .u32, .ro, 0, .any, "GOV_TIME_DEFERRED"⟩,
  ⟨0x2E50, 0, 1, 0x01, 1, .u8, .ro, 0, .any, "RESET_CAUSE"⟩,
  ⟨0x2E50, 0, 1, 0x02, 1, .u16, .ro, 0, .any, "RESET_DETAIL"⟩,
  ⟨0x2E50, 0, 1, 0x03, 1, .u32, .ro, 1, .any, "RESET_COUNT"⟩,
  ⟨0x2E50, 0, 1, 0x04, 1, .u16, .wo, 0, .any, "SOFTWARE_RESET"⟩ ]

/-- Objects from 0x2E50:05 on. -/
def objTable13 : List Row := [
  ⟨0x2E50, 0, 1, 0x05, 1, .u8, .ro, 0, .any, "BOOT_SLOT"⟩,
  ⟨0x2E50, 0, 1, 0x06, 1, .u32, .ro, 0, .any, "BOOT_IMAGE_VERSION"⟩,
  ⟨0x2E50, 0, 1, 0x07, 1, .bool, .ro, 0, .any, "BOOT_TRIAL"⟩,
  ⟨0x2E50, 0, 1, 0x08, 1, .u16, .ro, 0x0000, .any, "BOOT_STATUS"⟩,
  ⟨0x2E50, 0, 1, 0x09, 1, .u32, .ro, 0, .any, "BOOT_TIME"⟩,
  ⟨0x2E51, 0, 1, 0x01, 1, .bool, .wo, 0, .any, "TILE_DISCOVER"⟩,
  ⟨0x2E51, 0, 1, 0x02, 1, .u8, .ro, 0, .any, "TILE_DISCOVERY_STATE"⟩,
  ⟨0x2E51, 0, 1, 0x03, 1, .bool, .rw, 0, .any, "TILE_AUTO_APPLY"⟩,
  ⟨0x2E51, 0, 1, 0x04, 1, (.domain 12), .ro, 0, .any, "TILE_PRESENT"⟩,
  ⟨0x2E51, 0, 1, 0x05, 1, (.domain 12), .ro, 0, .any, "TILE_BAD"⟩,
  ⟨0x2E51, 0, 1, 0x06, 1, (.domain 12), .ro, 0, .any, "TILE_MISMATCH"⟩,
  ⟨0x2E51, 0, 1, 0x07, 1, .u8, .ro, 0, .any, "TILE_COUNT"⟩,
  ⟨0x2E60, 0, 1, 0x01, 1, .u32, .ro, 0, .any, "LOG_SEQUENCE_NEXT"⟩,
  ⟨0x2E60, 0, 1, 0x02, 1, .u16, .ro, 0, .any, "LOG_WAITING"⟩,
  ⟨0x2E60, 0, 1, 0x03, 1, .u32, .ro, 0, .any, "LOG_NOT_STORED"⟩,
  ⟨0x2E60, 0, 1, 0x04, 1, .bool, .wo, 0, .any, "LOG_CLEAR"⟩,
  ⟨0x2E60, 0, 1, 0x05, 1, .bool, .rw, 0, .any, "EVENT_NOTICE_ENABLE"⟩,
  ⟨0x2E61, 0, 1, 0x01, 1, .u16, .ro, 0x0000, .any, "FLASH_STATUS"⟩,
  ⟨0x2E61, 0, 1, 0x02, 1, .u16, .wo, 0, .any, "FLASH_STATUS_CLEAR"⟩,
  ⟨0x2E61, 0, 1, 0x03, 1, .u32, .ro, 0, .any, "FLASH_SIZE"⟩,
  ⟨0x2E61, 0, 1, 0x04, 1, .u32, .ro, 0, .any, "FLASH_ERASE_MAX"⟩,
  ⟨0x2E61, 0, 1, 0x05, 1, .u16, .rw, 24, .rng 1 720, "FLASH_PATROL_PERIOD"⟩,
  ⟨0x2E61, 0, 1, 0x06, 1, .u32, .ro, 0, .any, "FLASH_PATROL_BAD"⟩,
  ⟨0x2E61, 0, 1, 0x07, 1, .u8, .ro, 0, .any, "LEAVEN_FREE_BLOCKS"⟩,
  ⟨0x2E62, 0, 1, 0x01, 1, .u16, .rw, 1000, .rng 100 60000, "TELEM_PERIOD"⟩,
  ⟨0x2E62, 0, 1, 0x02, 1, .u32, .ro, 0, .any, "TELEM_SEQUENCE"⟩,
  ⟨0x2E70, 0, 1, 0x01, 1, .u8, .wo, 0, .any, "UPDATE_COMMAND"⟩,
  ⟨0x2E70, 0, 1, 0x02, 1, (.domain 4194304), .wo, 0, .any, "UPDATE_DATA"⟩,
  ⟨0x2E70, 0, 1, 0x03, 1, .u8, .ro, 0, .any, "UPDATE_STATE"⟩,
  ⟨0x2E70, 0, 1, 0x04, 1, .u8, .ro, 0, .any, "UPDATE_RESULT"⟩,
  ⟨0x2E70, 0, 1, 0x05, 1, .u32, .ro, 0, .any, "UPDATE_BYTES"⟩,
  ⟨0x2E70, 0, 1, 0x06, 1, .bool, .rw, 0, .any, "UPDATE_LOCK_SVN"⟩,
  ⟨0x2E70, 0, 1, 0x07, 1, .u32, .ro, 0, .any, "SLOT_A_VERSION"⟩,
  ⟨0x2E70, 0, 1, 0x08, 1, .u32, .ro, 0, .any, "SLOT_B_VERSION"⟩,
  ⟨0x2E70, 0, 1, 0x09, 1, .u8, .ro, 1, .any, "UPDATE_SLOT"⟩,
  ⟨0x2E80, 0, 1, 0x01, 1, (.domain 32), .ro, 0, .any, "OTP_KEY_HASH"⟩,
  ⟨0x2E80, 0, 1, 0x02, 1, .u8, .ro, 0, .any, "OTP_MIN_SVN"⟩,
  ⟨0x2E80, 0, 1, 0x03, 1, .u64, .ro, 0, .any, "OTP_SERIAL"⟩,
  ⟨0x2E80, 0, 1, 0x04, 1, .u64, .ro, 0, .any, "OTP_MAC_BASE"⟩,
  ⟨0x2E80, 0, 1, 0x05, 1, .u8, .ro, 0, .any, "OTP_LOCKS"⟩ ]

/-- Objects from 0x2F00:01 on. -/
def objTable14 : List Row := [
  ⟨0x2F00, 0, 1, 0x01, 1, .u8, .ro, 0, .any, "FIRST_ERROR_STATE"⟩,
  ⟨0x2F00, 0, 1, 0x02, 1, (.domain 32), .ro, 0, .any, "FIRST_ERROR"⟩,
  ⟨0x2F00, 0, 1, 0x03, 1, .u32, .wo, 0, .any, "FIRST_ERROR_ACK"⟩,
  ⟨0x2F00, 0, 1, 0x04, 1, (.domain 32), .ro, 0, .any, "FIRST_FATAL"⟩,
  ⟨0x2F00, 0, 1, 0x05, 1, .u16, .ro, 0, .any, "ERROR_OVERFLOW_COUNT"⟩,
  ⟨0x2F00, 0, 1, 0x06, 1, .u8, .ro, 0x00, .any, "ERROR_CLASS_MAP"⟩,
  ⟨0x2F00, 0, 1, 0x07, 1, (.domain 32), .ro, 0, .any, "PREVIOUS_FIRST_ERROR"⟩,
  ⟨0x2F00, 0, 1, 0x08, 1, .u32, .ro, 0, .any, "FIRST_ERROR_SEQUENCE"⟩,
  ⟨0x2F00, 0, 1, 0x09, 1, .u32, .ro, 0, .any, "EMCY_LOST"⟩,
  ⟨0x2F00, 0, 1, 0x0A, 1, .bool, .rw, 1, .any, "EMCY_ENABLE"⟩,
  ⟨0x2F00, 0, 1, 0x0B, 1, .u32, .ro, 0, .any, "EVENTS_LOGGED"⟩,
  ⟨0x3000, 1, 96, 0x01, 1, .bool, .rwp, 1, .any, "PORT_ENABLE"⟩,
  ⟨0x3000, 1, 96, 0x02, 1, .u16, .rwp, 832, .rng 64 1024, "PIXEL_COUNT"⟩,
  ⟨0x3000, 1, 96, 0x03, 1, .u8, .rwp, 7, .rng 0 16, "REF_LEAD"⟩,
  ⟨0x3000, 1, 96, 0x04, 1, .u8, .rwp, 9, .rng 0 16, "REF_TRAIL"⟩,
  ⟨0x3000, 1, 96, 0x05, 1, .u8, .rwp, 6, .any, "LAMP_MON_INDEX"⟩,
  ⟨0x3000, 1, 96, 0x06, 1, .u8, .rwp, 2, .rng 0 3, "FS_RANGE"⟩,
  ⟨0x3000, 1, 96, 0x07, 1, .u8, .rwp, 0, .rng 0 2, "SAMPLE_MODE"⟩,
  ⟨0x3000, 1, 96, 0x08, 1, .u8, .rwp, 4, .rng 1 16, "TRACK_TC"⟩,
  ⟨0x3000, 1, 96, 0x09, 1, .u8, .rw, 32, .rng 0 63, "SAMPLE_PHASE"⟩,
  ⟨0x3000, 1, 96, 0x0A, 1, .u8, .rwp, 25, .rng 20 50, "RESET_FRACTION"⟩,
  ⟨0x3000, 1, 96, 0x0B, 1, .bool, .rw, 1, .any, "TONE_ENABLE"⟩,
  ⟨0x3000, 1, 96, 0x0C, 1, .u16, .rw, 200, .rng 110 1000, "TONE_LIMIT_HIGH"⟩,
  ⟨0x3000, 1, 96, 0x0D, 1, .u16, .rw, 0, .any, "TONE_REF"⟩,
  ⟨0x3000, 1, 96, 0x0E, 1, .u8, .rw, 50, .rng 5 90, "TONE_LIMIT_LOW"⟩,
  ⟨0x3000, 1, 96, 0x0F, 1, .u16, .ro, 0x0000, .any, "PORT_STATUS"⟩,
  ⟨0x3000, 1, 96, 0x10, 1, .bool, .wo, 0, .any, "FAULT_CLEAR"⟩,
  ⟨0x3000, 1, 96, 0x11, 1, .u32, .ro, 0, .any, "FAULT_COUNT"⟩,
  ⟨0x3000, 1, 96, 0x12, 1, .u64, .ro, 0, .any, "FAULT_FIRST_Y"⟩,
  ⟨0x3000, 1, 96, 0x13, 1, .u32, .ro, 0, .any, "UNMARKED_LINES"⟩,
  ⟨0x3000, 1, 96, 0x14, 1, .u16, .ro, 0, .any, "TONE_LAST"⟩,
  ⟨0x3000, 1, 96, 0x15, 1, .u32, .ro, 0, .any, "TONE_SKIPPED"⟩,
  ⟨0x3100, 1, 8, 0x01, 1, .u8, .ro, 0, .any, "SPARE_STATE"⟩,
  ⟨0x3100, 1, 8, 0x02, 1, .u8, .ro, 0xFF, .any, "SPARE_PORT"⟩,
  ⟨0x3100, 1, 8, 0x03, 1, .u8, .rw, 0xFF, .any, "HOST_ASSIGN"⟩,
  ⟨0x3100, 1, 8, 0x04, 1, .u16, .rw, 1650, .grid 500 3000 10, "GROUP_VBIAS"⟩,
  ⟨0x3100, 1, 8, 0x05, 1, .u16, .rw, 1000, .grid 300 2500 10, "GROUP_VRST"⟩,
  ⟨0x3100, 1, 8, 0x06, 1, .u16, .rw, 1000, .rng 10 10000, "GROUP_SLEW"⟩,
  ⟨0x3100, 1, 8, 0x07, 1, .u16, .rw, 64, .any, "GROUP_SETTLE_LINES"⟩,
  ⟨0x3100, 1, 8, 0x08, 1, .u32, .ro, 0, .any, "HANDOVER_COUNT"⟩ ]

/-- Objects from 0x3100:09 on. -/
def objTable15 : List Row := [
  ⟨0x3100, 1, 8, 0x09, 1, .u8, .ro, 0x00, .any, "GROUP_STATUS"⟩,
  ⟨0x3100, 1, 8, 0x0A, 1, .u32, .rwp, 150000, .grid 10000 150000 10, "GROUP_PIXEL_CLOCK"⟩,
  ⟨0x4100, 0, 1, 0x00, 1, (.domain 4096), .rw, 0, .any, "TIMING_PROGRAM_0"⟩,
  ⟨0x4101, 0, 1, 0x00, 1, (.domain 4096), .rw, 0, .any, "TIMING_PROGRAM_1"⟩,
  ⟨0x4200, 1, 4, 0x00, 1, (.domain 256), .rw, 0, .any, "INDICATOR_PROGRAM"⟩,
  ⟨0x4210, 0, 1, 0x00, 1, (.domain 2048), .rw, 0, .any, "LAMP_TRIM"⟩,
  ⟨0x4211, 0, 1, 0x00, 1, (.domain 64), .rwp, 0, .any, "LAMP_CHIP_COLOUR"⟩,
  ⟨0x4212, 0, 1, 0x00, 1, (.domain 1152), .rw, 0, .any, "LAMP_MON_REF"⟩,
  ⟨0x4300, 0, 1, 0x00, 1, (.domain 944708), .rw, 0, .any, "SHADING_BANK_0"⟩,
  ⟨0x4301, 0, 1, 0x00, 1, (.domain 944708), .rw, 0, .any, "SHADING_BANK_1"⟩,
  ⟨0x4302, 0, 1, 0x00, 1, (.domain 19008), .rw, 0, .any, "LINEARISATION"⟩,
  ⟨0x4303, 0, 1, 0x00, 1, (.domain 16384), .rw, 0, .any, "DEFECT_LIST"⟩,
  ⟨0x4304, 0, 1, 0x00, 1, (.domain 6656), .rw, 0, .any, "STAGE_A_CHAIN"⟩,
  ⟨0x4305, 0, 1, 0x00, 1, (.domain 576), .rw, 0, .any, "STAGE_A_DRIFT"⟩,
  ⟨0x4306, 0, 1, 0x00, 1, (.domain 1140), .rw, 0, .any, "SEAM_EDGE"⟩,
  ⟨0x4501, 0, 1, 0x00, 1, (.domain 576), .rw, 0, .any, "PW_REF"⟩,
  ⟨0x4600, 0, 1, 0x00, 1, (.domain 4096), .ro, 0, .any, "REF_DIRECTORY"⟩,
  ⟨0x4900, 1, 6, 0x00, 1, (.domain 2048), .rw, 0, .any, "SEGMENT_LIST"⟩,
  ⟨0x5000, 0, 1, 0x00, 1, (.domain 256), .ro, 0, .any, "TELEMETRY"⟩,
  ⟨0x5001, 0, 1, 0x00, 1, (.domain 61440), .ro, 0, .any, "TELEMETRY_HISTORY"⟩,
  ⟨0x5100, 0, 1, 0x00, 1, (.domain 6144), .ro, 0, .any, "TILE_IDENTITY"⟩,
  ⟨0x5200, 0, 1, 0x00, 1, (.domain 128), .ro, 0, .any, "LAMP_OPEN_MAP"⟩,
  ⟨0x5500, 0, 1, 0x00, 1, (.domain 3328), .ro, 0, .any, "LEAVEN_CHAIN_INFO"⟩,
  ⟨0x5F00, 0, 1, 0x00, 1, (.domain 131072), .ro, 0, .any, "EVENT_LOG"⟩ ]

/-- Every object, in ascending order of its first index and subindex (R349). -/
def objTable : List Row :=
  objTable00 ++
  objTable01 ++
  objTable02 ++
  objTable03 ++
  objTable04 ++
  objTable05 ++
  objTable06 ++
  objTable07 ++
  objTable08 ++
  objTable09 ++
  objTable10 ++
  objTable11 ++
  objTable12 ++
  objTable13 ++
  objTable14 ++
  objTable15

/-- The row of an index and subindex (R351). -/
def findRow (index sub : Nat) : Option Row := objTable.find? (fun r => r.has index sub)

/-- Whether any object stands at the index. -/
def indexExists (index : Nat) : Bool := objTable.any (fun r => r.hasIndex index)

/-- The highest subindex that exists at an index (R350). -/
def highestSub (index : Nat) : Nat :=
  objTable.foldl (fun m r => if r.hasIndex index && decide (m < r.sub + r.subs - 1) then r.sub + r.subs - 1 else m) 0

/-- Whether subindex 00 of the index is the count of R350. -/
def hasCountSub (index : Nat) : Bool := indexExists index && (findRow index 0).isNone

/-- The default of a key. -/
def keyDefault (key : Nat) : Nat :=
  match findRow (key / 256) (key % 256) with
  | some r => r.dflt
  | none => 0

/-! The objects by name. -/

def Obj.SYNC_MODE : Ref := ⟨objKey 0x1C32 0x01, 0⟩
def Obj.MODE_REQUEST : Ref := ⟨objKey 0x2000 0x02, 0x01⟩
def Obj.STATION_ALIAS : Ref := ⟨objKey 0x2001 0x03, 0⟩
def Obj.PDO_TIMEOUT : Ref := ⟨objKey 0x2001 0x04, 100⟩
def Obj.TRIG_SOURCE : Ref := ⟨objKey 0x2100 0x01, 0⟩
def Obj.POS_ENCODER : Ref := ⟨objKey 0x2100 0x02, 0⟩
def Obj.LINE_DIVIDER : Ref := ⟨objKey 0x2100 0x03, 64⟩
def Obj.INTERNAL_PERIOD : Ref := ⟨objKey 0x2100 0x04, 25000000⟩
def Obj.SYNC0_LINES : Ref := ⟨objKey 0x2100 0x05, 1⟩
def Obj.LTRIG_EDGE : Ref := ⟨objKey 0x2100 0x06, 0⟩
def Obj.INPUT_FILTER : Ref := ⟨objKey 0x2100 0x07, 4⟩
def Obj.PROGRAM_SELECT : Ref := ⟨objKey 0x2100 0x08, 0⟩
def Obj.START_GUARD : Ref := ⟨objKey 0x2100 0x0B, 400⟩
def Obj.WEB_HALT_TIMEOUT : Ref := ⟨objKey 0x2100 0x0C, 10000⟩
def Obj.PAGE_SOURCE : Ref := ⟨objKey 0x2100 0x10, 0⟩
def Obj.PAGE_OFFSET : Ref := ⟨objKey 0x2100 0x11, 0⟩
def Obj.PAGE_LOCKOUT : Ref := ⟨objKey 0x2100 0x12, 1000⟩
def Obj.PAGE_LENGTH : Ref := ⟨objKey 0x2100 0x13, 0⟩
def Obj.PAGE_NUMBER_START : Ref := ⟨objKey 0x2100 0x14, 0⟩
def Obj.HOLD_ENABLE : Ref := ⟨objKey 0x2100 0x18, 0⟩
def Obj.SLOT_ORDER : Ref := ⟨objKey 0x2104 0x01, 0x0024⟩
def Obj.SLOT_COUNT : Ref := ⟨objKey 0x2104 0x02, 3⟩
def Obj.SLOT_WIDTH : Ref := ⟨objKey 0x2104 0x03, 8332500⟩
def Obj.TONE_INTERVAL : Ref := ⟨objKey 0x2104 0x04, 1⟩
def Obj.TONE_LENGTH : Ref := ⟨objKey 0x2104 0x05, 400000⟩
def Obj.ENC_INVERT (i : Nat) : Ref := ⟨objKey (0x2110 + i) 0x01, 0⟩
def Obj.ENC_FILTER (i : Nat) : Ref := ⟨objKey (0x2110 + i) 0x02, 4⟩
def Obj.ENC_TERMINATION (i : Nat) : Ref := ⟨objKey (0x2110 + i) 0x03, 1⟩
def Obj.ENC_POSITION (i : Nat) : Ref := ⟨objKey (0x2110 + i) 0x05, 0⟩
def Obj.LC_CLOCK : Ref := ⟨objKey 0x2200 0x01, 25000⟩
def Obj.OPEN_DETECT_MIN : Ref := ⟨objKey 0x2200 0x03, 500⟩
def Obj.LAMP_SETTLE_LINES : Ref := ⟨objKey 0x2200 0x04, 32⟩
def Obj.MON_FLOOR : Ref := ⟨objKey 0x2200 0x05, 24⟩
def Obj.MON_LOW : Ref := ⟨objKey 0x2200 0x06, 70⟩
def Obj.MON_FAIL_SLOTS : Ref := ⟨objKey 0x2200 0x07, 3⟩
def Obj.DIAG_PULSE : Ref := ⟨objKey 0x2200 0x08, 0⟩
def Obj.CHAIN_CHIPS (i : Nat) : Ref := ⟨objKey (0x2201 + i) 0x01, 0⟩
def Obj.LEVEL (i : Nat) : Ref := ⟨objKey (0x2208 + i) 0x01, 0⟩
def Obj.FADE_TIME (i : Nat) : Ref := ⟨objKey (0x2208 + i) 0x02, 100⟩
def Obj.EXPOSURE (i : Nat) : Ref := ⟨objKey (0x2208 + i) 0x03, 0⟩
def Obj.SUBPULSES (i : Nat) : Ref := ⟨objKey (0x2208 + i) 0x04, 16⟩
def Obj.IND_OWNER : Ref := ⟨objKey 0x2210 0x01, 0x0000FFFFFFFFFFFF⟩
def Obj.IND_HOST_FLAGS : Ref := ⟨objKey 0x2210 0x03, 0x00⟩
def Obj.IND_CURRENT (i : Nat) : Ref := ⟨objKey 0x2211 (0x01 + i), 100⟩
def Obj.IND_LEVEL (i : Nat) : Ref := ⟨objKey 0x2212 (0x01 + i), 0⟩
def Obj.ENGINE_RUN (i : Nat) : Ref := ⟨objKey (0x2218 + i) 0x01, 0⟩
def Obj.ENGINE_TICK (i : Nat) : Ref := ⟨objKey (0x2218 + i) 0x02, 10⟩
def Obj.STAGE_B_ENABLE : Ref := ⟨objKey 0x2300 0x01, 1⟩
def Obj.LIN_ENABLE : Ref := ⟨objKey 0x2300 0x02, 0⟩
def Obj.DEFECT_ENABLE : Ref := ⟨objKey 0x2300 0x03, 1⟩
def Obj.STITCH_ENABLE : Ref := ⟨objKey 0x2300 0x04, 1⟩
def Obj.ROW_A_PARITY : Ref := ⟨objKey 0x2300 0x05, 0⟩
def Obj.LEADING_ROW : Ref := ⟨objKey 0x2300 0x06, 0⟩
def Obj.STRIP_TARGET_RED : Ref := ⟨objKey 0x2300 0x0B, 57344⟩
def Obj.STRIP_TARGET_GREEN : Ref := ⟨objKey 0x2300 0x0C, 57344⟩
def Obj.STRIP_TARGET_BLUE : Ref := ⟨objKey 0x2300 0x0D, 57344⟩
def Obj.SEAM_EDGE_ENABLE : Ref := ⟨objKey 0x2300 0x0E, 0⟩
def Obj.REF_AXIS : Ref := ⟨objKey 0x2310 0x04, 0⟩
def Obj.REF_POS_IN : Ref := ⟨objKey 0x2310 0x05, 0⟩
def Obj.REF_POS_OUT : Ref := ⟨objKey 0x2310 0x06, 0⟩
def Obj.REF_LINE_PERIOD : Ref := ⟨objKey 0x2310 0x07, 25000000⟩
def Obj.REF_BLACK_LINES : Ref := ⟨objKey 0x2310 0x08, 64⟩
def Obj.REF_WHITE_LINES : Ref := ⟨objKey 0x2310 0x09, 64⟩
def Obj.REF_BLACK_TOL : Ref := ⟨objKey 0x2310 0x0A, 32⟩
def Obj.REF_WHITE_TOL : Ref := ⟨objKey 0x2310 0x0B, 50⟩
def Obj.REF_FAIL_MAX : Ref := ⟨objKey 0x2310 0x0C, 64⟩
def Obj.REF_RETRIES : Ref := ⟨objKey 0x2310 0x0D, 1⟩
def Obj.REF_WHITE_MIN : Ref := ⟨objKey 0x2310 0x0E, 50⟩
def Obj.REF_LINES_SEND : Ref := ⟨objKey 0x2310 0x0F, 0⟩
def Obj.REF_TIMEOUT : Ref := ⟨objKey 0x2310 0x13, 5000⟩
def Obj.REG_MODE : Ref := ⟨objKey 0x2400 0x01, 0⟩
def Obj.ENC_PITCH : Ref := ⟨objKey 0x2400 0x03, 661458⟩
def Obj.STAGGER_DISTANCE : Ref := ⟨objKey 0x2400 0x04, 8000000⟩
def Obj.REG_NOMINAL_RATE : Ref := ⟨objKey 0x2400 0x06, 0⟩
def Obj.REG_SPAN_MAX : Ref := ⟨objKey 0x2400 0x07, 256⟩
def Obj.XAVG_RATIO : Ref := ⟨objKey 0x2400 0x08, 1⟩
def Obj.YAVG_ENABLE : Ref := ⟨objKey 0x2400 0x09, 0⟩
def Obj.OUT_BITS : Ref := ⟨objKey 0x2400 0x0A, 8⟩
def Obj.OUT_LAYOUT : Ref := ⟨objKey 0x2400 0x0B, 0⟩
def Obj.STAGGER_MEASURE_LINES : Ref := ⟨objKey 0x2400 0x16, 4096⟩
def Obj.LEAVEN_ENABLE : Ref := ⟨objKey 0x2500 0x01, 1⟩
def Obj.CAL_DELTA_T : Ref := ⟨objKey 0x2500 0x02, 200⟩
def Obj.CAL_WINDOW_LINES : Ref := ⟨objKey 0x2500 0x03, 1024⟩
def Obj.CAL_WINDOW_TIMEOUT : Ref := ⟨objKey 0x2500 0x04, 1000⟩
def Obj.CAL_OFFSET_TOL : Ref := ⟨objKey 0x2500 0x05, 32⟩
def Obj.CAL_GAIN_TOL : Ref := ⟨objKey 0x2500 0x06, 10⟩
def Obj.CAL_RETRIES : Ref := ⟨objKey 0x2500 0x07, 3⟩
def Obj.CAL_INL_MAX : Ref := ⟨objKey 0x2500 0x08, 48⟩
def Obj.CAL_INL_TOL : Ref := ⟨objKey 0x2500 0x09, 16⟩
def Obj.CAL_MON_MIN : Ref := ⟨objKey 0x2500 0x0A, 256⟩
def Obj.UNRECORDED_HANDOVER : Ref := ⟨objKey 0x2500 0x0B, 0⟩
def Obj.CAL_MAX_AGE : Ref := ⟨objKey 0x2500 0x0C, 0⟩
def Obj.LEAVEN_MAX_GROUPS : Ref := ⟨objKey 0x2500 0x0E, 8⟩
def Obj.PW_ENABLE : Ref := ⟨objKey 0x2500 0x12, 1⟩
def Obj.PW_MIN_FRACTION : Ref := ⟨objKey 0x2500 0x13, 20⟩
def Obj.PW_TOL : Ref := ⟨objKey 0x2500 0x14, 10⟩
def Obj.PW_STEP_MAX : Ref := ⟨objKey 0x2500 0x15, 50⟩
def Obj.CAL_DEFER_MAX : Ref := ⟨objKey 0x2500 0x1B, 60⟩
def Obj.CMP_ENABLE : Ref := ⟨objKey 0x2600 0x01, 0⟩
def Obj.CMP_Y_RATIO : Ref := ⟨objKey 0x2600 0x02, 1⟩
def Obj.CMP_IMAGE_SEND : Ref := ⟨objKey 0x2600 0x03, 1⟩
def Obj.CMP_NEIGHBOUR : Ref := ⟨objKey 0x2600 0x04, 1⟩
def Obj.CMP_WEIGHT_RED : Ref := ⟨objKey 0x2600 0x05, 77⟩
def Obj.CMP_WEIGHT_GREEN : Ref := ⟨objKey 0x2600 0x06, 150⟩
def Obj.CMP_WEIGHT_BLUE : Ref := ⟨objKey 0x2600 0x07, 29⟩
def Obj.CMP_SETTLING_MODE : Ref := ⟨objKey 0x2600 0x08, 0⟩
def Obj.ALIGN_MIN_PIXELS : Ref := ⟨objKey 0x2600 0x09, 4096⟩
def Obj.ALIGN_CONTRAST : Ref := ⟨objKey 0x2600 0x0A, 80⟩
def Obj.PREFETCH_BANDS : Ref := ⟨objKey 0x2600 0x0B, 4⟩
def Obj.PREFETCH_SLACK : Ref := ⟨objKey 0x2600 0x0C, 4⟩
def Obj.CMP_QUEUE_BANDS : Ref := ⟨objKey 0x2600 0x0D, 64⟩
def Obj.DEFAULT_REF : Ref := ⟨objKey 0x2600 0x0E, 0xFFFF⟩
def Obj.CROP_ENABLE : Ref := ⟨objKey 0x2600 0x0F, 1⟩
def Obj.CROP_MARGIN : Ref := ⟨objKey 0x2600 0x10, 16⟩
def Obj.CROP_MAX_BYTES : Ref := ⟨objKey 0x2600 0x11, 16777216⟩
def Obj.BLOB_MAX_BANDS : Ref := ⟨objKey 0x2600 0x12, 256⟩
def Obj.DEFECT_MAX_PAGE : Ref := ⟨objKey 0x2600 0x13, 1024⟩
def Obj.CLASS_LIMIT (k : Nat) : Ref := ⟨objKey (0x2608 + k) 1, keyDefault (objKey (0x2608 + k) 1)⟩
def Obj.CLASS_MIN_PIXELS (k : Nat) : Ref := ⟨objKey (0x2608 + k) 2, keyDefault (objKey (0x2608 + k) 2)⟩
def Obj.DRAM_CH0_CAPACITY : Ref := ⟨objKey 0x2700 0x01, 64⟩
def Obj.DRAM_CH1_CAPACITY : Ref := ⟨objKey 0x2700 0x02, 64⟩
def Obj.DRAM_RATE : Ref := ⟨objKey 0x2700 0x03, 4800⟩
def Obj.DRAM_RANKS : Ref := ⟨objKey 0x2700 0x04, 1⟩
def Obj.SCRUB_PERIOD : Ref := ⟨objKey 0x2700 0x08, 24⟩
def Obj.REGION_SIZE (i : Nat) : Ref := ⟨objKey (0x2710 + i) 1, keyDefault (objKey (0x2710 + i) 1)⟩
def Obj.DMA_CH_START (i : Nat) : Ref := ⟨objKey (0x2740 + i) 0x01, 0⟩
def Obj.LANE_ENABLE : Ref := ⟨objKey 0x2800 0x01, 0xFFFF⟩
def Obj.LANE_FEC : Ref := ⟨objKey 0x2800 0x02, 0x0000⟩
def Obj.LANE_MTU : Ref := ⟨objKey 0x2800 0x03, 9000⟩
def Obj.DEVICE_MAC : Ref := ⟨objKey 0x2800 0x04, 18446744073709551616⟩
def Obj.DEVICE_IP : Ref := ⟨objKey 0x2800 0x05, 0xC0A80A10⟩
def Obj.DEVICE_PORT : Ref := ⟨objKey 0x2800 0x06, 47100⟩
def Obj.STREAM_ID : Ref := ⟨objKey 0x2800 0x07, 0⟩
def Obj.PAUSE_HONOUR : Ref := ⟨objKey 0x2800 0x08, 0xFFFF⟩
def Obj.SESSION_TIMEOUT : Ref := ⟨objKey 0x2800 0x09, 1000⟩
def Obj.STATUS_PERIOD : Ref := ⟨objKey 0x2800 0x0A, 10⟩
def Obj.SPILL_MARGIN : Ref := ⟨objKey 0x2801 0x01, 64⟩
def Obj.SPILL_BLOCK_LINES : Ref := ⟨objKey 0x2801 0x02, 4096⟩
def Obj.WEIR_LOW : Ref := ⟨objKey 0x2801 0x08, 25⟩
def Obj.WEIR_HIGH : Ref := ⟨objKey 0x2801 0x09, 75⟩
def Obj.WEIR_RESUME : Ref := ⟨objKey 0x2801 0x0A, 40⟩
def Obj.WEIR_MIN_SPEED : Ref := ⟨objKey 0x2801 0x0B, 20⟩
def Obj.RESTART_BACKUP_LINES : Ref := ⟨objKey 0x2802 0x01, 400⟩
def Obj.RESTART_SEARCH : Ref := ⟨objKey 0x2802 0x02, 8⟩
def Obj.RESTART_MATCH_MAX : Ref := ⟨objKey 0x2802 0x03, 50⟩
def Obj.RESTART_MIN_CONTRAST : Ref := ⟨objKey 0x2802 0x04, 32⟩
def Obj.RESTART_RETRIES : Ref := ⟨objKey 0x2802 0x05, 2⟩
def Obj.TRANSPORT_AXES : Ref := ⟨objKey 0x2900 0x03, 0x00⟩
def Obj.TRANSPORT_SPEED_NOM : Ref := ⟨objKey 0x2900 0x04, 1000000⟩
def Obj.TRANSPORT_ACCEL : Ref := ⟨objKey 0x2900 0x05, 5000⟩
def Obj.TRANSPORT_RAMP_SHAPE : Ref := ⟨objKey 0x2900 0x06, 0⟩
def Obj.TRANSPORT_EMERGENCY_DECEL : Ref := ⟨objKey 0x2900 0x07, 20000⟩
def Obj.TRANSPORT_EMERGENCY_JERK : Ref := ⟨objKey 0x2900 0x08, 2000⟩
def Obj.TRANSPORT_TAKEUP_SPEED : Ref := ⟨objKey 0x2900 0x09, 10000⟩
def Obj.MSTOP_ENABLE : Ref := ⟨objKey 0x2900 0x0C, 1⟩
def Obj.MSTOP_LEVEL : Ref := ⟨objKey 0x2900 0x0D, 0⟩
def Obj.MOTION_INPUT_FILTER : Ref := ⟨objKey 0x2900 0x0E, 20⟩
def Obj.SEG_HOST_FLAGS : Ref := ⟨objKey 0x2900 0x0F, 0x00⟩
def Obj.AXIS_ENABLE (i : Nat) : Ref := ⟨objKey (0x2A00 + 16 * i) 0x01, 0⟩
def Obj.AXIS_TARGET (i : Nat) : Ref := ⟨objKey (0x2A00 + 16 * i) 0x03, 0⟩
def Obj.AXIS_POSITION (i : Nat) : Ref := ⟨objKey (0x2A00 + 16 * i) 0x04, 0⟩
def Obj.MOVE_SPEED (i : Nat) : Ref := ⟨objKey (0x2A00 + 16 * i) 0x09, 100000⟩
def Obj.MOVE_ACCEL (i : Nat) : Ref := ⟨objKey (0x2A00 + 16 * i) 0x0A, 1000000⟩
def Obj.RAMP_SHAPE (i : Nat) : Ref := ⟨objKey (0x2A00 + 16 * i) 0x0B, 0⟩
def Obj.RAMP_BLEND (i : Nat) : Ref := ⟨objKey (0x2A00 + 16 * i) 0x0C, 2000⟩
def Obj.EMERGENCY_DECEL (i : Nat) : Ref := ⟨objKey (0x2A00 + 16 * i) 0x0D, 20000000⟩
def Obj.EMERGENCY_JERK (i : Nat) : Ref := ⟨objKey (0x2A00 + 16 * i) 0x0E, 20000000⟩
def Obj.JOG_VELOCITY (i : Nat) : Ref := ⟨objKey (0x2A00 + 16 * i) 0x0F, 0⟩
def Obj.RUN_CURRENT_BASE (i : Nat) : Ref := ⟨objKey (0x2A00 + 16 * i) 0x10, 500⟩
def Obj.RUN_CURRENT_MAX (i : Nat) : Ref := ⟨objKey (0x2A00 + 16 * i) 0x11, 1000⟩
def Obj.HOLD_CURRENT (i : Nat) : Ref := ⟨objKey (0x2A00 + 16 * i) 0x12, 250⟩
def Obj.HOLD_DELAY (i : Nat) : Ref := ⟨objKey (0x2A00 + 16 * i) 0x13, 100⟩
def Obj.STANDSTILL_OFF (i : Nat) : Ref := ⟨objKey (0x2A00 + 16 * i) 0x14, 0⟩
def Obj.RETAIN_MODE (i : Nat) : Ref := ⟨objKey (0x2A00 + 16 * i) 0x15, 0⟩
def Obj.PARK_FADE (i : Nat) : Ref := ⟨objKey (0x2A00 + 16 * i) 0x16, 50⟩
def Obj.SENSE_RESISTANCE (i : Nat) : Ref := ⟨objKey (0x2A00 + 16 * i) 0x17, 50⟩
def Obj.COIL_RESISTANCE (i : Nat) : Ref := ⟨objKey (0x2A00 + 16 * i) 0x18, 1000⟩
def Obj.COIL_INDUCTANCE (i : Nat) : Ref := ⟨objKey (0x2A00 + 16 * i) 0x19, 2000⟩
def Obj.CHOP_OFF_TIME (i : Nat) : Ref := ⟨objKey (0x2A00 + 16 * i) 0x1A, 100⟩
def Obj.CHOP_BLANK (i : Nat) : Ref := ⟨objKey (0x2A00 + 16 * i) 0x1B, 1000⟩
def Obj.CHOP_FAST_FRACTION (i : Nat) : Ref := ⟨objKey (0x2A00 + 16 * i) 0x1C, 25⟩
def Obj.DEAD_TIME (i : Nat) : Ref := ⟨objKey (0x2A00 + 16 * i) 0x1D, 200⟩
def Obj.VDS_LIMIT (i : Nat) : Ref := ⟨objKey (0x2A00 + 16 * i) 0x1E, 500⟩
def Obj.LOAD_ANGLE_LOW (i : Nat) : Ref := ⟨objKey (0x2A00 + 16 * i) 0x1F, 300⟩
def Obj.LOAD_ANGLE_HIGH (i : Nat) : Ref := ⟨objKey (0x2A00 + 16 * i) 0x20, 600⟩
def Obj.STALL_ANGLE (i : Nat) : Ref := ⟨objKey (0x2A00 + 16 * i) 0x21, 800⟩
def Obj.STALL_TIME (i : Nat) : Ref := ⟨objKey (0x2A00 + 16 * i) 0x22, 5⟩
def Obj.STALL_ACTION (i : Nat) : Ref := ⟨objKey (0x2A00 + 16 * i) 0x23, 1⟩
def Obj.LOAD_MIN_SPEED (i : Nat) : Ref := ⟨objKey (0x2A00 + 16 * i) 0x24, 20000⟩
def Obj.CURRENT_RISE (i : Nat) : Ref := ⟨objKey (0x2A00 + 16 * i) 0x25, 100⟩
def Obj.CURRENT_FALL (i : Nat) : Ref := ⟨objKey (0x2A00 + 16 * i) 0x26, 20⟩
def Obj.STEP_SOURCE (i : Nat) : Ref := ⟨objKey (0x2A00 + 16 * i) 0x29, 0⟩
def Obj.EXT_STEP_SIZE (i : Nat) : Ref := ⟨objKey (0x2A00 + 16 * i) 0x2A, 16⟩
def Obj.EXT_TIMEOUT (i : Nat) : Ref := ⟨objKey (0x2A00 + 16 * i) 0x2B, 10000⟩
def Obj.PATH_SCALE (i : Nat) : Ref := ⟨objKey (0x2A00 + 16 * i) 0x2C, 0⟩
def Obj.BACKLASH (i : Nat) : Ref := ⟨objKey (0x2A00 + 16 * i) 0x2D, 0⟩
def Obj.HOME_VELOCITY (i : Nat) : Ref := ⟨objKey (0x2A00 + 16 * i) 0x2E, 20000⟩
def Obj.HOME_POSITION (i : Nat) : Ref := ⟨objKey (0x2A00 + 16 * i) 0x2F, 0⟩
def Obj.HOME_TIMEOUT (i : Nat) : Ref := ⟨objKey (0x2A00 + 16 * i) 0x30, 10000⟩
def Obj.TW_SENSOR_PERIOD : Ref := ⟨objKey 0x2C00 0x03, 1000⟩
def Obj.TW_SENSOR_MASK : Ref := ⟨objKey 0x2C00 0x04, 0x0000⟩
def Obj.TW_ENABLE (i : Nat) : Ref := ⟨objKey (0x2C10 + i) 0x01, 1⟩
def Obj.TW_SCL_LOW (i : Nat) : Ref := ⟨objKey (0x2C10 + i) 0x02, 160⟩
def Obj.TW_SCL_HIGH (i : Nat) : Ref := ⟨objKey (0x2C10 + i) 0x03, 80⟩
def Obj.TW_HD_DAT (i : Nat) : Ref := ⟨objKey (0x2C10 + i) 0x04, 30⟩
def Obj.TW_SU_STA (i : Nat) : Ref := ⟨objKey (0x2C10 + i) 0x05, 70⟩
def Obj.TW_HD_STA (i : Nat) : Ref := ⟨objKey (0x2C10 + i) 0x06, 70⟩
def Obj.TW_SU_STO (i : Nat) : Ref := ⟨objKey (0x2C10 + i) 0x07, 70⟩
def Obj.TW_BUF (i : Nat) : Ref := ⟨objKey (0x2C10 + i) 0x08, 150⟩
def Obj.TW_STRETCH_TIMEOUT (i : Nat) : Ref := ⟨objKey (0x2C10 + i) 0x09, 10⟩
def Obj.TW_OWN_ADDRESS (i : Nat) : Ref := ⟨objKey (0x2C10 + i) 0x0A, 0x70⟩
def Obj.TW_TARGET_ENABLE (i : Nat) : Ref := ⟨objKey (0x2C10 + i) 0x0B, 0⟩
def Obj.MBOX_TIMEOUT (i : Nat) : Ref := ⟨objKey (0x2D10 + i) 0x01, 1000⟩
def Obj.BUCK_FREQ : Ref := ⟨objKey 0x2E30 0x01, 1000⟩
def Obj.TJ_LIMIT : Ref := ⟨objKey 0x2E31 0x03, 11000⟩
def Obj.GOV_ENABLE : Ref := ⟨objKey 0x2E40 0x01, 1⟩
def Obj.POWER_CAP : Ref := ⟨objKey 0x2E40 0x02, 11500⟩
def Obj.TJ_TARGET : Ref := ⟨objKey 0x2E40 0x03, 9500⟩
def Obj.POWER_HYST : Ref := ⟨objKey 0x2E40 0x04, 300⟩
def Obj.TJ_HYST : Ref := ⟨objKey 0x2E40 0x05, 300⟩
def Obj.GOV_STEP_TIME : Ref := ⟨objKey 0x2E40 0x06, 100⟩
def Obj.GOV_RELEASE_TIME : Ref := ⟨objKey 0x2E40 0x07, 1000⟩
def Obj.GOV_SPEED_STEP : Ref := ⟨objKey 0x2E40 0x08, 5⟩
def Obj.GOV_SPEED_FLOOR : Ref := ⟨objKey 0x2E40 0x09, 50⟩
def Obj.GOV_ALLOW_HALF_RES : Ref := ⟨objKey 0x2E40 0x0D, 1⟩
def Obj.TILE_AUTO_APPLY : Ref := ⟨objKey 0x2E51 0x03, 0⟩
def Obj.EVENT_NOTICE_ENABLE : Ref := ⟨objKey 0x2E60 0x05, 0⟩
def Obj.FLASH_PATROL_PERIOD : Ref := ⟨objKey 0x2E61 0x05, 24⟩
def Obj.TELEM_PERIOD : Ref := ⟨objKey 0x2E62 0x01, 1000⟩
def Obj.UPDATE_LOCK_SVN : Ref := ⟨objKey 0x2E70 0x06, 0⟩
def Obj.EMCY_ENABLE : Ref := ⟨objKey 0x2F00 0x0A, 1⟩
def Obj.PORT_ENABLE (i : Nat) : Ref := ⟨objKey (0x3000 + i) 0x01, 1⟩
def Obj.PIXEL_COUNT (i : Nat) : Ref := ⟨objKey (0x3000 + i) 0x02, 832⟩
def Obj.REF_LEAD (i : Nat) : Ref := ⟨objKey (0x3000 + i) 0x03, 7⟩
def Obj.REF_TRAIL (i : Nat) : Ref := ⟨objKey (0x3000 + i) 0x04, 9⟩
def Obj.LAMP_MON_INDEX (i : Nat) : Ref := ⟨objKey (0x3000 + i) 0x05, 6⟩
def Obj.FS_RANGE (i : Nat) : Ref := ⟨objKey (0x3000 + i) 0x06, 2⟩
def Obj.SAMPLE_MODE (i : Nat) : Ref := ⟨objKey (0x3000 + i) 0x07, 0⟩
def Obj.TRACK_TC (i : Nat) : Ref := ⟨objKey (0x3000 + i) 0x08, 4⟩
def Obj.SAMPLE_PHASE (i : Nat) : Ref := ⟨objKey (0x3000 + i) 0x09, 32⟩
def Obj.RESET_FRACTION (i : Nat) : Ref := ⟨objKey (0x3000 + i) 0x0A, 25⟩
def Obj.TONE_ENABLE (i : Nat) : Ref := ⟨objKey (0x3000 + i) 0x0B, 1⟩
def Obj.TONE_LIMIT_HIGH (i : Nat) : Ref := ⟨objKey (0x3000 + i) 0x0C, 200⟩
def Obj.TONE_REF (i : Nat) : Ref := ⟨objKey (0x3000 + i) 0x0D, 0⟩
def Obj.TONE_LIMIT_LOW (i : Nat) : Ref := ⟨objKey (0x3000 + i) 0x0E, 50⟩
def Obj.HOST_ASSIGN (i : Nat) : Ref := ⟨objKey (0x3100 + i) 0x03, 0xFF⟩
def Obj.GROUP_VBIAS (i : Nat) : Ref := ⟨objKey (0x3100 + i) 0x04, 1650⟩
def Obj.GROUP_VRST (i : Nat) : Ref := ⟨objKey (0x3100 + i) 0x05, 1000⟩
def Obj.GROUP_SLEW (i : Nat) : Ref := ⟨objKey (0x3100 + i) 0x06, 1000⟩
def Obj.GROUP_SETTLE_LINES (i : Nat) : Ref := ⟨objKey (0x3100 + i) 0x07, 64⟩
def Obj.GROUP_PIXEL_CLOCK (i : Nat) : Ref := ⟨objKey (0x3100 + i) 0x0A, 150000⟩

/-- The entry of the RxPDO mapping at a subindex, and of the TxPDO mapping (R336, Table 12.6). -/
def Obj.RXPDO_MAP (sub : Nat) : Ref := ⟨objKey 0x1600 sub, keyDefault (objKey 0x1600 sub)⟩
def Obj.TXPDO_MAP (sub : Nat) : Ref := ⟨objKey 0x1A00 sub, keyDefault (objKey 0x1A00 sub)⟩
def Obj.SM2_ASSIGN (sub : Nat) : Ref := ⟨objKey 0x1C12 sub, keyDefault (objKey 0x1C12 sub)⟩
def Obj.SM3_ASSIGN (sub : Nat) : Ref := ⟨objKey 0x1C13 sub, keyDefault (objKey 0x1C13 sub)⟩

end Sys2Proof.Machine
end

