-- ==== Sys2Proof/Machine/State.lean ====
section
/-! DEFINITION. Everything the manual gives the device to hold, as plain data, and the device after reset. Each block of
the device has a structure of its own; `State` joins them with the queue of waiting commands. -/
namespace Sys2Proof.Machine

/-- Why the device stops. Every constructor is a misuse of Table 18.6 (R446), whose result the manual leaves undefined
and for which it gives no effect: safe, the model stops where the part would go on in an unknown way. -/
inductive Fault where
  /-- Raised by a dictionary write that puts a 1 in a reserved bit of an object (R9). Safe. -/
  | reservedBits
  /-- Raised by a download into the store of a running program or segment list (R20, R294). Safe. -/
  | runningStore
  deriving DecidableEq, Repr

/-- Why a command has no meaning. -/
inductive Refusal where
  /-- Raised by the dispatch for a command whose meaning is not written. Safe: nothing is claimed of it. -/
  | notModelled (mnemonic : String)
  deriving DecidableEq, Repr

/-! ## 01 Architecture: device modes -/

/-- The device modes (Table 0.3, Table 1.8). -/
inductive Mode where
  | off | standby | ready | inline | sheet | fault
  deriving DecidableEq, Repr

/-- The code of a mode in MODE_STATE (Table 1.8). -/
def Mode.code : Mode → Nat
  | .off => 0x00 | .standby => 0x01 | .ready => 0x02 | .inline => 0x03 | .sheet => 0x04 | .fault => 0x05

/-- A running transition (R25): the mode it leads to; whether READY to STANDBY follows at once (R31); whether it ends
with MODE_STATUS ABANDONED (R31). -/
structure Transition where
  target : Mode
  thenStandby : Bool
  abandoned : Bool
  deriving DecidableEq, Repr

/-- Table 1.7. -/
structure Modes where
  mode : Mode
  request : Nat
  status : Nat
  changeTime : Nat
  refusal : Nat
  trans : Option Transition
  deriving DecidableEq, Repr

/-! ## 12 The object dictionary -/

/-- The response to a dictionary access: the path, the abort code (0 none) and the data read. -/
structure Reply where
  path : Path
  abort : Nat
  data : List Byte
  deriving DecidableEq, Repr

/-- Values by key in ascending order of the key, without an entry that equals the default. -/
abbrev Sparse := List (Nat × Nat)

/-- Byte strings by key, in ascending order of the key. -/
abbrev SparseBytes := List (Nat × List Byte)

/-- The values of the objects (R23, R327). `held` is what a read returns, the value last accepted; the others are the
values in force of the objects whose effect point is later: the entry to READY (RWP), the session open (0x2800), the
reset (R215, R320, R356) and the entry to INLINE or SHEET (R156). -/
structure Dict where
  held : Sparse
  atReady : Sparse
  atSession : Sparse
  atReset : Sparse
  atRun : Sparse
  /-- Contents of byte strings that differ from their default. -/
  bulk : SparseBytes
  bulkAtReady : SparseBytes
  /-- The answer of the access served last. -/
  reply : Option Reply
  deriving DecidableEq, Repr

/-- An SDO transfer in progress (R329): a segmented download into an object, or a segmented upload from one. -/
inductive SdoTransfer where
  | down (index sub size : Nat) (data : List Byte) (toggle : Bool)
  | up (index sub : Nat) (data : List Byte) (offset : Nat) (toggle : Bool)
  deriving DecidableEq, Repr

/-- What the SM1 mailbox carries (Table 12.1). -/
inductive MailIn where
  /-- An emergency message (R444): error code, error register, event code, source, class. -/
  | emergency (code register event source cls : Nat)
  | downloaded (index sub : Nat)
  | uploaded (index sub : Nat) (size : Nat) (data : List Byte) (complete : Bool)
  | segmentAck (toggle : Bool)
  | segment (toggle last : Bool) (data : List Byte)
  | abort (index sub code : Nat)
  /-- An entry of the SDO information service (R331): type code, access, bits, maximum length, name. -/
  | info (index sub typeCode : Nat) (acc : Access) (length : Nat) (name : String)
  deriving DecidableEq, Repr

/-- The SII image (R320): the identity of 0x1018, the start and length of each SyncManager that Table 12.1 uses, and the
station alias. -/
structure Sii where
  vendor : Nat
  product : Nat
  revision : Nat
  serial : Nat
  sms : List SyncManager
  stationAlias : Nat
  deriving DecidableEq, Repr

/-- The EtherCAT slave (R318 to R336). -/
structure Ecat where
  /-- AL state, coded as Table 12.2. -/
  al : Nat
  alCode : Nat
  /-- The error indication of the AL status (R322). -/
  alError : Bool
  timeStep : Int
  opLost : Nat
  /-- The SYNC0 cycle in ns that the master programs, at the change to Safe-Op, if SYNC0 is active (R75, R322). -/
  sync0 : Option Nat
  /-- CYCLE_TIME, and the local count of the SM2 update or SYNC0 event it is measured from. -/
  cycleTime : Nat
  lastSync : Option Nat
  /-- SM2 has been written since Safe-Op was entered (R322). -/
  sm2Written : Bool
  /-- The value of every RxPDO entry at the last SM2 update applied (R333); none before the first since Op. -/
  lastOutputs : Option (List Nat)
  /-- The mappings that took effect at the last change to Safe-Op (R336). -/
  rxMap : List Nat
  txMap : List Nat
  /-- The TxPDO of the last sample (R334). -/
  inputs : List Byte
  /-- The SyncManagers and FMMUs, as the master has programmed them (Table 12.1). -/
  sms : List SyncManager
  fmmus : List Fmmu
  /-- The SII image built at the last reset (R320). -/
  sii : Option Sii
  sdo : Option SdoTransfer
  /-- The message in the SM1 mailbox, and the responses that wait for it. -/
  sm1 : Option MailIn
  responses : List MailIn
  deriving DecidableEq, Repr

/-- A configuration set, field by field as Table 12.8 lays it out (R340): each entry is the key of an object and its value
bytes. -/
structure ConfigSet where
  marker : Nat
  version : Nat
  length : Nat
  count : Nat
  time : Nat
  firmware : Nat
  label : List Byte
  /-- The state word. -/
  word : Nat
  entries : List (Nat × List Byte)
  /-- The check word. -/
  check : Nat
  deriving DecidableEq, Repr

/-- What one of the four flash slots holds (R340). -/
inductive ConfigSlot where
  | empty
  | set (c : ConfigSet)
  deriving DecidableEq, Repr

/-- Table 12.12. -/
structure ConfigSets where
  active : Nat
  source : Nat
  /-- CONFIG_MODIFIED stays set whatever the values are: after a defaults load (R344), or where a write was accepted while
  the commit of the set in force ran (R341). -/
  modified : Bool
  /-- The copy that a running commit writes, with the slot it writes to. -/
  commit : Option (ConfigSet × Nat)
  /-- A write of an object that sets hold has been accepted since the copy of the running commit (R341). -/
  wrote : Bool
  /-- A running revert: the version of the set in force that it revokes (R343). -/
  revert : Option Nat
  /-- Sticky bits [5:2] of CONFIG_STATUS. -/
  sticky : Nat
  rejected : Nat
  commitResult : Nat
  commitVersion : Nat
  revertResult : Nat
  deriving DecidableEq, Repr

/-! ## 18 Errors and the event log -/

/-- A log entry (Table 16.6). -/
structure LogEntry where
  time : Nat
  sequence : Nat
  code : Nat
  cls : Nat
  flags : Nat
  source : Nat
  detail : List Byte
  deriving DecidableEq, Repr

/-- An event as its rule logs it: the code, the source (0xFFFF none) and the detail. -/
structure Event where
  code : Nat
  source : Nat
  detail : List Byte
  deriving DecidableEq, Repr

/-- The event log in SRAM, the first-error record (R439) and the emergency queue (R444). -/
structure Events where
  nextSeq : Nat
  /-- Entries waiting to be stored, oldest first (R407). -/
  waiting : List LogEntry
  notStored : Nat
  logged : Nat
  first : Option LogEntry
  firstFatal : Option LogEntry
  overflow : Nat
  classMap : Nat
  previous : Option LogEntry
  /-- Sequence numbers of the entries that have filled the first-error record and are not stored yet (R442). -/
  fillers : List Nat
  /-- Emergency messages waiting for the mailbox, oldest first (R444). -/
  emergencies : List MailIn
  emcyLost : Nat
  /-- Events of the command that runs, which are logged in the order of R438 at its end; none while events are logged as they
  occur. -/
  held : Option (List Event)
  deriving DecidableEq, Repr

/-! ## 14 Power, clocks and the governor -/

/-- The governor step that has not yet taken effect (R372). -/
inductive GovStep where
  | background
  | resolution
  | speed
  deriving DecidableEq, Repr

/-- The governor (R371 to R373). -/
structure Governor where
  level : Nat
  /-- GOVERNOR_SPEED_CAP. -/
  cap : Nat
  above : Bool
  holding : Bool
  atLimit : Bool
  pendingStep : Option GovStep
  /-- Local count at which the last step took effect; none before the first step. -/
  effectAt : Option Nat
  /-- Local count since which the device has been clear; none while it is not. -/
  clearSince : Option Nat
  sticky : Nat
  /-- Time at level 1 or above, in ns, up to `deferredFrom` (GOV_TIME_DEFERRED). -/
  deferred : Nat
  deferredFrom : Option Nat
  deriving DecidableEq, Repr

/-- Rails, monitors, domains and PLLs (R354 to R370). -/
structure Power where
  /-- Readings of VM00 to VM19, in mV. -/
  volts : List Nat
  /-- Readings of TM00 to TM23, in 0.01 °C. -/
  temps : List Int
  /-- Readings of the 12 process monitors, in 0.1 MHz. -/
  procs : List Nat
  devicePower : Nat
  gradientMax : Nat
  /-- Neighbour pairs in an excursion above 20 °C (R368), as positions in the list of pairs. -/
  gradientWarn : List Nat
  vinHigh : Bool
  railSticky : Nat
  monSticky : Nat
  /-- Process monitors that have logged PROCESS_SLOW in this power cycle (R370). -/
  slowLogged : List Nat
  /-- FATAL conditions that hold and have been raised, as 65536 × code + source; a condition leaves the list when it
  clears, and all leave it at an acknowledgement (R441). -/
  raised : List Nat
  /-- Bit d: PDd is on. -/
  domains : BitVec 20
  /-- Bit d: PDd is powering up. -/
  powering : BitVec 20
  /-- Bit k: AVDDk is out of service (R359). -/
  afeOut : BitVec 8
  /-- Bit k: AVDDk has been in its window for 10 ms and the group returns at the next line start (R359). -/
  afeReturning : BitVec 8
  refclkLost : Bool
  /-- Bit n: PLLn is locked. -/
  pllLocked : BitVec 7
  /-- For PLL5 and PLL6 while unlocked: the local count of the unlock, and the lanes whose block lock went with it (R365). -/
  laneLoss : List (Option (Nat × List Nat))
  gov : Governor
  deriving DecidableEq, Repr

/-! ## 15 Reset, boot and discovery -/

/-- Where the device stands on its way out of OFF (R376 to R384). -/
inductive BootPhase where
  /-- VIN not applied, or below its lockout. -/
  | unpowered
  /-- RESET_N is held low. -/
  | pinHeld
  /-- OFF until the cause of a RAIL or THERMAL reset clears. -/
  | waitRestart
  /-- Three RAIL resets within 10 s: no further restart; IND0 blinks at 4 Hz (R376). -/
  | lockedOut
  /-- The rail sequence: this step of Table 15.2 is in progress. -/
  | rails (step : Nat)
  /-- PD01 is on and the Starter runs. -/
  | starter
  /-- No image passes R380: IND0 blinks at 1 Hz (R382). -/
  | noImage
  /-- The MP runs its boot actions (R384): the order of Table 15.3 that is reached. -/
  | booting (order : Nat)
  /-- STANDBY has been reached. -/
  | running
  deriving DecidableEq, Repr

/-- Reset, boot and tile discovery (Tables 15.1 to 15.6). -/
structure Boot where
  phase : BootPhase
  cause : Nat
  detail : Nat
  count : Nat
  /-- Local counts of the RAIL resets of the last 10 s. -/
  railResets : List Nat
  slot : Nat
  imageVersion : Nat
  trial : Bool
  status : Nat
  bootTime : Nat
  /-- Local count at step 1 of Table 15.2. -/
  startedAt : Nat
  /-- Straps sampled as the rails start (R454, R456). -/
  xtalSel : Bool
  testMode : Bool
  /-- Result of training of each channel, kept in PD00 (R215); none while it runs. -/
  trained : Option (Bool × Bool)
  /-- PLLs that have lost lock since the Starter began (14 R365): their events are logged as soon as the MP logs, and one of PLL0 to
  PLL4 is FATAL at STANDBY. -/
  unlocked : List Nat
  discovery : Nat
  /-- IMAGE_SECTION_BAD has been raised since the reset (R383, R445). -/
  sectionBad : Bool
  /-- A discovery is running since boot: its writes are always permitted (R387). -/
  discoveryAtBoot : Bool
  present : BitVec 96
  bad : BitVec 96
  mismatch : BitVec 96
  /-- The identity records of present tiles, by port. -/
  identity : SparseBytes
  deriving DecidableEq, Repr

/-! ## 16 Management -/

/-- A 64-byte mailbox message. -/
abbrev Message := List Byte

/-- One mailbox direction (Table 16.1). -/
structure MailDir where
  /-- The message in the send register. -/
  sending : Option Message
  /-- Messages in the receive slots, oldest first. -/
  ring : List Message
  delivered : Nat
  timeouts : Nat
  highWater : Nat
  wakes : Nat
  /-- Sends of the MP that wait for the send register, oldest first. -/
  queued : List Message
  deriving DecidableEq, Repr

/-- Who awaits the outcome of an HM_SEND: a write over a path, an SDO download, or a TSP WRITE with its frame. -/
inductive Waiting where
  | write (via : Path)
  | sdo
  | tsp (f : Frame)
  deriving DecidableEq, Repr

/-- The mailboxes (R393 to R400). -/
structure Mailbox where
  dirs : List MailDir
  sticky : Nat
  lost : Nat
  unknown : Nat
  /-- Sequence number of the next message on direction 1. -/
  nextSeq : Nat
  /-- An HM_SEND whose outcome is awaited (R398). -/
  hostWaits : Option Waiting
  deriving DecidableEq, Repr

/-- A boot-control record (Table 16.10). -/
structure BootRecord where
  sequence : Nat
  slot : Nat
  trial : Bool
  count : Nat
  /-- Its check word is wrong (R411). -/
  bad : Bool
  deriving DecidableEq, Repr

/-- One block of the event log in flash (R402): its block number and entries, with the places of entries whose check
word is wrong, and whether the header's is. -/
structure LogBlock where
  block : Nat
  entries : List LogEntry
  badAt : List Nat
  headerBad : Bool
  deriving DecidableEq, Repr

/-! ## 02 Tile ports and groups -/

/-- A slot's colour (Table 3.1). -/
inductive Colour where
  | red | green | blue | dark
  deriving DecidableEq, Repr

/-- A line as marks name it: its place in the order of lines started, and its y if it has one (R4, R55). -/
structure LineId where
  serial : Nat
  y : Option Nat
  deriving DecidableEq, Repr

/-- One tile port (R49 to R57). -/
structure Port where
  toneLast : Nat
  toneSkipped : Nat
  faultCount : Nat
  faultFirstY : Nat
  unmarked : Nat
  latched : Bool
  /-- Bits [4:2] of PORT_STATUS. -/
  cause : Nat
  /-- A clearing in progress: consecutive passing windows, or silent lines, so far (R56). -/
  clearing : Option Nat
  /-- Learning of TONE_REF: complete windows so far and the sum of their amplitudes (R51). -/
  learning : Option (Nat × Frac)
  /-- The window open at the start of the learning began before it and is not counted (R51). -/
  learnSkip : Bool
  /-- The first line with a slot of this port read after its last passing window or reference point (R53). -/
  suspect : Option LineId
  /-- Lines with a slot of this port, read since then, that have left the hold without its mark (R54). -/
  released : Nat
  /-- Every slot of the present line read so far has its masked mean at a rail (R44). -/
  satLine : Bool
  /-- The line before the present one was at a rail in every slot. -/
  satBefore : Option LineId
  /-- The tracked reset level L, on the code scale, before the pedestal (R43); none until the first M. -/
  level : Option Frac
  /-- The sampling instant in force: SAMPLE_PHASE as the last slot boundary found it (R41). -/
  phase : Nat
  deriving DecidableEq, Repr

/-- One shared output, VBIAS or VRST (R58). -/
structure Output where
  /-- Where the present slew began, in mV; the output stands there until `since`. -/
  start : Frac
  target : Nat
  /-- Local count at which the slew began; none while no slew has begun. -/
  since : Option Nat
  /-- The slew rate in mV/ms, as it has been since `since`. -/
  slew : Nat
  /-- A written target that waits for the next line start. -/
  waiting : Option Nat
  deriving DecidableEq, Repr

/-- Who holds a spare (`0x3100+k:01`). -/
inductive SpareState where
  | idle | leaven | host | calibrated
  deriving DecidableEq, Repr

/-- The code of SPARE_STATE. -/
def SpareState.code : SpareState → Nat
  | .idle => 0 | .leaven => 1 | .host => 2 | .calibrated => 3

/-- One group with its spare (R45 to R48, R58 to R60, R64, R65). -/
structure Group where
  spare : SpareState
  port : Option Nat
  /-- The port on the spare goes back at the next slot boundary. -/
  returnDue : Bool
  /-- The return was asked for by a write of 0xFF to HOST_ASSIGN (R47), and waits for nothing of Leaven's. -/
  returnHost : Bool
  /-- A port goes to the spare at the following slot boundary, for the host or for Leaven. -/
  assignDue : Option (Nat × Bool)
  handovers : Nat
  vbias : Output
  vrst : Output
  /-- Lines still to complete in the open settling window (R59); none while none is open. -/
  settle : Option Nat
  /-- The start pulse issued last, in ps (R64), and the window that follows its readout, in ps as placed. -/
  lastPulse : Nat
  lastReadout : Nat
  window : Nat
  /-- A tone window has been placed after the last readout and has not ended; its line (R50, R53). -/
  windowOpen : Option LineId
  deriving DecidableEq, Repr

/-- The front end: ports T00 to T95 and groups G0 to G7. -/
structure FrontEnd where
  ports : List Port
  groups : List Group
  deriving DecidableEq, Repr

/-! ## 03 Line timing -/

/-- A slot placed by the program (R63): its colour, its width in units of 2.5 ns, and the tone window placed after its
readout: group mask and length in units of 2.5 ns (R68). -/
structure PlacedSlot where
  colour : Colour
  width : Nat
  toneMask : Nat
  toneLength : Nat
  /-- The widest sub-pulse of its light in ps (04 R93), and whether it is a diagnostic exposure (04 R104). -/
  widest : Nat
  diag : Bool
  deriving DecidableEq, Repr

/-- What one port delivered in a slot at stage 1 (R17): the chain, range and sampling instant (R41) it was read with, its
words in readout order, and its masked dark pixels and lamp-monitor pixel among them. -/
structure PortTap where
  port : Nat
  chain : Nat
  range : Nat
  phase : Nat
  codes : List Nat
  dark : List Nat
  lamp : Option Nat
  deriving DecidableEq, Repr

/-- A slot of a line as recorded (R67): times in ps of the time base, positions of the position encoder, and the
words of each port after stage A, with the reading of its reference pixels (R17, R46). -/
structure SlotRec where
  colour : Colour
  /-- Its width in units of 2.5 ns. -/
  width : Nat
  startTime : Nat
  endTime : Nat
  startPos : Int
  endPos : Int
  /-- The slot position P(s) in 1/256 count (R139). -/
  centre : Int
  /-- The local count at its centre, in ns (R338). -/
  centreClk : Nat
  /-- EXPOSURE_ACTUAL in ps, LEVEL_ACTUAL and the widest sub-pulse in ps with which it was lit (04 R101, R103). -/
  exposure : Nat
  level : Nat
  widest : Nat
  /-- Active words of each port after stage A, by port. -/
  words : List (Nat × List Nat)
  /-- The stage 1 words and reference pixels, for the taps of Leaven (R17). -/
  taps : List PortTap
  /-- The data were replaced by those of the previous line in a diagnostic line (R87). -/
  replaced : Bool
  /-- Its gates drove light (R97, R98). -/
  lit : Bool
  deriving DecidableEq, Repr

/-- The phase of a reference-strip capture that a line belongs to (R124). -/
inductive RefPhase where
  | black | white
  deriving DecidableEq, Repr

/-- A line from its start to the line hold (R16, R53, R60). -/
structure LineRec where
  id : LineId
  page : Nat
  /-- First line of its page; source 3 page starts and lead-in lines apart (R83, R85). -/
  pageStart : Bool
  /-- The page line (R252), and whether the line lies in the lead-in (R85). -/
  pageLine : Nat
  leadIn : Bool
  gap : Bool
  refPhase : Option RefPhase
  /-- The reference capture attempt phase counts this line among the lines it uses (R124). -/
  counted : Bool
  trigPos : Int
  startTime : Nat
  slots : List SlotRec
  /-- Bit p: Tp is invalid in this line (R53). -/
  invalid : BitVec 96
  settling : Bool
  /-- The colours whose data are replaced in a diagnostic line (R87, R104). -/
  diagnostic : List Colour
  /-- The line is dropped with its page or block: not admitted (R262). -/
  dropped : Bool
  /-- LINEARISATION and DEFECT_LIST as they stood when the line began (R117, R130); none for the defaults. -/
  lin : Option (List Byte)
  hostDefects : Option (List Byte)
  /-- STAGE_A_CHAIN and STAGE_A_DRIFT as they stood when the line began (R115); none for the defaults. -/
  chainSet : Option (List Byte)
  driftSet : Option (List Byte)
  /-- The latest start pulse issued for a slot of the line, in ps (R60, R64). -/
  pulsed : Nat
  /-- Local count at the end of its last slot (R16); none before. -/
  ended : Option Nat
  deriving DecidableEq, Repr

/-- A slot whose integration has ended or will end and whose start pulse is due in a group (R64). -/
structure DuePulse where
  serial : Nat
  slotIndex : Nat
  colour : Colour
  endTime : Nat
  /-- The length of the tone window placed after the readout, in units of 2.5 ns; none where there is none (R68). -/
  tone : Option Nat
  lastOfLine : Bool
  deriving DecidableEq, Repr

/-- One encoder (R76 to R78). -/
structure Encoder where
  position : Int
  indexPosition : Int
  indexTime : Nat
  indexCount : Nat
  errors : Nat
  a : Bool
  b : Bool
  z : Bool
  /-- Local count at the last accepted count. -/
  lastCount : Option Nat
  /-- A write of ENC_POSITION that waits for PD12 (R23, R476). -/
  posWrite : Option Int
  /-- Accepted counts, newest first: local count, time base, sign and position after it; those of the last 11 ms and of
  the slot in progress, and the two before them (ENC_RATE, R139). A write of ENC_POSITION leaves two entries of sign 0, the
  newer one with the position written and the older one with the position before it. -/
  recent : List (Nat × Nat × Int × Int)
  deriving DecidableEq, Repr

/-- The line timing engine (R63 to R87). -/
structure Timing where
  /-- PROGRAM_ACTIVE: the selection in force. -/
  active : Nat
  /-- The words being executed, and the next of them. -/
  words : List Nat
  pc : Nat
  cnt : List Nat
  /-- Lines of the simple sequence since its selection (R71). -/
  simpleLines : Nat
  /-- The engine stands at a LINE (R68). -/
  atLine : Bool
  /-- A trigger is pending: its position (R74). -/
  pending : Option Int
  /-- Page starts passed during a capture in INLINE whose pages have no lines (05 R124). -/
  pagesPassed : Nat
  /-- Local count at each write of the position encoder's ENC_POSITION in the run that no image line has followed yet (06
  R142). -/
  posBreaks : List Nat
  /-- The diagnostic requests that were pending at that trigger (R104). -/
  pendingDiag : List Colour
  /-- Triggers on their way: those of the 40 ns of R74 with their positions, and the later ones of a SYNC0 cycle (R75). -/
  inFlight : List (Option Int)
  /-- A line is in its slots. -/
  lineActive : Bool
  /-- Slots placed and not ended, the present one first; when the present one began, in ps, and its position. -/
  placed : List PlacedSlot
  slotStart : Nat
  slotPos : Int
  /-- Start pulses due, per group (R64). -/
  due : List (List DuePulse)
  /-- Lines started and not released from the hold, oldest first (R16). -/
  lines : List LineRec
  nextSerial : Nat
  /-- y of the next line of the run, and the image lines started in it (R4). -/
  nextY : Nat
  runLines : Nat
  /-- Image capture is armed: lines start and count as lines of the run (Table 1.9, R73). -/
  armed : Bool
  /-- Next trigger point of the encoder divider (R73). -/
  nextPoint : Int
  /-- Highest position reached (R80), and the local count at which it last rose. -/
  highest : Int
  roseAt : Nat
  overruns : Nat
  webHalt : Bool
  webHalts : Nat
  holdLevel : Bool
  ltrigLevel : Bool
  encoders : List Encoder
  /-- Page start positions pending, oldest first (R84). -/
  pagePending : List Int
  pagePrevious : Option Int
  pageNow : Bool
  pageNumber : Nat
  /-- y of the first line of the page; none in the lead-in of R85. -/
  pageFirstY : Option Nat
  pagesIgnored : Nat
  gapLine : Bool
  /-- Colours for which a diagnostic line is awaited, oldest first (R87, R103). -/
  diagPending : List Colour
  diagLines : Nat
  lagMax : Nat
  shortened : Nat
  /-- Sticky bits of TIMING_STATUS (Table 3.6). -/
  sticky : Nat
  /-- Local counts of the lines started in the last 100 ms, newest first (LINE_RATE). -/
  recentLines : List Nat
  deriving DecidableEq, Repr

/-! ## 04 Lamps and indicators -/

/-- The lamp monitor of one tile and colour (R101, R102). -/
structure MonCell where
  /-- Learning of K: slots so far, and the sum of m / (EXPOSURE_ACTUAL × LEVEL_ACTUAL). -/
  learned : Nat
  sum : Frac
  dim : Bool
  /-- Consecutive failing slots, or passing slots while dim. -/
  run : Nat
  deriving DecidableEq, Repr

/-- One lamp colour (R94 to R100). -/
structure Lamp where
  levelActual : Nat
  /-- A running fade: the level it began at, the local count at the write, FADE_TIME in ms. -/
  fade : Option (Nat × Nat × Nat)
  /-- EXPOSURE in ps and SUBPULSES in force for the line last started. -/
  exposure : Nat
  subpulses : Nat
  exposureActual : Nat
  subpulsesActual : Nat
  /-- Widest sub-pulse of the slots that have ended since the last latch, in ps, and between the latch before and it (R93). -/
  widest : Nat
  widestBefore : Nat
  /-- A diagnostic exposure of this colour since the last latch, and between the latch before and it (R105). -/
  diagnosed : Bool
  diagnosedBefore : Bool
  /-- Served by a diagnostic line since the last page began: no new request before the first line of the next page
  (R103). -/
  served : Bool
  deriving DecidableEq, Repr

/-- Lamp control (R88 to R105). -/
structure Lamps where
  colours : List Lamp
  /-- Words in the chips since the last latch: 64 chips of 16 channels. -/
  latched : List (List Nat)
  /-- The frames shifted out for the last latch: per chain, in the order sent (R90). -/
  sent : List (List (BitVec 208))
  /-- LAMP_TRIM and LAMP_CHIP_COLOUR as the present shift took them (R94); none for the defaults. -/
  shiftTrim : Option (List Byte)
  shiftColour : Option (List Byte)
  openMap : List Nat
  openCount : Nat
  chainErrors : List Nat
  latchCount : Nat
  /-- A lamp settling window opens with the next line to begin: the line of a latch with a changed word (R91), the first
  line of a run or a capture, a change of gating or of exposure (R96). -/
  settleNext : Bool
  monitor : List MonCell
  diagResult : Nat
  /-- Sticky bits [6:4] of LAMP_STATUS. -/
  sticky : Nat
  deriving DecidableEq, Repr

/-- A ramp of an indicator engine (R108): mask, target, d, ticks done, and the level of each sink at its start. -/
structure IndRamp where
  mask : Nat
  target : Nat
  ticks : Nat
  done : Nat
  from0 : List Nat
  deriving DecidableEq, Repr

/-- One pattern engine (R107). -/
structure IndEngine where
  /-- 0 stopped, 1 running, 2 halted. -/
  state : Nat
  /-- The first tick after ENGINE_RUN is still to come. -/
  fresh : Bool
  pc : Nat
  cnt : List Nat
  /-- Ticks still to wait. -/
  waiting : Nat
  ramp : Option IndRamp
  deriving DecidableEq, Repr

/-- The indicators (R106 to R109). -/
structure Indicators where
  engines : List IndEngine
  levels : List Nat
  /-- IND_OWNER in force since the last engine tick (R106). -/
  owner : Nat
  deriving DecidableEq, Repr

/-! ## 05 Correction and reference capture; 06 Registration -/

/-- A shading bank (R118 to R120). -/
structure Bank where
  /-- 0 IDENTITY, 1 CAPTURED, 2 HOST, 3 INCOMPLETE. -/
  state : Nat
  time : Nat
  /-- The bytes of Table 5.2; none while the bank holds the identity. -/
  raw : Option (List Byte)
  deriving DecidableEq, Repr

/-- Sums of the stage B input words of a phase: lines used, and per port and colour (key 4 × port + colour) the sum of
each active pixel (R125). -/
structure PhaseSum where
  lines : Nat
  sums : List (Nat × List Nat)
  deriving DecidableEq, Repr

/-- REF_STATE (Table 5.7). -/
inductive RefState where
  | idle | waiting | movingIn | black | white | evaluating | movingOut
  deriving DecidableEq, Repr

/-- The code of REF_STATE. -/
def RefState.code : RefState → Nat
  | .idle => 0 | .waiting => 1 | .movingIn => 2 | .black => 3 | .white => 4 | .evaluating => 5 | .movingOut => 6

/-- A reference-strip capture (R123 to R129). -/
structure RefCapture where
  state : RefState
  result : Nat
  /-- Attempt from 1, pass 1 or 2. -/
  attempt : Nat
  pass : Nat
  /-- Lines of the phase that began without SETTLING, and those of them that left the hold without it. -/
  begun : Nat
  used : Nat
  /-- Sums of pass 1 black, pass 1 white, pass 2 black and pass 2 white. -/
  phases : List PhaseSum
  /-- Ports marked invalid in a line used in the attempt (R125). -/
  marked : BitVec 96
  /-- The first line that begins after the request (R123). -/
  since : Nat
  /-- Where image capture resumed after a capture in INLINE, until its first line: a page that starts at or before it starts
  late (R124 step 7). -/
  resumeAt : Option Int
  /-- Serial of the first line of such a page, whose first committed line carries GAP. -/
  lateLine : Option Nat
  /-- The axis that the capture moves, or moved last, and the target of that move (R124). -/
  move : Option (Nat × Int)
  count : Nat
  fails : Nat
  lastTime : Nat
  deriving DecidableEq, Repr

/-- A line after stage 6, with the marks of its data (R116): what the stagger region and the trailing row hold. -/
structure Stage6Line where
  id : LineId
  page : Nat
  pageStart : Bool
  pageLine : Nat
  leadIn : Bool
  gap : Bool
  reference : Bool
  dropped : Bool
  trigPos : Int
  /-- Time base at the centre of the red slot, in ns. -/
  time : Nat
  /-- The local count at the centre of the red slot, in ns (12 R338). -/
  clk : Nat
  /-- Position of the RED, GREEN and BLUE slot in 1/256 count, and the bar's words of each colour by port. -/
  positions : List Int
  planes : List (List (Nat × List Nat))
  /-- The colours whose data were replaced in a diagnostic line (R87). -/
  replaced : List Bool
  /-- The marks of the line that those data are taken from. -/
  oldInvalid : BitVec 96
  oldFallback : Bool
  invalid : BitVec 96
  settling : Bool
  fallback : Bool
  /-- A discontinuity lies before this line (R147). -/
  discontinuity : Bool
  /-- The one read of its leading-row data into the tap window (09 Table 9.4): not yet made, whole, or lost (09 R226). -/
  lead : Option Bool
  deriving DecidableEq, Repr

/-- A registered line after stage 9 (R143 to R146). -/
structure RegLine where
  id : LineId
  page : Nat
  pageStart : Bool
  pageLine : Nat
  leadIn : Bool
  gap : Bool
  reference : Bool
  dropped : Bool
  position : Int
  time : Nat
  planes : List (List Nat)
  invalid : BitVec 96
  settling : Bool
  fallback : Bool
  gapFlag : Bool
  discontinuity : Bool
  /-- The phases of its trailing row, as REG_PHASE_LAST holds them (R157). -/
  phases : Nat
  deriving DecidableEq, Repr

/-- One line of a stagger measurement (R150): red position and, per seam, the GREEN words of its two edge pixels, or none
where a port is marked. -/
structure MeasureRow where
  position : Int
  seams : List (Option (Nat × Nat))
  deriving DecidableEq, Repr

/-- Stages 2 to 11. -/
structure Pipeline where
  banks : List Bank
  active : Nat
  switchPending : Bool
  /-- The last capture that ended did not end ACCEPTED and no switch has taken effect since (R122). -/
  lastFailed : Bool
  sticky : Nat
  unresolved : Nat
  staggerShort : Nat
  capture : RefCapture
  /-- Lines that have left stage 6, oldest first: those of the stagger region and of the trailing row. -/
  stage6 : List Stage6Line
  /-- Serial of the first image line after the last entry or capture: the stagger region holds none before it (R134). -/
  breakSerial : Nat
  /-- Page and lead-in of lines triggered and not committed since the last committed line (R252). -/
  missed : Option (Nat × Bool)
  /-- Serial of the next line to commit. -/
  nextCommit : Nat
  /-- The next image line is the first after an entry or a capture (R147). -/
  afterBreak : Bool
  lastRed : Option Int
  /-- The first line of an open pair (R152). -/
  pair : Option RegLine
  clampCount : Nat
  discontinuities : Nat
  singles : Nat
  phaseLast : Nat
  regSticky : Nat
  /-- A stagger measurement: lines still to take, and the rows taken, newest first. -/
  measure : Option (Nat × List MeasureRow)
  measured : Nat
  measureResult : Nat
  deriving DecidableEq, Repr

/-! ## 07 Leaven -/

/-- Leaven's last result for a chain (Table 7.11). -/
inductive CalResult where
  | none | accepted | acceptedOffsetOnly | seeded
  | rejectedOffset | rejectedGain | rejectedRange | rejectedLinearity | abandoned
  deriving DecidableEq, Repr

/-- The code of a result (Table 7.11). -/
def CalResult.code : CalResult → Nat
  | .none => 0 | .accepted => 1 | .acceptedOffsetOnly => 2 | .seeded => 3 | .rejectedOffset => 4
  | .rejectedGain => 5 | .rejectedRange => 6 | .rejectedLinearity => 7 | .abandoned => 8

/-- One entry of LEAVEN_CHAIN_INFO (Table 7.11). -/
structure ChainInfo where
  accepted : Nat
  rejected : Nat
  acceptTime : Nat
  endTime : Nat
  temp : Int
  inl : Nat
  /-- Bit r: an accepted record at range r. -/
  ranges : Nat
  /-- Bit r: a gain has been accepted at range r, as a handover asks of a chain (log entry 32). -/
  gains : Nat
  result : CalResult
  gainDue : Bool
  nonlinear : Bool
  deriving DecidableEq, Repr

/-- One colour of a window (R159): the codes of the masked dark pixels as (code, count) in ascending code, the sum of
the lamp signals with their number of slots. -/
structure WindowColour where
  histogram : List (Nat × Nat)
  lampSum : Frac
  lampSlots : Nat
  deriving DecidableEq, Repr

/-- A window of usable lines: the chain, whether it takes a lamp signal, its lines and its four colours. -/
structure CalWindow where
  chain : Nat
  lamp : Bool
  lines : Nat
  /-- Local count at its opening, and the serial of the first line it may take. -/
  openedAt : Nat
  first : Nat
  colours : List WindowColour
  deriving DecidableEq, Repr

/-- Where a pass stands (R162, R167). -/
inductive PassStep where
  /-- Gathering A1, A2 on the chain that reads the port. -/
  | windowsA
  /-- The handover to the spare is asked for. -/
  | handover
  /-- Gathering B1, B2 on the spare. -/
  | windowsB
  /-- The attempt is to be judged. -/
  | judge
  /-- The port's return has been asked for. -/
  | returning
  deriving DecidableEq, Repr

/-- A port pass or a seed (R161, R167). -/
structure Pass where
  port : Nat
  range : Nat
  /-- Chain that read the port at the start. -/
  chain : Nat
  full : Bool
  seed : Bool
  attempt : Nat
  step : PassStep
  /-- Closed windows A1, A2 and B1, B2. -/
  closedA : List CalWindow
  closedB : List CalWindow
  window : Option CalWindow
  /-- INL of sweeps L1 and L2 in codes. -/
  sweeps : List Frac
  /-- Some window of this attempt had a mean lamp signal below CAL_MON_MIN (R162). -/
  dimmed : Bool
  /-- Another attempt follows the return; the serial of the first line in which the return may be made (R162). -/
  retry : Bool
  returnFrom : Nat
  deriving DecidableEq, Repr

/-- Leaven in one group (R168 to R173). -/
structure GroupCal where
  due : Bool
  /-- Became due while a calibration ran (R169). -/
  again : Bool
  /-- The temperature and the age trigger as the last evaluation found them (R169). -/
  tempTrig : Bool
  ageTrig : Bool
  running : Bool
  spareCheck : Bool
  /-- Ports still to take in this calibration, in order. -/
  ports : List Nat
  pass : Option Pass
  tempCal : Int
  timeCal : Nat
  /-- The local count at the last completed calibration, from which CAL_MAX_AGE is measured (R338). -/
  clkCal : Nat
  /-- The spare check was abandoned and waits for HOST_ASSIGN 0xFF (R47). -/
  checkAgain : Bool
  /-- Local count since which the group has been deferred, and whether LEAVEN_DEFERRED has been logged. -/
  deferredSince : Option Nat
  deferredLogged : Bool
  /-- A seed has been tried in the present hold of the spare by the host (R167). -/
  seedTried : Bool
  /-- A record of the group was restored at boot (R181). -/
  restored : Bool
  deriving DecidableEq, Repr

/-- Half of a region for one port and colour: its usable lines, its samples as (code, count), and the chain; none when
the port changed chain (R176). -/
structure PwHalf where
  port : Nat
  colour : Nat
  lines : Nat
  histogram : List (Nat × Nat)
  chain : Option Nat
  deriving DecidableEq, Repr

/-- A paper-white region (Table 7.5), with its first and second half as gathered so far (R176). -/
structure PwRegion where
  page : Nat
  first : Nat
  count : Nat
  firstTile : Nat
  lastTile : Nat
  half1 : List PwHalf
  half2 : List PwHalf
  /-- The chain that each port was read on in the region's lines so far; none for a port that has changed chain (R176). -/
  chains : List (Nat × Option Nat)
  deriving DecidableEq, Repr

/-- A Leaven record (Table 7.6). -/
structure LeavenRecord where
  tombstone : Bool
  chain : Nat
  range : Nat
  flags : Nat
  sequence : Nat
  time : Nat
  accepted : Nat
  temp : Int
  inl : Nat
  entries : List Nat
  /-- The check word stored with it. -/
  check : Nat
  deriving DecidableEq, Repr

/-- Leaven (R158 to R183). -/
structure Leaven where
  groups : List GroupCal
  chains : List ChainInfo
  acceptCount : Nat
  rejectCount : Nat
  abandonCount : Nat
  storeFails : Nat
  /-- Sticky bits of LEAVEN_STATUS. -/
  sticky : Nat
  /-- STAGE_A_CHAIN and STAGE_A_DRIFT in force since the last line start (R115); none for the defaults. -/
  chainInForce : Option (List Byte)
  driftInForce : Option (List Byte)
  regions : List PwRegion
  /-- Image lines that have left the hold, newest first, as far back as the leading row's lines reach (R176); page and page
  line of the newest. -/
  recent : List LineRec
  readAt : Option (Nat × Nat)
  dropped : Nat
  /-- Records accepted and not yet stored, oldest first (R180). -/
  toStore : List LeavenRecord
  /-- The first entry to READY since reset has taken place (R169). -/
  readySeen : Bool
  deriving DecidableEq, Repr

/-- One block of the Leaven store (R402), and whether the check word of its header is wrong. -/
structure LeavenBlock where
  block : Nat
  records : List LeavenRecord
  headerBad : Bool
  deriving DecidableEq, Repr

/-! ## 08 Compare engine -/

/-- A compare row (R185, R186): page row index, y of its first line, flags as Table 8.4 [2:0], and per colour the 8-bit
compare pixels; `valid` names the pixels that are not invalid. -/
structure CmpRow where
  n : Int
  y : Nat
  flags : Nat
  planes : List (List Nat)
  valid : List Bool
  deriving DecidableEq, Repr

/-- A page of a run: bands of one run may still wait when the next run starts a page of the same number (R211). -/
structure PageKey where
  run : Nat
  number : Nat
  deriving DecidableEq, Repr

/-- A band that has closed and waits to be compared (R194, R209). -/
structure CmpBand where
  page : PageKey
  band : Int
  rows : List CmpRow
  /-- Where the compare queue holds it, counted from the region's base. -/
  place : Nat
  deriving DecidableEq, Repr

/-- An open blob (R199, R201). -/
structure Blob where
  index : Nat
  classes : Nat
  flags : Nat
  cells : Nat
  minCol : Nat
  maxCol : Nat
  minRow : Int
  maxRow : Int
  failing : Nat
  peak : Nat
  peakCol : Nat
  peakRow : Int
  yLeast : Nat
  dx : Int
  dy : Int
  /-- Bands spanned, the last of them, and the columns of its defective cells there. -/
  bands : Nat
  lastBand : Int
  edge : List Nat
  deriving DecidableEq, Repr

/-- A page that the engine follows, from its first line to its summary (R192, R202). -/
structure CmpPage where
  page : PageKey
  /-- OUT_BITS and XAVG_RATIO of its run: the format of its crops (R203). -/
  bits : Nat
  xavg : Nat
  ref : Option Nat
  centreX : Int
  centreY : Int
  firstY : Nat
  /-- The page start position S of R186, in 1/256 count. -/
  start : Int
  lastN : Option Int
  /-- Lines of the row being formed: red position, y, flags, planes and port-invalid mask. -/
  group : List RegLine
  rows : List CmpRow
  half : Bool
  ended : Bool
  partialEnd : Bool
  blobs : List Blob
  nextIndex : Nat
  records : Nat
  blobsLost : Nat
  failed : Bool
  flags : Nat
  bandsCompared : Nat
  bandsSkipped : Nat
  assumed : Nat
  rowsCompared : Nat
  missing : Nat
  /-- The row index of each line of a row formed, by y (R186, R203). -/
  lineRows : List (Nat × Int)
  rowsSettling : Nat
  rowsDuplicate : Nat
  /-- The offset of band 0. -/
  firstOffset : Int × Int
  lastOffset : Int × Int
  outside : Nat
  /-- The columns of the cells of blobs closed by their length in the last band compared (R199). -/
  contEdge : List Nat
  deriving DecidableEq, Repr

/-- A reference id that is not FREE (R190, Table 8.2). -/
structure RefImage where
  id : Nat
  /-- 1 LOADING, 2 READY, 3 BAD. -/
  state : Nat
  base : Nat
  allocated : Nat
  /-- The bytes received: header and body. -/
  bytes : List Byte
  deriving DecidableEq, Repr

/-- A waiting page assignment (Table 8.3). -/
structure PageAssign where
  page : Nat
  id : Nat
  dx : Int
  dy : Int
  deriving DecidableEq, Repr

/-- A prefetched reference window (R206): page, band, reference, centre, first row and pages' start it was fetched for. -/
structure Prefetch where
  /-- The band that it was predicted to follow; none where it was fetched for the band that gathered. -/
  after : Option (Nat × Int)
  page : Nat
  band : Int
  ref : Nat
  centreX : Int
  centreY : Int
  /-- Page start it assumes, in 1/256 count, and the rows missing in the page when it was predicted, less those
  discarded. -/
  start : Int
  shift : Int
  /-- The window: page rows and compare columns, both less the offset, from the first to the last (R206). -/
  rowLow : Int
  rowHigh : Int
  colLow : Int
  colHigh : Int
  deriving DecidableEq, Repr

/-- The compare engine (R184 to R212). -/
structure Compare where
  /-- The engine runs in the present run. -/
  active : Bool
  /-- CMP_RES_ACTIVE, and the resolution the governor asks for from the next page (R210). -/
  half : Bool
  halfWanted : Bool
  pages : List CmpPage
  queue : List CmpBand
  /-- The next place of the compare queue. -/
  queueNext : Nat
  /-- The number of the present run, or of the last one. -/
  run : Nat
  refs : List RefImage
  upload : Option Nat
  assigns : List PageAssign
  prefetch : List Prefetch
  /-- Last measured page pitch in rows, and the offset measured last (R206). -/
  pagePitch : Nat
  prevStart : Option Int
  lastOffset : Int × Int
  bandsCompared : Nat
  bandsSkipped : Nat
  discardPage : Nat
  discardSpeed : Nat
  discardAlign : Nat
  defects : Nat
  blobsLost : Nat
  pagesCompared : Nat
  pagesNotCompared : Nat
  classCells : List Nat
  sticky : Nat
  deriving DecidableEq, Repr

/-! ## 09 Cistern and DMA -/

/-- A DMA channel's state (R234 to R238). -/
inductive DmaState where
  | idle | running | waiting | stopped
  deriving DecidableEq, Repr

/-- The code of DMA_CH_STATE. -/
def DmaState.code : DmaState → Nat
  | .idle => 0 | .running => 1 | .waiting => 2 | .stopped => 3

/-- The four words of a descriptor (Table 9.7). -/
structure Descriptor where
  q0 : Nat
  q1 : Nat
  q2 : Nat
  q3 : Nat
  deriving DecidableEq, Repr

/-- A DMA channel. -/
structure DmaChan where
  state : DmaState
  current : Nat
  /-- A descriptor fetch is in progress. -/
  fetching : Bool
  desc : Option Descriptor
  doneCount : Nat
  badCount : Nat
  lastError : Nat
  notices : Nat
  deriving DecidableEq, Repr

/-- The Cistern and its channels (R213 to R241). -/
structure Cistern where
  capacity : Nat
  ready0 : Bool
  ready1 : Bool
  trainingFailed : Bool
  /-- Base and size in force of the nine regions. -/
  layout : List (Nat × Nat)
  layoutPending : Bool
  highWater : List Nat
  /-- Bytes of HOST_SCRATCH by address, in rising order; an address not listed reads 0x00. -/
  scratch : List Host.Cell
  /-- After a layout that moved HOST_SCRATCH its unlisted bytes are undefined (R219): the first of the free values they
  read. -/
  scratchFree : Option Nat
  /-- Addresses of poisoned 64-byte blocks (R226). -/
  poisoned : List Nat
  corrected : Nat
  uncorrectable : Nat
  lastAddress : Nat
  dataLost : Nat
  /-- Local count of the last DRAM_CORRECTED event (R225). -/
  correctedAt : Option Nat
  sticky : Nat
  scrubAddress : Nat
  scrubPasses : Nat
  channels : List DmaChan
  dmaStatus : Nat
  deriving DecidableEq, Repr

/-! ## 10 Host stream, Spillway, Weir and restart -/

/-- A line in a slot of the capture ring, the Spillway or the SPECULATIVE region: the fields of its header (Table 10.3)
and its output words per plane (R153). -/
structure LineSlot where
  /-- Place in the order of slots taken. -/
  uid : Nat
  spill : Bool
  reference : Bool
  flags : Nat
  bits : Nat
  xavg : Nat
  layout : Nat
  page : Nat
  y : Nat
  time : Nat
  position : Int
  invalid : BitVec 96
  pageLine : Nat
  outPixels : Nat
  planes : List (List Nat)
  /-- The slot of its region that it takes, counted from the region's base (R220). -/
  place : Nat
  /-- Sent, or needs no sending. -/
  sent : Bool
  /-- Taken by the stream as it was written to its slot: its sending reads no slot (09 R223). -/
  cut : Bool
  /-- A layout has moved its region: its bytes are free values from here on (09 R219). -/
  free : Option Nat
  discontinuity : Bool
  /-- The run that it belongs to. -/
  run : Nat
  deriving DecidableEq, Repr

/-- What an item carries (R249). -/
inductive ItemKind where
  | line (uid : Nat)
  /-- A record of Table 8.4 with its crop; the crop is lost when its read fails (R265). -/
  | defect (record crop : List Byte)
  | summary (bytes : List Byte)
  | gap (bytes : List Byte)
  | restart (bytes : List Byte)
  | streamEnd (bytes : List Byte)
  deriving DecidableEq, Repr

/-- An item that waits to be sent. -/
structure Item where
  number : Nat
  kind : ItemKind
  /-- Where the defect store holds it, counted from the region's base; 0 for the others. -/
  place : Nat
  deriving DecidableEq, Repr

/-- A TSP packet sent, with the addresses of its frame (R244, Table 10.1). -/
structure Packet where
  lane : Nat
  srcMac : Nat
  srcIp : Nat
  srcPort : Nat
  dstMac : Nat
  dstIp : Nat
  dstPort : Nat
  typ : Nat
  streamId : Nat
  flags : Nat
  session : Nat
  itemBytes : Nat
  item : Nat
  offset : Nat
  payload : List Byte
  deriving DecidableEq, Repr

/-- What the device sends on its lanes. -/
inductive Sent where
  | tsp (p : Packet)
  /-- An ARP reply on a lane for an address (R245). -/
  | arp (lane address : Nat)
  deriving DecidableEq, Repr

/-- One lane. -/
structure Lane where
  blockLock : Bool
  /-- Local count at which the pause ends. -/
  pausedUntil : Option Nat
  /-- Learned host MAC, IP and port (R254). -/
  host : Option (Nat × Nat × Nat)
  bytesSent : Nat
  creditLimit : Nat
  pauseCount : Nat
  rxDropped : Nat
  /-- The last 8 request ids with their responses, newest first (R275). -/
  answers : List (Nat × Packet)
  /-- Frames that wait for the end of a pause, oldest first (R246). -/
  delayed : List Sent
  /-- A write in segments over this lane: index, subindex and the bytes so far (R274). -/
  down : Option (Nat × Nat × List Byte)
  /-- A read in segments over this lane: index, subindex, the content at its start and the next offset. -/
  up : Option (Nat × Nat × List Byte × Nat)
  deriving DecidableEq, Repr

/-- The page or block in progress at the trigger, which R262 admits, and the one at the commit (R262 to R264). -/
structure Admission where
  /-- Lines triggered in the page or block so far; none before the first of the run. -/
  lines : Option Nat
  /-- With PAGE_SOURCE 0, which block of SPILL_BLOCK_LINES lines it is (R264). -/
  block : Nat
  leadIn : Bool
  /-- Lines of the complete page or block before it in the run. -/
  previous : Option Nat
  dropped : Bool
  /-- The page and block that commits: number of the page and of the block in it; none before the first. -/
  place : Option (Nat × Nat)
  /-- 1 PAGE_DROPPED, 2 BLOCK_DROPPED, 3 TAIL_DROPPED while its lines are dropped; 0 while they are kept. -/
  cause : Nat
  /-- y of the first and last line missing, and how many. -/
  missing : Option (Nat × Nat × Nat)
  deriving DecidableEq, Repr

/-- Where the Weir stands: WEIR_STATE (Table 10.6). -/
inductive WeirState where
  | fullSpeed | slowing | stopping | stopped | restarting
  deriving DecidableEq, Repr

/-- The code of WEIR_STATE. -/
def WeirState.code : WeirState → Nat
  | .fullSpeed => 0 | .slowing => 1 | .stopping => 2 | .stopped => 3 | .restarting => 4

/-- Where a restart stands (R270). -/
inductive RestartPhase where
  | none
  /-- Step 1: on the way to the backup target. -/
  | backup
  /-- Steps 3 to 5: speculative lines are stored. -/
  | speculative
  /-- A failed attempt ramps to standstill (R273). -/
  | again
  /-- The restart is unmatched and commit has not resumed (R273). -/
  | unmatched
  /-- Committed lines are formed with ε (R272). -/
  | formed
  deriving DecidableEq, Repr

/-- A restart (R270 to R273). -/
structure Restart where
  phase : RestartPhase
  attempts : Nat
  lines : List LineSlot
  epsilon : Int
  phiQ : Nat
  /-- The next m, and the number of formed lines the position base P_c still numbers. -/
  m : Nat
  /-- Triggers that still precede the one at which stage 9 forms the first line (R272). -/
  skip : Nat
  pc : Int
  yc : Nat
  page : Nat
  pageLine : Nat
  deriving DecidableEq, Repr

/-- The host stream (R242 to R278, R477). -/
structure HostStream where
  lanes : List Lane
  session : Nat
  dataLanes : Nat
  /-- Local count of the last valid packet of the session. -/
  heardAt : Nat
  items : List Item
  nextItem : Nat
  lastSent : Nat
  slots : List LineSlot
  /-- The last 64 committed image lines, newest first: the overlap of a stop in SHEET (R268). -/
  overlap : List LineSlot
  /-- Slot places of the ring and of the Spillway to be taken next, if free (log entry 14). -/
  nextPlace : Nat
  /-- The next place of the defect store. -/
  nextStore : Nat
  nextSpill : Nat
  nextUid : Nat
  admission : Admission
  /-- Reference lines dropped in the present capture: first and last y, and how many (R477). -/
  refDropped : Option (Nat × Nat × Nat)
  /-- Items discarded at FAULT, and the time base at the entry, until STREAM_END (R266). -/
  endDue : Option (Nat × Nat)
  weir : WeirState
  /-- The speed request, in µm/s. -/
  request : Frac
  /-- A stop is in force: its overlap is held (R268). -/
  stopped : Bool
  /-- Capture has stopped at a committed line that found no slot (R269). -/
  overrun : Bool
  restart : Restart
  pagesDropped : Nat
  linesDropped : Nat
  overruns : Nat
  restarts : Nat
  unmatched : Nat
  lastResult : Nat
  lastOffset : Int
  /-- Sticky bits of Table 10.11. -/
  sticky : Nat
  /-- Everything sent since power-on, newest first. -/
  out : List Sent
  deriving DecidableEq, Repr

/-! ## 11 Motion -/

/-- A phase of a profile, in microsteps/s or path µm/s, and update periods of 10 µs (R284 to R288). -/
inductive Phase where
  /-- A ramp of `n` periods from `v0` to `v1` in the shape of Table 11.3. -/
  | ramp (v0 v1 : Frac) (n shape : Nat)
  | cruise (v : Frac) (n : Nat)
  /-- VELOCITY and the pacer: until replaced. -/
  | hold (v : Frac)
  /-- A blend of `n` periods from velocity `v0` and acceleration `a0` (R286). -/
  | blend (v0 a0 : Frac) (n : Nat)
  /-- An emergency ramp from `v0`, `a0` (both along the direction of motion `dir`), of peak deceleration `peak` held for
  `hold` seconds, at jerk `jerk` (R288). -/
  | emergency (dir : Int) (v0 a0 peak hold jerk : Frac)
  deriving DecidableEq, Repr

/-- One part of a plan, up to a target: its phases and the target. -/
structure PlanPart where
  phases : List Phase
  target : Option Int
  deriving DecidableEq, Repr

/-- What a profile does: the parts to come, the update periods done of the first phase, and the velocity and
acceleration at the last update boundary. -/
structure Profile where
  parts : List PlanPart
  done : Nat
  vel : Frac
  acc : Frac
  deriving DecidableEq, Repr

/-- What an axis is asked to do from the next update, or after its blend (R286, R287). -/
inductive AxisGoal where
  | moveTo (target : Int) (speed accel shape : Nat)
  | run (v : Frac) (accel shape : Nat)
  | halt (accel shape : Nat)
  /-- The MOVEs within the look-ahead of the axis's list (R298). -/
  | list
  /-- A move of the transport group by a distance in µm (R313). -/
  | travel (dist speed : Frac) (accel shape : Nat)
  | emergency
  deriving DecidableEq, Repr

/-- AXIS_STATE (Table 11.10). -/
inductive AxisState where
  | disabled | off | parked | holding | moving | stopping | error
  deriving DecidableEq, Repr

/-- The code of AXIS_STATE. -/
def AxisState.code : AxisState → Nat
  | .disabled => 0 | .off => 1 | .parked => 2 | .holding => 3 | .moving => 4 | .stopping => 5 | .error => 6

/-- AXIS_OWNER. -/
inductive Owner where
  | host | list | follow | pacer | capture
  deriving DecidableEq, Repr

/-- The code of AXIS_OWNER. -/
def Owner.code : Owner → Nat
  | .host => 0 | .list => 1 | .follow => 2 | .pacer => 3 | .capture => 4

/-- The command that runs under HOST, or the end that a stop leads to. -/
inductive AxisTask where
  | none
  | move
  | velocity
  /-- HOME at step 1, 2 or 3 of R309, with the local count at its start. -/
  | home (step : Nat) (since : Nat)
  /-- The PARK move of Table 11.8. -/
  | park
  deriving DecidableEq, Repr

/-- A MOVE within the look-ahead of a list (R298). -/
structure SegMove where
  target : Int
  /-- Link mask, 0 for this axis alone, and the leading axis. -/
  mask : Nat
  leader : Nat
  speed : Nat
  accel : Nat
  shape : Nat
  /-- A DWELL, WAIT, SYNC or HALT lies before it: no join. -/
  barrier : Bool
  /-- Codes of the NOTIFYs that follow it. -/
  notify : List Nat
  deriving DecidableEq, Repr

/-- SEG_STATE. -/
inductive SegState where
  | idle | running | waiting | halted | stopped
  deriving DecidableEq, Repr

/-- The code of SEG_STATE. -/
def SegState.code : SegState → Nat
  | .idle => 0 | .running => 1 | .waiting => 2 | .halted => 3 | .stopped => 4

/-- A segment list (R294 to R299). -/
structure SegList where
  state : SegState
  words : List Nat
  pc : Nat
  cnt : List Nat
  /-- Instructions left in this update period. -/
  budget : Nat
  speed : Nat
  accel : Nat
  shape : Nat
  moves : List SegMove
  barrier : Bool
  /-- The list of another axis of the mask has ended early: this one waits until it is stopped (R299). -/
  blocked : Bool
  /-- The SYNC words (mask and tag) and the linked MOVE words (mask) at which the list of another axis of the mask has ended early
  before this one was there: it waits there until it is stopped (R299). -/
  barred : List (Nat × Option Nat)
  /-- Local count at which a running DWELL ends. -/
  dwellUntil : Option Nat
  stopReason : Nat
  notifyLast : Nat
  replans : Nat
  deriving DecidableEq, Repr

/-- A follower of a linked move (R297): the leading axis, the position of both at the start and the distances. -/
structure LinkRun where
  leader : Nat
  start : Int
  dist : Int
  leadStart : Int
  leadDist : Int
  deriving DecidableEq, Repr

/-- The chopper cycle of one bridge (R301). -/
structure ChopCycle where
  /-- The direction in force: -1, 1, or 0 where the target is 0. -/
  dir : Int
  /-- The target in force: a target of the other sign waits for the next on-phase. -/
  goal : Int
  /-- The on-phase runs, and ns since the phase began. -/
  on : Bool
  age : Nat
  /-- The half-bridges whose high side the cycle asks for, and ns since each last changed sides. -/
  high : Bool × Bool
  since : Nat × Nat
  deriving DecidableEq, Repr

/-- One axis (R279 to R309). -/
structure Axis where
  state : AxisState
  /-- INT32, in microsteps. -/
  pos : Int
  acc : Nat
  vw : Nat
  forward : Bool
  profile : Profile
  goal : Option AxisGoal
  /-- The request whose profile follows the running blend (R286). -/
  blending : Option AxisGoal
  /-- Target of the running move. -/
  target : Option Int
  owner : Owner
  task : AxisTask
  /-- An emergency ramp runs; the axis enters ERROR at standstill (R305); a normal stop runs (Table 11.4). -/
  emergency : Bool
  errorAtStop : Bool
  stopRamp : Bool
  /-- What the end of a pre-emption leads to: the capture's move (R293). -/
  captureNext : Option Int
  energised : Bool
  referenced : Bool
  atTarget : Bool
  loadValid : Bool
  sticky : Nat
  /-- Current amplitude I, in 0.01 mA, and the target it tends toward. -/
  current : Nat
  currentTarget : Nat
  /-- A fade over PARK_FADE: from, to, periods and periods done (Table 11.8, R307). -/
  fade : Option (Nat × Nat × Nat × Nat)
  /-- De-energise when the fade to 0 ends (PARK). -/
  parkAfterFade : Bool
  /-- Local count at the last standstill. -/
  stillSince : Option Nat
  holdDelayOver : Bool
  mref : Bool
  mrefLatch : Int
  homeLatch : Int
  loadAngle : Int
  /-- Mean phase currents of the last estimate, in mA (R303). -/
  lastCurrents : Option (Int × Int)
  /-- Local count of the first estimate of a run of estimates at or above STALL_ANGLE. -/
  stallSince : Option Nat
  seg : SegList
  link : Option LinkRun
  /-- The follow target, the last edge (local count, direction), and the rate in microsteps/s (R300). -/
  followTarget : Int
  followEdge : Option (Nat × Bool)
  followRate : Frac
  /-- Microsteps still to issue at 5,000,000 microsteps/s toward the previous target. -/
  followFast : Int
  stallCount : Nat
  errorCount : Nat
  /-- The chopper cycles of bridges A and B. -/
  chopA : ChopCycle
  chopB : ChopCycle
  deriving DecidableEq, Repr

/-- What the pacer's group does (R310 to R313). -/
inductive GroupMove where
  | none
  /-- The backup of a restart, past the target by the take-up (R313). -/
  | backup
  | takeup
  deriving DecidableEq, Repr

/-- The transport group. -/
structure Transport where
  owns : Bool
  profile : Profile
  goal : Option AxisGoal
  blending : Option AxisGoal
  /-- The path speed in force as target, in µm/s. -/
  targetV : Frac
  /-- Path position since the pacer took the group, in µm. -/
  path : Frac
  emergency : Bool
  standstill : Bool
  move : GroupMove
  /-- A restart move waits for MSTOP or an axis in ERROR (R312, R314). -/
  moveWaits : Bool
  deriving DecidableEq, Repr

/-- Motion (R279 to R317). -/
structure Motion where
  axes : List Axis
  transport : Transport
  mstop : Bool
  gateUv : Bool
  gateSupply : Nat
  sticky : Nat
  /-- The MC and the PC are held in reset after their watchdogs (R316, 16 R392). -/
  mcHeld : Bool
  pcHeld : Bool
  deriving DecidableEq, Repr

/-! ## 16 Flash, update, telemetry and OTP -/

/-- What an image slot holds (R410, Table 16.5). -/
inductive ImageSlot where
  /-- No byte of an image, or an image whose version has been marked 0 (Table 16.11). -/
  | none
  /-- The bytes programmed from the start of the slot. -/
  | image (bytes : List Byte)
  /-- The image fitted at manufacture, which passes R380 while its security version is not below the minimum. -/
  | factory (version svn : Nat)
  deriving DecidableEq, Repr

/-- The QSPI flash (R401 to R405). -/
structure Flash where
  size : Nat
  /-- Boot-control records, oldest first (R402). -/
  bootRecords : List BootRecord
  slotA : ImageSlot
  slotB : ImageSlot
  config : List ConfigSlot
  /-- Blocks of the Leaven store and of the event log that hold records, oldest first. -/
  leaven : List LeavenBlock
  log : List LogBlock
  /-- Erase counts of the 16 Leaven blocks, then of the 16 log blocks. -/
  eraseCounts : List Nat
  /-- Blocks that have logged FLASH_WEAR. -/
  worn : List Nat
  reclaimDeferred : Bool
  /-- The newest stored entry that filled the first-error record; none since an acknowledgement (R442). -/
  filled : Option LogEntry
  patrolBad : Nat
  sticky : Nat
  deriving DecidableEq, Repr

/-- UPDATE_STATE (Table 16.14). -/
inductive UpdState where
  | idle | erasing | receiving | verifying | verified | failed
  deriving DecidableEq, Repr

/-- The code of UPDATE_STATE. -/
def UpdState.code : UpdState → Nat
  | .idle => 0 | .erasing => 1 | .receiving => 2 | .verifying => 3 | .verified => 4 | .failed => 5

/-- An update (R412 to R415). -/
structure Update where
  state : UpdState
  result : Nat
  bytes : Nat
  deriving DecidableEq, Repr

/-- Telemetry (R408). -/
structure Telemetry where
  last : List Byte
  /-- The last 240 snapshots, oldest first. -/
  history : List (List Byte)
  sequence : Nat
  deriving DecidableEq, Repr

/-- The OTP (Table 16.8). -/
structure Otp where
  keyHash : List Byte
  minSvn : Nat
  serial : Nat
  macBase : Nat
  hardware : List Byte
  /-- Frequency of each process monitor at 25 °C and at 85 °C, in 0.1 MHz. -/
  process : List (Nat × Nat)
  locks : Nat
  deriving DecidableEq, Repr

/-! ## 17 Two-wire buses -/

/-- TW_BUS_STATE (Table 17.9). -/
inductive TwState where
  | off | testing | idle | controller | target | stuck
  deriving DecidableEq, Repr

/-- The code of a bus state (Table 17.9). -/
def TwState.code : TwState → Nat
  | .off => 0 | .testing => 1 | .idle => 2 | .controller => 3 | .target => 4 | .stuck => 5

/-- What a transaction of the device as controller is for (R421): the host's request, the record of a tile, read for the first
or the second time, or the poll of a sensor. -/
inductive TwWork where
  | host
  | tile (port : Nat) (again : Bool)
  | poll (sensor : Nat)
  deriving DecidableEq, Repr

/-- A transaction that waits for its bus, and how often it has been started again (R427). -/
structure TwJob where
  work : TwWork
  tries : Nat
  deriving DecidableEq, Repr

/-- A step of a transaction: an address byte, a write byte, a repeated START, a read byte, or the STOP. -/
inductive TwStep where
  | address (byte : Byte)
  | write (byte : Byte)
  | restart
  | read (last : Bool)
  | stop
  deriving DecidableEq, Repr

/-- The transaction in progress: its steps to come, the write bytes acknowledged and the bytes read, and the state of Table
17.5 that a NACK gives it. -/
structure TwRun where
  job : TwJob
  steps : List TwStep
  acked : Nat
  got : List Byte
  nack : Option Nat
  deriving DecidableEq, Repr

/-- What the controller drives in a bus test (R423): a clock, a START or a STOP. -/
inductive TwDrive where
  | clock | start | stop
  deriving DecidableEq, Repr

/-- The result of discovery at a port (15 R386). -/
inductive TileFound where
  | absent
  | bad
  | present (record : List Byte)
  deriving DecidableEq, Repr

/-- One two-wire bus. -/
structure TwBus where
  state : TwState
  /-- The transactions that wait, in order of arrival (R421). -/
  jobs : List TwJob
  run : Option TwRun
  /-- What becomes of the bus after the transaction in progress: it goes out of use, or is tested. -/
  next : Option TwState
  /-- The transaction that the device serves after it lost arbitration to its own address: its direction (R426). -/
  won : Option Bool
  /-- What the controller drove in the last bus test (R423). -/
  driven : List TwDrive
  /-- Timing fields in force (R420): TW_SCL_LOW, SCL_HIGH, HD_DAT, SU_STA, HD_STA, SU_STO, BUF. -/
  timing : List Nat
  /-- Pointer of the target window (R429). -/
  pointer : BitVec 8
  /-- The bytes that the last transaction served as target returned (R429). -/
  served : List Byte
  arbLost : Nat
  nacks : Nat
  timeouts : Nat
  stuckCount : Nat
  targetCount : Nat
  deriving DecidableEq, Repr

/-- A host request (Table 17.4). -/
structure TwRequest where
  bus : Nat
  address : Nat
  written : List Byte
  readLength : Nat
  deriving DecidableEq, Repr

/-- The two-wire unit (R417 to R435). -/
structure TwoWire where
  buses : List TwBus
  request : Option TwRequest
  /-- TW_RESULT (Table 17.5): state, write bytes acknowledged, read bytes. -/
  resultState : Nat
  resultAcked : Nat
  resultBytes : List Byte
  /-- Bytes 0x00 to 0x7F of the target window as last refreshed (R430). -/
  window : List Byte
  /-- Bytes 0x80 to 0xFF. -/
  scratch : List Byte
  barTemp : List Int
  /-- Consecutive failed polls of each sensor (R434). -/
  sensorFails : List Nat
  /-- The results of the discovery that runs, or ran last, by port. -/
  tiles : List (Nat × TileFound)
  /-- Sticky bits [5:2] of TW_STATUS. -/
  sticky : Nat
  deriving DecidableEq, Repr

/-! ## 19 Pins and test access -/

/-- What IND0 is driven with besides its level (15 R376, R382). -/
inductive Ind0 where
  /-- The level of the sink, as for every other indicator. -/
  | level
  /-- A 1 Hz blink: no image passes the Starter's checks. -/
  | blink1
  /-- A 4 Hz blink: three RAIL resets within 10 s. -/
  | blink4
  deriving DecidableEq, Repr

/-- Balls whose state in OFF is not that of a register kept elsewhere (Table 19.3). -/
structure Pins where
  ind0 : Ind0
  /-- The level of ECPHYRST_N. -/
  ecPhyReset : Bool
  /-- The levels of DDR0_RESET_N and DDR1_RESET_N. -/
  ddrReset : List Bool
  /-- The QSPI balls are driven; otherwise they are high impedance (R454, R458). -/
  qspiDriven : Bool
  /-- Levels of ECLINK0 and ECLINK1, as PORT_LINK last showed them (12 R348, R455). -/
  links : Nat
  deriving DecidableEq, Repr

/-- The states of the TAP controller (IEEE 1149.1, R457). -/
inductive TapState where
  | testLogicReset | runTestIdle
  | selectDr | captureDr | shiftDr | exit1Dr | pauseDr | exit2Dr | updateDr
  | selectIr | captureIr | shiftIr | exit1Ir | pauseIr | exit2Ir | updateIr
  deriving DecidableEq, Repr

/-- The instructions of the test access port (R457). -/
inductive TapInstr where
  | bypass | samplePreload | extest
  deriving DecidableEq, Repr

/-- What test equipment does at the test access port: a clock of TCK with the levels of TMS and TDI at its rising edge, or
TRST_N low. -/
inductive TapInput where
  | clock (tms tdi : Bool)
  | trst
  deriving DecidableEq, Repr

/-- The test access port (R457). -/
structure Tap where
  state : TapState
  instr : TapInstr
  /-- The instruction register's shift stage, the bit next to TDO first. -/
  irShift : List Bool
  bypass : Bool
  /-- The scan chain's shift stage, the cell next to TDO first, and its update stage. -/
  chain : List Bool
  update : List Bool
  /-- The level of TDO; none where it is high impedance. -/
  tdo : Option Bool
  deriving DecidableEq, Repr

/-- A change outside the device that no row of the table brings. -/
inductive Outside where
  /-- The load that the tiles put on VBIASk or VRSTk, in µA (20 R469). -/
  | load (k : Nat) (vrst : Bool) (ua : Nat)
  /-- The level that outside equipment drives on a ball of the scan chain, by its cell, or that it lets the ball go. -/
  | ball (cell : Nat) (level : Option Bool)
  /-- What the lamp chains return to the next shift that no row brings (04 R97). -/
  | chains (returned : Option (List (List (BitVec 208))))
  deriving DecidableEq, Repr

/-- What stands outside the device, and what equipment there waits to do; no row of the table commands it (log entry 172). -/
structure Bench where
  /-- The inputs of the test access port, in order. -/
  tap : List TapInput
  /-- Contents that a programmer is to write into the flash (R458). -/
  program : Option Flash
  /-- Changes to come, in order. -/
  acts : List Outside
  /-- The loads of VBIASk and VRSTk, in µA, those of Gk at 2k and 2k + 1. -/
  loads : List Nat
  /-- The levels driven from outside on balls of the scan chain, by cell. -/
  balls : List (Nat × Bool)
  /-- What the lamp chains return to the shifts of 04 R97, which no row brings; none for sound chains, which return the words
  latched before and no open flag. -/
  chains : Option (List (List (BitVec 208)))
  /-- Whether the read-backs of coming programs and erases of the flash are right, in order, where no operand says it; those beyond
  the list are (16 R404). -/
  readBacks : List Bool
  deriving DecidableEq, Repr

/-! ## The device -/

/-- The CJ9612. -/
structure State where
  /-- The time base, in ns (R5). -/
  now : Nat
  /-- The local count, in ns: it rises with the time base and never steps (R338). -/
  clk : Nat
  /-- The model's own: which free value is taken next (log entry 1). -/
  fresh : Nat
  modes : Modes
  dict : Dict
  ecat : Ecat
  cfg : ConfigSets
  ev : Events
  pwr : Power
  boot : Boot
  mbox : Mailbox
  flash : Flash
  upd : Update
  telem : Telemetry
  otp : Otp
  fe : FrontEnd
  tim : Timing
  lamps : Lamps
  ind : Indicators
  pipe : Pipeline
  lv : Leaven
  cmp : Compare
  cist : Cistern
  host : HostStream
  mot : Motion
  tw : TwoWire
  pins : Pins
  tap : Tap
  bench : Bench
  /-- The commands that wait, first in, first out. -/
  pending : List Instr
  deriving DecidableEq, Repr

/-! ## After reset -/

def Modes.reset : Modes :=
  { mode := .off, request := 1, status := 0, changeTime := 0, refusal := 0, trans := none }

def Dict.reset : Dict :=
  { held := [], atReady := [], atSession := [], atReset := [], atRun := [], bulk := [], bulkAtReady := [], reply := none }

def Ecat.reset : Ecat :=
  { al := 1, alCode := 0, alError := false, timeStep := 0, opLost := 0, sync0 := none, cycleTime := 0, lastSync := none,
    sm2Written := false, lastOutputs := none, rxMap := [], txMap := [], inputs := [],
    sms := List.replicate 8 ⟨0, 0⟩, fmmus := List.replicate 8 ⟨0, 0, 0, false⟩, sii := none, sdo := none,
    sm1 := none, responses := [] }

def ConfigSets.reset : ConfigSets :=
  { active := 0, source := 0, modified := false, commit := none, wrote := false, revert := none, sticky := 0,
    rejected := 0, commitResult := 0, commitVersion := 0, revertResult := 0 }

def Events.reset : Events :=
  { nextSeq := 0, waiting := [], notStored := 0, logged := 0, first := none, firstFatal := none, overflow := 0,
    classMap := 0, previous := none, fillers := [], emergencies := [], emcyLost := 0,
    held := none }

def Governor.reset : Governor :=
  { level := 0, cap := 100, above := false, holding := false, atLimit := false, pendingStep := none, effectAt := none,
    clearSince := none, sticky := 0, deferred := 0, deferredFrom := none }

def Power.reset : Power :=
  { volts := List.replicate 20 0, temps := List.replicate 24 0, procs := List.replicate 12 0, devicePower := 0,
    gradientMax := 0, gradientWarn := [], vinHigh := false, railSticky := 0, monSticky := 0, slowLogged := [], raised := [],
    domains := 0, powering := 0, afeOut := 0, afeReturning := 0, refclkLost := false, pllLocked := 0, laneLoss := [none, none],
    gov := Governor.reset }

/-- RESET_CAUSE POWER with RESET_COUNT 1 (R377). -/
def Boot.reset : Boot :=
  { phase := .unpowered, cause := 0, detail := 0, count := 1, railResets := [], slot := 0, imageVersion := 0,
    trial := false, status := 0, bootTime := 0, startedAt := 0, xtalSel := false, testMode := false, trained := none,
    unlocked := [], discovery := 0, sectionBad := false, discoveryAtBoot := false, present := 0, bad := 0, mismatch := 0, identity := [] }

def MailDir.reset : MailDir :=
  { sending := none, ring := [], delivered := 0, timeouts := 0, highWater := 0, wakes := 0, queued := [] }

def Mailbox.reset : Mailbox :=
  { dirs := List.replicate 8 MailDir.reset, sticky := 0, lost := 0, unknown := 0, nextSeq := 0, hostWaits := none }

/-- The flash as fitted at manufacture (log entry 4): 16 MB, an image in slot A, everything else erased. -/
def Flash.reset : Flash :=
  { size := 16 * MB, bootRecords := [⟨1, 0, false, 0, false⟩], slotA := .factory 1 0, slotB := .none,
    config := [.empty, .empty, .empty, .empty], leaven := [], log := [], eraseCounts := List.replicate 32 0, worn := [],
    reclaimDeferred := false, filled := none, patrolBad := 0, sticky := 0 }

def Update.reset : Update := { state := .idle, result := 0, bytes := 0 }

def Telemetry.reset : Telemetry := { last := List.replicate 256 0, history := [], sequence := 0 }

/-- The OTP of the part (log entry 5). -/
def Otp.reset : Otp :=
  { keyHash := List.replicate 32 0, minSvn := 0, serial := 0, macBase := 0, hardware := List.replicate 16 0,
    process := List.replicate 12 (0, 0), locks := 1 }

def Port.reset : Port :=
  { toneLast := 0, toneSkipped := 0, faultCount := 0, faultFirstY := 0, unmarked := 0, latched := false, cause := 0,
    clearing := none, learning := none, learnSkip := false, suspect := none, released := 0, satLine := true, satBefore := none,
    level := none, phase := 32 }

/-- An output as the domain powers it up, at the default target (R58). -/
def Output.reset (mv : Nat) : Output :=
  { start := Frac.ofNat mv, target := mv, since := none, slew := 0, waiting := none }

def Group.reset : Group :=
  { spare := .idle, port := none, returnDue := false, returnHost := false, assignDue := none, handovers := 0, vbias := Output.reset 0,
    vrst := Output.reset 0, settle := none, lastPulse := 0, lastReadout := 0, window := 0, windowOpen := none }

def FrontEnd.reset : FrontEnd :=
  { ports := List.replicate 96 Port.reset, groups := List.replicate 8 Group.reset }

def Encoder.reset : Encoder :=
  { position := 0, indexPosition := 0, indexTime := 0, indexCount := 0, errors := 0, a := false, b := false, z := false,
    lastCount := none, posWrite := none, recent := [] }

def Timing.reset : Timing :=
  { active := 0, words := [], pc := 0, cnt := [0, 0, 0, 0], simpleLines := 0, atLine := false, pending := none,
    pendingDiag := [], pagesPassed := 0, posBreaks := [],
    inFlight := [], lineActive := false, placed := [], slotStart := 0, slotPos := 0, due := List.replicate 8 [],
    lines := [], nextSerial := 0, nextY := 0, runLines := 0, armed := false, nextPoint := 0, highest := 0, roseAt := 0,
    overruns := 0, webHalt := false, webHalts := 0, holdLevel := false, ltrigLevel := false,
    encoders := List.replicate 2 Encoder.reset, pagePending := [], pagePrevious := none, pageNow := false,
    pageNumber := 0, pageFirstY := none, pagesIgnored := 0, gapLine := false, diagPending := [], diagLines := 0,
    lagMax := 0, shortened := 0, sticky := 0, recentLines := [] }

def MonCell.reset : MonCell := { learned := 0, sum := Frac.zero, dim := false, run := 0 }

def Lamp.reset : Lamp :=
  { levelActual := 0, fade := none, exposure := 0, subpulses := 16, exposureActual := 0, subpulsesActual := 0,
    widest := 0, widestBefore := 0, diagnosed := false, diagnosedBefore := false, served := false }

def Lamps.reset : Lamps :=
  { colours := List.replicate 3 Lamp.reset, latched := List.replicate 64 (List.replicate 16 0),
    sent := List.replicate 4 [], shiftTrim := none,
    shiftColour := none, openMap := List.replicate 64 0, openCount := 0, chainErrors := List.replicate 4 0,
    latchCount := 0, settleNext := false, monitor := List.replicate 288 MonCell.reset, diagResult := 0, sticky := 0 }

def IndEngine.reset : IndEngine :=
  { state := 0, fresh := false, pc := 0, cnt := [0, 0, 0, 0], waiting := 0, ramp := none }

def Indicators.reset : Indicators :=
  { engines := List.replicate 4 IndEngine.reset, levels := List.replicate 12 0, owner := 0x0000FFFFFFFFFFFF }

def Bank.reset : Bank := { state := 0, time := 0, raw := none }

def RefCapture.reset : RefCapture :=
  { state := .idle, result := 0, attempt := 0, pass := 0, begun := 0, used := 0, phases := [], marked := 0,
    since := 0, resumeAt := none, lateLine := none, move := none, count := 0, fails := 0, lastTime := 0 }

def Pipeline.reset : Pipeline :=
  { banks := [Bank.reset, Bank.reset], active := 0, switchPending := false, lastFailed := false,
    sticky := 0, unresolved := 0, staggerShort := 0, capture := RefCapture.reset, stage6 := [], breakSerial := 0, missed := none,
    nextCommit := 0, afterBreak := true, lastRed := none, pair := none, clampCount := 0, discontinuities := 0,
    singles := 0, phaseLast := 0, regSticky := 0, measure := none, measured := 0, measureResult := 0 }

def ChainInfo.reset : ChainInfo :=
  { accepted := 0, rejected := 0, acceptTime := 0, endTime := 0, temp := 0, inl := 0, ranges := 0, gains := 0, result := .none,
    gainDue := false, nonlinear := false }

def GroupCal.reset : GroupCal :=
  { due := false, again := false, tempTrig := false, ageTrig := false, running := false, spareCheck := false, ports := [], pass := none, tempCal := 0,
    timeCal := 0, clkCal := 0, checkAgain := false, deferredSince := none, deferredLogged := false, seedTried := false,
    restored := false }

def Leaven.reset : Leaven :=
  { groups := List.replicate 8 GroupCal.reset, chains := List.replicate 104 ChainInfo.reset, acceptCount := 0,
    rejectCount := 0, abandonCount := 0, storeFails := 0, sticky := 0, chainInForce := none, driftInForce := none,
    regions := [], recent := [], readAt := none, dropped := 0, toStore := [], readySeen := false }

def Compare.reset : Compare :=
  { active := false, half := false, halfWanted := false, pages := [], queue := [], queueNext := 0, run := 0, refs := [],
    upload := none, assigns := [], prefetch := [], pagePitch := 0, prevStart := none, lastOffset := (0, 0), bandsCompared := 0,
    bandsSkipped := 0, discardPage := 0, discardSpeed := 0, discardAlign := 0, defects := 0, blobsLost := 0,
    pagesCompared := 0, pagesNotCompared := 0, classCells := List.replicate 4 0, sticky := 0 }

def DmaChan.reset : DmaChan :=
  { state := .idle, current := 0, fetching := false, desc := none, doneCount := 0, badCount := 0, lastError := 0,
    notices := 0 }

def Cistern.reset : Cistern :=
  { capacity := 0, ready0 := false, ready1 := false, trainingFailed := false, layout := List.replicate 9 (0, 0),
    layoutPending := false, highWater := List.replicate 9 0, scratch := [], scratchFree := none, poisoned := [], corrected := 0,
    uncorrectable := 0, lastAddress := 0, dataLost := 0, correctedAt := none, sticky := 0, scrubAddress := 0,
    scrubPasses := 0, channels := List.replicate 32 DmaChan.reset, dmaStatus := 0 }

def Lane.reset : Lane :=
  { blockLock := false, pausedUntil := none, host := none, bytesSent := 0, creditLimit := 0, pauseCount := 0,
    rxDropped := 0, answers := [], delayed := [], down := none, up := none }

def Admission.reset : Admission :=
  { lines := none, block := 0, leadIn := false, previous := none, dropped := false, place := none, cause := 0, missing := none }

def Restart.reset : Restart :=
  { phase := .none, attempts := 0, lines := [], epsilon := 0, phiQ := 0, m := 0, skip := 0, pc := 0, yc := 0, page := 0,
    pageLine := 0 }

def HostStream.reset : HostStream :=
  { lanes := List.replicate 16 Lane.reset, session := 0, dataLanes := 0, heardAt := 0, items := [], nextItem := 0,
    lastSent := 0, slots := [], overlap := [], nextPlace := 0, nextStore := 0, nextSpill := 0, nextUid := 0, admission := Admission.reset, refDropped := none, endDue := none,
    weir := .fullSpeed, request := Frac.zero, stopped := false, overrun := false, restart := Restart.reset,
    pagesDropped := 0, linesDropped := 0, overruns := 0, restarts := 0, unmatched := 0, lastResult := 0, lastOffset := 0,
    sticky := 0, out := [] }

def Profile.reset : Profile := { parts := [], done := 0, vel := Frac.zero, acc := Frac.zero }

def SegList.reset : SegList :=
  { state := .idle, words := [], pc := 0, cnt := [0, 0, 0, 0], budget := 0, speed := 0, accel := 0, shape := 0,
    moves := [], barrier := false, blocked := false, barred := [], dwellUntil := none, stopReason := 0, notifyLast := 0, replans := 0 }

/-- A bridge whose gates are low, or that has just been energised with a target of 0: the low sides are asked for. -/
def ChopCycle.reset : ChopCycle := { dir := 0, goal := 0, on := false, age := 0, high := (false, false), since := (0, 0) }

/-- Every axis is DISABLED while AXIS_ENABLE is clear, its default (R308). -/
def Axis.reset : Axis :=
  { state := .disabled, pos := 0, acc := 0, vw := 0, forward := true, profile := Profile.reset, goal := none,
    blending := none, target := none, owner := .host, task := .none, emergency := false, errorAtStop := false, stopRamp := false,
    captureNext := none, energised := false, referenced := false, atTarget := false, loadValid := false, sticky := 0,
    current := 0, currentTarget := 0, fade := none, parkAfterFade := false, stillSince := none, holdDelayOver := false,
    mref := false, mrefLatch := 0, homeLatch := 0, loadAngle := 0, lastCurrents := none, stallSince := none,
    seg := SegList.reset, link := none, followTarget := 0, followEdge := none, followRate := Frac.zero, followFast := 0,
    stallCount := 0, errorCount := 0, chopA := ChopCycle.reset, chopB := ChopCycle.reset }

def Transport.reset : Transport :=
  { owns := false, profile := Profile.reset, goal := none, blending := none, targetV := Frac.zero, path := Frac.zero, emergency := false,
    standstill := false, move := .none, moveWaits := false }

def Motion.reset : Motion :=
  { axes := List.replicate 6 Axis.reset, transport := Transport.reset, mstop := false, gateUv := false, gateSupply := 0,
    sticky := 0, mcHeld := false, pcHeld := false }

def TwBus.reset : TwBus :=
  { state := .off, jobs := [], run := none, next := none, won := none, driven := [], timing := [], pointer := 0, served := [], arbLost := 0, nacks := 0, timeouts := 0, stuckCount := 0,
    targetCount := 0 }

def TwoWire.reset : TwoWire :=
  { buses := [TwBus.reset, TwBus.reset], request := none, resultState := 0, resultAcked := 0, resultBytes := [],
    window := List.replicate 128 0, scratch := List.replicate 128 0, barTemp := List.replicate 16 0,
    sensorFails := List.replicate 16 0, tiles := [], sticky := 0 }

/-- The OFF column of Table 19.3. -/
def Pins.reset : Pins :=
  { ind0 := .level, ecPhyReset := false, ddrReset := [false, false], qspiDriven := false, links := 0 }

/-- Test-Logic-Reset, which selects BYPASS, as there is no IDCODE register (R457). -/
def Tap.reset : Tap :=
  { state := .testLogicReset, instr := .bypass, irShift := [false, false], bypass := false, chain := [], update := [],
    tdo := none }

/-- Nothing waits, and nothing loads the outputs or drives a ball high (log entry 172). -/
def Bench.reset : Bench :=
  { tap := [], program := none, acts := [], loads := List.replicate 16 0, balls := [], chains := none,
    readBacks := [] }

/-- The device in OFF with VIN not applied, the state that every reset enters (R376) when its supply has fallen (R377);
flash and OTP as log entries 4 and 5 name them. -/
def State.reset : State :=
  { now := 0, clk := 0, fresh := 0, modes := Modes.reset, dict := Dict.reset, ecat := Ecat.reset,
    cfg := ConfigSets.reset, ev := Events.reset, pwr := Power.reset, boot := Boot.reset, mbox := Mailbox.reset,
    flash := Flash.reset, upd := Update.reset, telem := Telemetry.reset, otp := Otp.reset, fe := FrontEnd.reset,
    tim := Timing.reset, lamps := Lamps.reset, ind := Indicators.reset, pipe := Pipeline.reset, lv := Leaven.reset,
    cmp := Compare.reset, cist := Cistern.reset, host := HostStream.reset, mot := Motion.reset, tw := TwoWire.reset,
    pins := Pins.reset, tap := Tap.reset, bench := Bench.reset, pending := [] }

end Sys2Proof.Machine
end

