-- ==== Sys2Proof/Machine/Ops.lean ====
section
/-! DEFINITION. The named operations over the device's stores and registers: sparse stores, object values, free values,
and small accessors of its parts. -/
namespace Sys2Proof.Machine

/-! ## Sparse stores -/

/-- The value at a key, `d` where none is listed. -/
def sparseGet (k d : Nat) : Sparse → Nat
  | [] => d
  | (a, v) :: t => if a = k then v else sparseGet k d t

/-- The store without the key. -/
def sparseErase (k : Nat) : Sparse → Sparse
  | [] => []
  | (a, v) :: t => if a = k then sparseErase k t else (a, v) :: sparseErase k t

/-- Lists a value in ascending order of the key. -/
def sparseInsert (k v : Nat) : Sparse → Sparse
  | [] => [(k, v)]
  | (a, w) :: t =>
    if k < a then (k, v) :: (a, w) :: t
    else if k = a then (k, v) :: t
    else (a, w) :: sparseInsert k v t

/-- The store with the value at the key; a value equal to the default `d` is not listed. -/
def sparseSet (k d v : Nat) (m : Sparse) : Sparse :=
  if v = d then sparseErase k m else sparseInsert k v m

/-- The byte string at a key, if one is listed. -/
def bytesGet (k : Nat) : SparseBytes → Option (List Byte)
  | [] => none
  | (a, v) :: t => if a = k then some v else bytesGet k t

def bytesErase (k : Nat) : SparseBytes → SparseBytes
  | [] => []
  | (a, v) :: t => if a = k then bytesErase k t else (a, v) :: bytesErase k t

/-- The store with the byte string at the key. -/
def bytesSet (k : Nat) (v : List Byte) : SparseBytes → SparseBytes
  | [] => [(k, v)]
  | (a, w) :: t =>
    if k < a then (k, v) :: (a, w) :: t
    else if k = a then (k, v) :: t
    else (a, w) :: bytesSet k v t

/-! ## Addressed bytes (HOST_SCRATCH) -/

/-- What an unlisted byte of HOST_SCRATCH reads as (log entry 6). -/
def scratchUnlisted : Byte := 0

/-- The byte at an address; `u` is what an unlisted byte reads. -/
def cellGet (u : Nat → Byte) (a : Nat) : List Host.Cell → Byte
  | [] => u a
  | c :: t => if c.1 = a then c.2 else cellGet u a t

/-- Removes the entry of an address. -/
def cellErase (a : Nat) : List Host.Cell → List Host.Cell
  | [] => []
  | c :: t => if c.1 = a then t else c :: cellErase a t

/-- Lists a byte in ascending order of the address. -/
def cellInsert (a : Nat) (b : Byte) : List Host.Cell → List Host.Cell
  | [] => [(a, b)]
  | c :: t =>
    if a < c.1 then (a, b) :: c :: t
    else if a = c.1 then (a, b) :: t
    else c :: cellInsert a b t

/-- Writes one byte and keeps the canonical form. -/
def cellSet (u : Nat → Byte) (a : Nat) (b : Byte) (m : List Host.Cell) : List Host.Cell :=
  if b = u a then cellErase a m else cellInsert a b m

/-- Writes bytes from an address on. -/
def cellsWrite (u : Nat → Byte) : Nat → List Byte → List Host.Cell → List Host.Cell
  | _, [], m => m
  | a, b :: bs, m => cellsWrite u (a + 1) bs (cellSet u a b m)

/-- Reads `n` bytes from an address on. -/
def cellsRead (u : Nat → Byte) (m : List Host.Cell) : Nat → Nat → List Byte
  | _, 0 => []
  | a, n + 1 => cellGet u a m :: cellsRead u m (a + 1) n

/-- Addresses strictly rising from above `lo`, and no entry equal to what an unlisted byte reads. -/
def cellsFrom (u : Nat → Byte) : Option Nat → List Host.Cell → Bool
  | _, [] => true
  | lo, c :: t =>
    (match lo with
      | some l => decide (l < c.1)
      | none => true) && decide (c.2 ≠ u c.1) && cellsFrom u (some c.1) t

/-- The canonical form of addressed bytes. -/
def Memory.wf (u : Nat → Byte) (m : List Host.Cell) : Bool := cellsFrom u none m

/-! ## Object values -/

/-- The value last accepted for an object, as a read returns it (R327). -/
def val (r : Ref) (s : State) : Nat := sparseGet r.key r.dflt s.dict.held

/-- The value of a signed object of `w` bits. -/
def sval (w : Nat) (r : Ref) (s : State) : Int := toSigned w (val r s)

/-- The value in force of an object that takes effect at the transition to READY (R327). -/
def valReady (r : Ref) (s : State) : Nat := sparseGet r.key r.dflt s.dict.atReady

/-- The value in force of an object that takes effect at session open (R327). -/
def valSession (r : Ref) (s : State) : Nat := sparseGet r.key r.dflt s.dict.atSession

/-- The value in force of an object that takes effect at the next reset (R215, R320, R356). -/
def valReset (r : Ref) (s : State) : Nat := sparseGet r.key r.dflt s.dict.atReset

/-- The value in force of a deferred object (R156). -/
def valRun (r : Ref) (s : State) : Nat := sparseGet r.key r.dflt s.dict.atRun

/-- The object with the value last accepted replaced. -/
def setVal (r : Ref) (v : Nat) (s : State) : State :=
  { s with dict := { s.dict with held := sparseSet r.key r.dflt v s.dict.held } }

/-- The same for a key with its table default. -/
def setKey (k v : Nat) (s : State) : State := setVal ⟨k, keyDefault k⟩ v s

/-- A BOOL object. -/
def flagVal (r : Ref) (s : State) : Bool := decide (val r s ≠ 0)

/-- The byte string held at a key, or the given default. -/
def bulkVal (k : Nat) (d : List Byte) (s : State) : List Byte := (bytesGet k s.dict.bulk).getD d

/-- The same as in force since the last transition to READY. -/
def bulkReady (k : Nat) (d : List Byte) (s : State) : List Byte := (bytesGet k s.dict.bulkAtReady).getD d

/-- Replaces a byte string. -/
def setBulk (k : Nat) (v : List Byte) (s : State) : State :=
  { s with dict := { s.dict with bulk := bytesSet k v s.dict.bulk } }

/-- Returns a byte string to its default. -/
def clearBulk (k : Nat) (s : State) : State := { s with dict := { s.dict with bulk := bytesErase k s.dict.bulk } }

/-! ## Free values -/

/-- A free value of `w` bits (log entry 1), and the state with the next one in turn. -/
def takeFree (w : Nat) (s : State) : Nat × State :=
  ((Config.freeBits w s.fresh).toNat, { s with fresh := s.fresh + 1 })

/-! ## Parts of the state -/

def portOf (p : Nat) (s : State) : Port := s.fe.ports.getD p Port.reset
def modPort (p : Nat) (f : Port → Port) (s : State) : State :=
  { s with fe := { s.fe with ports := modifyAt f p s.fe.ports } }
def groupOf (k : Nat) (s : State) : Group := s.fe.groups.getD k Group.reset
def modGroup (k : Nat) (f : Group → Group) (s : State) : State :=
  { s with fe := { s.fe with groups := modifyAt f k s.fe.groups } }
def encoderOf (e : Nat) (s : State) : Encoder := s.tim.encoders.getD e Encoder.reset
def modEncoder (e : Nat) (f : Encoder → Encoder) (s : State) : State :=
  { s with tim := { s.tim with encoders := modifyAt f e s.tim.encoders } }
def lampOf (c : Nat) (s : State) : Lamp := s.lamps.colours.getD c Lamp.reset
def modLamp (c : Nat) (f : Lamp → Lamp) (s : State) : State :=
  { s with lamps := { s.lamps with colours := modifyAt f c s.lamps.colours } }
def engineOf (i : Nat) (s : State) : IndEngine := s.ind.engines.getD i IndEngine.reset
def modEngine (i : Nat) (f : IndEngine → IndEngine) (s : State) : State :=
  { s with ind := { s.ind with engines := modifyAt f i s.ind.engines } }
def calOf (k : Nat) (s : State) : GroupCal := s.lv.groups.getD k GroupCal.reset
def modCal (k : Nat) (f : GroupCal → GroupCal) (s : State) : State :=
  { s with lv := { s.lv with groups := modifyAt f k s.lv.groups } }
def chainOf (c : Nat) (s : State) : ChainInfo := s.lv.chains.getD c ChainInfo.reset
def modChain (c : Nat) (f : ChainInfo → ChainInfo) (s : State) : State :=
  { s with lv := { s.lv with chains := modifyAt f c s.lv.chains } }
def chanOf (c : Nat) (s : State) : DmaChan := s.cist.channels.getD c DmaChan.reset
def modChan (c : Nat) (f : DmaChan → DmaChan) (s : State) : State :=
  { s with cist := { s.cist with channels := modifyAt f c s.cist.channels } }
def laneOf (n : Nat) (s : State) : Lane := s.host.lanes.getD n Lane.reset
def modLane (n : Nat) (f : Lane → Lane) (s : State) : State :=
  { s with host := { s.host with lanes := modifyAt f n s.host.lanes } }
def axisOf (a : Nat) (s : State) : Axis := s.mot.axes.getD a Axis.reset
def modAxis (a : Nat) (f : Axis → Axis) (s : State) : State :=
  { s with mot := { s.mot with axes := modifyAt f a s.mot.axes } }
def dirOf (d : Nat) (s : State) : MailDir := s.mbox.dirs.getD d MailDir.reset
def modDir (d : Nat) (f : MailDir → MailDir) (s : State) : State :=
  { s with mbox := { s.mbox with dirs := modifyAt f d s.mbox.dirs } }
def busOf (b : Nat) (s : State) : TwBus := s.tw.buses.getD b TwBus.reset
def modBus (b : Nat) (f : TwBus → TwBus) (s : State) : State :=
  { s with tw := { s.tw with buses := modifyAt f b s.tw.buses } }

/-- The group of a port: G0 holds T00 to T11 and so on (R35). -/
def groupOfPort (p : Nat) : Nat := p / 12

/-- Bit `d` of the power domains: PDd is on. -/
def domainOn (d : Nat) (s : State) : Bool := s.pwr.domains.getLsbD d

/-- Whether the device runs in a mode other than OFF. -/
def running (s : State) : Bool := decide (s.modes.mode ≠ .off)

/-- INLINE or SHEET. -/
def capturing (s : State) : Bool := decide (s.modes.mode = .inline) || decide (s.modes.mode = .sheet)

/-- READY, INLINE or SHEET: the imaging domains are on (Table 1.10). -/
def imaging (s : State) : Bool := decide (s.modes.mode = .ready) || capturing s

/-- STANDBY or FAULT. -/
def atRest (s : State) : Bool := decide (s.modes.mode = .standby) || decide (s.modes.mode = .fault)

/-- EtherCAT is in Op (Table 12.2). -/
def inOp (s : State) : Bool := decide (s.ecat.al = 8)

/-! ## Dictionary writes -/

/-- What a dictionary write comes to: it is accepted, it is accepted and answered later (16 R398), it is refused with an
abort code, or it is a misuse of Table 18.6. -/
inductive WriteOut where
  | ok (s : State)
  | later (s : State)
  | abort (code : Nat) (s : State)
  | misuse (f : Fault)

/-- The state that a write which is no misuse leaves. -/
def WriteOut.state (d : State) : WriteOut → State
  | .ok s => s
  | .later s => s
  | .abort _ s => s
  | .misuse _ => d

/-- The abort code of a write, 0 where it is accepted. -/
def WriteOut.code : WriteOut → Nat
  | .ok _ => 0
  | .later _ => 0
  | .abort c _ => c
  | .misuse _ => 0

/-- The abort codes of Table 12.5. -/
def abortToggle : Nat := 0x05030000
def abortTimeout : Nat := 0x05040000
def abortCommand : Nat := 0x05040001
def abortWriteOnly : Nat := 0x06010001
def abortReadOnly : Nat := 0x06010002
def abortComplete : Nat := 0x06010004
def abortNoIndex : Nat := 0x06020000
def abortNoSub : Nat := 0x06090011
def abortNotMappable : Nat := 0x06040041
def abortMapSize : Nat := 0x06040042
def abortFlash : Nat := 0x06060000
def abortLength : Nat := 0x06070010
def abortRange : Nat := 0x06090030
def abortContent : Nat := 0x08000020
def abortState : Nat := 0x08000022
def abortNoData : Nat := 0x08000024

/-- Whether a write over the path is served: the device is not in OFF, CoE SDO needs the mailbox (Pre-Op, Safe-Op or Op),
TSP CONTROL an open session, and the RxPDO EtherCAT Op (Table 12.2, R277). -/
def served (via : Path) (s : State) : Bool :=
  running s &&
    match via with
    | .sdo => decide (s.ecat.al = 2) || decide (s.ecat.al = 4) || decide (s.ecat.al = 8)
    | .tsp => decide (s.host.session ≠ 0)
    | .pdo => decide (s.ecat.al = 8)

/-- The answer of a write: over CoE SDO and TSP the abort code is returned; over the RxPDO none can be (R27). -/
def answerWrite (via : Path) (code : Nat) (s : State) : State :=
  match via with
  | .pdo => s
  | _ => { s with dict := { s.dict with reply := some ⟨via, code, []⟩ } }

/-- The outcome of a served write. -/
def WriteOut.outcome (via : Path) : WriteOut → Host.Outcome State Fault Refusal
  | .ok s => .next (answerWrite via 0 s)
  | .later s => .next s
  | .abort c s => .next (answerWrite via c s)
  | .misuse f => .fault f

/-- An accepted write of an object that sets hold, while a commit runs, is noted (12 R341). -/
def noteWrite (s : State) : State :=
  if s.cfg.commit.isSome then { s with cfg := { s.cfg with wrote := true } } else s

/-- The write of an object that sets hold: noted where it is accepted. -/
def WriteOut.noted : WriteOut → WriteOut
  | .ok s => .ok (noteWrite s)
  | .later s => .later (noteWrite s)
  | o => o

/-- A command that is a dictionary write: its handler where the path is served, nothing where it is not. -/
def writeCommand (via : Path) (h : State → WriteOut) (s : State) : Host.Outcome State Fault Refusal :=
  if served via s then (h s).outcome via else .next s

/-- One nanosecond passes: the time base and the local count both advance (R5, R338). -/
def idle (s : State) : State := { s with now := s.now + 1, clk := s.clk + 1 }

end Sys2Proof.Machine
end

