-- ==== Sys2Proof/Machine/Flags.lean ====
section
/-! DEFINITION. Flag computations: sticky bits and their clearing, conditional bits of status words, and saturating
counts. -/
namespace Sys2Proof.Machine

/-- A status word from its bits, bit 0 first. -/
def bitsOf : List Bool → Nat
  | [] => 0
  | b :: t => b2n b + 2 * bitsOf t

/-- A sticky word with bit `i` set. -/
def stick (i : Nat) (v : Nat) : Nat := setBit v i true

/-- A sticky word after a write of `w` to its clear object: each 1 clears that bit. -/
def unstick (v w : Nat) : Nat := clearBits v w 32

/-- A count that saturates at `m`. -/
def satCount (m n : Nat) : Nat := if n < m then n + 1 else m

/-- Which bits among the first `n` a predicate names, as a number. -/
def maskOf (f : Nat → Bool) (n : Nat) : Nat := bitsOf ((List.range n).map f)

/-- The positions of the set bits among the first `n`. -/
def setBits (v n : Nat) : List Nat := (List.range n).filter (bitOf v)

end Sys2Proof.Machine
end

