-- ==== Sys2Proof/Machine/Operands.lean ====
section
/-! DEFINITION. The operand forms: typed values of the dictionary (Table 12.4), instruction fields of the timing program
(Table 3.1), the indicator programs (Table 4.7) and the segment lists (Table 11.7). -/
namespace Sys2Proof.Machine

/-! ## Typed values -/

/-- The value of an object's type that its bytes carry: the number the object holds, and the value its own range is
checked on. -/
def typedValue (t : ObjType) (data : List Byte) : Nat × Int :=
  let n := leNat data
  match t with
  | .i16 => (n, toSigned 16 n)
  | .i32 => (n, toSigned 32 n)
  | .i64 => (n, toSigned 64 n)
  | _ => (n, n)

/-- The bytes of a held number in the object's type. -/
def typedBytes (t : ObjType) (v : Nat) : List Byte := leBytes t.size v

/-! ## REAL32 (Table 12.4) -/

/-- The value of an IEEE 754 single; none for an infinity or a NaN. -/
def realValue (raw : Nat) : Option Frac :=
  let sgn : Int := if bitOf raw 31 then -1 else 1
  let e := bits raw 30 23
  let m := bits raw 22 0
  if e = 255 then none
  else if e = 0 then some (Frac.mk' (sgn * m) (2 ^ 149))
  else if e ≥ 150 then some (Frac.mk' (sgn * (m + 2 ^ 23) * 2 ^ (e - 150)) 1)
  else some (Frac.mk' (sgn * (m + 2 ^ 23)) (2 ^ (150 - e)))

/-- A fraction scaled so that its integer part has 24 bits: the exponent field and the significand, rounded to the
nearest, ties to even. `e` counts down from the largest exponent. -/
def realSearch (a : Frac) : Nat → Nat × Nat
  | 0 => (0, 0)
  | e + 1 =>
    let f := e + 1
    -- the unit of a number with exponent field f
    let scaled := if f ≥ 150 then Frac.mk' a.num (a.den * 2 ^ (f - 150)) else Frac.mk' (a.num * 2 ^ (150 - f)) a.den
    if (Frac.ofNat (2 ^ 23)).le scaled || f = 1 then
      let q := scaled.floor.toNat
      let r := scaled.sub (Frac.ofNat q)
      let half := Frac.mk' 1 2
      let up := half.lt r || (r.eq half && q % 2 = 1)
      let m := if up then q + 1 else q
      if m ≥ 2 ^ 24 then (f + 1, 0) else if m < 2 ^ 23 then (0, m) else (f, m - 2 ^ 23)
    else realSearch a e

/-- A fraction as an IEEE 754 single, rounded to the nearest (log entry 7). -/
def realBits (a : Frac) : Nat :=
  let s := if a.num < 0 then 2 ^ 31 else 0
  let (e, m) := realSearch a.abs 254
  if e ≥ 255 then s + 255 * 2 ^ 23 else s + e * 2 ^ 23 + m

/-! ## Fields of the timing program (Table 3.1) -/

/-- The opcode of a word in its top four bits of `w`. -/
def opcode32 (w : Nat) : Nat := bits w 31 28
def opcode64 (w : Nat) : Nat := bits w 63 60

end Sys2Proof.Machine
end

