-- ==== Sys2Proof/Machine/Events.lean ====
section
/-! DEFINITION. Events and errors (18_errors R436 to R447), the log entries they become (16_management R406, R407), the
messages of the MP (R400) and the emergency queue (R444). -/
namespace Sys2Proof.Machine

/-! ## Mailbox sends of the MP (R393) -/

/-- The domain that holds the ring of a direction (Table 16.1). -/
def ringDomain (d : Nat) : Nat :=
  if d = 2 ∨ d = 7 then 2 else if d = 4 ∨ d = 6 then 3 else 1

/-- The receive slots of a direction (Table 16.1). -/
def ringSlots (d : Nat) : Nat := if d = 1 then 64 else 16

/-- The MP sends a message on a direction; a sender has one send in progress, so a later message waits (R393). -/
def mpSend (d : Nat) (m : Message) (s : State) : State :=
  modDir d (fun x => match x.sending with
    | none => { x with sending := some m }
    | some _ => { x with queued := x.queued ++ [m] }) s

/-- A HOST–MP message (Table 16.2). -/
def hostMessage (typ seq : Nat) (payload : List Byte) : Message :=
  [BitVec.ofNat 8 typ, BitVec.ofNat 8 payload.length] ++ leBytes 2 seq ++ leBytes 4 0 ++ padTo 56 (payload.take 56)

/-- The MP sends a message of Table 16.3 on direction 1, with the next sequence number of the direction. -/
def mpMessage (typ : Nat) (payload : List Byte) (s : State) : State :=
  let seq := s.mbox.nextSeq
  let s := { s with mbox := { s.mbox with nextSeq := (seq + 1) % 65536 } }
  mpSend 1 (hostMessage typ seq payload) s

/-! ## Events (Tables 18.1 and 18.2) -/

/-- The class of an event (Table 18.2); PLL_UNLOCK is FATAL for PLL0 to PLL4. -/
def Event.cls (e : Event) : Nat :=
  if e.code = 0x0B05 then (if e.source ≤ 4 then 3 else 2)
  else if [0x0700, 0x0B01, 0x0B02, 0x0B07, 0x0B08, 0x0C02, 0x0C03].contains e.code then 3
  else if [0x0100, 0x0101, 0x0102, 0x0301, 0x0400, 0x0402, 0x0503, 0x0600, 0x0602, 0x0702, 0x0704, 0x0800, 0x0801,
      0x0802, 0x0803, 0x0805, 0x0900, 0x0901, 0x0902, 0x0903, 0x0A01, 0x0B03, 0x0B04, 0x0C04, 0x0D01].contains e.code
    then 2
  else if [0x0200, 0x0204, 0x0205, 0x0206, 0x0300, 0x0302, 0x0401, 0x0500, 0x0504, 0x0601, 0x0703, 0x0804, 0x0904,
      0x0A02, 0x0A03, 0x0A04, 0x0B00, 0x0B06, 0x0B0A, 0x0C01, 0x0C05, 0x0C06, 0x0C08, 0x0D00, 0x0D02].contains e.code
    then 1
  else 0

/-- The error code and register bit of an event (Table 18.3). -/
def emergencyRow (code : Nat) : Nat × Nat :=
  let area := code / 256
  if area = 0x08 ∨ area = 0x0D then (0x8100, 4)
  else if area = 0x09 then (0x2300, 1)
  else if code = 0x0B00 then (0x3100, 2)
  else if code = 0x0B01 ∨ code = 0x0B02 ∨ code = 0x0B03 then (0x3200, 2)
  else if code = 0x0B06 ∨ code = 0x0B07 ∨ code = 0x0B08 then (0x4200, 3)
  else if area = 0x01 ∨ area = 0x03 ∨ area = 0x07 ∨ area = 0x0B then (0x5000, 7)
  else if area = 0x0A ∨ area = 0x0C then (0x6100, 7)
  else (0xFF00, 7)

/-- ERROR_REGISTER (R443). -/
def errorRegister (ev : Events) : Nat :=
  let bit (e : Option LogEntry) (i : Nat) : Bool :=
    match e with
    | some x => decide ((emergencyRow x.code).2 = i)
    | none => false
  bitsOf (ev.first.isSome :: ((List.range 7).map (fun i => bit ev.first (i + 1) || bit ev.firstFatal (i + 1))))

/-- The bytes of a log entry (Table 16.6). -/
def LogEntry.bytes (e : LogEntry) : List Byte :=
  let body := leBytes 8 e.time ++ leBytes 4 e.sequence ++ leBytes 2 e.code ++ leBytes 1 e.cls ++ leBytes 1 e.flags
    ++ leBytes 2 e.source ++ leBytes 2 0 ++ padTo 8 (e.detail.take 8)
  body ++ leBytes 4 (crc32c body)

/-! ## Emergency messages (R444) -/

/-- The class of a queued emergency message. -/
def MailIn.cls : MailIn → Nat
  | .emergency _ _ _ _ c => c
  | _ => 0

/-- Removes the youngest waiting message of class ERROR, if any. -/
def dropYoungestError (l : List MailIn) : Option (List MailIn) :=
  let r := l.reverse
  match r.findIdx? (fun m => decide (m.cls ≠ 3)) with
  | some i => some ((r.eraseIdx i).reverse)
  | none => none

/-- Queues an emergency message: up to 8 wait, and a FATAL one goes ahead of every message still queued (R440, R444), but behind
the `k` FATAL ones of the same cycle that come before it (R438). The message of an acknowledgement counts as class ERROR. -/
def queueEmergency (k : Nat) (m : MailIn) (ev : Events) : Events :=
  let ahead (l : List MailIn) : List MailIn := l.take k ++ m :: l.drop k
  let fatal := decide (m.cls = 3)
  if ev.emergencies.length < 8 then
    { ev with emergencies := if fatal then ahead ev.emergencies else ev.emergencies ++ [m] }
  else if fatal then
    match dropYoungestError ev.emergencies with
    | some l => { ev with emergencies := ahead l, emcyLost := ev.emcyLost + 1 }
    | none => { ev with emcyLost := ev.emcyLost + 1 }
  else { ev with emcyLost := ev.emcyLost + 1 }

/-- EtherCAT is in Pre-Op, Safe-Op or Op, where the mailbox works (12 Table 12.2). -/
def mailboxOn (s : State) : Bool := decide (s.ecat.al = 2) || decide (s.ecat.al = 4) || decide (s.ecat.al = 8)

/-- The SM1 mailbox takes the next waiting emergency message, or the next response (log entry 8), when it is empty. -/
def fillMailbox (s : State) : State :=
  match s.ecat.sm1, mailboxOn s with
  | some _, _ => s
  | none, false => s
  | none, true =>
    match s.ev.emergencies, s.ecat.responses with
    | m :: t, _ => { s with ecat := { s.ecat with sm1 := some m }, ev := { s.ev with emergencies := t } }
    | [], m :: t => { s with ecat := { s.ecat with sm1 := some m, responses := t } }
    | [], [] => s

/-- Whether emergency messages are sent: EMCY_ENABLE is set and EtherCAT is in Pre-Op, Safe-Op or Op (R444). -/
def emergencySent (s : State) : Bool :=
  flagVal Obj.EMCY_ENABLE s && mailboxOn s

/-! ## Logging (R406, R407, R439) -/

/-- What an error does to the first-error record (R439). -/
def recordError (e : LogEntry) (ev : Events) : Events :=
  match ev.first with
  | none => { ev with first := some e, fillers := ev.fillers ++ [e.sequence] }
  | some f =>
    let ev := { ev with overflow := satCount 65535 ev.overflow, classMap := setBit ev.classMap e.cls true }
    if f.cls = 2 && e.cls = 3 && ev.firstFatal.isNone then { ev with firstFatal := some e } else ev

/-- Whether a class is an error (R436). -/
def isError (cls : Nat) : Bool := decide (cls = 2 ∨ cls = 3)

/-- The log entry of an event at this moment (Table 16.6): flag [0] while the time base is aligned, in EtherCAT Op. -/
def Event.entry (e : Event) (s : State) : LogEntry :=
  { time := s.now, sequence := s.ev.nextSeq, code := e.code, cls := e.cls, flags := b2n (inOp s), source := e.source,
    detail := e.detail }

/-- An entry waits in the buffer of 512 entries, or is lost and counted (R407). -/
def bufferEntry (e : LogEntry) (ev : Events) : Events :=
  if ev.waiting.length < 512 then { ev with waiting := ev.waiting ++ [e] }
  else { ev with notStored := ev.notStored + 1 }

/-- Records one event: the entry, the first-error record, the emergency message behind `k` of its cycle, and the EVENT_NOTICE. -/
def recordEvent (k : Nat) (e : Event) (s : State) : State :=
  let entry := e.entry s
  let ev := bufferEntry entry { s.ev with nextSeq := s.ev.nextSeq + 1, logged := s.ev.logged + 1 }
  let ev := if isError entry.cls then recordError entry ev else ev
  let row := emergencyRow e.code
  let ev := if isError entry.cls && emergencySent s
    then queueEmergency k (.emergency row.1 (errorRegister ev) e.code e.source entry.cls) ev else ev
  let s := { s with ev := ev }
  if flagVal Obj.EVENT_NOTICE_ENABLE s then mpMessage 0x84 entry.bytes s else s

/-- Logs one event, or holds it back where the events of a command are gathered. The FAULT actions of a FATAL event are not
here. -/
def logEvent (e : Event) (s : State) : State :=
  match s.ev.held with
  | some l => { s with ev := { s.ev with held := some (l ++ [e]) } }
  | none => fillMailbox (recordEvent 0 e s)

/-- The order of events of one MP cycle: higher class, then lower code, then lower source (R438). -/
def Event.before (a b : Event) : Bool :=
  if a.cls ≠ b.cls then decide (b.cls < a.cls)
  else if a.code ≠ b.code then decide (a.code < b.code)
  else decide (a.source ≤ b.source)

def insertEvent (e : Event) : List Event → List Event
  | [] => [e]
  | x :: t => if e.before x then e :: x :: t else x :: insertEvent e t

/-- Events in the order of R438. -/
def sortEvents (l : List Event) : List Event := l.foldl (fun acc e => insertEvent e acc) []

/-- Records events in turn, after `k` FATAL ones of their cycle. -/
def recordEvents : List Event → Nat → State → State
  | [], _, s => s
  | e :: t, k, s => recordEvents t (if e.cls = 3 then k + 1 else k) (recordEvent k e s)

/-- Logs the events of one command in the order of R438. -/
def logEvents (l : List Event) (s : State) : State :=
  match s.ev.held with
  | some h => { s with ev := { s.ev with held := some (h ++ l) } }
  | none => if l.isEmpty then s else fillMailbox (recordEvents (sortEvents l) 0 s)

/-- What a command does, with its events gathered and then logged in the order of R438: they fall in one MP cycle. -/
def inOneCycle (f : State → State) (s : State) : State :=
  let t := f { s with ev := { s.ev with held := some [] } }
  logEvents (t.ev.held.getD []) { t with ev := { t.ev with held := s.ev.held } }

/-- No source. -/
def noSource : Nat := 0xFFFF

/-- Logs `e` and sets bit `i` of a sticky word, the event only where the bit was clear. -/
def logOnce (was : Nat) (i : Nat) (e : Event) (s : State) : State := if bitOf was i then s else logEvent e s

end Sys2Proof.Machine
end

