-- ==== Sys2Proof/Machine/Correct.lean ====
section
/-! DEFINITION. The stages of the image path on words: the converter (02 R40 to R44), stage A (05 R113 to R115), tile
linearisation (R117), stage B (R118), defect substitution (R131), the edge factors of stitching (R136), the interpolator
(06 R144), resolution and packing (R151 to R154). -/
namespace Sys2Proof.Machine

/-- The 16-bit clip of every stage (R111). -/
def clip16 (v : Int) : Nat := (clampInt 0 65535 v).toNat

/-! ## The converter (R40, R44) -/

/-- The full scale of a range code, in zeptocoulombs (Table 2.4). -/
def fullScale (r : Nat) : Int := 250000000 * 2 ^ r

/-- round(4096 × Q / FS) + 64, clipped to 0 to 4095 (R44). -/
def convertCharge (q fs : Int) : Nat := (clampInt 0 4095 (roundDiv (4096 * q) fs + 64)).toNat

/-- The mean of codes. -/
def meanNat (l : List Nat) : Frac := Frac.mk' (sumNats l) l.length

/-- Whether a port samples by CDS: SAMPLE_MODE 1, or AUTO at a group pixel clock of 100 MHz or less (R42). -/
def cdsActive (mode clockKHz : Nat) : Bool := decide (mode = 1) || (decide (mode = 0) && decide (clockKHz ≤ 100000))

/-- A tracked level after slot s (R43): L(s − 1) + (M − L(s − 1)) / TRACK_TC, or the first M. -/
def trackLevel (l : Option Frac) (m : Frac) (tc : Nat) : Frac :=
  match l with
  | none => m
  | some l => l.add ((m.sub l).div (Frac.ofNat tc))

/-- A tracked word: the conversion less L(s), plus the pedestal of 64 codes (R43, log entry 9). -/
def trackedWord (conv : Nat) (l : Frac) : Nat := (clampInt 0 4095 (((Frac.ofNat conv).sub l).round + 64)).toNat

/-- Whether the mean of masked dark codes is at a rail (R44). -/
def atRail (m : Frac) : Bool := (Frac.ofNat 4032).le m || m.le (Frac.ofNat 63)

/-! ## Stage A -/

/-- The default entry of STAGE_A_CHAIN: gain 1.0 and offset 64 codes (R114). -/
def chainDefault : Nat := 0x40000400

/-- Entry `i` of a table of `n`-byte values, `d` where the table holds its defaults. -/
def tableEntry (t : Option (List Byte)) (n i d : Nat) : Nat :=
  match t with
  | none => d
  | some l => fieldAt l (n * i) n

/-- STAGE_A_CHAIN entry of a chain, range and colour (R114). -/
def chainEntry (t : Option (List Byte)) (chain r c : Nat) : Nat := tableEntry t 4 (16 * chain + 4 * r + c) chainDefault

def entryGain (e : Nat) : Nat := bits e 31 16
def entryOffset (e : Nat) : Nat := bits e 15 0

/-- STAGE_A_DRIFT of a port and colour (R114); a DARK slot takes 16,384 (R113). -/
def driftEntry (t : Option (List Byte)) (p c : Nat) : Nat :=
  if c = 3 then 16384 else tableEntry t 2 (3 * p + c) 16384

/-- The code of a slot colour (Table 3.1). -/
def Colour.code : Colour → Nat
  | .red => 0 | .green => 1 | .blue => 2 | .dark => 3

/-- The colour of a code. -/
def Colour.ofCode : Nat → Colour
  | 0 => .red | 1 => .green | 2 => .blue | _ => .dark

/-- GD of R113. -/
def stageAGain (entry drift : Nat) : Int := roundDiv ((entryGain entry : Int) * drift) 16384

/-- Stage A on one word (R113). -/
def stageA (entry drift code : Nat) : Nat :=
  clip16 (1024 + roundDiv (stageAGain entry drift * (16 * (code : Int) - entryOffset entry)) 16384)

/-! ## Stages 4 to 6 -/

/-- The default linearisation point k (R117). -/
def linDefault (k : Nat) : Nat := min (2048 * k) 65535

/-- Tile linearisation of one word (R117). -/
def linearise (t : Option (List Byte)) (p c v : Nat) : Nat :=
  let k := v / 2048
  let f : Int := v - 2048 * k
  let pt (j : Nat) : Int := tableEntry t 2 (99 * p + 33 * c + j) (linDefault j)
  clip16 (pt k + roundDiv ((pt (k + 1) - pt k) * f) 2048)

/-- Entry 3x + c of a shading bank (Table 5.2); the identity where the bank holds none (R120). -/
def bankEntry (raw : Option (List Byte)) (x c : Nat) : Nat × Nat :=
  match raw with
  | none => (1024, 16384)
  | some l => let e := fieldAt l (4 * (3 * x + c)) 4; (bits e 27 16, bits e 15 0)

/-- STRIP_REF of a port and colour (Table 5.2). -/
def stripRef (raw : Option (List Byte)) (p c : Nat) : Nat :=
  match raw with
  | none => 0
  | some l => fieldAt l (940032 + 2 * (3 * p + c)) 2

/-- The automatic defect entries of a bank (Table 5.2). -/
def bankDefects (raw : Option (List Byte)) : List Nat :=
  match raw with
  | none => []
  | some l => (words32 (l.drop 940612)).take (fieldAt l 940608 4)

/-- Stage B on one word (R118). -/
def stageB (e : Nat × Nat) (v : Nat) : Nat := clip16 (roundDiv (((v : Int) - e.1) * e.2) 16384)

/-- The methods of Table 5.4. -/
def defectMethod (e : Nat) : Nat := bits e 28 27
def defectX (e : Nat) : Nat := bits e 16 0
/-- Whether a defect entry names a colour: bit 29 RED, 30 GREEN, 31 BLUE (Table 5.4). -/
def defectHas (e c : Nat) : Bool := bitOf e (29 + c)

/-- The method for a pixel and colour: the host entry governs (R130). -/
def defectAt (host auto : List Nat) (x c : Nat) : Option Nat :=
  match host.find? (fun e => decide (defectX e = x) && defectHas e c) with
  | some e => some (defectMethod e)
  | none => (auto.find? (fun e => decide (defectX e = x) && defectHas e c)).map defectMethod

/-- The nearest good pixel of a tile on one side, at most 4 pixels away (R131). -/
def nearestGood (words : List Nat) (listed : Nat → Bool) (i : Nat) (left : Bool) : Option Nat :=
  let cand := [1, 2, 3, 4].filterMap (fun d =>
    if left then (if d ≤ i then some (i - d) else none)
    else if i + d < words.length then some (i + d) else none)
  (cand.find? (fun j => !listed j)).map (fun j => words.getD j 0)

/-- Substitution of one listed pixel (R131): the word, or none where no good pixel is near. -/
def substitute (words : List Nat) (listed : Nat → Bool) (method i : Nat) : Option Nat :=
  let l := nearestGood words listed i true
  let r := nearestGood words listed i false
  let or2 (a b : Option Nat) : Option Nat := match a with
    | some v => some v
    | none => b
  match method with
  | 1 => or2 l r
  | 2 => or2 r l
  | _ => match l, r with
    | some a, some b => some (roundDiv (a + b) 2).toNat
    | a, b => or2 a b

/-- Stage 6 on the words of a tile in one colour: the words, and how many listed pixels were left (R131). -/
def substituteTile (host auto : List Nat) (t c : Nat) (words : List Nat) : List Nat × Nat :=
  let method (i : Nat) : Option Nat := if i < 816 then defectAt host auto (816 * t + i) c else none
  let listed (i : Nat) : Bool := (method i).isSome
  let step (acc : List Nat × Nat) (iv : Nat × Nat) : List Nat × Nat :=
    match method iv.1 with
    | none => (acc.1 ++ [iv.2], acc.2)
    | some m =>
      match substitute words listed m iv.1 with
      | some v => (acc.1 ++ [v], acc.2)
      | none => (acc.1 ++ [iv.2], acc.2 + 1)
  ((List.range words.length).zip words).foldl step ([], 0)

/-! ## Stitching -/

/-- The edge factor at distance d from a seam (R136). -/
def edgeFactor (e : Nat) (d : Nat) : Int := 16384 + roundDiv (((e : Int) - 16384) * (17 - (d : Int))) 16

/-- Edge factors on the 816 words of tile t in colour c (R136). -/
def edgeTile (t : Option (List Byte)) (tile c : Nat) (words : List Nat) : List Nat :=
  ((List.range words.length).zip words).map (fun iv =>
    let i := iv.1
    if i < 16 ∧ 0 < tile then
      clip16 (roundDiv ((iv.2 : Int) * edgeFactor (tableEntry t 2 (6 * (tile - 1) + 2 * c + 1) 16384) (i + 1)) 16384)
    else if 800 ≤ i ∧ i < 816 ∧ tile < 95 then
      clip16 (roundDiv ((iv.2 : Int) * edgeFactor (tableEntry t 2 (6 * tile + 2 * c) 16384) (816 - i)) 16384)
    else iv.2)

/-! ## The interpolator (R144) -/

/-- The coefficients of taps k − 1 to k + 2 at phase φq / 64. -/
def kernel (q : Nat) : List Int :=
  let n : Int := q
  let a := roundDiv (16384 * (-n * 4096 + 2 * n * n * 64 - n * n * n)) (2 * 262144)
  let c := roundDiv (16384 * (n * 4096 + 4 * n * n * 64 - 3 * n * n * n)) (2 * 262144)
  let d := roundDiv (16384 * (-(n * n * 64) + n * n * n)) (2 * 262144)
  [a, 16384 - (a + c + d), c, d]

/-- The coefficients of NEAREST: k below a phase of 0.5, else k + 1 (R144). -/
def nearestKernel (phi : Frac) : List Int := if phi.lt (Frac.mk' 1 2) then [0, 16384, 0, 0] else [0, 0, 16384, 0]

/-- clip(round(Σ h v / 16,384)) (R144). -/
def interpolate (h : List Int) (v : List Nat) : Nat :=
  clip16 (roundDiv (sumInts ((h.zip v).map (fun x => x.1 * (x.2 : Int)))) 16384)

/-! ## Resolution and packing -/

/-- Cuts a list in parts of `n`; the last part takes what is left. -/
def chunks (n : Nat) (l : List Nat) : List (List Nat) :=
  if n = 0 then []
  else (List.range (ceilDiv l.length n)).map (fun i => (l.drop (n * i)).take n)

/-- Cross-track averaging of one line, or of a pair, in one rounding (R151, R152). `bad x` names pixels of marked ports. -/
def averageLines (ratio : Nat) (rows : List (List Nat)) (bad : Nat → Bool) : List Nat :=
  let n := (rows.head?.getD []).length
  (List.range (ceilDiv n ratio)).map (fun i =>
    let xs := (List.range ratio).filterMap (fun j => if i * ratio + j < n then some (i * ratio + j) else none)
    if xs.any bad then 0
    else
      let vs := rows.flatMap (fun r => xs.map (fun x => r.getD x 0))
      (roundDiv (sumNats vs) vs.length).toNat)

/-- The output word of a 16-bit word at `b` bits (R153). -/
def outWord (b v : Nat) : Nat := min (2 ^ b - 1) ((v + 2 ^ (15 - b)) / 2 ^ (16 - b))

/-- One little-endian bit stream of `b`-bit words, padded to a multiple of 8 bytes (R154). -/
def packStream (b : Nat) (ws : List Nat) : List Byte :=
  let v := ws.foldr (fun w acc => w + 2 ^ b * acc) 0
  leBytes (8 * ceilDiv (b * ws.length) 64) v

/-- R, G, B of each pixel in turn. -/
def interleave : List Nat → List Nat → List Nat → List Nat
  | r :: rs, g :: gs, b :: bs => r :: g :: b :: interleave rs gs bs
  | _, _, _ => []

/-- The pixel bytes of a line (R154): layout 0 interleaved, 1 planar. -/
def packLine (b layout : Nat) (planes : List (List Nat)) : List Byte :=
  let p (c : Nat) : List Nat := planes.getD c []
  if layout = 1 then packStream b (p 0) ++ packStream b (p 1) ++ packStream b (p 2)
  else packStream b (interleave (p 0) (p 1) (p 2))

/-- OUT_LINE_BYTES of a number of output pixels (R154). -/
def lineBytes (b layout n : Nat) : Nat :=
  if layout = 1 then 3 * (8 * ceilDiv (b * n) 64) else 8 * ceilDiv (3 * b * n) 64

end Sys2Proof.Machine
end

