-- ==== Sys2Proof/Machine/Lamps.lean ====
section
/-! DEFINITION. Lamp control (04_illumination R88 to R105): levels and fades, the spread exposure, the lamp monitor and
diagnostic requests. Latch cycles stand in Latch. -/
namespace Sys2Proof.Machine

/-! ## Spread exposure (R98) -/

/-- The span S_u in units of 2.5 ns: the largest integer of the parity of W_u within the width less twice START_GUARD. -/
def spanUnits (wu guardNs : Nat) : Nat :=
  let m := (5 * wu - 4 * guardNs) / 5
  if 5 * wu < 4 * guardNs then 0
  else if m % 2 = wu % 2 then m else m - 1

/-- A formed gate waveform: units of 2.5 ns lit in all, sub-pulses, the widest of them, and whether E was clipped. -/
structure Waveform where
  units : Nat
  pulses : Nat
  widest : Nat
  clipped : Bool
  deriving DecidableEq, Repr

/-- E_u with its parity made to fit n and W_u (R98). -/
def parityFit (eu n wu : Nat) : Nat :=
  if (n % 2 = 0 ∧ eu % 2 = 1) ∨ (n % 2 = 1 ∧ eu % 2 ≠ wu % 2) then
    if 4 * n ≤ eu - 1 then eu - 1 else eu + 1
  else eu

/-- The waveform of a lit slot from EXPOSURE in ps, SUBPULSES, the width in units and START_GUARD in ns (R98). -/
def waveform (exposurePs subpulses wu guardNs : Nat) : Waveform :=
  let su := spanUnits wu guardNs
  let e0 := exposurePs / 2500
  let clipped := decide (su < e0)
  let e := min e0 su
  if e = 0 then ⟨0, 0, 0, clipped⟩
  else
    let n := max 1 (min subpulses (min (e / 4) ((su - e) / 4)))
    let eu := parityFit e n wu
    ⟨eu, n, eu / n + (if eu % n = 0 then 0 else 1), clipped⟩

/-- The width of sub-pulse i of n: b units, one more for the middle pulse if r is odd, and one more each for the mirror
pairs nearest the centre (R98). -/
def pulseWidth (eu n i : Nat) : Nat :=
  let b := eu / n
  let r := eu - n * b
  let pairs := r / 2
  if 2 * i + 1 = n then b + r % 2
  else
    -- the pairs in order from the centre
    let fromCentre := if 2 * i < n then (n - 1) / 2 - i - (if n % 2 = 0 then 0 else 1) else i - n / 2 - (if n % 2 = 0 then 0 else 1)
    b + (if fromCentre < pairs then 1 else 0)

/-- The leading edge and the width of each sub-pulse, in units of 2.5 ns from the start of the slot (R98); edges of a slot
whose middle pulse does not lie on the grid are not formed, the parities forbid them. -/
def gatePulses (eu n wu guardNs : Nat) : List (Int × Nat) :=
  let su := spanUnits wu guardNs
  let edge (i : Nat) : Int :=
    let w := pulseWidth eu n i
    -- nominal centre C − S/2 + (i + ½) S/n, in units
    let nominal := (Frac.mk' ((wu : Int) - su) 2).add (Frac.mk' ((2 * (i : Int) + 1) * su) (2 * n))
    (nominal.sub (Frac.mk' w 2)).round
  (List.range n).map (fun i =>
    let w := pulseWidth eu n i
    if 2 * i + 1 = n then (((wu : Int) - w) / 2, w)
    else if 2 * i < n then (edge i, w)
    else ((wu : Int) - edge (n - 1 - i) - w, w))

/-- The single pulse of a diagnostic slot (R104): DIAG_PULSE, or the least width that both checks can judge, rounded up
to 2.5 ns, with the parity of the slot, within S. The parity is reached by one more unit of 2.5 ns, never by one less, since R104
rounds up (DESIGN CHOICE, log entry 179). -/
def diagUnits (pulseNs openMin monFloor level : Nat) (smallestK : Option Frac) (wu guardNs : Nat) : Nat :=
  let su := spanUnits wu guardNs
  let optical : Nat := match smallestK with
    | some k => if k.isZero || decide (level = 0) then 0
        else ((Frac.ofNat (4 * monFloor * 2)).div ((k.mul (Frac.ofNat level)).mul (Frac.ofNat 5))).ceil.toNat
    | none => 0
  let u := if pulseNs = 0 then max (ceilDiv (2 * openMin) 5) optical else ceilDiv (2 * pulseNs) 5
  let u := if u % 2 = wu % 2 then u else u + 1
  min u su

/-! ## The gates (R97) -/

/-- Whether a strip capture runs, beyond waiting. -/
def captureRuns (s : State) : Bool :=
  match s.pipe.capture.state with
  | .idle => false
  | .waiting => false
  | _ => true

/-- Gate lines may be driven: INLINE, SHEET, or READY during a strip capture (R97). -/
def gatesAllowed (s : State) : Bool := capturing s || (decide (s.modes.mode = .ready) && captureRuns s)

/-- Lit slots are driven: in a capture only its white phase drives them (05 R123, R124). -/
def gatesDriven (s : State) : Bool :=
  if captureRuns s then decide (s.pipe.capture.state = .white) else capturing s

/-! ## Words and levels (R94, R95) -/

/-- The colour of a chip: 0 red, 1 green, 2 blue, 3 unused (R94). -/
def chipColour (s : State) (g : Nat) : Nat := tableEntry s.lamps.shiftColour 1 g 3

/-- The word for channel ch of chip g (R94); a chip beyond CHAIN_CHIPS receives none and holds 0. -/
def lampWord (levels : List Nat) (s : State) (g ch : Nat) : Nat :=
  let c := chipColour s g
  if c < 3 ∧ g % 16 < valReady (Obj.CHAIN_CHIPS (g / 16)) s then
    min 4095 (roundDiv ((levels.getD c 0 : Int) * tableEntry s.lamps.shiftTrim 2 (16 * g + ch) 32768) 32768).toNat
  else 0

/-- All words, 64 chips of 16 channels. -/
def lampWords (levels : List Nat) (s : State) : List (List Nat) :=
  (List.range 64).map (fun g => (List.range 16).map (fun ch => lampWord levels s g ch))

/-- LEVEL_ACTUAL at a latch (R95): round(L0 + (L1 − L0) × min(1, t / FADE_TIME)), with the fade that goes on. -/
def fadeStep (c : Nat) (s : State) : Nat × Option (Nat × Nat × Nat) :=
  let l := lampOf c s
  match l.fade with
  | none => (l.levelActual, none)
  | some (l0, since, ms) =>
    let target := val (Obj.LEVEL c) s
    let t := s.clk - since
    if ms * 1000000 ≤ t then (target, none)
    else
      let v := (Frac.ofNat l0).add (Frac.mk' (((target : Int) - l0) * t) (ms * 1000000))
      (v.round.toNat, l.fade)

/-- Opens the lamp settling window with the line of a latch, or with the next line (R91, R96): 1 + LAMP_SETTLE_LINES
lines in all, in every group, by LAMP_SETTLE_LINES as it stands then: a later write does not change an open window (DESIGN
CHOICE, log entry 179). -/
def openLampWindow (s : State) : State :=
  let n := val Obj.LAMP_SETTLE_LINES s + 1
  { s with fe := { s.fe with groups := s.fe.groups.map (fun g => { g with settle := some (max n (g.settle.getD 0)) }) } }

/-! ## LEVEL and LAMP_FAULT_CLEAR -/

/-- A write of LEVEL (R95): a fade from the present level, with FADE_TIME as it stands at the write, also where the target is the
present one (DESIGN CHOICE, log entry 179); while PD12 is off the target is held (R23, R97). -/
def writeLevel (c : Nat) (v : Nat) (s : State) : WriteOut :=
  if 4095 < v then .abort abortRange s
  else
    let s := setVal (Obj.LEVEL c) v s
    if domainOn 12 s && imaging s then
      .ok (modLamp c (fun l => { l with fade := some (l.levelActual, s.clk, val (Obj.FADE_TIME c) s) }) s)
    else .ok s

def execLevelWrite (via : Path) (c : Fin 3) (v : BitVec 16) (s : State) : Host.Outcome State Fault Refusal :=
  writeCommand via (fun s => (writeLevel c v.toNat s).noted) s

/-- A write of LAMP_FAULT_CLEAR (R93): 1 clears LAMP_OPEN_MAP and the sticky bits. -/
def writeLampFaultClear (v : Bool) (s : State) : WriteOut :=
  .ok (if v then { s with lamps := { s.lamps with openMap := List.replicate 64 0, sticky := 0 } } else s)

def execLampFaultClear (via : Path) (s : State) : Host.Outcome State Fault Refusal :=
  writeCommand via (writeLampFaultClear true) s

/-! ## The lamp monitor (R101 to R105) -/

/-- K of a tile and colour from LAMP_MON_REF; none for an entry of 0, to be learned, and for one that is no finite number, which
is treated as one to be learned (DESIGN CHOICE, log entry 179). -/
def monitorK (t c : Nat) (s : State) : Option Frac :=
  let raw := tableEntry (bytesGet (objKey 0x4212 0) s.dict.bulk) 4 (3 * t + c) 0
  match realValue raw with
  | some k => if k.isZero then none else some k
  | none => none

/-- Writes one entry of LAMP_MON_REF. -/
def setMonitorK (t c : Nat) (raw : Nat) (s : State) : State :=
  let k := objKey 0x4212 0
  let tbl := (bytesGet k s.dict.bulk).getD (List.replicate 1152 0)
  let off := 4 * (3 * t + c)
  setBulk k (tbl.take off ++ leBytes 4 raw ++ tbl.drop (off + 4)) s

def monCellOf (t c : Nat) (s : State) : MonCell := s.lamps.monitor.getD (3 * t + c) MonCell.reset
def setMonCell (t c : Nat) (m : MonCell) (s : State) : State :=
  { s with lamps := { s.lamps with monitor := setAt s.lamps.monitor (3 * t + c) m } }

/-- EXPOSURE_ACTUAL (ns) × LEVEL_ACTUAL of a slot. -/
def slotDrive (x : SlotRec) : Frac := (Frac.mk' x.exposure 1000).mul (Frac.ofNat x.level)

/-- Raises a diagnostic request for a colour (R103): one at a time, and after c has been served not before the first line
of the next page. -/
def raiseDiag (c : Nat) (s : State) : State :=
  if s.tim.diagPending.contains (Colour.ofCode c) || (lampOf c s).served then s
  else
    let s' := { s with
      tim := { s.tim with diagPending := s.tim.diagPending ++ [Colour.ofCode c] },
      lamps := { s.lamps with sticky := stick 6 s.lamps.sticky } }
    logOnce s.lamps.sticky 6 ⟨0x0303, c, []⟩ s'

/-- The first line of a page: every colour may be diagnosed again (R103). -/
def pageDiag (s : State) : State :=
  { s with lamps := { s.lamps with colours := s.lamps.colours.map (fun l => { l with served := false }) } }

/-- The lamp monitor on one tile in one slot `x` of colour c of a line (R101 to R103): `m` is the lamp signal, `settling` the
line's SETTLING. A slot that is not decidable, and one of a line with SETTLING, leaves a run of failing or passing slots as it
stands (DESIGN CHOICE, log entry 179). -/
def monitorTile (t c : Nat) (m : Frac) (settling : Bool) (x : SlotRec) (s : State) : State :=
  let drive := slotDrive x
  let cell := monCellOf t c s
  match monitorK t c s with
  | none =>
    if settling || drive.isZero then s
    else
      let cell := { cell with learned := cell.learned + 1, sum := cell.sum.add (m.div drive) }
      if cell.learned < 64 then setMonCell t c cell s
      else
        let k := cell.sum.div (Frac.ofNat cell.learned)
        setMonCell t c { cell with learned := 0, sum := Frac.zero } (setMonitorK t c (realBits k) s)
  | some k =>
    let e := k.mul drive
    let decidable := (Frac.ofNat (val Obj.MON_FLOOR s)).le e
    if decidable then
      if settling then s
      else
        let fails := (m.mul (Frac.ofNat 100)).lt (e.mul (Frac.ofNat (val Obj.MON_LOW s)))
        let n := val Obj.MON_FAIL_SLOTS s
        if fails = cell.dim then setMonCell t c { cell with run := 0 } s
        else if cell.run + 1 < n then setMonCell t c { cell with run := cell.run + 1 } s
        else
          let s := setMonCell t c { cell with dim := !cell.dim, run := 0 } s
          if cell.dim then s else logEvent ⟨0x0302, t, leBytes 1 c⟩ s
    else if x.lit && decide (x.widest < val Obj.OPEN_DETECT_MIN s * 1000) then raiseDiag c s
    else s

/-- The lamp monitor on one tile in a diagnostic slot (R105). -/
def diagnoseTile (t c : Nat) (m : Frac) (x : SlotRec) (s : State) : State :=
  match monitorK t c s with
  | none => s
  | some k =>
    let e := k.mul (slotDrive x)
    if (m.mul (Frac.ofNat 100)).lt (e.mul (Frac.ofNat (val Obj.MON_LOW s))) then
      logEvent ⟨0x0302, t, leBytes 1 c⟩
        { s with lamps := { s.lamps with diagResult := setBit s.lamps.diagResult 4 true } }
    else s

/-- MON_DIM_TILES of a colour. -/
def dimTiles (c : Nat) (s : State) : Nat :=
  ((List.range 96).filter (fun t => (monCellOf t c s).dim)).length

/-- LAMP_STATUS (Table 4.9). -/
def lampStatus (s : State) : Nat :=
  let pend (c : Colour) : Bool := s.tim.diagPending.contains c
  bitsOf [gatesAllowed s, s.lamps.colours.any (fun l => l.fade.isSome), s.lamps.openMap.any (fun m => decide (m ≠ 0)),
    s.lamps.monitor.any (·.dim), bitOf s.lamps.sticky 4, bitOf s.lamps.sticky 5, bitOf s.lamps.sticky 6,
    pend .red, pend .green, pend .blue]

end Sys2Proof.Machine
end

