-- ==== Sys2Proof/Machine/FrontEnd.lean ====
section
/-! DEFINITION. Tile ports, groups and spares (02_tile_front_end R35 to R62): reading a slot, the tone check and the
saturation detector, declarations and their marks, the shared outputs with their settling windows, and handovers. -/
namespace Sys2Proof.Machine

/-! ## Ports -/

/-- PORT_ENABLE in force. -/
def portEnabled (p : Nat) (s : State) : Bool := decide (valReady (Obj.PORT_ENABLE p) s ≠ 0)

/-- The port's group is powered and in service (R57, 14 R359). -/
def groupLive (k : Nat) (s : State) : Bool := domainOn (4 + k) s && !s.pwr.afeOut.getLsbD k

/-- The port is read and checked: enabled, its group powered and in service. -/
def portLive (p : Nat) (s : State) : Bool := portEnabled p s && groupLive (groupOfPort p) s

/-- The port is read on its group's spare. -/
def onSpare (p : Nat) (s : State) : Bool :=
  let g := groupOf (groupOfPort p) s
  match g.spare with
  | .leaven => decide (g.port = some p)
  | .host => decide (g.port = some p)
  | _ => false

/-- The chain that reads a port: its own, or its group's spare (R114). -/
def chainOfPort (p : Nat) (s : State) : Nat := if onSpare p s then 96 + groupOfPort p else p

/-- FS_RANGE, SAMPLE_MODE and the group clock decide how a port samples (R42). -/
def portCds (p : Nat) (s : State) : Bool :=
  cdsActive (valReady (Obj.SAMPLE_MODE p) s) (valReady (Obj.GROUP_PIXEL_CLOCK (groupOfPort p)) s)

def portRange (p : Nat) (s : State) : Nat := valReady (Obj.FS_RANGE p) s

/-- The readout time of a group in ps: the largest PIXEL_COUNT of its enabled ports over the pixel clock (R64), rounded down
to whole ps (DESIGN CHOICE, log entry 158: R64 gives no rounding). -/
def readoutPs (k : Nat) (s : State) : Nat :=
  let counts := ((List.range 12).map (fun i => 12 * k + i)).filterMap (fun p =>
    if portEnabled p s then some (valReady (Obj.PIXEL_COUNT p) s) else none)
  maxNat counts * 1000000000 / valReady (Obj.GROUP_PIXEL_CLOCK k) s

/-! ## Reading one port in one slot (R37 to R44) -/

/-- Which readout indices are masked dark pixels (R38). -/
def isMaskedDark (p : Nat) (s : State) (i : Nat) : Bool :=
  let n := valReady (Obj.PIXEL_COUNT p) s
  let lead := valReady (Obj.REF_LEAD p) s
  let trail := valReady (Obj.REF_TRAIL p) s
  let mon := valReady (Obj.LAMP_MON_INDEX p) s
  decide (i < n) && (decide (i < lead) || decide (n - trail ≤ i)) && decide (i ≠ mon)

/-- The elements of a list at the indices a predicate names. -/
def pick (f : Nat → Bool) (l : List Nat) : List Nat :=
  (((List.range l.length).zip l).filter (fun x => f x.1)).map (·.2)

/-- CDS is selected explicitly with a group pixel clock above 100 MHz (R42). -/
def cdsTooFast (p : Nat) (s : State) : Bool :=
  decide (valReady (Obj.SAMPLE_MODE p) s = 1) && decide (100000 < valReady (Obj.GROUP_PIXEL_CLOCK (groupOfPort p)) s)

/-- `n` free 12-bit codes. -/
def freeCodes : Nat → State → List Nat × State
  | 0, s => ([], s)
  | n + 1, s =>
    let (v, s) := takeFree 12 s
    let (l, s) := freeCodes n s
    (v :: l, s)

/-- What the chain of a port makes of a slot: the stage 1 words, the converter codes of the masked dark pixels that the
saturation detector works on (R44), and the new tracked level. CDS selected explicitly above 100 MHz gives undefined results
(R42, Table 18.6): its words and codes are free values (log entry 159). -/
def convertPort (p : Nat) (pixels : List Pixel) (s : State) : (List Nat × List Nat × Option Frac) × State :=
  let n := valReady (Obj.PIXEL_COUNT p) s
  let fs := fullScale (portRange p s)
  let px := (pixels.take n) ++ List.replicate (n - (pixels.take n).length) (⟨0, 0⟩ : Pixel)
  if portCds p s then
    let code (x : Pixel) : Nat := convertCharge x.charge fs
    let (words, s) :=
      if cdsTooFast p s then freeCodes n s else (px.map code, s)
    ((words, pick (isMaskedDark p s) words, (portOf p s).level), s)
  else
    let conv := px.map (fun x => convertCharge (x.charge + x.reset) fs)
    let dark := pick (isMaskedDark p s) conv
    let l := trackLevel (portOf p s).level (meanNat dark) (valReady (Obj.TRACK_TC p) s)
    ((conv.map (fun c => trackedWord c l), dark, some l), s)

/-- The tap of a port in a slot: its stage 1 words with the reference pixels named (R17, R38). -/
def tapOf (p : Nat) (words : List Nat) (s : State) : PortTap :=
  let mon := valReady (Obj.LAMP_MON_INDEX p) s
  { port := p, chain := chainOfPort p s, range := portRange p s, phase := (portOf p s).phase, codes := words,
    dark := pick (isMaskedDark p s) words, lamp := if mon = 0xFF then none else words[mon]? }

/-- The active words of a port after stage A, with the coefficients of the chain that read the slot (R38, R46, R113) from the
tables as they stood when its line began (R115). -/
def activeWords (p : Nat) (c : Colour) (line : LineRec) (words : List Nat) (s : State) : List Nat :=
  let lead := valReady (Obj.REF_LEAD p) s
  let trail := valReady (Obj.REF_TRAIL p) s
  let entry := chainEntry line.chainSet (chainOfPort p s) (portRange p s) c.code
  let drift := driftEntry line.driftSet p c.code
  ((words.drop lead).take (words.length - lead - trail)).map (stageA entry drift)

/-! ## Marks and declarations (R53 to R56) -/

/-- Sets the port's bit in the lines of the hold from a serial on that a predicate names. -/
def markLines (p : Nat) (f : LineRec → Bool) (s : State) : State :=
  { s with tim := { s.tim with lines := s.tim.lines.map (fun l =>
      if f l then { l with invalid := l.invalid ||| (1#96 <<< p) } else l) } }

/-- A slot of the port has been read in the line. -/
def lineReads (p : Nat) (l : LineRec) : Bool := l.slots.any (fun x => x.taps.any (fun t => decide (t.port = p)))

/-- The serial of the oldest line in the hold. -/
def oldestHeld (s : State) : Nat :=
  match s.tim.lines with
  | l :: _ => l.id.serial
  | [] => s.tim.nextSerial

/-- A declaration (R55): bit `causeBit` of PORT_STATUS, the marks of the suspect lines from `first` on, and the event;
`gone` suspect lines have left the hold without the mark (R54). A port that is latched already logs nothing and counts its
clearing from 0 again (R56). -/
def declarePort (p : Nat) (causeBit : Nat) (first : LineId) (gone : Nat) (s : State) : State :=
  let suspects (l : LineRec) : Bool := decide (first.serial ≤ l.id.serial) && lineReads p l
  if (portOf p s).latched then
    modPort p (fun x => { x with clearing := x.clearing.map (fun _ => 0) }) (markLines p suspects s)
  else
    let y := first.y.getD (2 ^ 64 - 1)
    let s := markLines p suspects s
    let s := modPort p (fun x => { x with
      latched := true, cause := 2 ^ causeBit, faultCount := x.faultCount + 1, faultFirstY := y,
      unmarked := x.unmarked + gone, clearing := none }) s
    logEvent ⟨0x0100 + (causeBit - 2), p, leBytes 8 y⟩ s

/-- One passing window, or one silent line, of a clearing (R56). -/
def clearStep (p : Nat) (s : State) : State :=
  modPort p (fun x => match x.clearing with
    | some n => if 1 ≤ n then { x with latched := false, clearing := none } else { x with clearing := some (n + 1) }
    | none => x) s

/-- FAULT_CLEAR (R56). -/
def writeFaultClear (p : Nat) (v : Bool) (s : State) : WriteOut :=
  .ok (if v && (portOf p s).latched && (portOf p s).clearing.isNone then
    modPort p (fun x => { x with clearing := some 0 }) s else s)

def execFaultClear (via : Path) (p : Fin 96) (s : State) : Host.Outcome State Fault Refusal :=
  writeCommand via (writeFaultClear p true) s

/-- The suspect line of a saturation declaration before the present one, where it has left the hold already (R54). -/
def railGone (first : LineId) (s : State) : Nat := b2n (decide (first.serial < oldestHeld s))

/-- The saturation detector at the end of a port's line (R44, R52, R53): two consecutive lines at a rail declare from the
first of them. With TONE_ENABLE clear a silent line counts for a clearing, and a line at a rail starts the count again
(R56). -/
def endPortLine (p : Nat) (line : LineId) (s : State) : State :=
  let port := portOf p s
  if port.satLine then
    let restart (n : Option Nat) : Option Nat := if flagVal (Obj.TONE_ENABLE p) s then n else n.map (fun _ => 0)
    let s := modPort p (fun x => { x with satBefore := some line, clearing := restart x.clearing }) s
    match port.satBefore with
    | some l => if l.serial + 1 = line.serial then declarePort p 4 l (railGone l s) s else s
    | none => s
  else
    let s := modPort p (fun x => { x with satBefore := none }) s
    if flagVal (Obj.TONE_ENABLE p) s then s else clearStep p s

/-- Reads one port in a slot of a line (R37 to R44, R52, R53, R101): the tap and the words of the port with the state
after the detector, the marks of a latched port and the lamp monitor. -/
def readPort (p : Nat) (d : DuePulse) (line : LineRec) (pixels : List Pixel) (s : State) :
    PortTap × List Nat × State :=
  let ((words, dark, level), s) := convertPort p pixels s
  let tap := tapOf p words s
  let act := activeWords p d.colour line words s
  let rail := atRail (meanNat dark)
  let s := modPort p (fun x => { x with
    level := level,
    satLine := (if d.slotIndex = 0 then true else x.satLine) && rail,
    suspect := match x.suspect with
      | none => some line.id
      | some l => some l }) s
  let s := if (portOf p s).latched then markLines p (fun l => decide (l.id.serial = line.id.serial)) s else s
  let c := d.colour.code
  let monitored := decide (d.colour ≠ .dark) && !(portOf p s).latched
  let s := match tap.lamp, line.slots[d.slotIndex]? with
    | some m, some x =>
      if monitored then
        let sig := (Frac.ofNat m).sub (meanNat tap.dark)
        if line.diagnostic.contains d.colour then diagnoseTile p c sig x s else monitorTile p c sig line.settling x s
      else s
    | _, _ => s
  (tap, act, s)

/-- The pixels that the readings give for a port. -/
def pixelsOf (readings : List Reading) (p : Nat) : List Pixel :=
  match readings.find? (fun r => decide (r.port.val = p)) with
  | some r => r.pixels
  | none => []

/-- Files what a port delivered under its slot. -/
def fileSlot (d : DuePulse) (p : Nat) (tap : PortTap) (act : List Nat) (s : State) : State :=
  let put (x : SlotRec) : SlotRec := { x with words := x.words ++ [(p, act)], taps := x.taps ++ [tap] }
  let inLine (l : LineRec) : LineRec :=
    if l.id.serial = d.serial then { l with slots := modifyAt put d.slotIndex l.slots } else l
  { s with tim := { s.tim with lines := s.tim.lines.map inLine } }

/-- The line of a due pulse, if it is still held. -/
def lineOfPulse (d : DuePulse) (s : State) : Option LineRec := s.tim.lines.find? (fun l => decide (l.id.serial = d.serial))

/-- Reads the live ports of a group in a slot, one after another; at the last slot of the line the detector concludes. -/
def readGroup (k : Nat) (d : DuePulse) (readings : List Reading) (s : State) : State :=
  ((List.range 12).map (fun i => 12 * k + i)).foldl (fun s p =>
    match lineOfPulse d s with
    | none => s
    | some line =>
      if portLive p s then
        let (tap, act, s) := readPort p d line (pixelsOf readings p) s
        let s := fileSlot d p tap act s
        if d.lastOfLine then endPortLine p line.id s else s
      else s) s

/-! ## Tone windows (R49 to R51, R65) -/

/-- 400 ns in ps: the least window that makes a check (R49). -/
def minWindowPs : Nat := 400000

/-- A window of `w` ps after a readout that ends at `read`, before the pulse of a slot that ends at `stop` (R65): shortened
until the lag of that pulse equals START_GUARD, and dropped where it falls under 400 ns. The second part says whether it was
shortened or dropped. -/
def fitWindow (read w stop : Nat) (s : State) : Nat × Bool :=
  let limit : Int := (stop : Int) + val Obj.START_GUARD s * 1000 - read
  if (w : Int) ≤ limit then (w, false)
  else if limit < minWindowPs then (0, true) else (limit.toNat, true)

/-- The window of a group as the engine runs it before its next start pulse (R65). -/
def effectiveWindow (k : Nat) (s : State) : Nat × Bool :=
  let g := groupOf k s
  match s.tim.due.getD k [] with
  | [] => (g.window, false)
  | d :: _ => fitWindow (g.lastPulse + g.lastReadout) g.window d.endTime s

/-- The amplitude of a port in own-chain terms (R50): on the spare, times the ratio of the GREEN stage A gains. -/
def toneAmplitude (p : Nat) (a : Nat) (s : State) : Frac :=
  if onSpare p s then
    let own := entryGain (chainEntry s.lv.chainInForce p (portRange p s) 1)
    let spare := entryGain (chainEntry s.lv.chainInForce (96 + groupOfPort p) (portRange p s) 1)
    Frac.mk' ((a : Int) * own) spare
  else Frac.ofNat a

/-- The verdict of a check (R50): the cause bit of a failing window, or none. -/
def toneVerdict (a : Frac) (ref high low : Nat) : Option Nat :=
  let a100 := a.mul (Frac.ofNat 100)
  if (Frac.ofNat (high * ref)).lt a100 then some 2
  else if a100.lt (Frac.ofNat (low * ref)) then some 3
  else none

/-- One complete window of a learning port (R51): after 16 the reference is their mean, formed at full precision before it is
rounded (R475), and the reference point moves. -/
def learnTone (p : Nat) (a : Frac) (s : State) : State :=
  let port := portOf p s
  match port.learning with
  | none => s
  | some (n, sum) =>
    if port.learnSkip then s
    else
      let sum := sum.add a
      if n + 1 < 16 then modPort p (fun x => { x with learning := some (n + 1, sum) }) s
      else
        let s := setVal (Obj.TONE_REF p) (sum.div (Frac.ofNat 16)).round.toNat s
        modPort p (fun x => { x with learning := none, suspect := none, released := 0 }) s

/-- A check of one port at the end of a complete window (R50, R53, R55, R56). -/
def checkTone (p : Nat) (amplitude : Nat) (line : LineId) (s : State) : State :=
  let a := toneAmplitude p amplitude s
  let s := modPort p (fun x => { x with toneLast := a.round.toNat }) s
  if (portOf p s).learning.isSome then learnTone p a s
  else
    let ref := val (Obj.TONE_REF p) s
    if ref = 0 then s
    else
      match toneVerdict a ref (val (Obj.TONE_LIMIT_HIGH p) s) (val (Obj.TONE_LIMIT_LOW p) s) with
      | some bit => declarePort p bit ((portOf p s).suspect.getD line) (portOf p s).released s
      | none =>
        let s := modPort p (fun x => { x with suspect := none, released := 0 }) s
        if (portOf p s).satBefore.isNone then clearStep p s
        else modPort p (fun x => { x with clearing := x.clearing.map (fun _ => 0) }) s

/-- The ports that a tone window concerns: live, with TONE_ENABLE set (R49). -/
def tonePorts (k : Nat) (s : State) : List Nat :=
  ((List.range 12).map (fun i => 12 * k + i)).filter (fun p => portLive p s && flagVal (Obj.TONE_ENABLE p) s)

/-- What the end of a window of `w` ps comes to for the ports that it concerns: a check, or a count where it is too short
(R49, R50). -/
def judgeWindow (k w : Nat) (line : LineId) (amps : Option (List (Fin 96 × Nat))) (s : State) : State :=
  if w < minWindowPs then
    (tonePorts k s).foldl (fun s p => modPort p (fun x => { x with toneSkipped := x.toneSkipped + 1 }) s) s
  else
    match amps with
    | none => s
    | some l =>
      (tonePorts k s).foldl (fun s p =>
        let a := match l.find? (fun x => decide (x.1.val = p)) with
          | some x => x.2
          | none => 0
        checkTone p a line s) s

/-- No window that began before a learning is open any more (R51). -/
def clearSkips (k : Nat) (s : State) : State :=
  ((List.range 12).map (fun i => 12 * k + i)).foldl (fun s p => modPort p (fun x => { x with learnSkip := false }) s) s

/-- The window of a group ends (R49, R50, R65). -/
def endWindow (k : Nat) (amps : Option (List (Fin 96 × Nat))) (s : State) : State :=
  match (groupOf k s).windowOpen with
  | none => s
  | some line =>
    let (w, short) := effectiveWindow k s
    let s := modGroup k (fun g => { g with window := w, windowOpen := none }) s
    let s := if short then { s with tim := { s.tim with shortened := s.tim.shortened + 1 } } else s
    clearSkips k (judgeWindow k w line amps s)

/-! ## Start pulses (R64, R65) -/

/-- The instants of start pulses that are due in a group, where the readout before them ends at `read` and a window of `w`
ps follows it (R64, R65). -/
def pulseTimes (k : Nat) (s : State) : Nat → Nat → List DuePulse → List Nat
  | _, _, [] => []
  | read, w, d :: ds =>
    let t := max d.endTime (read + (fitWindow read w d.endTime s).1)
    t :: pulseTimes k s (t + readoutPs k s) (2500 * d.tone.getD 0) ds

/-- The start pulses due in a group with their instants. -/
def timedPulses (k : Nat) (s : State) : List (DuePulse × Nat) :=
  let g := groupOf k s
  let ds := s.tim.due.getD k []
  ds.zip (pulseTimes k s (g.lastPulse + g.lastReadout) g.window ds)

/-- The instant of a group's next start pulse (R64). -/
def pulseTime (k : Nat) (d : DuePulse) (s : State) : Nat :=
  let g := groupOf k s
  max d.endTime (g.lastPulse + g.lastReadout + g.window)

/-- An integration of the line of a serial runs past an instant, by the lag of its last start pulse (R60). -/
def runsPast (serial instant : Nat) (s : State) : Bool :=
  s.tim.lines.any (fun l => decide (l.id.serial = serial) && decide (instant < l.pulsed))
    || (List.range 8).any (fun k => (timedPulses k s).any (fun x =>
      decide (x.1.serial = serial) && decide (instant < x.2)))

/-- The sampling instants of a group's ports at a slot boundary (R41). Every SAMPLE_PHASE of its range is taken, and a slot is
converted as usual also where the instant would lie in the reset interval, for which R41 gives neither a refusal nor a result
(DESIGN CHOICE, log entry 92). -/
def takePhases (k : Nat) (s : State) : State :=
  ((List.range 12).map (fun i => 12 * k + i)).foldl (fun s p =>
    modPort p (fun x => { x with phase := val (Obj.SAMPLE_PHASE p) s }) s) s

/-- The start pulse of a slot of a line is issued at an instant. -/
def notePulse (serial p : Nat) (s : State) : State :=
  let note (l : LineRec) : LineRec := if l.id.serial = serial then { l with pulsed := max l.pulsed p } else l
  { s with tim := { s.tim with lines := s.tim.lines.map note } }

/-- START_PULSE: the group's next due pulse is issued, the slot read, and the tone window that follows is placed; one of
length 0 is a window as well (R49, Table 3.1). A window that has not ended is ended by the pulse, without a check. LAG_MAX is
in ns and takes the lag rounded down (DESIGN CHOICE, log entry 158: R65 gives no rounding). -/
def startPulse (k : Nat) (readings : List Reading) (s : State) : State :=
  match s.tim.due.getD k [] with
  | [] => s
  | d :: rest =>
    let s := endWindow k none s
    let p := pulseTime k d s
    let lag := (p - d.endTime) / 1000
    let s := { s with tim := { s.tim with due := setAt s.tim.due k rest, lagMax := max s.tim.lagMax lag } }
    let line := match lineOfPulse d s with
      | some l => l.id
      | none => ⟨d.serial, none⟩
    let s := modGroup k (fun g => { g with
      lastPulse := p, lastReadout := readoutPs k s, window := 2500 * d.tone.getD 0,
      windowOpen := d.tone.map (fun _ => line) }) s
    readGroup k d readings (takePhases k (notePulse d.serial p s))

/-! ## Shared outputs and settling (R58 to R60) -/

/-- The distance between the start and the target of a slew, in mV. -/
def Output.distance (o : Output) : Frac := ((Frac.ofNat o.target).sub o.start).abs

/-- The output at a local count (R58): it slews at `slew` mV/ms from its start. -/
def Output.value (o : Output) (clk : Nat) : Frac :=
  match o.since with
  | none => o.start
  | some t =>
    let moved := Frac.mk' ((o.slew : Int) * (clk - t : Nat)) 1000000
    if o.distance.le moved then Frac.ofNat o.target
    else if o.start.le (Frac.ofNat o.target) then o.start.add moved else o.start.sub moved

/-- Whether the output has not reached its target. -/
def Output.slewing (o : Output) (clk : Nat) : Bool := !(o.value clk).eq (Frac.ofNat o.target)

/-- The load of VBIASk or VRSTk is beyond the current of Table 2.2, 50 mA and 10 mA, so that the output folds back (20 R469). -/
def folded (k : Nat) (vrst : Bool) (s : State) : Bool :=
  decide ((if vrst then 10000 else 50000) < s.bench.loads.getD (2 * k + b2n vrst) 0)

/-- The voltage of an output at this moment (R58, 20 R469), in mV. How far an output at its current limit folds back is not
stated: a free value up to the one that it would have (log entry 10). -/
def outputNow (k : Nat) (vrst : Bool) (o : Output) (s : State) : Frac × State :=
  if folded k vrst s then
    let (x, s) := takeFree 32 s
    ((Frac.mk' x 1048576).min (o.value s.clk), s)
  else (o.value s.clk, s)

/-- A waiting target begins to slew at a line start (R58), from the present value `v` of the output, at GROUP_SLEW. -/
def Output.begin' (o : Output) (v : Frac) (clk slew : Nat) : Output :=
  match o.waiting with
  | none => o
  | some t => { start := v, target := t, since := some clk, slew := slew, waiting := none }

/-- A change of GROUP_SLEW acts on an output at once (12 R327): a slew goes on from where it stands. -/
def Output.reslew (o : Output) (clk slew : Nat) : Output :=
  match o.since with
  | none => o
  | some _ => { o with start := o.value clk, since := some clk, slew := slew }

/-- GROUP_SLEW has been written. -/
def slewWritten (k : Nat) (s : State) : State :=
  let slew := val (Obj.GROUP_SLEW k) s
  modGroup k (fun g => { g with vbias := g.vbias.reslew s.clk slew, vrst := g.vrst.reslew s.clk slew }) s

/-- An output begins to slew where a target waits for it, from its present value. -/
def beginOutput (k : Nat) (vrst : Bool) (s : State) : State :=
  let g := groupOf k s
  let o := if vrst then g.vrst else g.vbias
  if o.waiting.isNone then s
  else
    let (v, s) := outputNow k vrst o s
    let o := o.begin' v s.clk (val (Obj.GROUP_SLEW k) s)
    modGroup k (fun g => if vrst then { g with vrst := o } else { g with vbias := o }) s

/-- A group whose AVDD has stayed in its window returns to service at a line start (14 R359); its spare serves handovers
again. -/
def returnGroup (k : Nat) (s : State) : State :=
  if s.pwr.afeReturning.getLsbD k then
    let keep : BitVec 8 := ~~~(1#8 <<< k)
    { s with pwr := { s.pwr with afeOut := s.pwr.afeOut &&& keep, afeReturning := s.pwr.afeReturning &&& keep } }
  else s

/-- Line start in a group: waiting targets begin to slew, and their settling window opens (R58, R59), also where the value
written equals the present one (DESIGN CHOICE, log entry 161: every write of GROUP_VBIAS or GROUP_VRST counts as a change). -/
def groupLineStart (k : Nat) (s : State) : State :=
  let s := returnGroup k s
  let g := groupOf k s
  let starts := g.vbias.waiting.isSome || g.vrst.waiting.isSome
  if starts && domainOn (4 + k) s then
    let n := val (Obj.GROUP_SETTLE_LINES k) s + 1
    modGroup k (fun g => { g with settle := some (max n (g.settle.getD 0)) }) (beginOutput k true (beginOutput k false s))
  else s

/-- A complete line in a group (R59): while an output slews the count stands at its full length after the line, and else
one line fewer is to come. An output that reaches its target between two lines has reached it in the line that follows, and
GROUP_SETTLE_LINES counts as it stands when the slew begins and at the end of each line in which the output slews: a write
once the target is reached does not change the count that runs (DESIGN CHOICE, log entry 161). -/
def groupLineEnd (k : Nat) (s : State) : State :=
  let n := val (Obj.GROUP_SETTLE_LINES k) s
  modGroup k (fun g =>
    let slews := g.vbias.slewing s.clk || g.vrst.slewing s.clk
    match g.settle with
    | none => g
    | some m => if slews then { g with settle := some (max (n + 1) (m - 1)) } else { g with settle := some (m - 1) }) s

/-- A settling window is open in the group. -/
def windowOpenIn (g : Group) : Bool := g.settle.isSome

/-- A settling window is open on any group (R60). -/
def settlingOpen (s : State) : Bool := s.fe.groups.any windowOpenIn

/-- The windows whose lines are complete close (R59). -/
def closeGroupWindow (g : Group) : Group := if g.settle = some 0 then { g with settle := none } else g

def execSettlingWindowClose (k : Fin 8) (s : State) : Host.Outcome State Fault Refusal :=
  .next (modGroup k closeGroupWindow s)

/-- A write of GROUP_VBIAS or GROUP_VRST (R58): 10 mV steps in range; it takes effect at the next line start, or at power-up
while the domain is off (R23). -/
def writeGroupOutput (k : Nat) (vrst : Bool) (mv : Nat) (s : State) : WriteOut :=
  let lo := if vrst then 300 else 500
  let hi := if vrst then 2500 else 3000
  if mv < lo ∨ hi < mv ∨ mv % 10 ≠ 0 then .abort abortRange s
  else
    let s := setVal (if vrst then Obj.GROUP_VRST k else Obj.GROUP_VBIAS k) mv s
    if domainOn (4 + k) s then
      .ok (modGroup k (fun g =>
        if vrst then { g with vrst := { g.vrst with waiting := some mv } }
        else { g with vbias := { g.vbias with waiting := some mv } }) s)
    else .ok s

def execGroupOutputWrite (via : Path) (k : Fin 8) (vrst : Bool) (mv : BitVec 16) (s : State) :
    Host.Outcome State Fault Refusal := writeCommand via (fun s => (writeGroupOutput k vrst mv.toNat s).noted) s

/-! ## Handovers (R45 to R48) -/

/-- Moves a port to its group's spare: the tracked level starts anew (R43), and the handover is counted. -/
def moveToSpare (k p : Nat) (host : Bool) (s : State) : State :=
  let s := modGroup k (fun g => { g with
    spare := if host then .host else .leaven, port := some p, assignDue := none, handovers := g.handovers + 1 }) s
  modPort p (fun x => { x with level := none }) s

/-- Returns the port on the spare to its own chain. -/
def returnFromSpare (k : Nat) (s : State) : State :=
  let g := groupOf k s
  let s := match g.port with
    | some p => modPort p (fun x => { x with level := none }) s
    | none => s
  modGroup k (fun g => { g with spare := .idle, port := none, returnDue := false, returnHost := false }) s

/-- HANDOVER: at a slot boundary a due return is made, else a due move to the spare (R45, R47); with a tone window open it
is made at the end of the window (R48), and a group out of service serves none (R359). -/
def handover (k : Nat) (s : State) : State :=
  let g := groupOf k s
  if g.windowOpen.isSome || !groupLive k s then s
  else if g.returnDue then returnFromSpare k s
  else
    match g.assignDue with
    | some (p, host) => moveToSpare k p host s
    | none => s

/-! ## Status (Tables 2.8 and 2.9) -/

/-- PORT_STATUS; 0 while the group's domain is off (R23). -/
def portStatus (p : Nat) (s : State) : Nat :=
  let port := portOf p s
  let k := groupOfPort p
  if domainOn (4 + k) s then
    bitsOf [portEnabled p s, onSpare p s, bitOf port.cause 2, bitOf port.cause 3, bitOf port.cause 4, port.latched,
      windowOpenIn (groupOf k s), portCds p s, port.learning.isSome]
  else 0

/-- GROUP_STATUS (Table 2.8, 20 R469). -/
def groupStatus (k : Nat) (s : State) : Nat :=
  let g := groupOf k s
  if domainOn (4 + k) s then
    bitsOf [windowOpenIn g, g.vbias.slewing s.clk, g.vrst.slewing s.clk, folded k false s || folded k true s]
  else 0

end Sys2Proof.Machine
end

