-- ==== Sys2Proof/Machine/Latch.lean ====
section
/-! DEFINITION. Latch cycles of the lamp chains (04_illumination R90 to R97): the frames sent, the readback, the latches of
the rows and of the mode changes, and the settling windows they open. -/
namespace Sys2Proof.Machine

/-! ## Frames and readback (R90, R92, R93) -/

/-- The frame of a chip from the words of its channels (Table 4.3): the status field is sent as 0 (R90). -/
def chipFrame (words : List Nat) : BitVec 208 :=
  BitVec.ofNat 208 (sumNats ((List.range 16).map (fun ch => words.getD ch 0 % 4096 * 2 ^ (16 + 12 * ch))))

/-- The frames of a chain in the order sent, the last chip's first (R90); each is shifted most significant bit first. -/
def chainFrames (words : List (List Nat)) (n : Nat) (s : State) : List (BitVec 208) :=
  ((List.range (valReady (Obj.CHAIN_CHIPS n) s)).map (fun j => chipFrame (words.getD (16 * n + j) []))).reverse

/-- The word of channel ch in a returned frame (Table 4.3). -/
def frameWord (f : BitVec 208) (ch : Nat) : Nat := (f.toNat / 2 ^ (16 + 12 * ch)) % 4096

/-- The open flag of channel ch in a returned frame (Table 4.3). -/
def frameFlag (f : BitVec 208) (ch : Nat) : Bool := f.getLsbD ch

/-- Whether the words that return on a chain are those of the previous latch (R92). -/
def chainMatches (returned : List (BitVec 208)) (n : Nat) (s : State) : Bool :=
  (List.range (valReady (Obj.CHAIN_CHIPS n) s)).all (fun j =>
    let f := returned.getD j 0
    (List.range 16).all (fun ch => decide (frameWord f ch = (s.lamps.latched.getD (16 * n + j) []).getD ch 0)))

/-- Takes one open flag (R93). -/
def takeOpenFlag (g ch : Nat) (s : State) : State :=
  if bitOf (s.lamps.openMap.getD g 0) ch then s
  else
    let m := s.lamps.openMap.getD g 0
    let s := { s with lamps := { s.lamps with openMap := setAt s.lamps.openMap g (setBit m ch true), openCount := s.lamps.openCount + 1 } }
    logEvent ⟨0x0301, g, leBytes 1 (g / 16) ++ leBytes 1 (g % 16) ++ leBytes 1 ch⟩ s

/-- The open flags of one matching chain: those of channels with a non-zero latched word, of colours whose sub-pulses
could be judged or that a diagnostic line has lit (R93, R105). -/
def takeChainFlags (returned : List (BitVec 208)) (n : Nat) (s : State) : State :=
  (List.range (valReady (Obj.CHAIN_CHIPS n) s)).foldl (fun s j =>
    let g := 16 * n + j
    let c := chipColour s g
    let l := lampOf c s
    let judged := decide (c < 3) && (decide (val Obj.OPEN_DETECT_MIN s * 1000 ≤ l.widestBefore) || l.diagnosedBefore)
    (List.range 16).foldl (fun s ch =>
      if judged && frameFlag (returned.getD j 0) ch
          && decide ((s.lamps.latched.getD g []).getD ch 0 ≠ 0) then
        let s := if l.diagnosedBefore then
            { s with lamps := { s.lamps with diagResult := setBit s.lamps.diagResult 3 true } } else s
        takeOpenFlag g ch s
      else s) s) s

/-- What the readback of one chain comes to (R92, R93). -/
def readChain (returned : List (BitVec 208)) (n : Nat) (s : State) : State :=
  if chainMatches returned n s then takeChainFlags returned n s
  else
    let s' := { s with lamps := { s.lamps with
      chainErrors := modifyAt (· + 1) n s.lamps.chainErrors, sticky := stick 4 s.lamps.sticky } }
    logOnce s.lamps.sticky 4 ⟨0x0300, n, []⟩ s'

/-- All chains latch words with the levels that they carry: the frames sent, the latch counted, and the gathering of pulses
and diagnostic exposures started anew (R89, R91, R93, R105). A new shift takes LAMP_TRIM and LAMP_CHIP_COLOUR as they stand
(R94). -/
def latchWords (words : List (List Nat)) (steps : List (Nat × Option (Nat × Nat × Nat))) (s : State) : State :=
  let next (x : Nat × Lamp) : Lamp :=
    let st := steps.getD x.1 (0, none)
    { x.2 with levelActual := st.1, fade := st.2, widestBefore := x.2.widest, widest := 0,
               diagnosedBefore := x.2.diagnosed, diagnosed := false }
  { s with lamps := { s.lamps with
    colours := ((List.range 3).zip s.lamps.colours).map next, latched := words,
    sent := (List.range 4).map (fun n => chainFrames words n s), latchCount := s.lamps.latchCount + 1,
    shiftTrim := bytesGet (objKey 0x4210 0) s.dict.bulk,
    shiftColour := bytesGet (objKey 0x4211 0) s.dict.bulkAtReady } }

/-- DIAG_RESULT bit [5] at a latch: the flags gathered up to the latch after a diagnostic line have arrived (R105). -/
def flagsArrive (s : State) : State :=
  let arrived := s.lamps.colours.any (fun l => l.diagnosedBefore)
  let awaited := s.lamps.colours.any (fun l => l.diagnosed)
  if arrived && !awaited then
    { s with lamps := { s.lamps with diagResult := setBit s.lamps.diagResult 5 false } }
  else s

/-- The newest line begun carries SETTLING, and so does the line before it where an integration of it runs past the start of
the newest (02 R60). -/
def settleLastLine (s : State) : State :=
  match s.tim.lines.getLast? with
  | none => s
  | some newest =>
    let late := decide (newest.id.serial ≠ 0) && runsPast (newest.id.serial - 1) newest.startTime s
    let mark (l : LineRec) : LineRec :=
      if l.id.serial = newest.id.serial ∨ (late = true ∧ l.id.serial + 1 = newest.id.serial) then
        { l with settling := true } else l
    { s with tim := { s.tim with lines := s.tim.lines.map mark } }

/-- A changed word was latched: the window opens with the line of the latch (R91, R96). -/
def latchChanged (s : State) : State :=
  if s.tim.lineActive then settleLastLine (openLampWindow s)
  else { s with lamps := { s.lamps with settleNext := true } }

/-- LATCH: the shift ends and all chains latch (R91 to R95). -/
def latchCycle (returned : List (List (BitVec 208))) (s : State) : State :=
  let s := flagsArrive ((List.range 4).foldl (fun s n => readChain (returned.getD n []) n s) s)
  let steps := (List.range 3).map (fun c => fadeStep c s)
  let words := lampWords (steps.map (·.1)) s
  let t := latchWords words steps s
  if words ≠ s.lamps.latched then latchChanged t else t

/-- The row LATCH; latch cycles run whenever PD12 is on (R91). -/
def execLatch (returned : List (List (BitVec 208))) (s : State) : Host.Outcome State Fault Refusal :=
  .next (if domainOn 12 s then inOneCycle (latchCycle returned) s else s)

/-- What chain n returns to a shift that no row brings: the frames that stand outside, or those that a sound chain holds, with no
open flag (log entry 162). -/
def chainReturns (n : Nat) (s : State) : List (BitVec 208) :=
  match s.bench.chains with
  | some l => l.getD n []
  | none => (List.range (valReady (Obj.CHAIN_CHIPS n) s)).map (fun j => chipFrame (s.lamps.latched.getD (16 * n + j) []))

/-- The frames that all chains return to such a shift are compared, and their flags taken (R92, R93). -/
def readChains (s : State) : State :=
  let t := (List.range 4).foldl (fun t n => readChain (chainReturns n s) n t) s
  flagsArrive { t with bench := { t.bench with chains := none } }

/-- All channels off: a frame of all-zero words is shifted and latched at once, and any fade is abandoned (R97). LEVEL keeps
its target. -/
def lampsOff (s : State) : State :=
  let off := List.replicate 64 (List.replicate 16 0)
  let s := if domainOn 12 s then latchWords off (List.replicate 3 (0, none)) (readChains s) else s
  { s with lamps := { s.lamps with settleNext := false } }

/-- Entry to READY: LEVEL is latched as LEVEL_ACTUAL directly, without a fade (R97); a changed word opens a settling window
with the next line (R96). -/
def lampsReady (s : State) : State :=
  let s := readChains s
  let s := { s with lamps := { s.lamps with
      shiftTrim := bytesGet (objKey 0x4210 0) s.dict.bulk,
      shiftColour := bytesGet (objKey 0x4211 0) s.dict.bulkAtReady } }
  let levels := (List.range 3).map (fun c => val (Obj.LEVEL c) s)
  let words := lampWords levels s
  let t := latchWords words (levels.map (fun v => (v, none))) s
  if words ≠ s.lamps.latched then latchChanged t else t

end Sys2Proof.Machine
end

