-- ==== Sys2Proof/Machine/Engine.lean ====
section
/-! DEFINITION. The timing program (03_line_timing R68 to R71): its words, the checks of a selection, and the instructions
NOP, SLOT, TONE, LOOP and JUMP. LINE stands with the start of lines in Timing. -/
namespace Sys2Proof.Machine

/-! ## Words (Table 3.1) -/

/-- An instruction of the timing program. -/
inductive TimingOp where
  | nop
  | line
  | slot (colour width : Nat)
  | tone (mask length : Nat)
  | loop (counter target count : Nat)
  | jump (target : Nat)
  | reserved
  deriving DecidableEq, Repr

/-- The instruction of a word (Table 3.1). A word of the simple sequence may carry bits of a TONE length above bit 31, which
no word of a bank has (R71: TONE_LENGTH is not held to the 16 bits of the field). -/
def timingOp (w : Nat) : TimingOp :=
  match opcode32 w with
  | 0 => .nop
  | 1 => .line
  | 2 => .slot (bits w 27 26) (bits w 21 0)
  | 3 => .tone (bits w 23 16) (bits w 15 0 + 65536 * (w / 2 ^ 32))
  | 5 => .loop (bits w 27 26) (bits w 25 16) (bits w 15 0)
  | 6 => .jump (bits w 9 0)
  | _ => .reserved

/-- The reserved bits of a word (Table 3.1, R9). -/
def timingReserved (w : Nat) : Nat :=
  match opcode32 w with
  | 0 => bits w 27 0
  | 1 => bits w 27 0
  | 2 => bits w 25 22
  | 3 => bits w 27 24
  | 6 => bits w 27 10
  | _ => 0

def slotWord (colour width : Nat) : Nat := 2 * 2 ^ 28 + colour * 2 ^ 26 + width
def toneWord (mask length : Nat) : Nat := 2 ^ 32 * (length / 65536) + 3 * 2 ^ 28 + mask * 2 ^ 16 + length % 65536
def lineWord : Nat := 2 ^ 28

/-! ## The checks of a selection (R69) -/

def opAt (ws : List Nat) (i : Nat) : TimingOp := timingOp (ws.getD i 0)

/-- Whether the path from word `i` on, NOPs skipped and the end wrapping to word 0, meets a SLOT or TONE before a LINE,
LOOP or JUMP. -/
def meetsSlot (ws : List Nat) : Nat → Nat → Bool
  | 0, _ => false
  | n + 1, i =>
    match opAt ws (i % ws.length) with
    | .slot _ _ => true
    | .tone _ _ => true
    | .nop => meetsSlot ws n (i + 1)
    | _ => false

/-- The same from word 0, where the fall-through of a LOOP is followed as well. -/
def startsInLine (ws : List Nat) : Nat → Nat → Bool
  | 0, _ => false
  | n + 1, i =>
    match opAt ws i with
    | .slot _ _ => true
    | .tone _ _ => true
    | .nop => startsInLine ws n (i + 1)
    | .loop _ _ _ => startsInLine ws n (i + 1)
    | _ => false

/-- The slot colours of the line that begins at word `i`: the words after it up to the next LINE, LOOP or JUMP or the
end. -/
def lineColours (ws : List Nat) : Nat → Nat → List Nat
  | 0, _ => []
  | n + 1, i =>
    if ws.length ≤ i then []
    else
      match opAt ws i with
      | .slot c _ => c :: lineColours ws n (i + 1)
      | .line => []
      | .loop _ _ _ => []
      | .jump _ => []
      | _ => lineColours ws n (i + 1)

/-- Exactly one RED, one GREEN and one BLUE slot, and at most eight slots (R69). -/
def lineOk (cs : List Nat) : Bool :=
  decide (cs.count 0 = 1) && decide (cs.count 1 = 1) && decide (cs.count 2 = 1) && decide (cs.length ≤ 8)

/-- The checks of R69 on one word. -/
def wordOk (ws : List Nat) (i : Nat) : Bool :=
  let isLine (t : Nat) : Bool := decide (t < ws.length) && decide (opAt ws t = .line)
  match opAt ws i with
  | .nop => true
  | .line => lineOk (lineColours ws ws.length (i + 1))
  | .slot _ w => decide (2200 ≤ w)
  | .tone _ _ => match i with
    | 0 => false
    | j + 1 => match opAt ws j with
      | .slot _ _ => true
      | _ => false
  | .loop _ t n => isLine t && decide (n ≠ 0) && !meetsSlot ws ws.length (i + 1)
  | .jump t => isLine t
  | .reserved => false

/-- A bank that holds at least one word passes the checks of R69. -/
def programOk (ws : List Nat) : Bool :=
  (List.range ws.length).any (fun i => decide (opAt ws i = .line)) && !startsInLine ws ws.length 0
    && (List.range ws.length).all (wordOk ws)

/-! ## Programs (R70, R71) -/

/-- The words of a bank: `0x4100` and `0x4101`. -/
def bankWords (b : Nat) (s : State) : List Nat := words32 (bulkVal (objKey (0x4100 + b) 0) [] s)

/-- The built-in simple sequence for one line (R71): the objects of 0x2104 as they stand, with a tone window on all groups
in every TONE_INTERVAL-th line. -/
def simpleWords (lineNo : Nat) (s : State) : List Nat :=
  let order := val Obj.SLOT_ORDER s
  let n := val Obj.SLOT_COUNT s
  let interval := val Obj.TONE_INTERVAL s
  let slots := (List.range n).map (fun i => slotWord (bits order (2 * i + 1) (2 * i)) (val Obj.SLOT_WIDTH s / 2500))
  let tone := if interval ≠ 0 ∧ lineNo % interval = 0 then [toneWord 0xFF (val Obj.TONE_LENGTH s / 2500)] else []
  lineWord :: (slots ++ tone)

/-- The words of a selection: 0 the simple sequence, 1 bank 0, 2 bank 1 (R70). -/
def selectionWords (sel lineNo : Nat) (s : State) : List Nat :=
  if sel = 0 then simpleWords lineNo s else bankWords (sel - 1) s

/-- A selection that names an empty bank. -/
def selectionEmpty (sel : Nat) (s : State) : Bool := decide (sel ≠ 0) && (selectionWords sel 0 s).isEmpty

/-- Makes a selection the one in force: word 0, counters cleared (R70). -/
def loadSelection (sel : Nat) (s : State) : State :=
  { s with tim := { s.tim with active := sel, words := selectionWords sel 0 s, pc := 0, cnt := [0, 0, 0, 0],
                               simpleLines := 0, atLine := false } }

/-- The engine runs a program: PD12 is on and the selection in force is not an empty bank (R70). -/
def engineRuns (s : State) : Bool := domainOn 12 s && !s.tim.words.isEmpty

/-- A write of PROGRAM_SELECT (R69, R70). -/
def writeProgramSelect (v : Nat) (s : State) : WriteOut :=
  if 2 < v then .abort abortRange s
  else if selectionEmpty v s then
    if capturing s then .abort abortState s
    else
      let s := setVal Obj.PROGRAM_SELECT v s
      .ok (if s.tim.words.isEmpty then loadSelection v s else s)
  else if v ≠ 0 && !programOk (selectionWords v 0 s) then .abort abortContent s
  else
    let s := setVal Obj.PROGRAM_SELECT v s
    .ok (if domainOn 12 s && s.tim.words.isEmpty then loadSelection v s else s)

def execProgramSelect (via : Path) (v : BitVec 8) (s : State) : Host.Outcome State Fault Refusal :=
  writeCommand via (fun s => (writeProgramSelect v.toNat s).noted) s

/-! ## Execution (R68) -/

/-- The instruction that the engine stands before; none while it runs no program or waits at a LINE. -/
def currentOp (s : State) : Option TimingOp :=
  if engineRuns s && !s.tim.atLine then some (opAt s.tim.words s.tim.pc) else none

/-- The word after the present one; past the last word execution continues at word 0 (R68). -/
def nextPc (s : State) : Nat := if s.tim.pc + 1 < s.tim.words.length then s.tim.pc + 1 else 0

def advance (s : State) : State := { s with tim := { s.tim with pc := nextPc s } }

def stepNop (s : State) : State :=
  match currentOp s with
  | some .nop => advance s
  | _ => s

def execNop (s : State) : Host.Outcome State Fault Refusal := .next (stepNop s)

/-- LOOP (Table 3.1): an idle counter is loaded, then decremented; it jumps while non-zero. -/
def loopCount (cnt : List Nat) (c n : Nat) : Nat := (if cnt.getD c 0 = 0 then n else cnt.getD c 0) - 1

def stepLoop (s : State) : State :=
  match currentOp s with
  | some (.loop c t n) =>
    let v := loopCount s.tim.cnt c n
    let s := { s with tim := { s.tim with cnt := setAt s.tim.cnt c v } }
    if v ≠ 0 then { s with tim := { s.tim with pc := t } } else advance s
  | _ => s

def execLoop (s : State) : Host.Outcome State Fault Refusal := .next (stepLoop s)

def stepJump (s : State) : State :=
  match currentOp s with
  | some (.jump t) => { s with tim := { s.tim with pc := t } }
  | _ => s

def execJump (s : State) : Host.Outcome State Fault Refusal := .next (stepJump s)

/-! ## SLOT and TONE -/

/-- The light of a slot: EXPOSURE_ACTUAL in ps, its sub-pulses, the widest of them in ps, whether it is a diagnostic exposure, and
whether EXPOSURE was clipped. -/
structure Light where
  exposure : Nat
  pulses : Nat
  widest : Nat
  diag : Bool
  clipped : Bool
  deriving DecidableEq, Repr

/-- The colour of the slot has a diagnostic exposure in the line in progress. -/
def diagnosticSlot (colour : Nat) (s : State) : Bool :=
  match s.tim.lines.getLast? with
  | some line => line.diagnostic.contains (Colour.ofCode colour)
  | none => false

/-- The light of a slot of the line in progress (R98, R104): a diagnostic slot carries one pulse, and a slot whose gates are not
driven none. -/
def slotLight (colour width : Nat) (s : State) : Light :=
  let guard := val Obj.START_GUARD s
  let l := lampOf colour s
  if 3 ≤ colour || !gatesDriven s then ⟨0, 0, 0, false, false⟩
  else if diagnosticSlot colour s then
    let ks := (List.range 96).filterMap (fun t =>
      if portLive t s && !(portOf t s).latched && decide (valReady (Obj.LAMP_MON_INDEX t) s ≠ 0xFF)
      then monitorK t colour s else none)
    let k := ks.foldl (fun a b => match a with
      | none => some b
      | some x => some (x.min b)) none
    let u := diagUnits (val Obj.DIAG_PULSE s) (val Obj.OPEN_DETECT_MIN s) (val Obj.MON_FLOOR s) l.levelActual k width guard
    ⟨2500 * u, if u = 0 then 0 else 1, 2500 * u, true, false⟩
  else
    let w := waveform l.exposure l.subpulses width guard
    ⟨2500 * w.units, w.pulses, 2500 * w.widest, false, w.clipped⟩

/-- EXPOSURE_ACTUAL and SUBPULSES_ACTUAL show the slot of a colour in the line last started (R98). -/
def showLight (colour : Nat) (x : Light) (s : State) : State :=
  let s := if x.clipped then { s with lamps := { s.lamps with sticky := stick 5 s.lamps.sticky } } else s
  modLamp colour (fun l => { l with exposureActual := x.exposure, subpulsesActual := x.pulses }) s

/-- The position of the position encoder (R67), in counts. -/
def posEncoder (s : State) : Nat := valReady Obj.POS_ENCODER s
def pathPosition (s : State) : Int := (encoderOf (posEncoder s) s).position

/-- The end of the last slot placed, in ps of the time base: the start of the next one (R63). -/
def placedEnd (s : State) : Nat := s.tim.slotStart + 2500 * sumNats (s.tim.placed.map (·.width))

/-- SLOT: a slot begins at the end of the slot before it, or at the start of its line (R63); its readout is due in every
group at its end (R64). The slot record begins with it (R67). -/
def placeSlot (colour width : Nat) (s : State) : State :=
  let light := slotLight colour width s
  let s := showLight colour light s
  let start := placedEnd s
  let c := Colour.ofCode colour
  let idx := match s.tim.lines.getLast? with
    | some l => l.slots.length
    | none => 0
  let serial := match s.tim.lines.getLast? with
    | some l => l.id.serial
    | none => 0
  let pulse : DuePulse := { serial := serial, slotIndex := idx, colour := c, endTime := start + 2500 * width, tone := none,
                            lastOfLine := false }
  let record : SlotRec := { colour := c, width := width, startTime := start, endTime := start + 2500 * width, startPos := 0, endPos := 0,
                            centre := 0, centreClk := 0, exposure := light.exposure, level := (lampOf colour s).levelActual,
                            widest := light.widest, words := [], taps := [], replaced := false,
                            lit := decide (light.exposure ≠ 0) }
  let addSlot (l : LineRec) : LineRec := { l with slots := l.slots ++ [record] }
  { s with tim := { s.tim with
      placed := s.tim.placed ++ [{ colour := c, width := width, toneMask := 0, toneLength := 0, widest := light.widest, diag := light.diag }],
      due := s.tim.due.map (fun d => d ++ [pulse]),
      lines := modifyAt addSlot (s.tim.lines.length - 1) s.tim.lines } }

def stepSlot (s : State) : State :=
  match currentOp s with
  | some (.slot c w) => if s.tim.lineActive then advance (placeSlot c w s) else s
  | _ => s

def execSlot (s : State) : Host.Outcome State Fault Refusal := .next (stepSlot s)

/-- The last element changed. -/
def modifyLast {α : Type} (f : α → α) (l : List α) : List α := modifyAt f (l.length - 1) l

/-- TONE: a window after the readout of the preceding slot, in each group of the mask (R68). -/
def placeTone (mask length : Nat) (s : State) : State :=
  { s with tim := { s.tim with
      placed := modifyLast (fun x => { x with toneMask := mask, toneLength := length }) s.tim.placed,
      due := ((List.range s.tim.due.length).zip s.tim.due).map (fun x =>
        if bitOf mask x.1 then modifyLast (fun d => { d with tone := some length }) x.2 else x.2) } }

def stepTone (s : State) : State :=
  match currentOp s with
  | some (.tone m l) => advance (placeTone m l s)
  | _ => s

def execTone (s : State) : Host.Outcome State Fault Refusal := .next (stepTone s)

end Sys2Proof.Machine
end

