-- ==== Sys2Proof/Machine/Cistern.lean ====
section
/-! DEFINITION. The Cistern (09_cistern_dma R213 to R229): regions and their layout, line slots, the contents of
HOST_SCRATCH, errors in memory and scrubbing. -/
namespace Sys2Proof.Machine

/-! ## Regions (Table 9.2) -/

def rCapture : Nat := 0
def rSpillway : Nat := 1
def rStagger : Nat := 2
def rCompare : Nat := 3
def rDefect : Nat := 4
def rSpeculative : Nat := 5
def rSums : Nat := 6
def rScratch : Nat := 7
def rReference : Nat := 8

/-- The default sizes of Table 9.2. -/
def regionDefaults : List Nat :=
  [4 * GB, 0, 256 * MB, GB, GB, 512 * MB, 16 * MB, GB, 0]

def isPow2 (n : Nat) : Bool := decide (n ≠ 0) && decide (2 ^ Nat.log2 n = n)

/-- The size rule of a region (Table 9.2). -/
def regionSizeOk (i n : Nat) : Bool :=
  let ring := isPow2 n && decide (256 * MB ≤ n) && decide (n ≤ 64 * GB)
  let mult (least : Nat) : Bool := decide (n % (2 * MB) = 0) && decide (least ≤ n)
  match i with
  | 0 => ring
  | 1 => decide (n = 0) || ring
  | 2 => mult (64 * MB)
  | 3 => mult (128 * MB)
  | 4 => mult (64 * MB)
  | 5 => mult (64 * MB)
  | 6 => mult (16 * MB)
  | 7 => mult (2 * MB)
  | _ => mult 0

/-- The largest power of two from 2^k down to 256 MB that is at most `room`; none where there is no such power. -/
def autoSpill (room : Nat) : Nat → Option Nat
  | 0 => none
  | k + 1 => if 256 * MB ≤ 2 ^ (k + 1) ∧ 2 ^ (k + 1) ≤ room then some (2 ^ (k + 1)) else autoSpill room k

/-- The sizes that a layout gives the nine regions, SPILLWAY and REFERENCE of 0 resolved (R217); none where they do not
fit in the capacity. -/
def resolveSizes (req : List Nat) (cap : Nat) : Option (List Nat) :=
  let at' (i : Nat) : Nat := req.getD i 0
  let fixed := at' 0 + at' 2 + at' 3 + at' 4 + at' 5 + at' 6 + at' 7
  let refLeast := max GB (at' 8)
  let spill := if at' 1 ≠ 0 then some (at' 1) else autoSpill (cap - fixed - refLeast) 63
  match spill with
  | none => none
  | some sp =>
    if cap < fixed + sp + at' 8 then none
    else
      let ref := if at' 8 = 0 then cap - fixed - sp else at' 8
      some [at' 0, sp, at' 2, at' 3, at' 4, at' 5, at' 6, at' 7, ref]

/-- The bases of regions 2 to 8, each directly after the one before it. -/
def basesFrom (a : Nat) : List Nat → List (Nat × Nat)
  | [] => []
  | n :: t => (a, n) :: basesFrom (a + n) t

/-- The bases of a list of sizes (R217). -/
def placeRegions (sz : List Nat) : List (Nat × Nat) :=
  let ring := sz.getD 0 0
  let spill := sz.getD 1 0
  let first := if spill ≤ ring then [(0, ring), (ring, spill)] else [(spill, ring), (0, spill)]
  first ++ basesFrom (ring + spill) (sz.drop 2)

/-- The layout of requested sizes on a capacity. -/
def layoutOf (req : List Nat) (cap : Nat) : Option (List (Nat × Nat)) := (resolveSizes req cap).map placeRegions

/-- REGION_SIZE of every region as last accepted. -/
def requestedSizes (s : State) : List Nat := (List.range 9).map (fun i => val (Obj.REGION_SIZE i) s)

/-- The configured capacity: what the next training applies (R218), in bytes. -/
def configuredCapacity (s : State) : Nat := (val Obj.DRAM_CH0_CAPACITY s + val Obj.DRAM_CH1_CAPACITY s) * GB

def regionBase (i : Nat) (s : State) : Nat := (s.cist.layout.getD i (0, 0)).1
def regionSize (i : Nat) (s : State) : Nat := (s.cist.layout.getD i (0, 0)).2

/-- The region that holds an address, 0xFFFF where none does. -/
def regionAt (a : Nat) (s : State) : Nat :=
  match (List.range 9).find? (fun i => decide (regionBase i s ≤ a) && decide (a < regionBase i s + regionSize i s)) with
  | some i => i
  | none => 0xFFFF

/-- REGION_SIZE (R218). -/
def writeRegionSize (i v : Nat) (s : State) : WriteOut :=
  if !regionSizeOk i v then .abort abortRange s
  else if (layoutOf (setAt (requestedSizes s) i v) (configuredCapacity s)).isNone then .abort abortContent s
  else
    let s := setVal (Obj.REGION_SIZE i) v s
    .ok { s with cist := { s.cist with layoutPending := true } }

/-- The row REGION_SIZE_WRITE. -/
def execRegionSizeWrite (via : Path) (i : Fin 9) (v : BitVec 64) (s : State) : Host.Outcome State Fault Refusal :=
  writeCommand via (fun s => (writeRegionSize i v.toNat s).noted) s

/-- A list of free bytes. -/
def freeBytes (seed n : Nat) : List Byte := (List.range n).map (fun i => Config.freeBits 8 (seed + i))

/-- The lines that a moved capture ring or Spillway holds keep their slots with undefined contents (R219). -/
def loseLines (moved : Nat → Bool) (s : State) : State :=
  let lose (l : LineSlot) : LineSlot :=
    if moved (if l.spill then rSpillway else rCapture) then { l with free := some (s.fresh + l.uid * 2 ^ 24) } else l
  { s with host := { s.host with slots := s.host.slots.map lose }, fresh := s.fresh + s.host.nextUid * 2 ^ 24 }

/-- The records, summaries and crops that a moved defect store holds are undefined (R219). -/
def loseRecords (s : State) : State :=
  let lose (i : Item) : Item :=
    let seed := s.fresh + i.number * 2 ^ 24
    match i.kind with
    | .defect r c => { i with kind := .defect (freeBytes seed r.length) (freeBytes (seed + 64) c.length) }
    | .summary b => { i with kind := .summary (freeBytes seed b.length) }
    | _ => i
  { s with host := { s.host with items := s.host.items.map lose }, fresh := s.fresh + s.host.nextItem * 2 ^ 24 }

/-- The effects of a layout on the contents of the regions it moves or resizes (R219); the stagger region, the compare queue,
the speculative lines and the strip sums hold nothing then. -/
def applyLayout (l : List (Nat × Nat)) (s : State) : State :=
  let moved (i : Nat) : Bool := decide (l.getD i (0, 0) ≠ s.cist.layout.getD i (0, 0))
  let s := if moved rCapture || moved rSpillway then loseLines moved s else s
  let s := if moved rDefect then loseRecords s else s
  let s := if moved rReference then
      setVal Obj.DEFAULT_REF 0xFFFF { s with cmp := { s.cmp with refs := [], assigns := [], upload := none } }
    else s
  let s := if moved rScratch then
      { s with cist := { s.cist with scratch := [], scratchFree := some s.fresh }, fresh := s.fresh + 2 ^ 40 }
    else s
  { s with cist := { s.cist with layout := l, layoutPending := false } }

/-- The layout at the transition from STANDBY to READY (R218, R219): the requested one, or the defaults where it does not
fit. -/
def placeLayout (s : State) : State :=
  match layoutOf (requestedSizes s) s.cist.capacity with
  | some l => applyLayout l s
  | none =>
    let s := (List.range 9).foldl (fun s i => setVal (Obj.REGION_SIZE i) (regionDefaults.getD i 0) s) s
    let s := { s with cfg := { s.cfg with rejected := s.cfg.rejected + 1, sticky := stick 4 s.cfg.sticky } }
    let s := logEvent ⟨0x0A02, noSource, []⟩ s
    match layoutOf regionDefaults s.cist.capacity with
    | some l => applyLayout l s
    | none => s

/-! ## Line slots (R220, R221) -/

/-- XAVG_RATIO, OUT_BITS and OUT_LAYOUT in force, and the output pixels of a line (R151, R153, R154). -/
def xavgOf (s : State) : Nat := valRun Obj.XAVG_RATIO s
def outBitsOf (s : State) : Nat := valRun Obj.OUT_BITS s
def outLayoutOf (s : State) : Nat := valRun Obj.OUT_LAYOUT s

/-- Active pixels that a port delivers (02 R38). -/
def activeCount (p : Nat) (s : State) : Nat :=
  valReady (Obj.PIXEL_COUNT p) s - valReady (Obj.REF_LEAD p) s - valReady (Obj.REF_TRAIL p) s

/-- STITCH_ENABLE in force. -/
def stitching (s : State) : Bool := decide (valReady Obj.STITCH_ENABLE s ≠ 0)

/-- Pixels of a line before stage 10 (05 R136, R137). -/
def linePixels (s : State) : Nat :=
  if stitching s then 78336 else sumNats ((List.range 96).map (fun p => activeCount p s))

def outPixelsOf (s : State) : Nat := ceilDiv (linePixels s) (xavgOf s)

/-- OUT_LINE_BYTES in force. -/
def outLineBytes (s : State) : Nat := lineBytes (outBitsOf s) (outLayoutOf s) (outPixelsOf s)

/-- The size of a line slot. -/
def slotSize (s : State) : Nat := 64 * ceilDiv (64 + outLineBytes s) 64

/-- How many line slots a region holds. -/
def slotsIn (i : Nat) (s : State) : Nat := regionSize i s / slotSize s

/-- STAGGER_DEPTH. -/
def staggerDepth (s : State) : Nat := regionSize rStagger s / 235072

/-! ## The occupancy of a region (REGION_HIGH_WATER, log entry 13) -/

/-- Notes an occupancy of `n` bytes. -/
def noteOccupancy (i n : Nat) (s : State) : State :=
  { s with cist := { s.cist with highWater := modifyAt (fun m => max m n) i s.cist.highWater } }

/-! ## HOST_SCRATCH -/

/-- What an unlisted byte reads: 0x00 (log entry 6), or a free value after a layout that moved the region (R219). -/
def scratchDefault (s : State) (a : Nat) : Byte :=
  match s.cist.scratchFree with
  | none => scratchUnlisted
  | some n => Config.freeBits 8 (n + a)

/-- A span of HOST_SCRATCH, by address. -/
def inScratch (a n : Nat) (s : State) : Bool :=
  decide (regionBase rScratch s ≤ a) && decide (a + n ≤ regionBase rScratch s + regionSize rScratch s)

def scratchRead (a n : Nat) (s : State) : List Byte := cellsRead (scratchDefault s) s.cist.scratch a n

/-- Whether a 64-byte block is poisoned. -/
def isPoisoned (a : Nat) (s : State) : Bool := s.cist.poisoned.contains (a / 64 * 64)

/-- The poisoned blocks that a span touches. -/
def poisonedIn (a n : Nat) (s : State) : List Nat :=
  s.cist.poisoned.filter (fun b => decide (b < a + n) && decide (a < b + 64))

/-- A block that is written in full is no longer poisoned (R227). -/
def clearPoison (a n : Nat) (s : State) : State :=
  { s with cist := { s.cist with
      poisoned := s.cist.poisoned.filter (fun b => !(decide (a ≤ b) && decide (b + 64 ≤ a + n))) } }

/-- Writes bytes; the occupancy of HOST_SCRATCH is the extent up to the last byte ever written (log entry 13). -/
def scratchWriteAt (a : Nat) (l : List Byte) (s : State) : State :=
  let s := noteOccupancy rScratch (if l.isEmpty then 0 else a + l.length - regionBase rScratch s) (clearPoison a l.length s)
  { s with cist := { s.cist with scratch := cellsWrite (scratchDefault s) a l s.cist.scratch } }

/-- The channel that holds an address is powered (R214, R237). -/
def cisternOn (a : Nat) (s : State) : Bool :=
  if s.cist.ready1 && decide (a / 4096 % 2 = 1) then domainOn 16 s else domainOn 15 s

/-- The channels that hold a span are powered. -/
def spanOn (a n : Nat) (s : State) : Bool :=
  cisternOn a s && cisternOn (a + n - 1) s && (decide (n ≤ 4096) || (domainOn 15 s && (!s.cist.ready1 || domainOn 16 s)))

/-! ## Errors in memory (R225, R226) -/

/-- A corrected error (R225): at most one DRAM_CORRECTED event a second. -/
def eccCorrected (a : Nat) (s : State) : State :=
  let recent := match s.cist.correctedAt with
    | some t => decide (s.clk < t + 1000000000)
    | none => false
  let s := { s with cist := { s.cist with
      corrected := s.cist.corrected + 1, lastAddress := a, sticky := stick 5 s.cist.sticky } }
  if recent then s
  else logEvent ⟨0x0701, noSource, leBytes 8 a⟩ { s with cist := { s.cist with correctedAt := some s.clk } }

/-- Adds a block to the poisoned ones. -/
def poison (a : Nat) (l : List Nat) : List Nat := if l.contains (a / 64 * 64) then l else l ++ [a / 64 * 64]

/-- An uncorrectable error (R226): the block is poisoned. -/
def eccUncorrectable (a : Nat) (s : State) : State :=
  let s := { s with cist := { s.cist with
      poisoned := poison a s.cist.poisoned, uncorrectable := s.cist.uncorrectable + 1, lastAddress := a,
      sticky := stick 6 s.cist.sticky } }
  logEvent ⟨0x0702, regionAt a s, leBytes 8 a⟩ s

/-- One item lost by Table 9.5. -/
def dataLost (s : State) : State := { s with cist := { s.cist with dataLost := s.cist.dataLost + 1 } }

/-- A read of a span with what its ECC check gives, poisoned blocks giving their error again: the address of the first
uncorrectable error, if any. -/
def eccRead (a n : Nat) (e : Ecc) (s : State) : Option Nat × State :=
  match poisonedIn a n s with
  | b :: _ => (some b, eccUncorrectable b s)
  | [] =>
    match e with
    | .clean => (none, s)
    | .corrected x => (none, eccCorrected x s)
    | .uncorrectable x => (some x, eccUncorrectable x s)

/-! ## Scrubbing (R228, R229) -/

/-- The governor defers background work (R229, 14 R372). -/
def backgroundDeferred (s : State) : Bool := decide (1 ≤ s.pwr.gov.level)

/-- A step of the governor takes effect (14 R372). -/
def govEffect (g : GovStep) (s : State) : State :=
  if s.pwr.gov.pendingStep = some g then
    { s with pwr := { s.pwr with gov := { s.pwr.gov with pendingStep := none, effectAt := some s.clk } } }
  else s

/-- One block of a scrub pass; a pass begins again at address 0 when it completes. -/
def scrubBlock (e : Ecc) (s : State) : State :=
  let a := s.cist.scrubAddress
  let s := (eccRead a 64 e s).2
  if a + 64 < s.cist.capacity then { s with cist := { s.cist with scrubAddress := a + 64 } }
  else { s with cist := { s.cist with scrubAddress := 0, scrubPasses := s.cist.scrubPasses + 1 } }

/-- The row SCRUB_STEP. -/
def execScrubStep (e : Ecc) (s : State) : Host.Outcome State Fault Refusal :=
  .next (if (domainOn 15 s || domainOn 16 s) && !backgroundDeferred s && decide (s.cist.capacity ≠ 0)
    then scrubBlock e s else s)

/-! ## Status (Table 9.13) -/

/-- DRAM_STATUS. SELF_REFRESH shows while both domains are off with trained DRAM held (R241). -/
def dramStatus (s : State) : Nat :=
  let off := !domainOn 15 s && !domainOn 16 s
  bitsOf [s.cist.ready0, s.cist.ready1, s.cist.ready0 && s.cist.ready1,
    off && (s.cist.ready0 || s.cist.ready1),
    backgroundDeferred s && !off, bitOf s.cist.sticky 5, bitOf s.cist.sticky 6, s.cist.layoutPending,
    s.cist.trainingFailed]

/-- DRAM_STATUS_CLEAR (R241). -/
def writeDramStatusClear (v : Nat) (s : State) : WriteOut :=
  .ok { s with cist := { s.cist with
    sticky := unstick s.cist.sticky v, trainingFailed := s.cist.trainingFailed && !bitOf v 8 } }

def execDramStatusClear (via : Path) (v : BitVec 16) (s : State) : Host.Outcome State Fault Refusal :=
  writeCommand via (writeDramStatusClear v.toNat) s

end Sys2Proof.Machine
end

