-- ==== Sys2Proof/Machine/Stream.lean ====
section
/-! DEFINITION. The host stream (10_host_stream R242 to R266, R274 to R278): frames and packets, items, line slots and
their release, credits and sending. -/
namespace Sys2Proof.Machine

/-! ## Lanes and addresses -/

/-- A host-stream RWP object: the value in force in a session, and the value that the next session open puts in force
while none is open (12 R327, log entry 16). -/
def streamVal (r : Ref) (s : State) : Nat := if s.host.session = 0 then val r s else valSession r s

/-- The domain of a lane is on (R242). -/
def laneOn (n : Nat) (s : State) : Bool := if n < 8 then domainOn 17 s else domainOn 18 s

/-- DEVICE_MAC: the value of the OTP until one is written (16 R409). -/
def deviceMac (s : State) : Nat :=
  let v := streamVal Obj.DEVICE_MAC s
  if v = Obj.DEVICE_MAC.dflt then s.otp.macBase else v

def laneEnabled (n : Nat) (s : State) : Bool := bitOf (streamVal Obj.LANE_ENABLE s) n

/-- Payload bytes of a full packet: LANE_MTU − 60 (R244). -/
def packetBytes (s : State) : Nat := streamVal Obj.LANE_MTU s - 60

/-- The IP address of a lane (R244, R245). -/
def laneIp (lane : Nat) (s : State) : Nat := (streamVal Obj.DEVICE_IP s + lane) % 2 ^ 32

/-- A TSP packet of a lane to the given addresses (R244). -/
def packetTo (lane : Nat) (dest : Nat × Nat × Nat) (typ flags session itemBytes item offset : Nat) (payload : List Byte)
    (s : State) : Packet :=
  { lane := lane, srcMac := (deviceMac s + lane) % 2 ^ 48, srcIp := laneIp lane s, srcPort := streamVal Obj.DEVICE_PORT s,
    dstMac := dest.1, dstIp := dest.2.1, dstPort := dest.2.2, typ := typ, streamId := streamVal Obj.STREAM_ID s,
    flags := flags, session := session, itemBytes := itemBytes, item := item, offset := offset, payload := payload }

/-- The TSP header (Table 10.1). -/
def Packet.header (p : Packet) : List Byte :=
  leBytes 2 0x5354 ++ leBytes 1 1 ++ leBytes 1 p.typ ++ leBytes 1 p.lane ++ leBytes 1 p.streamId ++ leBytes 2 p.flags
    ++ leBytes 4 p.session ++ leBytes 4 p.itemBytes ++ leBytes 8 p.item ++ leBytes 4 p.offset
    ++ leBytes 2 p.payload.length ++ leBytes 2 0

/-- The IPv4 header checksum over big-endian words. -/
def ipChecksum (h : List Byte) : Nat :=
  let rec words : List Byte → Nat
    | a :: b :: t => 256 * a.toNat + b.toNat + words t
    | _ => 0
  65535 - (let n := words h
           if n = 0 then 0 else (n - 1) % 65535 + 1)

/-- The IPv4 header of a packet (R244): no options, DF, TTL 64, protocol 17. -/
def Packet.ipHeader (p : Packet) : List Byte :=
  let before := beBytes 1 0x45 ++ beBytes 1 0 ++ beBytes 2 (60 + p.payload.length) ++ beBytes 2 0 ++ beBytes 2 0x4000
    ++ beBytes 1 64 ++ beBytes 1 17
  let after := beBytes 4 p.srcIp ++ beBytes 4 p.dstIp
  before ++ beBytes 2 (ipChecksum (before ++ after)) ++ after

/-- The frame of a packet as it goes on its lane: Ethernet II, IPv4, UDP, the TSP header and the payload (R244). -/
def Packet.frame (p : Packet) : List Byte :=
  beBytes 6 p.dstMac ++ beBytes 6 p.srcMac ++ beBytes 2 0x0800 ++ p.ipHeader
    ++ beBytes 2 p.srcPort ++ beBytes 2 p.dstPort ++ beBytes 2 (40 + p.payload.length) ++ beBytes 2 0
    ++ p.header ++ p.payload

/-- A frame starts on a lane; on a paused one it waits for the end of the pause (R246). -/
def emitFrame (lane : Nat) (x : Sent) (s : State) : State :=
  if (laneOf lane s).pausedUntil.isSome then modLane lane (fun l => { l with delayed := l.delayed ++ [x] }) s
  else { s with host := { s.host with out := x :: s.host.out } }

/-- A pause ends: the frames that wait for it start. -/
def endPause (lane : Nat) (s : State) : State :=
  let waiting := (laneOf lane s).delayed
  modLane lane (fun l => { l with pausedUntil := none, delayed := [] })
    { s with host := { s.host with out := waiting.reverse ++ s.host.out } }

/-- Sends a TSP packet to the given addresses. -/
def sendTo (lane : Nat) (dest : Nat × Nat × Nat) (typ flags session itemBytes item offset : Nat) (payload : List Byte)
    (s : State) : State :=
  emitFrame lane (.tsp (packetTo lane dest typ flags session itemBytes item offset payload s)) s

/-- Sends a TSP packet to the learned addresses of a lane; nothing where none are known. -/
def sendPacket (lane typ flags itemBytes item offset : Nat) (payload : List Byte) (s : State) : State :=
  match (laneOf lane s).host with
  | some dest => sendTo lane dest typ flags s.host.session itemBytes item offset payload s
  | none => s

/-! ## Received frames (R245) -/

/-- A received frame passes the checks of R245 up to its session, for a host TYPE. -/
def frameAddressed (f : Frame) (s : State) : Bool :=
  f.ipv4 && !f.fragment && !f.options && !f.ipChecksumBad && decide (f.protocol.toNat = 17)
    && decide (f.dstIp.toNat = laneIp f.lane.val s)
    && decide (f.dstPort.toNat = streamVal Obj.DEVICE_PORT s) && !f.udpChecksumBad
    && decide (f.magic.toNat = 0x5354) && decide (f.version.toNat = 1) && decide (f.laneField.toNat = f.lane.val)
    && decide (f.streamId.toNat = streamVal Obj.STREAM_ID s) && decide (f.length.toNat + 40 = f.udpLength.toNat)

/-- A packet of the open session. -/
def frameInSession (f : Frame) (s : State) : Bool :=
  frameAddressed f s && decide (s.host.session ≠ 0) && decide (f.session.toNat = s.host.session)

/-- A frame is dropped and counted (R245). -/
def dropFrame (lane : Nat) (s : State) : State :=
  modLane lane (fun l => { l with rxDropped := l.rxDropped + 1 })
    { s with host := { s.host with sticky := stick 9 s.host.sticky } }

def frameSource (f : Frame) : Nat × Nat × Nat := (f.srcMac.toNat, f.srcIp.toNat, f.srcPort.toNat)

/-- A frame reaches a lane that is powered and in use. -/
def laneReceives (n : Nat) (s : State) : Bool := running s && laneOn n s && laneEnabled n s

/-- A valid packet of the session: the addresses of its lane are learned and the session has been heard (R254). -/
def heard (f : Frame) (s : State) : State :=
  modLane f.lane.val (fun l => { l with host := some (frameSource f) }) { s with host := { s.host with heardAt := s.clk } }

/-- A packet of the session is served where it passes R245, and dropped where it does not. -/
def sessionPacket (f : Frame) (h : State → State) (s : State) : State :=
  if !laneReceives f.lane.val s then s
  else if frameInSession f s then h (heard f s)
  else dropFrame f.lane.val s

/-! ## Responses (R274, R275) -/

/-- The RESPONSE payload (Table 10.5). -/
def responsePayload (code typ : Nat) (data : List Byte) : List Byte :=
  leBytes 4 code ++ leBytes 4 data.length ++ leBytes 1 typ ++ leBytes 7 0 ++ data

/-- Answers a request on its lane and keeps the response among the last 8 of the lane. -/
def respond (f : Frame) (typ code : Nat) (data : List Byte) (s : State) : State :=
  match (laneOf f.lane.val s).host with
  | some dest =>
    let p := packetTo f.lane.val dest 0x08 0 s.host.session 0 f.item.toNat 0 (responsePayload code typ data) s
    modLane f.lane.val (fun l => { l with answers := ((f.item.toNat, p) :: l.answers).take 8 })
      (emitFrame f.lane.val (.tsp p) s)
  | none => s

/-- A request: answered from the stored responses where its id matches one, else served (R275). -/
def request (f : Frame) (h : State → State) (s : State) : State :=
  sessionPacket f (fun s =>
    match (laneOf f.lane.val s).answers.find? (fun a => decide (a.1 = f.item.toNat)) with
    | some a => sendPacket f.lane.val a.2.typ a.2.flags 0 f.item.toNat 0 a.2.payload s
    | none => h s) s

/-! ## Records (Tables 10.3 and 10.4) -/

/-- The 64-byte line header (Table 10.3). -/
def LineSlot.header (l : LineSlot) : List Byte :=
  let body := leBytes 1 (if l.reference then 2 else 1) ++ leBytes 1 l.flags ++ leBytes 1 l.bits
    ++ leBytes 1 (l.xavg + 16 * l.layout) ++ leBytes 4 l.page ++ leBytes 8 l.y ++ leBytes 8 l.time
    ++ leBytes 8 (toRaw 64 l.position) ++ leBytes 12 l.invalid.toNat ++ leBytes 4 l.pageLine ++ leBytes 4 l.outPixels
    ++ leBytes 4 (lineBytes l.bits l.layout l.outPixels) ++ leBytes 4 0
  body ++ leBytes 4 (crc32c body)

/-- A line item: the header and the pixel bytes (R251). -/
def LineSlot.bytes (l : LineSlot) : List Byte := l.header ++ packLine l.bits l.layout l.planes

def gapRecord (cause typ page first last count : Nat) : List Byte :=
  let body := leBytes 1 cause ++ leBytes 1 typ ++ leBytes 2 0 ++ leBytes 4 page ++ leBytes 8 first ++ leBytes 8 last
    ++ leBytes 4 count
  body ++ leBytes 4 (crc32c body)

def restartRecord (result attempts page y : Nat) (offset epsilon : Int) (score : Nat) : List Byte :=
  let body := leBytes 1 result ++ leBytes 1 attempts ++ leBytes 2 0 ++ leBytes 4 page ++ leBytes 8 y
    ++ leBytes 4 (toRaw 32 offset) ++ leBytes 4 (toRaw 32 epsilon) ++ leBytes 4 score
  body ++ leBytes 4 (crc32c body)

def streamEndRecord (discarded last time : Nat) : List Byte :=
  let body := leBytes 1 1 ++ leBytes 3 0 ++ leBytes 4 discarded ++ leBytes 8 last ++ leBytes 8 time ++ leBytes 4 0
  body ++ leBytes 4 (crc32c body)

/-! ## Items (R249) -/

/-- The packet TYPE of an item (Table 10.2). -/
def ItemKind.typ : ItemKind → Nat
  | .line _ => 0x01 | .defect _ _ => 0x02 | .summary _ => 0x03 | .gap _ => 0x04 | .restart _ => 0x05
  | .streamEnd _ => 0x06

/-- The bytes that the defect store holds for an item: records, summaries and crops. -/
def ItemKind.stored : ItemKind → Nat
  | .defect r c => r.length + c.length
  | .summary b => b.length
  | _ => 0

/-- The bytes that the defect store holds for the items that wait. -/
def storeBytes (l : List Item) : Nat := sumNats (l.map (fun i => i.kind.stored))

/-- Makes an item: it takes the next item number; what the defect store holds of it takes whole 64-byte blocks (09 R227). -/
def makeItem (k : ItemKind) (s : State) : State :=
  let n := 64 * ceilDiv k.stored 64
  let place := if n = 0 ∨ regionSize rDefect s < s.host.nextStore + n then 0 else s.host.nextStore
  let items := s.host.items ++ [⟨s.host.nextItem, k, place⟩]
  let s := clearPoison (regionBase rDefect s + place) n s
  noteOccupancy rDefect (storeBytes items)
    { s with host := { s.host with
        items := items, nextItem := s.host.nextItem + 1,
        nextStore := if n = 0 then s.host.nextStore else place + n } }

/-! ## Slots (R205, R220, R261) -/

/-- Page n of the present run. -/
def pageKey (n : Nat) (s : State) : PageKey := ⟨s.cmp.run, n⟩

/-- A page as the compare engine follows it. -/
def cmpPageOf (k : PageKey) (s : State) : Option CmpPage := s.cmp.pages.find? (fun p => decide (p.page = k))

/-- The least band of a page that is yet to be compared: the oldest in the queue, or the one that gathers. -/
def leastBand (p : CmpPage) (s : State) : Option Int :=
  match s.cmp.queue.find? (fun b => decide (b.page = p.page)) with
  | some b => some b.band
  | none => match p.rows with
    | r :: _ => some (r.n / 64)
    | [] => none

/-- A line of y lies in the slot: its own, or the second of a pair (06 R152). -/
def LineSlot.holds (l : LineSlot) (y : Nat) : Bool := decide (l.y = y) || (bitOf l.flags 4 && decide (l.y + 1 = y))

/-- An open blob of a page, or a band of it yet to be compared, can still include row n in a crop. -/
def rowHeld (p : CmpPage) (n : Int) (s : State) : Bool :=
  let margin : Int := val Obj.CROP_MARGIN s
  p.blobs.any (fun b => decide (b.minRow - margin ≤ n))
    || (match leastBand p s with
      | some b => decide (64 * b - margin ≤ n)
      | none => !p.ended && (match p.lastN with
        | some m => decide (m + 1 - margin ≤ n)
        | none => false))

/-- An open blob, or a band yet to be compared, can still include a line of the slot in a crop (R205). -/
def cropHeld (l : LineSlot) (s : State) : Bool :=
  if l.reference || !flagVal Obj.CROP_ENABLE s then false
  else
    match cmpPageOf ⟨l.run, l.page⟩ s with
    | none => false
    | some p =>
      p.group.any (fun g => match g.id.y with
          | some y => l.holds y
          | none => false)
        || p.lineRows.any (fun r => l.holds r.1 && rowHeld p r.2 s)

/-- Slots whose line is sent, or needs no sending, and that no crop can need are free (R205, R261). -/
def releaseSlots (s : State) : State :=
  { s with host := { s.host with slots := s.host.slots.filter (fun l => !l.sent || cropHeld l s) } }

/-- The slots that hold lines: those not released, and the overlap of a stop (R268). -/
def heldSlots (s : State) : List LineSlot :=
  s.host.slots ++
    (if s.host.stopped then
      s.host.overlap.filter (fun o => !s.host.slots.any (fun l => decide (l.uid = o.uid)))
    else [])

/-- SLOTS_TOTAL and SLOTS_HELD. -/
def slotsTotal (s : State) : Nat := slotsIn rCapture s + slotsIn rSpillway s
def slotsHeld (s : State) : Nat := (heldSlots s).length
def slotsFree (s : State) : Nat := slotsTotal s - slotsHeld s

/-- The first free place at or after `from`, in a region of `n` slots. -/
def freePlace (used : List Nat) (n start : Nat) : Option Nat :=
  ((List.range n).map (fun i => (start + i) % n)).find? (fun p => !used.contains p)

/-- A free slot: of the capture ring, or else of the Spillway (R261). -/
def findSlot (s : State) : Option (Bool × Nat) :=
  let used (sp : Bool) : List Nat := ((heldSlots s).filter (fun l => decide (l.spill = sp))).map (·.place)
  match freePlace (used false) (slotsIn rCapture s) s.host.nextPlace with
  | some p => some (false, p)
  | none => (freePlace (used true) (slotsIn rSpillway s) s.host.nextSpill).map (fun p => (true, p))

/-- The address of a slot. -/
def slotAddress (spill : Bool) (place : Nat) (s : State) : Nat :=
  regionBase (if spill then rSpillway else rCapture) s + place * slotSize s

/-- Bytes of a line item: the header and the pixel bytes. -/
def LineSlot.size (l : LineSlot) : Nat := 64 + lineBytes l.bits l.layout l.outPixels

/-- The data lane of rank r: the lane of the r-th set bit of the mask. -/
def laneOfRank (mask r : Nat) : Nat := (setBits mask 16).getD r 0

/-- The lane of an item: data lane of rank i mod N, and L00 for a STREAM_END (R250). -/
def itemLane (i : Item) (s : State) : Option Nat :=
  match i.kind with
  | .streamEnd _ => some 0
  | _ =>
    let n := popcount s.host.dataLanes 16
    if n = 0 then none else some (laneOfRank s.host.dataLanes (i.number % n))

/-- The conditions of R257 on a lane for an item of `size` bytes, but for the memory that holds it. A paused lane acts as one
without credit (R246). -/
def laneTakes (n size : Nat) (s : State) : Bool :=
  let l := laneOf n s
  decide (l.bytesSent + size ≤ l.creditLimit) && l.pausedUntil.isNone && l.blockLock && l.host.isSome && laneOn n s
    && decide (s.host.session ≠ 0)

/-- The stream takes a line as it is written to its slot (09 R223): its lane can begin it, and no older line waits. -/
def cutThrough (l : LineSlot) (s : State) : Bool :=
  s.host.slots.all (·.sent)
    && (match itemLane ⟨s.host.nextItem, .line s.host.nextUid, 0⟩ s with
      | some n => laneTakes n l.size s
      | none => false)

/-- The sending of a line ends its wait: its slot is free once no crop needs it (R261). -/
def markSent (uid : Nat) (s : State) : State :=
  let done (l : LineSlot) : LineSlot := if l.uid = uid then { l with sent := true } else l
  { s with host := { s.host with slots := s.host.slots.map done } }

/-- A line that the stream has taken and not sent is read from its slot after all. -/
def uncut (s : State) : State :=
  { s with host := { s.host with slots := s.host.slots.map (fun l => { l with cut := false }) } }

/-- Writes a line to a slot (R220, R227); the line becomes an item if it is to be sent (R249). -/
def commitTo (spill : Bool) (place : Nat) (l : LineSlot) (send : Bool) (s : State) : State :=
  let l := { l with uid := s.host.nextUid, spill := spill, place := place, sent := false, cut := send && cutThrough l s }
  let s := clearPoison (slotAddress spill place s) (slotSize s) s
  let s := { s with host := { s.host with
      slots := s.host.slots ++ [l], nextUid := s.host.nextUid + 1,
      nextPlace := if spill then s.host.nextPlace else place + 1,
      nextSpill := if spill then place + 1 else s.host.nextSpill,
      overlap := if l.reference then s.host.overlap else (l :: s.host.overlap).take 64 } }
  let held (sp : Bool) : Nat := ((heldSlots s).filter (fun x => decide (x.spill = sp))).length
  let s := noteOccupancy rCapture (held false * slotSize s) (noteOccupancy rSpillway (held true * slotSize s) s)
  if send then makeItem (.line l.uid) s else s

/-- Commits a line to a slot; what takes committed lines takes it before the slot can be free again. -/
def commitTaken (spill : Bool) (place : Nat) (l : LineSlot) (send : Bool) (taken : State → State) (s : State) : State :=
  let uid := s.host.nextUid
  let s := taken (commitTo spill place l send s)
  releaseSlots (if send then s else markSent uid s)

/-! ## Admission of pages and blocks (R262 to R264) -/

def pageSource (s : State) : Nat := val Obj.PAGE_SOURCE s
def blockLines (s : State) : Nat := val Obj.SPILL_BLOCK_LINES s

/-- Opens a page or block at its first line, in INLINE: it is admitted, or dropped whole. -/
def admitPage (leadIn : Bool) (s : State) : State :=
  let a := s.host.admission
  let previous := if a.leadIn then none else a.lines
  let least := max (val Obj.PAGE_LENGTH s) (previous.getD (blockLines s)) + val Obj.SPILL_MARGIN s
  let dropped := decide (slotsFree s < least)
  let was := s.host.sticky
  let s := { s with host := { s.host with
      admission := { a with lines := some 0, leadIn := leadIn, previous := previous, dropped := dropped } } }
  if dropped then
    let s := { s with host := { s.host with pagesDropped := s.host.pagesDropped + 1, sticky := stick 3 s.host.sticky } }
    logOnce was 3 ⟨0x0802, noSource, []⟩ s
  else s

/-- The block of SPILL_BLOCK_LINES lines that a line lies in with PAGE_SOURCE 0 (R264). -/
def blockOf (y : Nat) (s : State) : Nat := if pageSource s = 0 then y / blockLines s else 0

/-- One image line of the run, at its trigger: in INLINE, the first image line of a page or block is admitted or not. The
second part says whether the line is dropped with its page. -/
def admitLine (first leadIn : Bool) (y : Nat) (s : State) : State × Bool :=
  if s.modes.mode ≠ .inline then (s, false)
  else
    let opens := first || s.host.admission.lines.isNone || decide (s.host.admission.block ≠ blockOf y s)
    let s := if opens then admitPage leadIn s else s
    let a := s.host.admission
    ({ s with host := { s.host with admission := { a with lines := some (a.lines.getD 0 + 1), block := blockOf y s } } },
      a.dropped)

/-- The end of a page or block at the commit: a gap record covers its missing lines. -/
def closePlace (s : State) : State :=
  let a := s.host.admission
  let s' := { s with host := { s.host with admission := { a with place := none, cause := 0, missing := none } } }
  match a.missing, a.place with
  | some (first, last, n), some (page, _) => makeItem (.gap (gapRecord a.cause 0 page first last n)) s'
  | _, _ => s'

/-- A line of the page missing at the commit. -/
def missLine (cause y : Nat) (s : State) : State :=
  let a := s.host.admission
  let missing := match a.missing with
    | none => some (y, y, 1)
    | some (f, _, n) => some (f, y, n + 1)
  { s with host := { s.host with
      admission := { a with cause := cause, missing := missing }, linesDropped := s.host.linesDropped + 1 } }

/-- TAIL_DROPPED: a line of an admitted page finds no free slot (R263). -/
def tailDropped (y : Nat) (s : State) : State :=
  let was := s.host.sticky
  let s := missLine 3 y s
  logOnce was 4 ⟨0x0803, noSource, []⟩ { s with host := { s.host with sticky := stick 4 s.host.sticky } }

/-- The page and the block that a line counts under (R264). -/
def placeOf (page y : Nat) (s : State) : Nat × Nat := (page, blockOf y s)

/-- An image line commits in INLINE (R261 to R264): what `taken` does follows its commit, also where its page is dropped, and
what `left` does follows where it is not committed. -/
def commitInline (l : LineSlot) (dropped : Bool) (taken left : State → State) (s : State) : State :=
  let key := placeOf l.page l.y s
  let s := if s.host.admission.place = some key then s else
    let s := closePlace s
    { s with host := { s.host with admission := { s.host.admission with place := some key } } }
  if dropped then taken (missLine (if pageSource s = 0 then 2 else 1) l.y s)
  else if s.host.admission.cause ≠ 0 then left (missLine s.host.admission.cause l.y s)
  else
    match findSlot s with
    | some (sp, p) => commitTaken sp p l (flagVal Obj.CMP_IMAGE_SEND s) taken s
    | none => left (tailDropped l.y s)

/-- A reference line commits (R477): dropped, with every later one of its capture, where no slot is free. -/
def commitReference (l : LineSlot) (taken : State → State) (s : State) : State :=
  let send := flagVal Obj.REF_LINES_SEND s
  let drop (first n : Nat) : State := { s with host := { s.host with refDropped := some (first, l.y, n) } }
  match s.host.refDropped with
  | some (first, _, n) => if send then drop first (n + 1) else s
  | none =>
    match findSlot s with
    | some (sp, p) => commitTaken sp p l send taken s
    | none => if send then drop l.y 1 else s

/-- The end of a capture: one gap record covers its dropped reference lines (R477). -/
def closeReference (s : State) : State :=
  match s.host.refDropped with
  | none => s
  | some (first, last, n) =>
    makeItem (.gap (gapRecord 6 0 0 first last n))
      { s with host := { s.host with refDropped := none, linesDropped := s.host.linesDropped + n } }

/-! ## Sending (R250, R256, R257) -/

/-- The next item of a lane. -/
def nextOnLane (n : Nat) (s : State) : Option Item := s.host.items.find? (fun i => decide (itemLane i s = some n))

def slotOf (uid : Nat) (s : State) : Option LineSlot := s.host.slots.find? (fun l => decide (l.uid = uid))

/-- The bytes of an item as it stands. -/
def itemBytes (i : Item) (s : State) : List Byte :=
  match i.kind with
  | .line u => match slotOf u s with
    | some l => match l.free with
      | some seed => freeBytes seed l.size
      | none => l.bytes
    | none => []
  | .defect r c => r ++ c
  | .summary b => b
  | .gap b => b
  | .restart b => b
  | .streamEnd b => b

/-- ITEM_BYTES of an item, without forming its bytes. -/
def itemSize (i : Item) (s : State) : Nat :=
  match i.kind with
  | .line u => match slotOf u s with
    | some l => l.size
    | none => 0
  | .defect r c => r.length + c.length
  | .summary b => b.length
  | .gap b => b.length
  | .restart b => b.length
  | .streamEnd b => b.length

/-- A record with CROP_LOST and no crop, its check word formed anew (R265). -/
def cropLostRecord (r : List Byte) : List Byte :=
  let f := fieldAt r 2 2
  let body := r.take 2 ++ leBytes 2 (setBit f 7 true) ++ (r.drop 4).take 48 ++ leBytes 4 0 ++ (r.drop 56).take 4
  body ++ leBytes 4 (crc32c body)

/-- What is sent in the place of an item that the read for sending finds lost (R226, R265): of a record with a crop, the record
where its own block is lost, else the crop. -/
def loseItem (i : Item) (s : State) : Item × State :=
  let s := dataLost s
  match i.kind with
  | .line u =>
    match slotOf u s with
    | some l => ({ i with kind := .gap (gapRecord 4 1 l.page l.y l.y 1) }, s)
    | none => (i, s)
  | .defect r c =>
    if c.length ≠ 0 ∧ (poisonedIn (regionBase rDefect s + i.place) r.length s).isEmpty then ({ i with kind := .defect (cropLostRecord r) [] }, s)
    else
      let (y0, s) := takeFree 64 s
      let (y1, s) := takeFree 64 s
      ({ i with kind := .gap (gapRecord 4 2 (fieldAt r 4 4) y0 y1 0) }, s)
  | .summary b =>
    let (y0, s) := takeFree 64 s
    let (y1, s) := takeFree 64 s
    ({ i with kind := .gap (gapRecord 4 3 (fieldAt b 4 4) y0 y1 0) }, s)
  | _ => (i, s)

/-- Reads an item for sending: a line from its slot unless the stream took it as it was written there (09 R223), records and
crops from the defect store. -/
def readItem (i : Item) (e : Ecc) (s : State) : Item × State :=
  match i.kind with
  | .line u =>
    match slotOf u s with
    | none => (i, s)
    | some l =>
      if l.cut then (i, s) else
      let (bad, s) := eccRead (slotAddress l.spill l.place s) (itemSize i s) e s
      if bad.isSome then loseItem i s else (i, s)
  | .defect _ _ | .summary _ =>
    let (bad, s) := eccRead (regionBase rDefect s + i.place) (itemSize i s) e s
    if bad.isSome then loseItem i s else (i, s)
  | _ => (i, s)

/-- The packets of an item on a lane, in order (R250). -/
def sendPieces (lane typ item size : Nat) (mtu : Nat) : Nat → Nat → List Byte → State → State
  | 0, _, _, s => s
  | n + 1, off, rest, s =>
    let piece := rest.take mtu
    let last := decide (rest.length ≤ mtu)
    let s := sendPacket lane typ (b2n (decide (off = 0)) + 2 * b2n last) size item off piece s
    if last then s else sendPieces lane typ item size mtu n (off + mtu) (rest.drop mtu) s

/-- Sends an item whole. -/
def sendItem (lane : Nat) (i : Item) (s : State) : State :=
  let b := itemBytes i s
  let s := sendPieces lane i.kind.typ i.number b.length (packetBytes s) (b.length + 1) 0 b s
  modLane lane (fun l => { l with bytesSent := l.bytesSent + b.length }) s

/-- The memory that holds the item is on: a read into a domain that is off ends in a bus error (01 R22; log entry 153). A line
that the stream took as it was written needs no read (09 R223). -/
def itemReadable (i : Item) (s : State) : Bool :=
  match i.kind with
  | .line u => match slotOf u s with
    | some l => l.cut || spanOn (slotAddress l.spill l.place s) (itemSize i s) s
    | none => true
  | .defect _ _ | .summary _ => spanOn (regionBase rDefect s + i.place) (itemSize i s) s
  | _ => true

/-- The conditions of R257 on a lane and its next item. -/
def mayBegin (n : Nat) (i : Item) (s : State) : Bool :=
  laneTakes n (itemSize i s) s && itemReadable i s

/-- ITEM_SEND: a lane begins its next item and sends it whole. -/
def itemSendOn (n : Nat) (e : Ecc) (s : State) : State :=
  match nextOnLane n s with
  | none => s
  | some i =>
    if mayBegin n i s then
      let (j, s) := readItem i e s
      let s := sendItem n j s
      let s := match i.kind with
        | .line u => markSent u s
        | _ => s
      releaseSlots { s with host := { s.host with
        items := s.host.items.filter (fun x => decide (x.number ≠ i.number)), lastSent := i.number } }
    else s

/-- The row ITEM_SEND. -/
def execItemSend (lane : Fin 16) (ecc : Ecc) (s : State) : Host.Outcome State Fault Refusal :=
  .next (itemSendOn lane.val ecc s)

/-! ## Sessions (R253, R254) -/

/-- The SESSION_ACK payload (Table 10.5). -/
def ackPayload (result : Nat) (s : State) : List Byte :=
  leBytes 1 result ++ leBytes 1 (popcount s.host.dataLanes 16) ++ leBytes 2 s.host.dataLanes ++ leBytes 4 0
    ++ leBytes 8 s.otp.serial ++ leBytes 8 s.host.items.length

/-- Items keep their place and are numbered from 0 (R249). -/
def renumber : Nat → List Item → List Item
  | _, [] => []
  | n, i :: t => { i with number := n } :: renumber (n + 1) t

/-- Opens a session on the data lanes of a mask (R249, R253, R256). -/
def openSession (f : Frame) (mask : Nat) (s : State) : State :=
  let s := { s with dict := { s.dict with atSession := s.dict.held } }
  let fresh (l : Lane) : Lane := { l with host := none, bytesSent := 0, creditLimit := 0 }
  heard f { s with host := { s.host with
    session := f.session.toNat, dataLanes := mask, lanes := s.host.lanes.map fresh,
    items := renumber 0 s.host.items, nextItem := s.host.items.length, lastSent := 0 } }

/-- The mask of requested lanes that are enabled. -/
def lanesGranted (mask : Nat) (s : State) : Nat := maskOf (fun n => bitOf mask n && laneEnabled n s) 16

/-- SESSION_OPEN (R245, R253). -/
def sessionOpened (f : Frame) (mask expected : Nat) (s : State) : State :=
  if !laneReceives f.lane.val s then s
  else if !frameAddressed f s || decide (f.lane.val ≠ 0) || decide (f.session.toNat = 0) then dropFrame f.lane.val s
  else
    let ack (result : Nat) (s : State) : State :=
      sendTo 0 (frameSource f) 0x09 0 f.session.toNat 0 0 0 (ackPayload result s) s
    if s.host.session = f.session.toNat then ack 0 (heard f s)
    else if s.host.session ≠ 0 then ack 1 s
    else if expected ≠ streamVal Obj.STREAM_ID s then ack 2 s
    else if lanesGranted mask s = 0 then ack 3 s
    else ack 0 (openSession f (lanesGranted mask s) s)

/-- The row SESSION_OPEN. -/
def execSessionOpen (f : Frame) (mask : BitVec 16) (expectedStream : BitVec 8) (s : State) :
    Host.Outcome State Fault Refusal := .next (sessionOpened f mask.toNat expectedStream.toNat s)

/-- The end of a session, up to its effect on the mode: credit limits and learned addresses are cleared (R254). -/
def clearSession (s : State) : State :=
  let fresh (l : Lane) : Lane := { l with host := none, creditLimit := 0, down := none, up := none }
  uncut { s with host := { s.host with session := 0, dataLanes := 0, lanes := s.host.lanes.map fresh } }

/-! ## Credits, PAUSE and ARP -/

/-- CREDIT (R256). -/
def takeCredit (mask : Nat) (limits : List (BitVec 64)) (s : State) : State :=
  let raise (x : Nat × Lane) : Lane :=
    let v := (limits.getD x.1 0).toNat
    if bitOf mask x.1 && bitOf s.host.dataLanes x.1 && decide (x.2.creditLimit < v)
    then { x.2 with creditLimit := v } else x.2
  { s with host := { s.host with lanes := ((List.range s.host.lanes.length).zip s.host.lanes).map raise } }

/-- The row CREDIT. -/
def execCredit (f : Frame) (mask : BitVec 16) (limits : List (BitVec 64)) (s : State) :
    Host.Outcome State Fault Refusal := .next (sessionPacket f (takeCredit mask.toNat limits) s)

/-- PAUSE (R246). -/
def takePause (n q : Nat) (s : State) : State :=
  if laneReceives n s then
    let s := modLane n (fun l => { l with pauseCount := l.pauseCount + 1 }) s
    if !bitOf (val Obj.PAUSE_HONOUR s) n then s
    else if q = 0 then endPause n s
    else modLane n (fun l => { l with pausedUntil := some (s.clk + ceilDiv (512 * q) 10) }) s
  else s

/-- The row PAUSE_FRAME. -/
def execPauseFrame (lane : Fin 16) (quanta : BitVec 16) (s : State) : Host.Outcome State Fault Refusal :=
  .next (takePause lane.val quanta.toNat s)

/-- The row PAUSE_END. -/
def execPauseEnd (lane : Fin 16) (s : State) : Host.Outcome State Fault Refusal :=
  .next (endPause lane.val s)

/-- The row ARP_REQUEST (R245). -/
def execArpRequest (lane : Fin 16) (target : BitVec 32) (s : State) : Host.Outcome State Fault Refusal :=
  .next (if laneReceives lane.val s && decide (target.toNat = laneIp lane.val s) then
    emitFrame lane.val (.arp lane.val target.toNat) s else s)

/-- A host TYPE (Table 10.2). -/
def hostTyp (t : Nat) : Bool := decide (0x81 ≤ t) && decide (t ≤ 0x87)

/-- RX_DROPPED: a received frame with the given TYPE that a check of R245 refuses. -/
def rxDrop (f : Frame) (typ : Nat) (s : State) : State :=
  let passes :=
    if typ = 0x81 then frameAddressed f s && decide (f.lane.val = 0) && decide (f.session.toNat ≠ 0)
    else hostTyp typ && frameInSession f s
  if laneReceives f.lane.val s && !passes then dropFrame f.lane.val s else s

/-- The row RX_DROPPED. -/
def execRxDropped (f : Frame) (typ : BitVec 8) (s : State) : Host.Outcome State Fault Refusal :=
  .next (rxDrop f typ.toNat s)

/-! ## Link and status -/

/-- A lane holds waiting items. -/
def laneWaits (n : Nat) (s : State) : Bool := (nextOnLane n s).isSome

/-- LANE_DOWN: block lock is lost (R257). -/
def loseLock (n : Nat) (s : State) : State :=
  let s' := modLane n (fun l => { l with blockLock := false }) s
  if (laneOf n s).blockLock && laneWaits n s then logEvent ⟨0x0801, n, []⟩ s' else s'

/-- The row LANE_DOWN. -/
def execLaneDown (lane : Fin 16) (s : State) : Host.Outcome State Fault Refusal := .next (loseLock lane.val s)

/-- The row BLOCK_LOCK_GAINED; the lane's PLL is locked (14 R365). -/
def execBlockLockGained (lane : Fin 16) (s : State) : Host.Outcome State Fault Refusal :=
  .next (if laneOn lane.val s && laneEnabled lane.val s && s.pwr.pllLocked.getLsbD (5 + lane.val / 8) then modLane lane.val (fun l => { l with blockLock := true }) s
    else s)

/-- FILL, in whole percent (log entry 17). -/
def fillPercent (s : State) : Nat := 100 * slotsHeld s / slotsTotal s

/-- The STATUS payload (Table 10.5). -/
def statusPayload (s : State) : List Byte :=
  leBytes 8 s.host.nextItem ++ leBytes 4 (slotsHeld s) ++ leBytes 4 (slotsTotal s) ++ leBytes 1 (fillPercent s)
    ++ leBytes 1 s.host.weir.code ++ leBytes 2 0 ++ leBytes 4 (readCount 32 s.host.pagesDropped) ++ leBytes 8 s.now
    ++ (s.host.lanes.flatMap (fun l => leBytes 8 l.bytesSent)) ++ leBytes 8 0

/-- The row STATUS_SEND (R260). -/
def execStatusSend (s : State) : Host.Outcome State Fault Refusal :=
  .next (if s.host.session ≠ 0 then sendPacket 0 0x07 0 0 0 0 (statusPayload s) s else s)

/-- STREAM_END (R266): the record goes on L00 without credit, once the rest of R257 lets it begin. -/
def sendStreamEnd (s : State) : State :=
  match s.host.endDue with
  | none => s
  | some (n, t) =>
    let l := laneOf 0 s
    if decide (s.host.session ≠ 0) && l.host.isSome && l.pausedUntil.isNone && l.blockLock && laneOn 0 s then
      let i : Item := ⟨s.host.nextItem, .streamEnd (streamEndRecord n s.host.lastSent t), 0⟩
      sendItem 0 i { s with host := { s.host with endDue := none, nextItem := s.host.nextItem + 1 } }
    else s

/-- The row STREAM_END. -/
def execStreamEnd (s : State) : Host.Outcome State Fault Refusal := .next (sendStreamEnd s)

/-- Entry to FAULT: a capture that it ends has its gap record (R477), and every item not begun is discarded, with the lines of
the slots (R30, R266). -/
def discardStream (s : State) : State :=
  let s := closeReference s
  { s with host := { s.host with
      endDue := some (s.host.items.length, s.now), items := [], slots := [], overlap := [], stopped := false,
      refDropped := none, admission := Admission.reset } }

/-- STREAM_STATUS (Table 10.11). -/
def streamStatus (s : State) : Nat :=
  let h := s.host
  let down := (List.range 16).any (fun n => bitOf h.dataLanes n && !(laneOf n s).blockLock && laneWaits n s)
  let restarting := decide (h.restart.phase ≠ .none) && decide (h.restart.phase ≠ .formed)
  bitsOf [decide (h.session ≠ 0), (heldSlots s).any (·.spill),
    h.admission.dropped || decide (h.admission.cause = 1 ∨ h.admission.cause = 2), bitOf h.sticky 3, bitOf h.sticky 4, bitOf h.sticky 5,
    restarting, bitOf h.sticky 7, down, bitOf h.sticky 9]

/-- LANE_STATUS (Table 10.8). -/
def laneStatus (n : Nat) (s : State) : Nat :=
  let l := laneOf n s
  let wait := match nextOnLane n s with
    | some i => decide (l.creditLimit < l.bytesSent + itemSize i s)
    | none => false
  bitsOf [l.blockLock, bitOf s.host.dataLanes n, l.pausedUntil.isSome, wait, l.host.isSome]

/-- STREAM_STATUS_CLEAR (R278). -/
def writeStreamStatusClear (v : Nat) (s : State) : WriteOut :=
  .ok { s with host := { s.host with sticky := unstick s.host.sticky v } }

def execStreamStatusClear (via : Path) (v : BitVec 16) (s : State) : Host.Outcome State Fault Refusal :=
  writeCommand via (writeStreamStatusClear v.toNat) s

end Sys2Proof.Machine
end

