-- ==== Sys2Proof/Machine/Compare.lean ====
section
/-! DEFINITION. The compare engine (08_inspection_compare R184 to R211): rows, bands, alignment, the difference test,
cells, blobs, records, crops, summaries and the reference run-ahead. -/
namespace Sys2Proof.Machine

/-- The pitch of 600 rows per inch, in pm (R186). -/
def rowPitch : Int := 42333333

def encPitch (s : State) : Nat := valRun Obj.ENC_PITCH s

/-- The half-resolution unit: samples are 1 × 1 or 2 × 2 compare pixels (R210). -/
def sampleUnit (half : Bool) : Nat := if half then 2 else 1

/-! ## References -/

def refOf (id : Nat) (s : State) : Option RefImage := s.cmp.refs.find? (fun r => decide (r.id = id))

/-- The state of an id: 0 FREE, 1 LOADING, 2 READY, 3 BAD (Table 8.2). -/
def refState (id : Nat) (s : State) : Nat := match refOf id s with
  | some r => r.state
  | none => 0

/-- Fields of the header of Table 8.1. -/
structure RefHead where
  width : Nat
  height : Nat
  stride : Nat
  x0 : Int
  y0 : Int
  deriving DecidableEq, Repr

def refHead (b : List Byte) : RefHead :=
  { width := fieldAt b 4 4, height := fieldAt b 8 4, stride := fieldAt b 12 4, x0 := toSigned 32 (fieldAt b 16 4),
    y0 := toSigned 32 (fieldAt b 20 4) }

/-- The byte of a reference pixel in a colour; none outside the image (R194). -/
def refByte (r : RefImage) (h : RefHead) (x y : Int) (c : Nat) : Option Nat :=
  if 0 ≤ x ∧ x < h.width ∧ 0 ≤ y ∧ y < h.height then
    some (fieldAt r.bytes (64 + y.toNat * h.stride + 3 * x.toNat + c) 1)
  else none

/-- The tolerance class of a reference pixel inside the image. -/
def refClass (r : RefImage) (h : RefHead) (x y : Int) : Nat :=
  let j := x.toNat
  let b := fieldAt r.bytes (64 + y.toNat * h.stride + 3 * h.width + j / 4) 1
  bits b (2 * (j % 4) + 1) (2 * (j % 4))

/-- The mean of a u × u block of values, rounded; none unless all of them are there (R210). -/
def blockMean (l : List (Option Nat)) : Option Nat :=
  if l.all (·.isSome) then
    let vs := l.filterMap id
    some (roundDiv (sumNats vs) vs.length).toNat
  else none

/-- The offsets inside a u × u block. -/
def blockCells (u : Nat) : List (Nat × Nat) := (List.range u).flatMap (fun j => (List.range u).map (fun i => (i, j)))

/-- A reference sample with its upper left pixel at (x, y). -/
def refSample (u : Nat) (r : RefImage) (h : RefHead) (c : Nat) (x y : Int) : Option Nat :=
  blockMean ((blockCells u).map (fun p => refByte r h (x + p.1) (y + p.2) c))

/-- A captured pixel that takes part: its row is compared and it is not invalid. -/
def capPixel (rows : List CmpRow) (c : Nat) (x : Nat) (n : Int) : Option Nat :=
  match rows.find? (fun r => decide (r.n = n)) with
  | some r => if r.valid.getD x false then (r.planes.getD c [])[x]? else none
  | none => none

/-- A captured sample with its upper left pixel at (x, n). -/
def capSample (u : Nat) (rows : List CmpRow) (c : Nat) (x : Nat) (n : Int) : Option Nat :=
  blockMean ((blockCells u).map (fun p => capPixel rows c (x + p.1) (n + p.2)))

/-- Sample rows and columns of a band. -/
def sampleRows (u : Nat) (rows : List CmpRow) : List Int := (rows.map (·.n)).filter (fun n => decide (n % u = 0))
def sampleCols (u : Nat) : List Nat := (List.range (39168 / u)).map (fun i => u * i)

/-! ## Alignment (R195) -/

/-- |captured − reference| of one green sample at an offset, where both take part. -/
def greenDiff (u : Nat) (rows : List CmpRow) (r : RefImage) (h : RefHead) (dx dy : Int) (x : Nat) (n : Int) :
    Option Nat :=
  match capSample u rows 1 x n, refSample u r h 1 (x - h.x0 - dx) (n - h.y0 - dy) with
  | some a, some b => some ((a : Int) - b).natAbs
  | _, _ => none

/-- The fine score of an offset: the mean difference over single samples, and how many take part; none where no sample
does. -/
def fineScore (u : Nat) (rows : List CmpRow) (r : RefImage) (h : RefHead) (dx dy : Int) : Option (Frac × Nat) :=
  let l := (sampleRows u rows).flatMap (fun n => (sampleCols u).filterMap (fun x => greenDiff u rows r h dx dy x n))
  if l.isEmpty then none else some (Frac.mk' (sumNats l) l.length, l.length)

/-- The coarse score of an offset: |difference of the means| over 4 × 4 blocks whose samples all take part. -/
def coarseScore (u : Nat) (rows : List CmpRow) (r : RefImage) (h : RefHead) (dx dy : Int) : Option Frac :=
  let b := 4 * u
  let ns : List Int := (sampleRows u rows).filter (fun (n : Int) => decide (n % (b : Int) = 0))
  let block (n : Int) (x : Nat) : Option Frac :=
    let cells := (blockCells 4).map (fun p => (x + u * p.1, n + u * p.2))
    let caps := cells.map (fun p => capSample u rows 1 p.1 p.2)
    let refs := cells.map (fun p => refSample u r h 1 ((p.1 : Int) - h.x0 - dx) (p.2 - h.y0 - dy))
    if caps.all (·.isSome) && refs.all (·.isSome) then
      some (Frac.mk' (((sumNats (caps.filterMap id) : Int) - sumNats (refs.filterMap id)).natAbs) 16)
    else none
  let l := ns.flatMap (fun n => ((sampleCols u).filter (fun x => decide (x % b = 0))).filterMap (block n))
  if l.isEmpty then none else some ((l.foldl Frac.add Frac.zero).div (Frac.ofNat l.length))

/-- Offsets in steps of `step` within ± `reach` of a centre. -/
def offsets (cx cy : Int) (step reach : Nat) : List (Int × Int) :=
  let k := reach / step
  (List.range (2 * k + 1)).flatMap (fun (j : Nat) => (List.range (2 * k + 1)).map (fun (i : Nat) =>
    (cx + (step : Int) * ((i : Int) - k), cy + (step : Int) * ((j : Int) - k))))

/-- Whether an offset goes before another of the same score (R195). -/
def offsetBefore (cx cy : Int) (a b : Int × Int) : Bool :=
  let d (o : Int × Int) : Nat := (o.1 - cx).natAbs + (o.2 - cy).natAbs
  if d a ≠ d b then decide (d a < d b)
  else if a.2 ≠ b.2 then decide (a.2 < b.2) else decide (a.1 < b.1)

/-- The offset of the lowest score. -/
def bestOffset (cx cy : Int) (l : List ((Int × Int) × Frac)) : Option ((Int × Int) × Frac) :=
  l.foldl (fun acc o => match acc with
    | none => some o
    | some b => if o.2.lt b.2 || (o.2.eq b.2 && offsetBefore cx cy o.1 b.1) then some o else some b) none

/-- The median of scores; zero where there is none. -/
def medianFrac (l : List Frac) : Frac :=
  let rec ins (x : Frac) : List Frac → List Frac
    | [] => [x]
    | y :: t => if x.le y then x :: y :: t else y :: ins x t
  let s := l.foldl (fun acc x => ins x acc) []
  let n := s.length
  if n = 0 then Frac.zero
  else if n % 2 = 1 then s.getD (n / 2) Frac.zero
  else ((s.getD (n / 2 - 1) Frac.zero).add (s.getD (n / 2) Frac.zero)).div (Frac.ofNat 2)

/-- The alignment of a band about a centre: its offset, ALIGN_ASSUMED and ALIGN_EDGE. -/
def alignBand (u minPixels contrast : Nat) (rows : List CmpRow) (r : RefImage) (h : RefHead) (cx cy : Int) :
    (Int × Int) × Bool × Bool :=
  let coarse := (offsets cx cy (4 * u) 8).filterMap (fun o => (coarseScore u rows r h o.1 o.2).map (fun f => (o, f)))
  let centre := match bestOffset cx cy coarse with
    | some b => b.1
    | none => (cx, cy)
  let cand := (offsets centre.1 centre.2 u (2 * u)).filter (fun o =>
    decide ((o.1 - cx).natAbs ≤ 8) && decide ((o.2 - cy).natAbs ≤ 8))
  let fine := cand.filterMap (fun o => (fineScore u rows r h o.1 o.2).map (fun f => (o, f.1)))
  match bestOffset cx cy fine with
  | none => ((cx, cy), true, false)
  | some (o, score) =>
    let used := match fineScore u rows r h o.1 o.2 with
      | some f => f.2 * (u * u)
      | none => 0
    let limit := ((medianFrac (coarse.map (·.2))).mul (Frac.ofNat contrast)).div (Frac.ofNat 100)
    if minPixels ≤ used ∧ score.le limit then
      (o, false, decide ((o.1 - cx).natAbs = 8) || decide ((o.2 - cy).natAbs = 8))
    else ((cx, cy), true, false)

/-! ## Difference and cells (R196 to R198) -/

/-- d of three colour differences, clipped to 255 (R196). -/
def weightedDiff (w : List Nat) (d : List Nat) : Nat :=
  min 255 (isqrt (sumNats ((w.zip d).map (fun x => x.1 * (x.2 * x.2))) / 256))

/-- d between a captured sample and the reference sample at (x, y); none outside. -/
def diffAt (u : Nat) (w : List Nat) (p : List Nat) (r : RefImage) (h : RefHead) (x y : Int) : Option Nat :=
  let q := (List.range 3).map (fun c => refSample u r h c x y)
  if q.all (·.isSome) then
    some (weightedDiff w ((p.zip (q.filterMap id)).map (fun v => ((v.1 : Int) - v.2).natAbs)))
  else none

/-- What a cell holds of one class: its failing pixels, and the largest d with its pixel (R198). -/
structure ClassCount where
  count : Nat
  peak : Nat
  col : Nat
  row : Int
  deriving DecidableEq, Repr

/-- A cell of a band: each class, and the box of its failing pixels. -/
structure CmpCell where
  col : Nat
  classes : List ClassCount
  minCol : Nat
  maxCol : Nat
  minRow : Int
  maxRow : Int
  deriving DecidableEq, Repr

/-- Takes one more failing pixel of a class; of equal d the first in raster order keeps the peak. -/
def ClassCount.add (d x : Nat) (n : Int) (c : ClassCount) : ClassCount :=
  if c.count = 0 ∨ c.peak < d then { count := c.count + 1, peak := d, col := x, row := n } else { c with count := c.count + 1 }

/-- The failing pixels of a cell. -/
def CmpCell.failing (c : CmpCell) : Nat := sumNats (c.classes.map (·.count))

/-- The largest d of a cell over its classes; of equal d the first in raster order. -/
def CmpCell.top (c : CmpCell) : ClassCount :=
  let before (a b : ClassCount) : Bool := decide (a.row < b.row) || (decide (a.row = b.row) && decide (a.col < b.col))
  (c.classes.filter (fun k => decide (k.count ≠ 0))).foldl (fun m k =>
    if m.count = 0 ∨ m.peak < k.peak ∨ (m.peak = k.peak ∧ before k m) then k else m) ⟨0, 0, 0, 0⟩

/-- A cell with one failing pixel. -/
def firstFailing (k d x : Nat) (n : Int) : CmpCell :=
  { col := x / 64, classes := modifyAt (ClassCount.add d x n) k (List.replicate 4 ⟨0, 0, 0, 0⟩), minCol := x, maxCol := x,
    minRow := n, maxRow := n }

/-- Takes a failing pixel into the cells, in ascending order of the column. -/
def addFailing (k d x : Nat) (n : Int) : List CmpCell → List CmpCell
  | [] => [firstFailing k d x n]
  | c :: t =>
    if x / 64 < c.col then firstFailing k d x n :: c :: t
    else if x / 64 = c.col then
      { c with classes := modifyAt (ClassCount.add d x n) k c.classes, minCol := min c.minCol x, maxCol := max c.maxCol x,
               minRow := min c.minRow n, maxRow := max c.maxRow n } :: t
    else c :: addFailing k d x n t

/-- The limits that a band is judged by. -/
structure CmpLimits where
  weights : List Nat
  neighbour : Bool
  limits : List Nat
  least : List Nat
  deriving DecidableEq, Repr

def cmpLimits (half : Bool) (s : State) : CmpLimits :=
  { weights := [val Obj.CMP_WEIGHT_RED s, val Obj.CMP_WEIGHT_GREEN s, val Obj.CMP_WEIGHT_BLUE s],
    neighbour := decide (val Obj.CMP_NEIGHBOUR s = 1),
    limits := (List.range 4).map (fun k => val (Obj.CLASS_LIMIT k) s),
    least := (List.range 4).map (fun k =>
      let m := val (Obj.CLASS_MIN_PIXELS k) s
      if half then ceilDiv m 4 else m) }

/-- One sample against the reference at an offset: none where it is invalid or outside; else its class and d. -/
def judgeSample (u : Nat) (lim : CmpLimits) (rows : List CmpRow) (r : RefImage) (h : RefHead) (o : Int × Int)
    (x : Nat) (n : Int) : Option (Nat × Nat) :=
  let p := (List.range 3).map (fun c => capSample u rows c x n)
  if p.all (·.isSome) then
    let px := p.filterMap id
    let rx := (x : Int) - h.x0 - o.1
    let ry := n - h.y0 - o.2
    match diffAt u lim.weights px r h rx ry with
    | none => none
    | some d0 =>
      let d := if lim.neighbour then
          (offsets rx ry u u).foldl (fun m q => match diffAt u lim.weights px r h q.1 q.2 with
            | some d => min m d
            | none => m) d0
        else d0
      -- at half resolution, the pixel of the block at an even column and row of the reference (R210)
      let even (v : Int) : Int := if u = 2 then v + v % 2 else v
      some (refClass r h (even rx) (even ry), d)
  else none

/-- The cells of a band with failing pixels, and the pixels outside the image (R194, R198). -/
def judgeBand (u : Nat) (lim : CmpLimits) (rows : List CmpRow) (r : RefImage) (h : RefHead) (o : Int × Int) :
    List CmpCell × Nat :=
  (sampleRows u rows).foldl (fun acc n => (sampleCols u).foldl (fun acc x =>
    match judgeSample u lim rows r h o x n with
    | some (k, d) => if lim.limits.getD k 255 < d then (addFailing k d x n acc.1, acc.2) else acc
    | none =>
      let there := ((List.range 3).map (fun c => capSample u rows c x n)).all (·.isSome)
      if there then (acc.1, acc.2 + u * u) else acc) acc) ([], 0)

/-- The classes in which a cell is defective, as bits. -/
def cellClasses (lim : CmpLimits) (c : CmpCell) : Nat :=
  maskOf (fun k => decide (lim.least.getD k 1 ≤ (c.classes.map (·.count)).getD k 0)) 4

/-! ## Records, crops and summaries (R201 to R204) -/

/-- The slot that a line of a page was committed to: the line's own, or that of the pair it closes (06 R152). -/
def slotOfLine (page : PageKey) (y : Nat) (s : State) : Option LineSlot :=
  s.host.slots.find? (fun l => decide (l.page = page.number) && decide (l.run = page.run) && !l.reference && l.holds y)

/-- The box of a crop in compare columns and page rows. -/
structure CropBox where
  a : Nat
  e : Nat
  r0 : Int
  r1 : Int
  deriving DecidableEq, Repr

/-- The slots of the lines of a box, or none where one has left the ring (R203). -/
def boxSlots (p : CmpPage) (b : CropBox) (s : State) : Option (List LineSlot) :=
  let ys := (p.lineRows.filter (fun r => decide (b.r0 ≤ r.2) && decide (r.2 ≤ b.r1))).map (·.1)
  let slots := ys.map (fun y => slotOfLine p.page y s)
  if slots.all (·.isSome) then
    some ((slots.filterMap id).foldl (fun acc l => if acc.any (fun m => decide (m.uid = l.uid)) then acc else acc ++ [l]) [])
  else none

/-- Output pixels of a box (R203): the first, and how many. -/
def boxPixels (xavg : Nat) (b : CropBox) : Nat × Nat :=
  let p0 := 2 * b.a / xavg
  let p1 := (2 * b.e + 1) / xavg
  (p0, p1 + 1 - p0)

def cropLineBytes (bitsN n : Nat) : Nat := 8 * ceilDiv (3 * bitsN * n) 64

/-- The bytes of a crop of a number of lines. -/
def cropBytes (bitsN xavg lines : Nat) (b : CropBox) : Nat := 40 + lines * cropLineBytes bitsN (boxPixels xavg b).2

/-- A box about the peak, of `k` / `n` of the box's rows and columns, n being the larger of them (R203, log entry 20). -/
def shrinkBox (b : CropBox) (pc : Nat) (pr : Int) (k n : Nat) : CropBox :=
  let w0 := b.e + 1 - b.a
  let h0 := (b.r1 + 1 - b.r0).toNat
  let w := max 1 (w0 * k / n)
  let h := max 1 (h0 * k / n)
  let a := pc - (pc - b.a) * w / w0
  let r0 := pr - ((pr - b.r0) * h / (h0 : Int))
  { a := a, e := a + w - 1, r0 := r0, r1 := r0 + h - 1 }

/-- The larger side of a box. -/
def CropBox.side (b : CropBox) : Nat := max (b.e + 1 - b.a) (b.r1 + 1 - b.r0).toNat

/-- The largest box within the limit, of `k` parts of the larger side or less. -/
def fitBox (bytes : CropBox → Nat) (limit : Nat) (b : CropBox) (pc : Nat) (pr : Int) : Nat → CropBox
  | 0 => shrinkBox b pc pr 0 b.side
  | k + 1 =>
    let c := shrinkBox b pc pr (k + 1) b.side
    if bytes c ≤ limit then c else fitBox bytes limit b pc pr k

/-- The bytes of a crop (R204). -/
def cropOf (p : CmpPage) (index : Nat) (b : CropBox) (slots : List LineSlot) : List Byte :=
  let (p0, n) := boxPixels p.xavg b
  let bitsN := p.bits
  let head := leBytes 4 p.page.number ++ leBytes 4 index ++ leBytes 8 ((slots.head?.map (·.y)).getD 0) ++ leBytes 4 slots.length
    ++ leBytes 4 p0 ++ leBytes 4 n ++ leBytes 1 bitsN ++ leBytes 3 0 ++ leBytes 4 (cropLineBytes bitsN n) ++ leBytes 4 0
  head ++ slots.flatMap (fun l => packLine bitsN 0 (l.planes.map (fun pl => (pl.drop p0).take n)))

/-- The crop of a blob: its bytes, and the flags CROP_TRUNCATED, CROP_LOST and NO_CROP. -/
def makeCrop (p : CmpPage) (b : Blob) (s : State) : List Byte × Nat × State :=
  if !flagVal Obj.CROP_ENABLE s then ([], 2 ^ 8, s)
  else
    let m := val Obj.CROP_MARGIN s
    let rowsOf := p.lineRows.map (·.2)
    let lo := rowsOf.foldl min b.minRow
    let hi := rowsOf.foldl max b.maxRow
    let box : CropBox := { a := b.minCol - m, e := min 39167 (b.maxCol + m), r0 := max lo (b.minRow - m),
                           r1 := min hi (b.maxRow + m) }
    -- a pair of lines shares one slot (06 R152)
    let count (c : CropBox) : Nat :=
      let ys := (p.lineRows.filter (fun r => decide (c.r0 ≤ r.2) && decide (r.2 ≤ c.r1))).map (·.1)
      (ys.map (fun y => (slotOfLine p.page y s).map (·.uid))).eraseDups.length
    let size (c : CropBox) : Nat := cropBytes p.bits p.xavg (count c) c
    let limit := val Obj.CROP_MAX_BYTES s
    let cut := decide (limit < size box)
    let box := if cut then fitBox size limit box b.peakCol b.peakRow box.side else box
    let lost (s : State) : List Byte × Nat × State :=
      ([], b2n cut * 2 ^ 6 + 2 ^ 7, { s with cmp := { s.cmp with sticky := stick 8 s.cmp.sticky } })
    match boxSlots p box s with
    | none => lost s
    | some slots =>
      match slots.findSome? (fun l => (poisonedIn (slotAddress l.spill l.place s) (slotSize s) s).head?) with
      | some a => lost (dataLost (eccUncorrectable a s))
      | none => (cropOf p b.index box slots, b2n cut * 2 ^ 6, s)

/-- The 64-byte defect record (Table 8.4). -/
def defectRecord (p : CmpPage) (b : Blob) (flags crop : Nat) : List Byte :=
  let body := leBytes 1 1 ++ leBytes 1 b.classes ++ leBytes 2 flags ++ leBytes 4 p.page.number ++ leBytes 4 b.index
    ++ leBytes 2 (p.ref.getD 0xFFFF) ++ leBytes 2 b.cells ++ leBytes 2 b.minCol ++ leBytes 2 b.maxCol
    ++ leBytes 4 (toRaw 32 b.minRow) ++ leBytes 4 (toRaw 32 b.maxRow) ++ leBytes 4 b.failing ++ leBytes 2 b.peak
    ++ leBytes 2 b.peakCol ++ leBytes 4 (toRaw 32 b.peakRow) ++ leBytes 8 b.yLeast ++ leBytes 2 (toRaw 16 b.dx)
    ++ leBytes 2 (toRaw 16 b.dy) ++ leBytes 4 crop ++ leBytes 4 0
  body ++ leBytes 4 (crc32c body)

/-- Changes a page that the engine follows. -/
def modPage (n : PageKey) (f : CmpPage → CmpPage) (s : State) : State :=
  let g (p : CmpPage) : CmpPage := if p.page = n then f p else p
  { s with cmp := { s.cmp with pages := s.cmp.pages.map g } }

/-- A blob closes: its record and crop are made (R199, R201, R203). -/
def closeBlob (page : PageKey) (b : Blob) (s : State) : State :=
  match cmpPageOf page s with
  | none => s
  | some p =>
    let (crop, flags, s) := makeCrop p b s
    let all := b.flags + flags + (if p.half then 2 ^ 9 else 0)
    let s := modPage page (fun p => { p with records := p.records + 1, blobs := p.blobs.filter (fun x => decide (x.index ≠ b.index)) }) s
    let s := { s with cmp := { s.cmp with defects := s.cmp.defects + 1 } }
    makeItem (.defect (defectRecord p b all crop.length) crop) s

/-- The result of a page (R202). -/
def pageResult (p : CmpPage) : Nat :=
  if p.ref.isNone then 2
  else if p.bandsSkipped ≠ 0 || p.partialEnd || p.failed then 3
  else if p.nextIndex ≠ 0 || p.blobsLost ≠ 0 then 1
  else 0

/-- The 64-byte page summary (Table 8.5). -/
def pageSummary (p : CmpPage) : List Byte :=
  let body := leBytes 1 2 ++ leBytes 1 (pageResult p) ++ leBytes 2 (p.flags + (if p.half then 2 ^ 9 else 0))
    ++ leBytes 4 p.page.number ++ leBytes 4 p.records ++ leBytes 2 (p.ref.getD 0xFFFF) ++ leBytes 2 p.bandsCompared
    ++ leBytes 2 p.bandsSkipped ++ leBytes 2 p.assumed ++ leBytes 4 p.rowsCompared ++ leBytes 4 p.missing
    ++ leBytes 4 p.rowsSettling ++ leBytes 4 p.rowsDuplicate ++ leBytes 2 (toRaw 16 p.firstOffset.1)
    ++ leBytes 2 (toRaw 16 p.firstOffset.2) ++ leBytes 8 p.firstY ++ leBytes 2 (toRaw 16 p.lastOffset.1)
    ++ leBytes 2 (toRaw 16 p.lastOffset.2) ++ leBytes 4 p.blobsLost ++ leBytes 4 p.outside
  body ++ leBytes 4 (crc32c body)

/-- The summary of a page that has ended, once its bands are compared: its open blobs close first (R202). -/
def finishPage (n : PageKey) (s : State) : State :=
  match cmpPageOf n s with
  | none => s
  | some p =>
    if !p.ended || s.cmp.queue.any (fun b => decide (b.page = n)) then s
    else
      let s := p.blobs.foldl (fun s b => closeBlob n b s) s
      match cmpPageOf n s with
      | none => s
      | some p =>
        let s := { s with cmp := { s.cmp with
          pages := s.cmp.pages.filter (fun q => decide (q.page ≠ n)),
          pagesCompared := s.cmp.pagesCompared + b2n (decide (pageResult p ≠ 2)),
          pagesNotCompared := s.cmp.pagesNotCompared + b2n (decide (pageResult p = 2)) } }
        releaseSlots (makeItem (.summary (pageSummary p)) s)

/-! ## Blobs (R199, R200) -/

/-- Joins two blobs: the older one's index is kept. -/
def mergeBlobs (a b : Blob) : Blob :=
  let peakB := decide (a.peak < b.peak)
  { a with
    classes := Nat.lor a.classes b.classes, flags := Nat.lor a.flags b.flags, cells := a.cells + b.cells,
    minCol := min a.minCol b.minCol, maxCol := max a.maxCol b.maxCol, minRow := min a.minRow b.minRow,
    maxRow := max a.maxRow b.maxRow, failing := a.failing + b.failing, peak := max a.peak b.peak,
    peakCol := if peakB then b.peakCol else a.peakCol, peakRow := if peakB then b.peakRow else a.peakRow,
    yLeast := if b.minRow < a.minRow then b.yLeast else a.yLeast, dx := if peakB then b.dx else a.dx,
    dy := if peakB then b.dy else a.dy, bands := max a.bands b.bands, lastBand := max a.lastBand b.lastBand,
    edge := if a.lastBand < b.lastBand then b.edge
      else if b.lastBand < a.lastBand then a.edge else a.edge ++ b.edge }

/-- Runs of neighbouring cells. -/
def cellRuns : List CmpCell → List (List CmpCell)
  | [] => []
  | c :: t =>
    match cellRuns t with
    | (d :: r) :: rs => if d.col = c.col + 1 then (c :: d :: r) :: rs else [c] :: (d :: r) :: rs
    | rs => [c] :: rs

/-- One run of defective cells as a blob of its band. -/
def runBlob (lim : CmpLimits) (run : List CmpCell) (rows : List CmpRow) (band : Int) (flags index : Nat)
    (o : Int × Int) : Blob :=
  let one (c : CmpCell) : Blob :=
    { index := index, classes := cellClasses lim c, flags := flags, cells := 1, minCol := c.minCol, maxCol := c.maxCol,
      minRow := c.minRow, maxRow := c.maxRow, failing := c.failing, peak := c.top.peak, peakCol := c.top.col,
      peakRow := c.top.row,
      yLeast := ((rows.find? (fun r => decide (r.n = c.minRow))).map (·.y)).getD 0,
      dx := o.1, dy := o.2, bands := 1, lastBand := band, edge := [c.col] }
  match run with
  | [] => { index := index, classes := 0, flags := flags, cells := 0, minCol := 0, maxCol := 0, minRow := 0, maxRow := 0,
            failing := 0, peak := 0, peakCol := 0, peakRow := 0, yLeast := 0, dx := o.1, dy := o.2, bands := 1,
            lastBand := band, edge := [] }
  | c :: t => t.foldl (fun b d => mergeBlobs b (one d)) (one c)

/-- Whether columns touch a run: the same column or a neighbour of it. -/
def touches (edge : List Nat) (run : List CmpCell) : Bool :=
  edge.any (fun e => run.any (fun c => decide (e ≤ c.col + 1) && decide (c.col ≤ e + 1)))

/-- Takes a run of defective cells of a band into the blobs of its page: those of the band before it that it touches
are joined; else a new blob opens, if the limits of R200 allow. `old` holds the columns of the band before with the index of
the blob that they now belong to. -/
def takeRun (lim : CmpLimits) (rows : List CmpRow) (band : Int) (flags : Nat) (o : Int × Int) (maxRecords : Nat)
    (old : List (Nat × List Nat)) (run : List CmpCell) (p : CmpPage) : CmpPage × Nat × List (Nat × List Nat) :=
  let hit := (old.filter (fun e => touches e.2 run)).map (·.1)
  -- a blob joined in this band stands for those it has taken in
  let group := p.blobs.filter (fun b => hit.contains b.index)
  let continued := touches p.contEdge run
  let flags := if continued && group.isEmpty then setBit flags 5 true else flags
  match group with
  | [] =>
    if p.blobs.length < 256 ∧ p.records + p.blobs.length < maxRecords then
      ({ p with blobs := p.blobs ++ [runBlob lim run rows band flags p.nextIndex o], nextIndex := p.nextIndex + 1 }, 0, old)
    else ({ p with blobsLost := p.blobsLost + 1 }, 1, old)
  | b :: rest =>
    let oldest := rest.foldl (fun m x => if x.index < m.index then x else m) b
    let others := group.filter (fun x => decide (x.index ≠ oldest.index))
    let joined := others.foldl mergeBlobs oldest
    let run' := runBlob lim run rows band flags joined.index o
    let bands := maxNat (group.map (fun x => if x.lastBand = band then x.bands else x.bands + 1))
    let new := { mergeBlobs joined run' with bands := bands }
    let gone (i : Nat) : Bool := others.any (fun (y : Blob) => decide (y.index = i))
    let kept := (p.blobs.filter (fun x => !gone x.index)).map (fun x => if x.index = oldest.index then new else x)
    ({ p with blobs := kept }, 0, old.map (fun e => if gone e.1 then (oldest.index, e.2) else e))

/-- All runs of a band, one after another; the second part counts the blobs lost. -/
def takeRuns (lim : CmpLimits) (rows : List CmpRow) (band : Int) (flags : Nat) (o : Int × Int) (maxRecords : Nat)
    (old : List (Nat × List Nat)) : List (List CmpCell) → CmpPage → CmpPage × Nat
  | [], p => (p, 0)
  | r :: t, p =>
    let (p', n, old) := takeRun lim rows band flags o maxRecords old r p
    let (q, m) := takeRuns lim rows band flags o maxRecords old t p'
    (q, n + m)

/-! ## Bands (R188, R194, R209) -/

/-- Whether a row is not compared for its SETTLING (R188). -/
def rowSettles (s : State) (r : CmpRow) : Bool := bitOf r.flags 0 && decide (val Obj.CMP_SETTLING_MODE s ≠ 1)

/-- A band is skipped (R209); its SETTLING rows count as ever (R188), and its prefetched window goes with it. -/
def skipBand (b : CmpBand) (s : State) : State :=
  let was := s.cmp.sticky
  let settling := (b.rows.filter (rowSettles s)).length
  let s := modPage b.page (fun p => { p with
    bandsSkipped := p.bandsSkipped + 1, rowsSettling := p.rowsSettling + settling }) s
  let s := { s with cmp := { s.cmp with
    prefetch := s.cmp.prefetch.filter (fun w => !(decide (pageKey w.page s = b.page) && decide (w.band = b.band))),
    queue := s.cmp.queue.filter (fun x => !(decide (x.page = b.page) && decide (x.band = b.band))),
    bandsSkipped := s.cmp.bandsSkipped + 1, sticky := stick 4 s.cmp.sticky } }
  finishPage b.page (logOnce was 4 ⟨0x0602, noSource, []⟩ s)

/-- The reference of a page, where it is READY. -/
def readyRef (p : CmpPage) (s : State) : Option RefImage :=
  match p.ref with
  | none => none
  | some id => match refOf id s with
    | some r => if r.state = 2 then some r else none
    | none => none

/-- The oldest waiting band is skipped while CMP_QUEUE_BANDS bands wait and its reference is not READY (R209). -/
def skipLate (s : State) : State :=
  match s.cmp.queue with
  | b :: _ =>
    if val Obj.CMP_QUEUE_BANDS s ≤ s.cmp.queue.length then
      match cmpPageOf b.page s with
      | some p => if (readyRef p s).isNone then skipBand b s else s
      | none => s
    else s
  | [] => s

/-- A band closes (R194): it waits to be compared; with the queue full the oldest waiting band is skipped. -/
def closeBand (n : PageKey) (s : State) : State :=
  match cmpPageOf n s with
  | none => s
  | some p =>
    match p.rows with
    | [] => s
    | r :: _ =>
      let s := match s.cmp.queue with
        | b :: _ => if val Obj.CMP_QUEUE_BANDS s ≤ s.cmp.queue.length then skipBand b s else s
        | [] => s
      let size := 117504 * p.rows.length
      let place := if regionSize rCompare s < s.cmp.queueNext + size then 0 else s.cmp.queueNext
      let band : CmpBand := { page := n, band := r.n / 64, rows := p.rows, place := place }
      let s := modPage n (fun p => { p with rows := [] }) { s with cmp := { s.cmp with
        queue := s.cmp.queue ++ [band], queueNext := place + size } }
      let s := clearPoison (regionBase rCompare s + place) size s
      let bytes := 117504 * sumNats (s.cmp.queue.map (fun b => b.rows.length))
      skipLate (noteOccupancy rCompare bytes s)

/-- The end of a page (R194, R202): its group forms a row, its band closes. -/
def endPage (n : PageKey) (partialEnd : Bool) (s : State) : State :=
  let s := modPage n (fun p => { p with ended := true, partialEnd := p.partialEnd || partialEnd }) s
  finishPage n (closeBand n s)

/-! ## Rows (R185, R186) -/

/-- Bit p of a port-invalid mask, over the lines of a group, at pixel x. -/
def groupBad (g : List RegLine) (x : Nat) : Bool := g.any (fun l => l.invalid.getLsbD (x / 816))

/-- The flags of a line as rows carry them: SETTLING, INVALID_PIXELS, FALLBACK_SHADING. -/
def regFlags (l : RegLine) : Nat := bitsOf [l.settling, decide (l.invalid ≠ 0), l.fallback]

/-- A compare row of a group of lines (R185). -/
def formRow (g : List RegLine) (n : Int) : CmpRow :=
  let pix (c xc : Nat) : Nat :=
    let ws := g.flatMap (fun l => [(l.planes.getD c []).getD (2 * xc) 0, (l.planes.getD c []).getD (2 * xc + 1) 0])
    outWord 8 (roundDiv (sumNats ws) (2 * g.length)).toNat
  { n := n, y := ((g.head?.bind (fun l => l.id.y))).getD 0, flags := g.foldl (fun f l => Nat.lor f (regFlags l)) 0,
    planes := (List.range 3).map (fun c => (List.range 39168).map (pix c)),
    valid := (List.range 39168).map (fun xc => !(groupBad g (2 * xc) || groupBad g (2 * xc + 1))) }

/-- The row index of a group (R186). -/
def rowIndex (g : List RegLine) (start : Int) (pitch : Nat) : Int :=
  let pm := Frac.mk' (sumInts (g.map (·.position))) g.length
  ((pm.sub (Frac.ofInt start)).mul (Frac.mk' pitch (256 * rowPitch))).floor

/-- The group of a page becomes a row: discarded where its index does not rise, else taken into its band. -/
def flushGroup (n : PageKey) (s : State) : State :=
  match cmpPageOf n s with
  | none => s
  | some p =>
    match p.group with
    | [] => s
    | g =>
      let i := rowIndex g p.start (encPitch s)
      let marks := g.filterMap (fun l => l.id.y.map (fun y => (y, i)))
      let s := modPage n (fun p => { p with group := [], lineRows := p.lineRows ++ marks }) s
      let duplicate := match p.lastN with
        | some m => decide (i ≤ m)
        | none => false
      if duplicate then modPage n (fun p => { p with rowsDuplicate := p.rowsDuplicate + 1 }) s
      else
        let skipped := match p.lastN with
          | some m => (i - m - 1).toNat
          | none => 0
        let higher := match p.rows with
          | r :: _ => decide (r.n / 64 < i / 64)
          | [] => false
        let s := if higher then closeBand n s else s
        modPage n (fun p => { p with rows := p.rows ++ [formRow g i], lastN := some i, missing := p.missing + skipped }) s

/-- The page of a line ends with it: it is the last before the gap lines (03 R86). -/
def lastOfPage (l : RegLine) (s : State) : Bool :=
  let n := val Obj.PAGE_LENGTH s
  decide (n ≠ 0) && decide (n ≤ l.pageLine + 1)

/-- A line of a page joins its group, which forms a row once it is whole. -/
def groupLine (l : RegLine) (s : State) : State :=
  let k := pageKey l.page s
  let s := if l.discontinuity then flushGroup k s else s
  let s := modPage k (fun p => { p with group := p.group ++ [l] }) s
  match cmpPageOf k s with
  | none => s
  | some p => if valRun Obj.CMP_Y_RATIO s ≤ p.group.length then flushGroup k s else s

/-- A registered image line reaches the engine (R184 to R186). A page ends before its gap lines, or at the next page. -/
def compareLine (l : RegLine) (s : State) : State :=
  if !s.cmp.active then s
  else
    let k := pageKey l.page s
    let earlier := (s.cmp.pages.takeWhile (fun p => decide (p.page ≠ k))).filter (fun p => !p.ended)
    let s := if s.cmp.pages.any (fun p => decide (p.page = k)) then
        earlier.foldl (fun s p => endPage p.page false (flushGroup p.page s)) s else s
    match cmpPageOf k s with
    | none => s
    | some p =>
      if p.ended || l.leadIn || l.reference then s
      else
        let s := if l.gap || p.ref.isNone then s else groupLine l s
        if l.gap || lastOfPage l s then endPage k false (flushGroup k s) else s

/-! ## Comparing a band (R195 to R201, R207, R209) -/

/-- Rows that a distance of slot positions makes. -/
def rowsOver (d : Int) (s : State) : Int := Int.fdiv (d * encPitch s) (256 * rowPitch)

/-- Rows by which a page has left the prediction of a window: by its start, and by indices missing or repeated. -/
def windowShift (w : Prefetch) (p : CmpPage) (s : State) : Int × Int :=
  (rowsOver (p.start - w.start) s, (p.missing : Int) - p.rowsDuplicate - w.shift)

/-- A window covers the search of a band of rows `lo` to `hi` about the centre of its page (R207). -/
def windowCovers (w : Prefetch) (p : CmpPage) (lo hi : Int) (s : State) : Bool :=
  let d := (windowShift w p s).1 + (windowShift w p s).2
  decide (w.rowLow ≤ lo + d - p.centreY - 8) && decide (hi + d - p.centreY + 8 ≤ w.rowHigh)
    && decide (w.colLow ≤ -p.centreX - 8) && decide (39167 - p.centreX + 8 ≤ w.colHigh)

/-- What becomes of the prefetched windows at a due band (R207, R208): the counts of discards, nothing else. With a window
that is not valid, those beyond it go too, and are fetched anew (log entry 171). Where no window was fetched for the band, those
fetched for the bands beyond it stay. -/
def usePrefetch (p : CmpPage) (b : CmpBand) (s : State) : State :=
  match s.cmp.prefetch with
  | [] => s
  | w :: rest =>
    let lo := b.rows.foldl (fun m r => min m r.n) (64 * b.band + 63)
    let hi := b.rows.foldl (fun m r => max m r.n) (64 * b.band)
    let d := windowShift w p s
    let own := decide (w.page = p.page.number) && decide (p.ref = some w.ref)
    let c := s.cmp
    if p.page.run ≠ c.run ∨ w.after = some (p.page.number, b.band) then s
    else if own && decide (w.band = b.band) && windowCovers w p lo hi s then { s with cmp := { c with prefetch := rest } }
    else if !own || decide (d.1 ≠ 0) then
      { s with cmp := { c with prefetch := [], discardPage := c.discardPage + c.prefetch.length } }
    else if decide (w.band ≠ b.band) || decide (d.2 ≠ 0) then
      { s with cmp := { c with prefetch := [], discardSpeed := c.discardSpeed + c.prefetch.length } }
    else { s with cmp := { c with prefetch := [], discardAlign := c.discardAlign + c.prefetch.length } }

/-- The bytes of the reference that the search of a band reads: offset and length in the image. -/
def windowSpan (h : RefHead) (b : CmpBand) (cy : Int) : Nat × Nat :=
  let lo := (b.rows.foldl (fun m r => min m r.n) (64 * b.band + 63)) - h.y0 - cy - 9
  let hi := (b.rows.foldl (fun m r => max m r.n) (64 * b.band)) - h.y0 - cy + 9
  let lo := (clampInt 0 h.height lo).toNat
  let hi := (clampInt 0 h.height (hi + 1)).toNat
  (64 + lo * h.stride, (hi - lo) * h.stride)

/-- A band is compared: alignment, cells, blobs and the records of blobs that close. The open blobs are those of the compared
band before it: a missing or a skipped band between them closes none (R199, R209, log entry 83). -/
def judge (p : CmpPage) (b : CmpBand) (r : RefImage) (s : State) : State :=
  let u := sampleUnit p.half
  let h := refHead r.bytes
  let compared := b.rows.filter (fun x => !rowSettles s x)
  let lim := cmpLimits p.half s
  let (o, assumed, edge) :=
    alignBand u (val Obj.ALIGN_MIN_PIXELS s) (val Obj.ALIGN_CONTRAST s) compared r h p.centreX p.centreY
  let (cells, outside) := judgeBand u lim compared r h o
  let defective := cells.filter (fun c => decide (cellClasses lim c ≠ 0))
  let rowFlags := compared.foldl (fun f x => Nat.lor f x.flags) 0
  let flags := rowFlags + b2n assumed * 8 + b2n edge * 16
  let old := p.blobs.map (fun x => (x.index, x.edge))
  let (p', lost) := takeRuns lim compared b.band flags o (val Obj.DEFECT_MAX_PAGE s) old (cellRuns defective) p
  let maxBands := val Obj.BLOB_MAX_BANDS s
  let full := p'.blobs.filter (fun x => decide (x.lastBand = b.band) && decide (maxBands ≤ x.bands))
  let done := p'.blobs.filter (fun x => decide (x.lastBand ≠ b.band))
  let p' := { p' with
    centreX := o.1, centreY := o.2, lastOffset := o, firstOffset := if b.band = 0 then o else p'.firstOffset,
    flags := Nat.lor p'.flags flags, bandsCompared := p'.bandsCompared + 1, assumed := p'.assumed + b2n assumed,
    rowsCompared := p'.rowsCompared + compared.length,
    rowsSettling := p'.rowsSettling + (b.rows.length - compared.length), outside := p'.outside + outside,
    contEdge := full.flatMap (·.edge) }
  let cellCounts := (List.range 4).map (fun k =>
    s.cmp.classCells.getD k 0 + (defective.filter (fun c => bitOf (cellClasses lim c) k)).length)
  let s := modPage p.page (fun _ => p') s
  let s := { s with cmp := { s.cmp with
    queue := s.cmp.queue.filter (fun x => !(decide (x.page = b.page) && decide (x.band = b.band))),
    bandsCompared := s.cmp.bandsCompared + 1, lastOffset := o, classCells := cellCounts,
    blobsLost := s.cmp.blobsLost + lost, sticky := if lost = 0 then s.cmp.sticky else stick 7 s.cmp.sticky } }
  let s := done.foldl (fun s x => closeBlob p.page x s) s
  let s := full.foldl (fun s x => closeBlob p.page x s) s
  releaseSlots (finishPage p.page s)

/-- BAND_COMPARE: the oldest waiting band is compared, waits for its reference, or is skipped. -/
def compareBand (e : Ecc) (s : State) : State :=
  match s.cmp.queue with
  | [] => s
  | b :: _ =>
    match cmpPageOf b.page s with
    | none => { s with cmp := { s.cmp with queue := s.cmp.queue.drop 1 } }
    | some p =>
      if p.failed then skipBand b s
      else
        match p.ref.bind (fun id => refOf id s) with
        | none => skipBand b s
        | some r =>
          if r.state = 1 then skipLate s
          else if r.state ≠ 2 then skipBand b s
          else
            let span := windowSpan (refHead r.bytes) b p.centreY
            let (bad, s) := match poisonedIn (regionBase rCompare s + b.place) (117504 * b.rows.length) s with
              | a :: _ => (some a, eccUncorrectable a s)
              | [] => eccRead (r.base + span.1) span.2 e s
            if bad.isSome then skipBand b (dataLost s) else judge p b r (usePrefetch p b s)

/-- The row BAND_COMPARE; the engine lies in PD14. -/
def execBandCompare (ecc : Ecc) (s : State) : Host.Outcome State Fault Refusal :=
  .next (if domainOn 14 s then inOneCycle (compareBand ecc) s else s)

/-- Compares, or skips, every band that waits, and ends every page (R211). -/
def drainBands : Nat → State → State
  | 0, s => s
  | k + 1, s =>
    match s.cmp.queue with
    | [] => s
    | b :: _ =>
      let t := compareBand .clean s
      drainBands k (if t.cmp.queue.length < s.cmp.queue.length then t else skipBand b t)

/-! ## Pages and runs (R184, R187, R192, R193, R211) -/

/-- Page a − b modulo 2³² lies in 1 to 2³¹ − 1: a follows b (R192). -/
def pageFollows (a b : Nat) : Bool :=
  let d := (a + 2 ^ 32 - b % 2 ^ 32) % 2 ^ 32
  decide (1 ≤ d) && decide (d < 2 ^ 31)

/-- The reference that R192 finds for a page with its seed; only READY and LOADING ids bind (R193). -/
def refForPage (n : Nat) (s : State) : Option Nat × Int × Int :=
  let dflt := val Obj.DEFAULT_REF s
  let found : Option (Nat × Int × Int) :=
    match s.cmp.assigns.find? (fun a => decide (a.page = n)) with
    | some a => some (a.id, a.dx, a.dy)
    | none => if dflt = 0xFFFF then none else some (dflt, 0, 0)
  match found with
  | none => (none, 0, 0)
  | some (id, dx, dy) => if refState id s = 1 ∨ refState id s = 2 then (some id, dx, dy) else (none, dx, dy)

/-- A page starts: it is bound to its reference, and the entries whose page has started leave the queue. -/
def startPage (n y : Nat) (s : State) : State :=
  let s := govEffect .resolution s
  if !s.cmp.active then
    { s with cmp := { s.cmp with assigns := s.cmp.assigns.filter (fun a => pageFollows a.page n) } }
  else
    let (ref, dx, dy) := refForPage n s
    let p : CmpPage :=
      { page := pageKey n s, bits := outBitsOf s, xavg := xavgOf s, ref := ref, centreX := dx, centreY := dy, firstY := y, start := 0, lastN := none, group := [],
        rows := [], half := s.cmp.halfWanted, ended := false, partialEnd := false, blobs := [], nextIndex := 0,
        records := 0, blobsLost := 0, failed := false, flags := 0, bandsCompared := 0, bandsSkipped := 0, assumed := 0,
        rowsCompared := 0, missing := 0, lineRows := [], rowsSettling := 0, rowsDuplicate := 0,
        firstOffset := (dx, dy), lastOffset := (dx, dy), outside := 0, contEdge := [] }
    { s with cmp := { s.cmp with
        pages := s.cmp.pages ++ [p], half := s.cmp.halfWanted,
        assigns := s.cmp.assigns.filter (fun a => pageFollows a.page n) } }

/-- The page start position S of a page (R186), in 1/256 count; the page pitch is measured from the one before it. -/
def setPageStart (n : Nat) (pos : Int) (s : State) : State :=
  let s := match s.cmp.prevStart with
    | some q => { s with cmp := { s.cmp with
        pagePitch := (Int.fdiv ((pos - q) * encPitch s) (256 * rowPitch)).toNat } }
    | none => s
  modPage (pageKey n s) (fun p => { p with start := pos }) { s with cmp := { s.cmp with prevStart := some pos } }

/-- Whether the row pitch differs from 600 per inch by more than 0.5 % (R187). -/
def pitchOff (s : State) : Bool :=
  let p : Int := val Obj.LINE_DIVIDER s * encPitch s * valRun Obj.CMP_Y_RATIO s
  decide (rowPitch < 200 * (p - rowPitch).natAbs)

/-- Entry to INLINE or SHEET (R184, R187). Bands that the run before has left wait on for their reference or their turn
(R193, R211). -/
def startCompare (s : State) : State :=
  let on := decide (valRun Obj.CMP_ENABLE s ≠ 0) && stitching s
  let s := { s with cmp := { s.cmp with active := on, run := s.cmp.run + 1, prefetch := [], prevStart := none } }
  if on && decide (valReady Obj.TRIG_SOURCE s = 0) && pitchOff s then
    logEvent ⟨0x0600, noSource, []⟩
      { s with cmp := { s.cmp with active := false, sticky := stick 6 s.cmp.sticky } }
  else s

/-- INLINE or SHEET ends through READY (R211): the pages end, the last as PARTIAL unless its end was reached. -/
def endCompare (s : State) : State :=
  let open' := s.cmp.pages.filter (fun p => !p.ended)
  let last := open'.getLast?.map (·.page)
  let s := open'.foldl (fun (s : State) (p : CmpPage) => endPage p.page (decide (some p.page = last)) (flushGroup p.page s)) s
  { s with cmp := { s.cmp with active := false, prefetch := [] } }

/-- Entry to FAULT (R211): the engine stops, and its queue and blobs are discarded. -/
def abandonCompare (s : State) : State :=
  { s with cmp := { s.cmp with active := false, pages := [], queue := [], prefetch := [] } }

/-! ## Reference run-ahead (R206) -/

/-- The band that the next window is fetched for: the one after the last window, after the one that is due, or the one that
gathers (R206). -/
structure NextBand where
  after : Option (Nat × Int)
  page : Nat
  band : Int
  /-- The page start and the shift of its rows that the prediction assumes. -/
  start : Int
  shift : Int
  deriving DecidableEq, Repr

/-- The band predicted after one. -/
def bandAfter (page : Nat) (band start shift : Int) (s : State) : NextBand :=
  let pitch : Int := s.cmp.pagePitch
  if pitch ≠ 0 ∧ pitch ≤ 64 * (band + 1) then
    { after := some (page, band), page := (page + 1) % 2 ^ 32, band := 0,
      start := start + Int.fdiv (pitch * 256 * rowPitch) (encPitch s), shift := 0 }
  else { after := some (page, band), page := page, band := band + 1, start := start, shift := shift }

def nextWindow (s : State) : Option NextBand :=
  match s.cmp.prefetch.getLast? with
  | some w => some (bandAfter w.page w.band w.start w.shift s)
  | none =>
    let waits (p : CmpPage) : Option CmpBand := s.cmp.queue.find? (fun b => decide (b.page = p.page))
    match s.cmp.pages.find? (fun p => decide (p.page.run = s.cmp.run) && (!p.ended || (waits p).isSome)) with
    | none => none
    | some p =>
      let shift : Int := (p.missing : Int) - p.rowsDuplicate
      match waits p with
      | some b => some (bandAfter p.page.number b.band p.start shift s)
      | none =>
        let band : Int := match leastBand p s, p.lastN with
          | some b, _ => b
          | none, some n => (n + 1) / 64
          | none, none => 0
        some { after := none, page := p.page.number, band := band, start := p.start, shift := shift }

/-- PREFETCH_FETCH: one window ahead. -/
def fetchWindow (s : State) : State :=
  if !s.cmp.active || decide (val Obj.PREFETCH_BANDS s ≤ s.cmp.prefetch.length) then s
  else
    match nextWindow s with
    | none => s
    | some b =>
      let ref := match cmpPageOf (pageKey b.page s) s with
        | some p => p.ref
        | none => (refForPage b.page s).1
      match ref with
      | none => s
      | some id =>
        let (cx, cy) := s.cmp.lastOffset
        let wide : Int := 8 + val Obj.PREFETCH_SLACK s
        let w : Prefetch := { after := b.after, page := b.page, band := b.band, ref := id, centreX := cx, centreY := cy,
                              start := b.start, shift := b.shift, rowLow := 64 * b.band - cy - wide,
                              rowHigh := 64 * b.band + 63 - cy + wide, colLow := -cx - wide, colHigh := 39167 - cx + wide }
        { s with cmp := { s.cmp with prefetch := s.cmp.prefetch ++ [w] } }

/-- The row PREFETCH_FETCH. -/
def execPrefetchFetch (s : State) : Host.Outcome State Fault Refusal :=
  .next (if domainOn 14 s then fetchWindow s else s)

/-! ## Status -/

/-- A due band waits for its reference: the page of a band that waits is bound to an id that is LOADING (R193). -/
def waitingRef (s : State) : Bool :=
  s.cmp.queue.any (fun b => match (cmpPageOf b.page s).bind (·.ref) with
    | some id => decide (refState id s = 1)
    | none => false)

/-- CMP_STATUS (Table 8.11). -/
def cmpStatus (s : State) : Nat :=
  bitsOf [s.cmp.active, s.cmp.half, s.cmp.upload.isSome, waitingRef s, bitOf s.cmp.sticky 4, bitOf s.cmp.sticky 5,
    bitOf s.cmp.sticky 6, bitOf s.cmp.sticky 7, bitOf s.cmp.sticky 8]

/-- CMP_STATUS_CLEAR (R212). -/
def writeCmpStatusClear (v : Nat) (s : State) : WriteOut :=
  .ok { s with cmp := { s.cmp with sticky := unstick s.cmp.sticky v } }

def execCmpStatusClear (via : Path) (v : BitVec 16) (s : State) : Host.Outcome State Fault Refusal :=
  writeCommand via (writeCmpStatusClear v.toNat) s

end Sys2Proof.Machine
end

