-- ==== Sys2Proof/Machine/Reference.lean ====
section
/-! DEFINITION. Reference images (08_inspection_compare R189 to R193): uploads, their checks and their allocation, the
release of ids, page assignments and DEFAULT_REF. -/
namespace Sys2Proof.Machine

/-- A header passes Table 8.1 and its check word (R189, R190). -/
def refHeaderOk (b : List Byte) : Bool :=
  let h := refHead b
  decide (fieldAt b 0 2 = 1) && decide (4 ≤ h.width) && decide (h.width ≤ 39168) && decide (h.width % 4 = 0)
    && decide (1 ≤ h.height) && decide (h.height ≤ 1048576) && decide (h.stride % 64 = 0)
    && decide (13 * h.width ≤ 4 * h.stride) && decide (fieldAt b 60 4 = crc32c (b.take 60))

/-- Bytes of an image by its header. -/
def refTotal (b : List Byte) : Nat := 64 + (refHead b).height * (refHead b).stride

/-- Allocations of the reference region, in ascending order of their base. -/
def refSpans (s : State) : List (Nat × Nat) :=
  let ins (x : Nat × Nat) (l : List (Nat × Nat)) : List (Nat × Nat) :=
    (l.filter (fun y => decide (y.1 < x.1))) ++ [x] ++ (l.filter (fun y => decide (x.1 ≤ y.1)))
  (s.cmp.refs.filter (fun r => decide (r.allocated ≠ 0))).foldl (fun l r => ins (r.base, r.allocated) l) []

/-- The free spans of the region: base and length. -/
def refGaps (a stop : Nat) : List (Nat × Nat) → List (Nat × Nat)
  | [] => [(a, stop - a)]
  | (b, n) :: t => (a, b - a) :: refGaps (b + n) stop t

def freeSpans (s : State) : List (Nat × Nat) :=
  refGaps (regionBase rReference s) (regionBase rReference s + regionSize rReference s) (refSpans s)

/-- REF_FREE_BYTES. -/
def refFreeBytes (s : State) : Nat := maxNat ((freeSpans s).map (·.2))

/-- Bytes that the reference region holds. -/
def noteReference (s : State) : State := noteOccupancy rReference (sumNats ((refSpans s).map (·.2))) s

def modRef (id : Nat) (f : RefImage → RefImage) (s : State) : State :=
  let g (r : RefImage) : RefImage := if r.id = id then f r else r
  { s with cmp := { s.cmp with refs := s.cmp.refs.map g } }

/-- The bands of pages bound to an image that is lost are skipped, and their open blobs close (R193). -/
def failReference (id : Nat) (s : State) : State :=
  let bound := (s.cmp.pages.filter (fun p => decide (p.ref = some id))).map (·.page)
  let s := bound.foldl (fun s n => modPage n (fun p => { p with failed := true }) s) s
  let s := (s.cmp.queue.filter (fun b => bound.contains b.page)).foldl (fun s b => skipBand b s) s
  bound.foldl (fun s n => match cmpPageOf n s with
    | some p => p.blobs.foldl (fun s b => closeBlob n b s) s
    | none => s) s

/-- An upload ends BAD (R190). -/
def refBad (id : Nat) (s : State) : State :=
  let s := modRef id (fun r => { r with state := 3 })
    { s with cmp := { s.cmp with upload := none, sticky := stick 5 s.cmp.sticky } }
  failReference id (logEvent ⟨0x0601, id, []⟩ s)

/-- The header is complete: it is checked, and the image is allocated at the lowest address with room (log entry 11). -/
def checkHeader (id : Nat) (r : RefImage) (s : State) : State :=
  if !refHeaderOk r.bytes then refBad id s
  else
    match (freeSpans s).find? (fun g => decide (refTotal r.bytes ≤ g.2)) with
    | none => refBad id s
    | some g =>
      noteReference (modRef id (fun r => { r with base := g.1, allocated := refTotal r.bytes })
        (clearPoison g.1 64 s))

/-- The image is complete: its body is checked (R190). -/
def checkBody (id : Nat) (r : RefImage) (s : State) : State :=
  if fieldAt r.bytes 56 4 = crc32c (r.bytes.drop 64) then
    modRef id (fun r => { r with state := 2 }) { s with cmp := { s.cmp with upload := none } }
  else refBad id s

/-- Bytes reach the open upload up to a total; the rest of them is returned. -/
def takeUpTo (id total : Nat) (data : List Byte) (s : State) : List Byte × State :=
  match refOf id s with
  | none => (data, s)
  | some r =>
    let n := total - r.bytes.length
    let before := r.bytes.length / 64 * 64
    let after := (r.bytes.length + min n data.length) / 64 * 64
    -- the blocks that these bytes complete (09 R227), once the image has its place
    let s := if r.allocated = 0 then s else clearPoison (r.base + before) (after - before) s
    (data.drop n, modRef id (fun r => { r with bytes := r.bytes ++ data.take n }) s)

/-- Bytes arrive in the open upload (R190): the header, then the body. What is left over is returned. -/
def appendUpload (data : List Byte) (s : State) : List Byte × State :=
  match s.cmp.upload with
  | none => (data, s)
  | some id =>
    match refOf id s with
    | none => (data, s)
    | some r0 =>
      let (data, s) := if r0.bytes.length < 64 then
          let (d, s) := takeUpTo id 64 data s
          match refOf id s with
          | some r => if r.bytes.length = 64 then (d, checkHeader id r s) else (d, s)
          | none => (d, s)
        else (data, s)
      if s.cmp.upload = some id then
        match refOf id s with
        | none => (data, s)
        | some r =>
          if r.allocated = 0 then (data, s)
          else
            let (d, s) := takeUpTo id r.allocated data s
            match refOf id s with
            | some r => if r.bytes.length = r.allocated then (d, checkBody id r s) else (d, s)
            | none => (d, s)
      else (data, s)

/-- The bytes that the open upload has received. -/
def uploadBytes (s : State) : Nat :=
  match s.cmp.upload with
  | none => 0
  | some id => ((refOf id s).map (fun r => r.bytes.length)).getD 0

/-- The open upload is aborted: its id is FREE and its allocation released (R190, R193). -/
def abortUpload (s : State) : State :=
  match s.cmp.upload with
  | none => s
  | some id =>
    failReference id { s with cmp := { s.cmp with
      upload := none, refs := s.cmp.refs.filter (fun r => decide (r.id ≠ id)) } }

/-- REF_OPEN (R190). -/
def writeRefOpen (v : Nat) (s : State) : WriteOut :=
  if v = 0xFFFF then .ok (abortUpload s)
  else if 255 < v then
    if s.cmp.upload.isSome || !imaging s then .abort abortState s else .abort abortRange s
  else if refState v s ≠ 0 || s.cmp.upload.isSome || !imaging s then .abort abortState s
  else
    .ok { s with cmp := { s.cmp with
      upload := some v, refs := s.cmp.refs ++ [{ id := v, state := 1, base := 0, allocated := 0, bytes := [] }] } }

/-- The row REF_OPEN. -/
def execRefOpen (via : Path) (v : BitVec 16) (s : State) : Host.Outcome State Fault Refusal :=
  writeCommand via (writeRefOpen v.toNat) s

/-- An id in use by a page being compared (R191). -/
def refInUse (id : Nat) (s : State) : Bool := s.cmp.pages.any (fun p => decide (p.ref = some id))

/-- REF_RELEASE (R191). -/
def writeRefRelease (v : Nat) (s : State) : WriteOut :=
  if refState v s = 1 || refInUse v s then .abort abortState s
  else if 255 < v then .abort abortRange s
  else if s.cmp.assigns.any (fun a => decide (a.id = v)) then .abort abortState s
  else if val Obj.DEFAULT_REF s = v then .abort abortContent s
  else .ok { s with cmp := { s.cmp with refs := s.cmp.refs.filter (fun r => decide (r.id ≠ v)) } }

/-- The row REF_RELEASE. -/
def execRefRelease (via : Path) (v : BitVec 16) (s : State) : Host.Outcome State Fault Refusal :=
  writeCommand via (writeRefRelease v.toNat) s

/-- A page has started in the run: it is the page of the last line, or that page follows it (R192). -/
def pageStarted (page : Nat) (s : State) : Bool :=
  capturing s && s.tim.pageFirstY.isSome && (decide (s.tim.pageNumber = page) || pageFollows s.tim.pageNumber page)

/-- PAGE_ASSIGN (R192, R193): one entry of Table 8.3. -/
def writePageAssign (data : List Byte) (s : State) : WriteOut :=
  let page := fieldAt data 0 4
  let id := fieldAt data 4 2
  let dx := toSigned 16 (fieldAt data 6 2)
  let dy := toSigned 16 (fieldAt data 8 2)
  if data.length ≠ 12 then .abort abortLength s
  else if 4096 ≤ s.cmp.assigns.length then .abort abortState s
  else if refState id s = 0 ∨ refState id s = 3 then .abort abortState s
  else
    let follows := match s.cmp.assigns.getLast? with
      | some a => pageFollows page a.page
      | none => true
    let seedOk := decide (-64 ≤ dx) && decide (dx ≤ 64) && decide (-64 ≤ dy) && decide (dy ≤ 64)
    if fieldAt data 10 2 ≠ 0 then .misuse .reservedBits
    else if !follows || !seedOk then .abort abortContent s
    else
      .ok (if pageStarted page s then s else
        { s with cmp := { s.cmp with assigns := s.cmp.assigns ++ [⟨page, id, dx, dy⟩] } })

/-- The row PAGE_ASSIGN. -/
def execPageAssign (via : Path) (data : List Byte) (s : State) : Host.Outcome State Fault Refusal :=
  writeCommand via (writePageAssign data) s

/-- DEFAULT_REF (R193). -/
def writeDefaultRef (v : Nat) (s : State) : WriteOut :=
  if v = 0xFFFF then .ok (setVal Obj.DEFAULT_REF v s)
  else if v ≤ 255 && decide (refState v s = 0 ∨ refState v s = 3) then .abort abortState s
  else if 255 < v then .abort abortRange s
  else .ok (setVal Obj.DEFAULT_REF v s)

/-- The row DEFAULT_REF_WRITE. -/
def execDefaultRefWrite (via : Path) (v : BitVec 16) (s : State) : Host.Outcome State Fault Refusal :=
  writeCommand via (fun s => (writeDefaultRef v.toNat s).noted) s

/-- REF_DIRECTORY (Table 8.2). -/
def refDirectory (s : State) : List Byte :=
  (List.range 256).flatMap (fun id =>
    match refOf id s with
    | none => leBytes 16 0
    | some r =>
      let h := refHead r.bytes
      let known := decide (64 ≤ r.bytes.length)
      leBytes 1 r.state ++ leBytes 1 (b2n (refInUse id s)) ++ leBytes 2 (if known then h.width else 0)
        ++ leBytes 4 (if known then h.height else 0) ++ leBytes 8 r.allocated)

end Sys2Proof.Machine
end

