-- ==== Sys2Proof/Machine/Dma.lean ====
section
/-! DEFINITION. The DMA channels (09_cistern_dma R230 to R240): descriptors, wrap, packing, bus errors and control. -/
namespace Sys2Proof.Machine

/-! ## Descriptors (Table 9.7) -/

def Descriptor.ofBytes (l : List Byte) : Descriptor :=
  ⟨fieldAt l 0 8, fieldAt l 8 8, fieldAt l 16 8, fieldAt l 24 8⟩

def Descriptor.fill (d : Descriptor) : Bool := bitOf d.q0 50
def Descriptor.srcAddr (d : Descriptor) : Nat := bits d.q0 39 0
def Descriptor.dstAddr (d : Descriptor) : Nat := bits d.q1 39 0
def Descriptor.srcWrap (d : Descriptor) : Nat := bits d.q0 45 40
def Descriptor.dstWrap (d : Descriptor) : Nat := bits d.q1 45 40
def Descriptor.srcInc (d : Descriptor) : Bool := bitOf d.q0 46
def Descriptor.dstInc (d : Descriptor) : Bool := bitOf d.q1 46
def Descriptor.count (d : Descriptor) : Nat := bits d.q2 31 0
def Descriptor.own (d : Descriptor) : Bool := bitOf d.q3 63
def Descriptor.last (d : Descriptor) : Bool := bitOf d.q3 54
def Descriptor.notify (d : Descriptor) : Bool := bitOf d.q3 53
def Descriptor.nextAddr (d : Descriptor) : Nat := bits d.q3 39 0

/-- The width of an element format. -/
def elementBits : Nat → Nat
  | 0 => 8 | 1 => 10 | 2 => 12 | _ => 16

def Descriptor.srcBits (d : Descriptor) : Nat := elementBits (bits d.q0 49 48)
def Descriptor.dstBits (d : Descriptor) : Nat := elementBits (bits d.q1 49 48)

/-- A wrap code of Table 9.7. -/
def wrapOk (k : Nat) : Bool := decide (k = 0) || (decide (12 ≤ k) && decide (k ≤ 36))

/-- NEXT_ADDR breaks R234. -/
def Descriptor.badNext (d : Descriptor) : Bool := !d.last && decide (d.nextAddr % 32 ≠ 0)

/-- The checks of R234. A 1 in a reserved bit of Table 9.7, whose results 18 Table 18.6 leaves undefined, is not looked at: the
descriptor runs by its other bits (DESIGN CHOICE, log entry 182). -/
def Descriptor.bad (d : Descriptor) : Bool :=
  decide (d.count = 0) || !wrapOk d.srcWrap || !wrapOk d.dstWrap || d.badNext

/-! ## Wrap and packing (R236) -/

/-- The address of byte j of a transfer from A; without INC every access uses A (log entry 12). -/
def dmaAddress (a wrap : Nat) (inc : Bool) (j : Nat) : Nat :=
  if !inc then a
  else if wrap = 0 then a + j
  else a - a % 2 ^ wrap + (a + j) % 2 ^ wrap

/-- Element n of width w of a little-endian bit stream given as a number. -/
def elementAt (stream w n : Nat) : Nat := (stream / 2 ^ (w * n)) % 2 ^ w

/-- The holding register: an element of `ws` bits at a width of `wd` bits. -/
def convertElement (ws wd v : Nat) : Nat :=
  if ws ≤ wd then v * 2 ^ (wd - ws)
  else min (2 ^ wd - 1) ((v + 2 ^ (ws - wd - 1)) / 2 ^ (ws - wd))

/-- Elements packed at a width, the high bits of the last byte 0. -/
def packElements (w : Nat) (vs : List Nat) : List Byte :=
  leBytes (ceilDiv (w * vs.length) 8) (vs.foldr (fun v acc => v + 2 ^ w * acc) 0)

/-- The bytes that `n` elements of width `w` span. -/
def spanOf (w n : Nat) : Nat := ceilDiv (n * w) 8

/-- The elements that the first `b` bytes hold whole. -/
def wholeElements (w b : Nat) : Nat := 8 * b / w

/-! ## Bus errors (R231, R232, R237) -/

/-- The reference upload port (Table 9.6). -/
def uploadPort : Nat := 0x8000000000

/-- DMA_CH_LAST_ERROR of an address, side and cause (Table 9.12). -/
def busError (addr side cause : Nat) : Nat := addr % 2 ^ 40 + side * 2 ^ 40 + cause * 2 ^ 42

/-- Why a byte of HOST_SCRATCH cannot be accessed: the cause, or none. -/
def scratchCause (a : Nat) (s : State) : Option Nat :=
  if !inScratch a 1 s then some 0 else if !cisternOn a s then some 2 else none

/-- The error of a fetch or write-back: the channel stops (R237). -/
def fetchError (ch a cause : Nat) (s : State) : State :=
  let s := modChan ch (fun c => { c with
    state := .stopped, fetching := false, desc := none, lastError := busError a 2 cause }) s
  logEvent ⟨0x0704, ch, leBytes 8 (busError a 2 cause)⟩
    { s with cist := { s.cist with dmaStatus := setBit s.cist.dmaStatus ch true } }

/-! ## Fetch (R234) -/

/-- The fetch of a descriptor: 32 bytes inside HOST_SCRATCH. -/
def fetchDescriptor (ch : Nat) (e : Ecc) (s : State) : State :=
  let a := (chanOf ch s).current
  if !inScratch a 32 s then fetchError ch a 0 s
  else if !cisternOn a s then fetchError ch a 2 s
  else
    let (bad, s) := eccRead a 32 e s
    match bad with
    | some x => fetchError ch x 1 (dataLost s)
    | none =>
      let d := Descriptor.ofBytes (scratchRead a 32 s)
      modChan ch (fun c => { c with
        fetching := false, state := if d.own then .running else .waiting,
        desc := if d.own then some d else none }) s

/-- The row DESCRIPTOR_FETCH; channels 0 to 15 belong to the PC firmware and are never started here. -/
def execDescriptorFetch (ch : Fin 32) (ecc : Ecc) (s : State) : Host.Outcome State Fault Refusal :=
  .next (if (chanOf ch.val s).fetching then fetchDescriptor ch.val ecc s else s)

/-! ## Moving data -/

/-- The first byte of the source that cannot be read: its place in the transfer, its address and the cause. -/
def sourceFault (d : Descriptor) (e : Ecc) (n : Nat) (s : State) : Option (Nat × Nat × Nat) :=
  if d.fill then none
  else
    (List.range n).findSome? (fun j =>
      let a := dmaAddress d.srcAddr d.srcWrap d.srcInc j
      match scratchCause a s with
      | some c => some (j, a, c)
      | none =>
        let hit := isPoisoned a s || (match e with
          | .uncorrectable x => decide (x / 64 = a / 64)
          | _ => false)
        if hit then some (j, a, 1) else none)

/-- The first byte of the destination that cannot be written. -/
def destFault (d : Descriptor) (n : Nat) (s : State) : Option (Nat × Nat × Nat) :=
  if d.dstAddr = uploadPort then (if s.cmp.upload.isNone then some (0, uploadPort, 3) else none)
  else
    (List.range n).findSome? (fun j =>
      let a := dmaAddress d.dstAddr d.dstWrap d.dstInc j
      (scratchCause a s).map (fun c => (j, a, c)))

/-- The source elements of a descriptor: FILL repeats SRC_ADDR[15:0] at the source width. -/
def sourceElements (d : Descriptor) (n : Nat) (s : State) : List Nat :=
  if d.fill then List.replicate n (bits d.q0 15 0 % 2 ^ d.srcBits)
  else
    let bytes := (List.range (spanOf d.srcBits n)).map (fun j =>
      cellGet (scratchDefault s) (dmaAddress d.srcAddr d.srcWrap d.srcInc j) s.cist.scratch)
    let stream := leNat bytes
    (List.range n).map (elementAt stream d.srcBits)

/-- Writes bytes at the destination of a descriptor, one after another. -/
def writeDest (d : Descriptor) : Nat → List Byte → State → State
  | _, [], s => s
  | j, b :: t, s => writeDest d (j + 1) t (scratchWriteAt (dmaAddress d.dstAddr d.dstWrap d.dstInc j) [b] s)

/-- Whether the first `n` bytes of a destination include an address. -/
def destCovers (d : Descriptor) (n a : Nat) : Bool :=
  if !d.dstInc then decide (a = d.dstAddr)
  else if d.dstWrap = 0 then decide (d.dstAddr ≤ a) && decide (a < d.dstAddr + n)
  else
    let m := 2 ^ d.dstWrap
    decide (a / m = d.dstAddr / m) && decide ((a + m - d.dstAddr % m) % m < n)

/-- Blocks of the destination that its first `n` bytes cover in full are no longer poisoned (R227). -/
def coverDest (d : Descriptor) (n : Nat) (s : State) : State :=
  { s with cist := { s.cist with
      poisoned := s.cist.poisoned.filter (fun b => !(List.range 64).all (fun i => destCovers d n (b + i))) } }

/-- The bytes of the 64-byte destination block in which an error fell, from offset j on, become free values (R237). -/
def scrambleBlock (d : Descriptor) : Nat → Nat → State → State
  | _, 0, s => s
  | j, n + 1, s =>
    let a := dmaAddress d.dstAddr d.dstWrap d.dstInc j
    let (v, s) := takeFree 8 s
    let s := if (scratchCause a s).isNone then scratchWriteAt a [BitVec.ofNat 8 v] s else s
    if (a + 1) % 64 = 0 then s else scrambleBlock d (j + 1) n s

/-- A correctable error is met where the source bytes of the elements read include its block. -/
def sourceMeets (d : Descriptor) (n x : Nat) : Bool :=
  !d.fill && (List.range (spanOf d.srcBits n)).any (fun j => decide (dmaAddress d.srcAddr d.srcWrap d.srcInc j / 64 = x / 64))

/-- The first bus error of a descriptor over its first `n` elements: the elements before it, and its address, side and
cause. Each element is read before it is written. -/
def firstError (d : Descriptor) (e : Ecc) (n : Nat) (s : State) : Nat × Option (Nat × Nat × Nat) :=
  let src := (sourceFault d e (spanOf d.srcBits n) s).map (fun x => (min n (wholeElements d.srcBits x.1), x.2.1, 0, x.2.2))
  let dst := (destFault d (spanOf d.dstBits n) s).map (fun x => (min n (wholeElements d.dstBits x.1), x.2.1, 1, x.2.2))
  match src, dst with
  | some x, some y => if x.1 ≤ y.1 then (x.1, some x.2) else (y.1, some y.2)
  | some x, none => (x.1, some x.2)
  | none, some y => (y.1, some y.2)
  | none, none => (n, none)

/-- Counts what the ECC check of the source found, up to the error that ends the move (R225, R226). -/
def countEcc (d : Descriptor) (e : Ecc) (done : Nat) (err : Option (Nat × Nat × Nat)) (s : State) : State :=
  match err, e with
  | some (a, 0, 1), _ => dataLost (eccUncorrectable a s)
  | _, .corrected x => if sourceMeets d (min d.count (done + 1)) x then eccCorrected x s else s
  | _, _ => s

/-- Moves the first `cap` bytes of a descriptor's destination, or up to a bus error: the elements written, and the error
(address, side, cause) if any. -/
def moveData (d : Descriptor) (e : Ecc) (cap : Nat) (s : State) : Nat × Option (Nat × Nat × Nat) × State :=
  let n := min d.count (ceilDiv (8 * cap) d.dstBits)
  let (done, err) := firstError d e n s
  let all := packElements d.dstBits ((sourceElements d done s).map (convertElement d.srcBits d.dstBits))
  let bytes := all.take cap
  let done := if err.isNone then min done (wholeElements d.dstBits cap) else done
  if d.dstAddr = uploadPort then
    let (rest, t) := appendUpload bytes s
    if rest.isEmpty then (done, err, countEcc d e done err t)
    else
      let taken := wholeElements d.dstBits (bytes.length - rest.length)
      (taken, some (uploadPort, 1, 3), countEcc d e taken (some (uploadPort, 1, 3)) t)
  else
    let s := coverDest d bytes.length (writeDest d 0 bytes (countEcc d e done err s))
    (done, err, if err.isSome then scrambleBlock d bytes.length 64 s else s)

/-! ## Write-back (R235, R238) -/

def resultDone : Nat := 1
def resultBadBus : Nat := 2
def resultBadDescriptor : Nat := 3

/-- A descriptor as memory holds it at its end: the host may have cleared LAST, and set NEXT_ADDR, since it was fetched
(R235). -/
def heldDescriptor (a : Nat) (s : State) : Descriptor := Descriptor.ofBytes (scratchRead a 32 s)

/-- Bytes 16 to 31 at the end of a descriptor: DONE, RESULT and OWN, every other bit as `d` has it. -/
def backBytes (d : Descriptor) (done result : Nat) (own : Bool) : List Byte :=
  let q2 := done * 2 ^ 32 + d.count
  let q3 := bits d.q3 55 0 + result * 2 ^ 56 + bits d.q3 62 59 * 2 ^ 59 + b2n own * 2 ^ 63
  leBytes 8 q2 ++ leBytes 8 q3

/-- Records a bad descriptor: the count, and the bit of DMA_STATUS with one event while it was clear (R237). -/
def noteBad (ch err : Nat) (s : State) : State :=
  let was := s.cist.dmaStatus
  let s := modChan ch (fun c => { c with badCount := c.badCount + 1, lastError := err }) s
  logOnce was ch ⟨0x0703, ch, leBytes 8 err⟩ { s with cist := { s.cist with dmaStatus := setBit was ch true } }

/-- NOTIFY (R238). -/
def sendNotice (ch result done addr : Nat) (s : State) : State :=
  let s := modChan ch (fun c => { c with notices := c.notices + 1 }) s
  mpMessage 0x82 (leBytes 1 ch ++ leBytes 1 result ++ leBytes 2 0 ++ leBytes 4 done ++ leBytes 8 addr) s

/-- A descriptor ends: it is written back, notifies, and the channel goes on (R235). -/
def endDescriptor (ch : Nat) (d : Descriptor) (done result : Nat) (s : State) : State :=
  let a := (chanOf ch s).current
  if !inScratch (a + 16) 16 s then fetchError ch (a + 16) 0 s
  else if !cisternOn a s then fetchError ch (a + 16) 2 s
  else
    let held := heldDescriptor a s
    let s := scratchWriteAt (a + 16) (backBytes held done result false) s
    let s := if result = resultDone then modChan ch (fun c => { c with doneCount := c.doneCount + 1 }) s else s
    let s := if d.notify then sendNotice ch result done a s else s
    if result = resultBadDescriptor && d.badNext then
      modChan ch (fun c => { c with state := .stopped, desc := none }) s
    else if held.last then modChan ch (fun c => { c with state := .idle, desc := none }) s
    else modChan ch (fun c => { c with desc := none, current := held.nextAddr, fetching := true }) s

/-- The end of a descriptor that a channel runs. -/
def finishDescriptor (ch : Nat) (d : Descriptor) (e : Ecc) (s : State) : State :=
  if d.bad then
    endDescriptor ch d 0 resultBadDescriptor (noteBad ch (chanOf ch s).lastError s)
  else
    let (done, err, s) := moveData d e (spanOf d.dstBits d.count) s
    match err with
    | none => endDescriptor ch d done resultDone s
    | some (a, side, cause) => endDescriptor ch d done resultBadBus (noteBad ch (busError a side cause) s)

/-- The row DESCRIPTOR_DONE. -/
def execDescriptorDone (ch : Fin 32) (ecc : Ecc) (s : State) : Host.Outcome State Fault Refusal :=
  .next (match (chanOf ch.val s).state, (chanOf ch.val s).desc with
    | .running, some d => finishDescriptor ch.val d ecc s
    | _, _ => s)

/-! ## Control (R238, R239) -/

/-- START. -/
def startChannel (ch : Nat) (s : State) : WriteOut :=
  let a := val (Obj.DMA_CH_START ch) s
  let st := (chanOf ch s).state
  if ch < 16 || decide (st = .running) || decide (st = .waiting) || !imaging s then .abort abortState s
  else if a % 32 ≠ 0 || !inScratch a 32 s then .abort abortContent s
  else .ok (modChan ch (fun c => { c with state := .running, current := a, fetching := true, desc := none }) s)

/-- The destination bytes of a descriptor up to the end of its 64-byte burst number `k`, the first of which ends at the first
64-byte boundary; the upload port's bursts are counted from its first byte. -/
def burstEnd (d : Descriptor) (k : Nat) : Nat :=
  min (spanOf d.dstBits d.count) (64 * k + (64 - (if d.dstAddr = uploadPort then 0 else d.dstAddr % 64)))

/-- A channel has stopped. -/
def chanStopped (ch : Nat) (s : State) : State :=
  modChan ch (fun c => { c with state := .stopped, fetching := false, desc := none }) s

/-- The write-back of a stopped transfer: OWN stays set with RESULT 0; one that met a bus error ends BAD_BUS instead. -/
def stopBack (ch : Nat) (done : Nat) (err : Option (Nat × Nat × Nat)) (s : State) : State :=
  let a := (chanOf ch s).current
  if !inScratch (a + 16) 16 s then fetchError ch (a + 16) 0 s
  else if !cisternOn a s then fetchError ch (a + 16) 2 s
  else
    let held := heldDescriptor a s
    match err with
    | none => chanStopped ch (scratchWriteAt (a + 16) (backBytes held done 0 true) s)
    | some (x, side, cause) =>
      chanStopped ch (scratchWriteAt (a + 16) (backBytes held done resultBadBus false) (noteBad ch (busError x side cause) s))

/-- STOP on one channel: a running transfer ends at a burst boundary, by which free value it is (log entry 22). -/
def stopChannel (ch : Nat) (s : State) : State :=
  let c := chanOf ch s
  match c.state, c.desc with
  | .running, some d =>
    if d.bad then chanStopped ch s
    else
      let (k, s) := takeFree 32 s
      let (done, err, s) := moveData d .clean (burstEnd d k) s
      stopBack ch done err s
  | .running, none => chanStopped ch s
  | .waiting, _ => chanStopped ch s
  | _, _ => s

/-- KICK: only in WAITING. -/
def kickChannel (ch : Nat) (s : State) : State :=
  if (chanOf ch s).state = .waiting then modChan ch (fun c => { c with state := .running, fetching := true }) s else s

/-- DMA_CH_CONTROL (R238); the host cannot control channels 0 to 15 (R230). -/
def writeDmaControl (ch v : Nat) (s : State) : WriteOut :=
  if ch < 16 then .abort abortState s
  else match v with
    | 1 => startChannel ch s
    | 2 => .ok (stopChannel ch s)
    | 3 => .ok (kickChannel ch s)
    | _ => .abort abortRange s

/-- The row DMA_START. -/
def execDmaStart (via : Path) (ch : Fin 32) (s : State) : Host.Outcome State Fault Refusal :=
  writeCommand via (writeDmaControl ch.val 1) s

/-- The row DMA_STOP. -/
def execDmaStop (via : Path) (ch : Fin 32) (s : State) : Host.Outcome State Fault Refusal :=
  writeCommand via (writeDmaControl ch.val 2) s

/-- The row DMA_KICK. -/
def execDmaKick (via : Path) (ch : Fin 32) (s : State) : Host.Outcome State Fault Refusal :=
  writeCommand via (writeDmaControl ch.val 3) s

/-- DMA_STATUS_CLEAR (R241). -/
def writeDmaStatusClear (v : Nat) (s : State) : WriteOut :=
  .ok { s with cist := { s.cist with dmaStatus := unstick s.cist.dmaStatus v } }

/-- The row DMA_STATUS_CLEAR. -/
def execDmaStatusClear (via : Path) (v : BitVec 32) (s : State) : Host.Outcome State Fault Refusal :=
  writeCommand via (writeDmaStatusClear v.toNat) s

/-- Every host channel stops (R239). -/
def stopChannels (s : State) : State := (List.range 16).foldl (fun s i => stopChannel (16 + i) s) s

end Sys2Proof.Machine
end

