-- ==== Sys2Proof/Machine/Timing.lean ====
section
/-! DEFINITION. The line timing engine (03_line_timing R63 to R87, R476): triggers, the start and the end of lines and
slots, encoders, halts and holds, pages and diagnostic lines. -/
namespace Sys2Proof.Machine

/-! ## What lets lines start -/

/-- Lines that a phase of a strip capture gathers before it ends (05 R124). -/
def phaseTarget (s : State) : Nat :=
  if s.pipe.capture.state = .white then val Obj.REF_WHITE_LINES s else val Obj.REF_BLACK_LINES s

/-- The phase that gathers lines, while it still begins lines. -/
def gathering (s : State) : Option RefPhase :=
  let c := s.pipe.capture
  if c.begun < phaseTarget s then
    match c.state with
    | .black => some .black
    | .white => some .white
    | _ => none
  else none

/-- A phase of a capture has the engine: lines start at the internal rate only. -/
def inPhase (s : State) : Bool := decide (s.pipe.capture.state = .black) || decide (s.pipe.capture.state = .white)

/-- The HOLD input holds capture (R81). -/
def holding (s : State) : Bool := s.tim.holdLevel && flagVal Obj.HOLD_ENABLE s

/-- A waiting capture is due (05 R123): no line is in progress, and where pages have gap lines the last line was one that
began after the request. -/
def captureDue (s : State) : Bool :=
  capturing s && decide (s.pipe.capture.state = .waiting) && !s.tim.lineActive
    && (decide (pageSource s = 0) || decide (val Obj.PAGE_LENGTH s = 0)
      || (s.tim.gapLine && decide (s.pipe.capture.since < s.tim.nextSerial)))

/-- SYNC0 triggers arrive: EtherCAT Op with distributed clocks active (R75). -/
def sync0Runs (s : State) : Bool := inOp s && s.ecat.sync0.isSome

/-- With SYNC0 as source no lines start outside EtherCAT Op with distributed clocks active (R75). -/
def sourceRuns (s : State) : Bool := decide (valReady Obj.TRIG_SOURCE s ≠ 2) || sync0Runs s

/-- Image lines, or lines of READY, may start: not while a capture is due or runs, a web halt or a hold lasts, capture has
stopped, or the trigger source gives none. -/
def mayStart (s : State) : Bool :=
  if !sourceRuns s then false
  else if capturing s then s.tim.armed && !captureRuns s && !captureDue s && !s.tim.webHalt && !holding s
  else decide (s.modes.mode = .ready) && !inPhase s

/-! ## Slot positions (06 R139, R140) -/

/-- Δ in force, in 1/256 count (06 R141). -/
def staggerCounts (s : State) : Int :=
  roundDiv (256 * ((valRun Obj.STAGGER_DISTANCE s : Int) * 1000)) (encPitch s)

/-- P(s) from the counts of an encoder at C(s), in ps of the time base. -/
def countPosition (e : Encoder) (c : Nat) : Int :=
  match e.recent.filter (fun r => decide (1000 * r.2.1 ≤ c)) with
  | (_, t1, d1, p1) :: (_, t0, d0, _) :: _ =>
    if d1 = d0 ∧ d1 ≠ 0 ∧ t0 < t1 then
      256 * p1 + d1 * min 255 ((256 * (c - 1000 * t1)) / (1000 * (t1 - t0)) : Nat)
    else 256 * p1
  | (_, _, _, p1) :: [] => 256 * p1
  | [] => match e.recent.getLast? with
    | some (_, _, d, p) => 256 * (p - d)
    | none => 256 * e.position

/-- P(s) of a slot with its centre at `c`. -/
def slotPosition (c : Nat) (s : State) : Int :=
  if valRun Obj.REG_MODE s = 1 then
    roundDiv (256 * (c : Int) * valRun Obj.REG_NOMINAL_RATE s) (1000 * 1000000000)
  else countPosition (encoderOf (posEncoder s) s) c

/-! ## Pages (R83 to R86) -/

/-- The page state that an image line finds at its trigger. -/
structure PageAt where
  number : Nat
  start : Bool
  leadIn : Bool
  /-- The page start position taken, in counts (sources 1 and 2). -/
  pos : Option Int
  deriving DecidableEq, Repr

/-- The page of an image line at trigger position `pos`, with the timing state after it. -/
def pageAt (pos : Int) (s : State) : PageAt × State :=
  let t := s.tim
  let first := decide (t.runLines = 0)
  let n0 := val Obj.PAGE_NUMBER_START s
  if pageSource s = 1 ∨ pageSource s = 2 then
    let due := t.pagePending.takeWhile (fun p => decide (p ≤ pos))
    let before := if first then (n0 + 2 ^ 32 - 1) % 2 ^ 32 else t.pageNumber
    let number := (before + t.pagesPassed + due.length) % 2 ^ 32
    let leadIn := (first || t.pageFirstY.isNone) && due.isEmpty
    ({ number := number, start := !due.isEmpty, leadIn := leadIn, pos := due.getLast? },
     { s with tim := { t with pagePending := t.pagePending.drop due.length, pagesPassed := 0, pageNumber := number } })
  else
    let start := first || (t.pageNow && decide (pageSource s = 3))
    let number := if first then n0 else if start then (t.pageNumber + 1) % 2 ^ 32 else t.pageNumber
    ({ number := number, start := start, leadIn := false, pos := none },
     { s with tim := { t with pageNumber := number, pageNow := false } })

/-- Page starts that the path has passed while a capture in INLINE takes no image lines: all but the last have no lines, and
only their numbers are used up (05 R124 step 7). -/
def passPages (s : State) : State :=
  let t := s.tim
  let gone := (t.pagePending.takeWhile (fun p => decide (p ≤ pathPosition s))).length - 1
  if captureRuns s && decide (s.modes.mode = .inline) then
    { s with tim := { t with pagePending := t.pagePending.drop gone, pagesPassed := t.pagesPassed + gone } }
  else s

/-- Whether a page that starts at `pos` started while a capture in INLINE had stopped image lines (05 R124 step 7). -/
def startsLate (pos : Option Int) (s : State) : Bool :=
  match pos, s.pipe.capture.resumeAt with
  | some p, some r => decide (p ≤ r)
  | _, _ => false

/-- No pending page start lies within the stagger distance plus one line beyond a trigger position (R87). -/
def clearAhead (pos : Int) (s : State) : Bool :=
  s.tim.pagePending.all (fun p => decide (staggerCounts s + 256 * val Obj.LINE_DIVIDER s < 256 * (p - pos)))

/-! ## The start of a line (R63, R74) -/

/-- EXPOSURE and SUBPULSES in force from this line on (04 R100); the second part says whether one changed. -/
def takeExposure (s : State) : State × Bool :=
  let f (x : Nat × Lamp) : Lamp :=
    { x.2 with exposure := val (Obj.EXPOSURE x.1) s, subpulses := val (Obj.SUBPULSES x.1) s }
  let cs := ((List.range 3).zip s.lamps.colours).map f
  let same := (cs.zip s.lamps.colours).all (fun x =>
    decide (x.1.exposure = x.2.exposure) && decide (x.1.subpulses = x.2.subpulses))
  ({ s with lamps := { s.lamps with colours := cs } }, !same)

/-- Settling windows at a line start (02 R59, 04 R96): those that are complete close; slews begin, and a lamp window opens,
in which case a line before it with an integration still to end gains SETTLING (02 R60). -/
def openWindows (start : Nat) (s : State) : State :=
  let s := { s with fe := { s.fe with groups := s.fe.groups.map closeGroupWindow } }
  let slews := s.fe.groups.any (fun g => g.vbias.waiting.isSome || g.vrst.waiting.isSome)
  let late := match s.tim.lines.getLast? with
    | some l => runsPast l.id.serial start s
    | none => false
  let s := (List.range 8).foldl (fun s k => groupLineStart k s) s
  let (s, changed) := takeExposure s
  let lamp := changed || s.lamps.settleNext
  let s := if lamp then openLampWindow s else s
  let s := { s with lamps := { s.lamps with settleNext := false } }
  let mark : LineRec → LineRec := fun l => { l with settling := true }
  if (lamp || slews) && late then
    { s with tim := { s.tim with lines := modifyAt mark (s.tim.lines.length - 1) s.tim.lines } } else s

/-- The ports that are invalid in every line: disabled, or of a group that is off or out of service (02 R57, 14 R359). -/
def deadPorts (s : State) : BitVec 96 := BitVec.ofNat 96 (maskOf (fun p => !portLive p s) 96)

/-- The colours that a diagnostic line serves, of those whose request was pending at its trigger (R87, 04 R104). -/
def diagnosticOf (gap : Bool) (pos : Int) (asked : List Colour) (s : State) : List Colour :=
  if gap && clearAhead pos s then s.tim.diagPending.filter (fun c => asked.contains c) else []

/-- A diagnostic line is carried out: the requests clear (R87, 04 R103, R105). -/
def serveDiagnostic (cs : List Colour) (s : State) : State :=
  if cs.isEmpty then s
  else
    let result := bitsOf [cs.contains .red, cs.contains .green, cs.contains .blue, false, false, true]
    let served (x : Nat × Lamp) : Lamp :=
      if cs.contains (Colour.ofCode x.1) then { x.2 with served := true } else x.2
    { s with
      tim := { s.tim with diagPending := s.tim.diagPending.filter (fun c => !cs.contains c), diagLines := s.tim.diagLines + 1 },
      lamps := { s.lamps with diagResult := result,
                              colours := ((List.range 3).zip s.lamps.colours).map served } }

/-- Stage A coefficients apply from the first slot of a line (05 R115). -/
def takeStageA (s : State) : State :=
  { s with lv := { s.lv with
      chainInForce := bytesGet (objKey 0x4304 0) s.dict.bulk, driftInForce := bytesGet (objKey 0x4305 0) s.dict.bulk } }

/-- Adds the record of a line that begins. -/
def beginLine (l : LineRec) (start : Nat) (s : State) : State :=
  { s with tim := { s.tim with
      lines := s.tim.lines ++ [l], lineActive := true, atLine := false, placed := [], slotStart := start,
      slotPos := pathPosition s, nextSerial := s.tim.nextSerial + 1,
      recentLines := s.clk :: s.tim.recentLines.filter (fun t => decide (s.clk < t + 100000000)) } }

/-- An image line, or a line of READY outside a capture, on a trigger at which the requests `asked` were pending. The page line
of a line in the lead-in, whose page has no first line, is counted from y = 0 (DESIGN CHOICE, log entry 163: R85 and 10
R252 count page lines from a page's first line alone). -/
def startImageLine (pos : Int) (start : Nat) (asked : List Colour) (s : State) : State :=
  let run := capturing s
  let y := if run then some s.tim.nextY else none
  let id : LineId := ⟨s.tim.nextSerial, y⟩
  let yn := s.tim.nextY
  let blank : LineRec :=
    { id := id, page := 0, pageStart := false, pageLine := 0, leadIn := false, gap := false, refPhase := none,
      counted := false, trigPos := pos, startTime := start, slots := [], invalid := deadPorts s,
      settling := settlingOpen s, diagnostic := [], dropped := false,
      lin := bytesGet (objKey 0x4302 0) s.dict.bulk, hostDefects := bytesGet (objKey 0x4303 0) s.dict.bulk,
      chainSet := s.lv.chainInForce, driftSet := s.lv.driftInForce, pulsed := 0, ended := none }
  if !run then beginLine blank start s
  else
    let firstLine := decide (s.tim.runLines = 0)
    let (pg, s) := pageAt pos s
    let firstY := if pg.start then some yn else if firstLine then none else s.tim.pageFirstY
    let pageLine := yn - firstY.getD 0
    let len := val Obj.PAGE_LENGTH s
    let gap := decide (len ≠ 0) && !pg.leadIn && decide (len ≤ pageLine)
    let unitStart := firstLine || (pg.start && decide (pageSource s ≠ 0))
    let (s, dropped) := admitLine unitStart pg.leadIn yn s
    let s := if pg.start then startPage pg.number yn (pageDiag s) else s
    let s := match pg.pos with
      | some p => setPageStart pg.number (256 * p) s
      | none => s
    let diag := diagnosticOf gap pos asked s
    let s := serveDiagnostic diag s
    let l := { blank with page := pg.number, pageStart := pg.start, pageLine := pageLine, leadIn := pg.leadIn,
                          gap := gap, diagnostic := diag, dropped := dropped }
    let c := s.pipe.capture
    let late := if startsLate pg.pos s then some id.serial else c.lateLine
    beginLine l start { s with
      tim := { s.tim with nextY := yn + 1, runLines := s.tim.runLines + 1, pageFirstY := firstY, gapLine := gap },
      pipe := { s.pipe with capture := { c with resumeAt := none, lateLine := late } } }

/-- A reference line of a capture's phase (05 R124, R128): it is never a line of a page. -/
def startReferenceLine (ph : RefPhase) (pos : Int) (start : Nat) (s : State) : State :=
  let settling := settlingOpen s
  let l : LineRec :=
    { id := ⟨s.tim.nextSerial, some s.tim.nextY⟩, page := 0, pageStart := false, pageLine := 0, leadIn := false,
      gap := false, refPhase := some ph, counted := !settling, trigPos := pos, startTime := start, slots := [],
      invalid := deadPorts s, settling := settling, diagnostic := [], dropped := false,
      lin := bytesGet (objKey 0x4302 0) s.dict.bulk, hostDefects := bytesGet (objKey 0x4303 0) s.dict.bulk,
      chainSet := s.lv.chainInForce, driftSet := s.lv.driftInForce, pulsed := 0, ended := none }
  let c := s.pipe.capture
  beginLine l start { s with
    tim := { s.tim with nextY := s.tim.nextY + 1, gapLine := false },
    pipe := { s.pipe with capture := { c with begun := c.begun + b2n (!settling) } } }

/-- From the start of a new selection to its first LINE: NOP, LOOP and JUMP may come before it (R69). -/
def seekLine : Nat → State → State
  | 0, s => s
  | n + 1, s =>
    match currentOp s with
    | some .line => advance { s with tim := { s.tim with atLine := true } }
    | some .nop => seekLine n (stepNop s)
    | some (.loop _ _ _) => seekLine n (stepLoop s)
    | some (.jump _) => seekLine n (stepJump s)
    | _ => s

/-- The LINE that the engine has reached is executed as the line begins (R74): a new selection takes effect (R70), and the
simple sequence takes its objects as they stand (R71). -/
def executeLine (s : State) : State :=
  let want := val Obj.PROGRAM_SELECT s
  let s := if want ≠ s.tim.active then
      let s := loadSelection want s
      seekLine (s.tim.words.length + 1) s
    else s
  if s.tim.active = 0 then
    { s with tim := { s.tim with
        words := simpleWords s.tim.simpleLines s, pc := 1, simpleLines := s.tim.simpleLines + 1 } }
  else s

/-- A line begins at `start` ps, on a trigger at position `pos` at which the diagnostic requests `asked` were pending; a
selection that has become an empty bank begins none. -/
def startLine (pos : Int) (start : Nat) (asked : List Colour) (s : State) : State :=
  let s := executeLine s
  if !engineRuns s then s
  else
    let s := takeStageA (openWindows start s)
    match gathering s with
    | some ph => startReferenceLine ph pos start s
    | none => startImageLine pos start asked s

/-! ## Triggers (R72 to R75, R80, R81) -/

/-- A trigger finds one pending (R74). -/
def overrun (s : State) : State :=
  let was := s.tim.sticky
  logOnce was 3 ⟨0x0200, noSource, []⟩
    { s with tim := { s.tim with overruns := s.tim.overruns + 1, sticky := stick 3 was } }

/-- A line may follow at once: a phase of a capture that has gathered its lines begins no more. -/
def lineFollows (s : State) : Bool := if inPhase s then (gathering s).isSome else mayStart s

/-- A trigger arrives: it starts a line at once where the engine stands at a LINE, pends, or is dropped. -/
def arrive (pos : Int) (s : State) : State :=
  if !engineRuns s || !(inPhase s || mayStart s) then s
  else if s.tim.pending.isSome then overrun s
  else if s.tim.atLine && !s.tim.lineActive && lineFollows s then startLine pos (1000 * s.now) s.tim.diagPending s
  else { s with tim := { s.tim with pending := some pos, pendingDiag := s.tim.diagPending } }

/-- LINE_TRIGGER: the oldest trigger on its way arrives; one of a SYNC0 cycle arrives only in Op with distributed clocks
active (R75). -/
def lineTrigger (s : State) : State :=
  match s.tim.inFlight with
  | [] => s
  | p :: t =>
    let s := { s with tim := { s.tim with inFlight := t } }
    if inPhase s || (p.isNone && !sync0Runs s) then s else arrive (p.getD (pathPosition s)) s

/-- The row LINE_TRIGGER. -/
def execLineTrigger (s : State) : Host.Outcome State Fault Refusal := .next (lineTrigger s)

/-- INTERNAL_TRIGGER: the phase accumulator of INTERNAL_PERIOD, or of REF_LINE_PERIOD in a capture (R72, 05 R124). -/
def internalTrigger (s : State) : State :=
  if inPhase s || decide (valReady Obj.TRIG_SOURCE s = 1) then arrive (pathPosition s) s else s

/-- The row INTERNAL_TRIGGER. -/
def execInternalTrigger (s : State) : Host.Outcome State Fault Refusal := .next (internalTrigger s)

/-- The triggers of one SYNC0 cycle (R72, R75): the first at once, the others on their way. -/
def sync0Triggers (s : State) : State :=
  if decide (valReady Obj.TRIG_SOURCE s = 2) && sync0Runs s && !inPhase s && engineRuns s then
    arrive (pathPosition s)
      { s with tim := { s.tim with
          inFlight := s.tim.inFlight ++ List.replicate (val Obj.SYNC0_LINES s - 1) none } }
  else s

/-- LTRIG_EDGE (R72, R82). -/
def ltrig (rising : Bool) (s : State) : State :=
  let chosen := decide (valReady Obj.LTRIG_EDGE s = (if rising then 0 else 1))
  let s' := { s with tim := { s.tim with ltrigLevel := rising } }
  if !domainOn 12 s || decide (s.tim.ltrigLevel = rising) then s'
  else if chosen && decide (valReady Obj.TRIG_SOURCE s = 3) && !inPhase s then
    { s' with tim := { s'.tim with inFlight := s'.tim.inFlight ++ [some (pathPosition s)] } }
  else s'

/-- The row LTRIG_EDGE. -/
def execLtrigEdge (rising : Bool) (s : State) : Host.Outcome State Fault Refusal := .next (ltrig rising s)

/-! ## LINE (R68, R70, R71) -/

/-- The pulse of the last slot of the line in progress is its last. -/
def markLast (s : State) : State :=
  match s.tim.lines.getLast? with
  | none => s
  | some l =>
    let last : DuePulse → DuePulse := fun d =>
      if d.serial = l.id.serial ∧ d.slotIndex + 1 = l.slots.length then { d with lastOfLine := true } else d
    { s with tim := { s.tim with due := s.tim.due.map (fun ds => ds.map last) } }

/-- A line is complete when its slots have ended and the engine stands at the next LINE. -/
def lineComplete (s : State) : Bool := s.tim.lineActive && s.tim.atLine && s.tim.placed.isEmpty

/-- The end of a complete line (02 R59): it enters the hold (01 R16). -/
def completeLine (s : State) : State :=
  let note : LineRec → LineRec := fun l => { l with ended := some s.clk }
  (List.range 8).foldl (fun s k => groupLineEnd k s)
    { s with tim := { s.tim with lineActive := false, lines := modifyLast note s.tim.lines } }

/-- A pending trigger begins a line at the end of the last slot of the line before it (R74); between the phases of a capture
it waits for the next phase. -/
def takePending (start : Nat) (s : State) : State :=
  match s.tim.pending with
  | none => s
  | some p =>
    let t := { s with tim := { s.tim with pending := none } }
    if lineFollows s then startLine p start s.tim.pendingDiag t
    else if inPhase s then s else t

/-- LINE: the line before it ends with its slots, and the engine stands at the LINE until a trigger begins a line, at once
on a pending one. -/
def stepLine (s : State) : State :=
  match currentOp s with
  | some .line =>
    let s := if s.tim.lineActive then markLast s else s
    let s := advance { s with tim := { s.tim with atLine := true } }
    let wasActive := s.tim.lineActive
    let s := if lineComplete s then completeLine s else s
    if s.tim.lineActive then s else takePending (if wasActive then s.tim.slotStart else 1000 * s.now) s
  | _ => s

/-- The row LINE. -/
def execLine (s : State) : Host.Outcome State Fault Refusal := .next (stepLine s)

/-! ## SLOT_END (R63, R67) -/

/-- The gathering of pulses since the last latch takes those of a slot that has ended: a slot begins before the latch of its
line (04 R91, R93, R105). -/
def gatherLight (sl : PlacedSlot) (s : State) : State :=
  modLamp sl.colour.code (fun l => { l with widest := max l.widest sl.widest, diagnosed := l.diagnosed || sl.diag }) s

/-- The record of the slot that ends: the time base and the positions at both ends, its slot position, and the level it was lit
with (R67, 04 R101). The slot after it starts where it ends (R63). -/
def closeSlot (s : State) : State :=
  match s.tim.placed with
  | [] => s
  | sl :: rest =>
    let stop := s.tim.slotStart + 2500 * sl.width
    let centre := s.tim.slotStart + 1250 * sl.width
    let here := pathPosition s
    let p := slotPosition centre s
    let clk := ((centre : Int) + 1000 * ((s.clk : Int) - s.now)) / 1000
    let level := (lampOf sl.colour.code s).levelActual
    let fill (x : SlotRec) : SlotRec :=
      { x with endTime := stop, startPos := s.tim.slotPos, endPos := here, centre := p, centreClk := clk.toNat, level := level }
    let follow (x : SlotRec) : SlotRec := { x with startTime := stop }
    let inLine (l : LineRec) : LineRec :=
      let i := l.slots.length - (rest.length + 1)
      { l with slots := modifyAt follow (i + 1) (modifyAt fill i l.slots) }
    let line := s.tim.lines.getLast?
    let s := gatherLight sl s
    let s := { s with tim := { s.tim with
        lines := modifyLast inLine s.tim.lines, placed := rest, slotStart := stop, slotPos := here } }
    -- S of R186 with PAGE_SOURCE 0 or 3 is the red position of the page's first line
    match line with
    | some l =>
      if l.pageStart && decide (sl.colour = .red) && decide (pageSource s = 0 ∨ pageSource s = 3)
      then setPageStart l.page p s else s
    | none => s

/-- SLOT_END: the present slot ends; with the last slot of a line the line is complete, and a pending trigger begins the
next. -/
def slotEnd (s : State) : State :=
  if !s.tim.lineActive || s.tim.placed.isEmpty then s
  else
    let s := closeSlot s
    if lineComplete s then takePending s.tim.slotStart (completeLine s) else s

/-- The row SLOT_END. -/
def execSlotEnd (s : State) : Host.Outcome State Fault Refusal := .next (slotEnd s)

/-! ## Encoders (R76 to R78, R476) -/

/-- The direction of an accepted count: +1 where A leads B. -/
def quadrature (a b a' b' : Bool) : Int :=
  -- the order of the states in a forward turn: 00, 10, 11, 01
  let place (x y : Bool) : Int := match x, y with
    | false, false => 0
    | true, false => 1
    | true, true => 2
    | false, true => 3
  if (place a' b' - place a b) % 4 = 1 then 1 else -1

/-- The next trigger point: the least previous point plus a whole multiple of LINE_DIVIDER that lies beyond the present
position (R73). -/
def nextPoint (point pos : Int) (div : Nat) : Int := point + (div : Int) * (Int.fdiv (pos - point) div + 1)

/-- A new position of the position encoder: the highest position, the end of a web halt, and trigger points. -/
def positionMoved (s : State) : State :=
  let pos := pathPosition s
  let s := if s.tim.highest < pos then
      let s' := { s with tim := { s.tim with highest := pos, roseAt := s.clk } }
      if s.tim.webHalt then logEvent ⟨0x0202, noSource, []⟩ { s' with tim := { s'.tim with webHalt := false } } else s'
    else s
  if valReady Obj.TRIG_SOURCE s = 0 ∧ s.tim.nextPoint ≤ pos then
    let s' := { s with tim := { s.tim with nextPoint := nextPoint s.tim.nextPoint pos (val Obj.LINE_DIVIDER s) } }
    if engineRuns s && !inPhase s then
      { s' with tim := { s'.tim with inFlight := s'.tim.inFlight ++ [some pos] } }
    else s'
  else s

/-- Keeps the entries of the last 11 ms, those of the slot in progress, and the two before them (R139). -/
def trimCounts (l : List (Nat × Nat × Int × Int)) (s : State) : List (Nat × Nat × Int × Int) :=
  let inSlot (t : Nat) : Bool := s.tim.lineActive && decide (s.tim.slotStart ≤ 1000 * t)
  let kept := l.takeWhile (fun r => decide (s.clk < r.1 + 11000000) || inSlot r.2.1)
  l.take (kept.length + 2)

/-- Sets an ENC status bit with one event while it was clear. -/
def encoderEvent (bit code e : Nat) (s : State) : State :=
  let was := s.tim.sticky
  logOnce was bit ⟨code, e, []⟩ { s with tim := { s.tim with sticky := stick bit was } }

/-- ENC_COUNT: a sample with new accepted levels of A and B. While PD12 is off nothing is counted, and the levels then
present are accepted at its power-up (R476). -/
def encCount (e : Nat) (a b : Bool) (s : State) : State :=
  if !domainOn 12 s then modEncoder e (fun x => { x with a := a, b := b }) s
  else
    let x := encoderOf e s
    let movedA := decide (x.a ≠ a)
    let movedB := decide (x.b ≠ b)
    let s := modEncoder e (fun x => { x with a := a, b := b }) s
    if movedA && movedB then
      encoderEvent 6 0x0204 e (modEncoder e (fun x => { x with errors := x.errors + 1 }) s)
    else if !movedA && !movedB then s
    else
      let d := quadrature x.a x.b a b * (if flagVal (Obj.ENC_INVERT e) s then -1 else 1)
      let fast := match x.lastCount with
        | some t => decide (s.clk < t + 25)
        | none => false
      let s := modEncoder e (fun x => { x with
        position := x.position + d, lastCount := some s.clk,
        recent := trimCounts ((s.clk, s.now, d, x.position + d) :: x.recent) s }) s
      let s := if fast then encoderEvent 7 0x0205 e s else s
      if e = posEncoder s then positionMoved s else s

/-- The row ENC_COUNT. -/
def execEncCount (e : Fin 2) (a b : Bool) (s : State) : Host.Outcome State Fault Refusal := .next (encCount e.val a b s)

/-- ENC_INDEX (R78): a rising index edge latches the position and the time base. -/
def encIndex (e : Nat) (level : Bool) (s : State) : State :=
  if !domainOn 12 s then modEncoder e (fun x => { x with z := level }) s
  else
    modEncoder e (fun x =>
      if level && !x.z then
        { x with z := true, indexPosition := x.position, indexTime := s.now, indexCount := x.indexCount + 1 }
      else { x with z := level }) s

/-- The row ENC_INDEX. -/
def execEncIndex (e : Fin 2) (level : Bool) (s : State) : Host.Outcome State Fault Refusal :=
  .next (encIndex e.val level s)

/-- A write of ENC_POSITION takes effect (R73); in a run, slot positions by the encoder break there (06 R142). -/
def setPosition (e : Nat) (v : Int) (s : State) : State :=
  let breaks := capturing s && decide (e = posEncoder s) && decide (valRun Obj.REG_MODE s ≠ 1)
  let s := if breaks then { s with tim := { s.tim with posBreaks := s.tim.posBreaks ++ [s.clk] } } else s
  let s := modEncoder e (fun x => { x with
    position := v, posWrite := none,
    recent := trimCounts ((s.clk, s.now, 0, v) :: (s.clk, s.now, 0, x.position) :: x.recent) s }) s
  if e = posEncoder s then positionMoved s else s

/-- ENC_POSITION; while PD12 is off the value is applied at power-up (R476). -/
def writeEncPosition (e : Nat) (raw : Nat) (s : State) : WriteOut :=
  let v := toSigned 64 raw
  .ok (if domainOn 12 s then setPosition e v s else modEncoder e (fun x => { x with posWrite := some v }) s)

/-- The row ENC_POSITION_WRITE. -/
def execEncPositionWrite (via : Path) (e : Fin 2) (v : BitVec 64) (s : State) : Host.Outcome State Fault Refusal :=
  writeCommand via (writeEncPosition e.val v.toNat) s

/-- ENC_RATE: the signed count rate of the last 1 ms. -/
def encRate (e : Nat) (s : State) : Int :=
  1000 * sumInts (((encoderOf e s).recent.filter (fun r => decide (s.clk < r.1 + 1000000))).map (fun r => r.2.2.1))

/-! ## Halts, holds and pages (R80, R81, R83, R84) -/

/-- STANDSTILL_COMMANDED: the pacer commands standstill, from the start of a stop of the Weir until the restart's first
move, and for a HOLD or a capture (11 R312). -/
def standstillCommanded (s : State) : Bool :=
  s.mot.transport.owns && (s.mot.transport.standstill || holding s || captureRuns s)

/-- WEB_HALT: the highest position has not risen for WEB_HALT_TIMEOUT; in SHEET not while the pacer commands standstill. -/
def webHalt (s : State) : State :=
  let standing := decide (s.modes.mode = .sheet) && standstillCommanded s
  if capturing s && !s.tim.webHalt && !standing then
    logEvent ⟨0x0201, noSource, []⟩
      { s with tim := { s.tim with webHalt := true, webHalts := s.tim.webHalts + 1 } }
  else s

/-- The row WEB_HALT. -/
def execWebHalt (s : State) : Host.Outcome State Fault Refusal := .next (webHalt s)

/-- The HOLD input becomes active (R81): the first assertion after a release logs HOLD. -/
def holdOn (s : State) : State :=
  if s.tim.holdLevel then s
  else
    let s' := { s with tim := { s.tim with holdLevel := true } }
    if flagVal Obj.HOLD_ENABLE s && domainOn 12 s then logEvent ⟨0x0203, noSource, []⟩ s' else s'

/-- The HOLD input is released. -/
def holdOff (s : State) : State := { s with tim := { s.tim with holdLevel := false } }

/-- A page start edge is ignored (R84). -/
def ignorePage (s : State) : State :=
  let was := s.tim.sticky
  logOnce was 8 ⟨0x0206, noSource, []⟩
    { s with tim := { s.tim with pagesIgnored := s.tim.pagesIgnored + 1, sticky := stick 8 was } }

/-- The position of the last committed image line, in 1/256 count. -/
def lastCommitted (s : State) : Option Int := s.host.overlap.head?.map (·.position)

/-- PAGE_EDGE (R83, R84, 10 R268). -/
def pageEdge (sensor : PageSensor) (s : State) : State :=
  let source := match sensor with
    | .psync => 1
    | .pmark => 2
  if !capturing s || decide (pageSource s ≠ source) then s
  else
    let s := passPages s
    let pos := pathPosition s + val Obj.PAGE_OFFSET s
    let old := s.host.stopped && (match lastCommitted s with
      | some p => decide (256 * pathPosition s ≤ p)
      | none => false)
    let locked := match s.tim.pagePrevious with
      | some q => decide (pos < q + (val Obj.PAGE_LOCKOUT s : Int) * val Obj.LINE_DIVIDER s)
      | none => false
    if old then s
    else if locked || decide (4 ≤ s.tim.pagePending.length) then ignorePage s
    else { s with tim := { s.tim with pagePending := s.tim.pagePending ++ [pos], pagePrevious := some pos } }

/-- The row PAGE_EDGE. -/
def execPageEdge (sensor : PageSensor) (s : State) : Host.Outcome State Fault Refusal := .next (pageEdge sensor s)

/-- PAGE_START_NOW (R83). -/
def writePageStartNow (v : Bool) (s : State) : WriteOut :=
  .ok (if v && capturing s && decide (pageSource s = 3) then { s with tim := { s.tim with pageNow := true } } else s)

/-- The row PAGE_START_NOW. -/
def execPageStartNow (via : Path) (s : State) : Host.Outcome State Fault Refusal :=
  writeCommand via (writePageStartNow true) s

/-! ## Runs and status -/

/-- The first trigger point after capture is armed (R73). -/
def armPoint (s : State) : State :=
  { s with tim := { s.tim with nextPoint := pathPosition s + val Obj.LINE_DIVIDER s } }

/-- Capture is armed at the entry to INLINE or SHEET (R4, R70, R73, R80, R83, R85): the selection as last accepted begins
at its word 0 (log entry 26). No line of the run has been read (07 R175); a colour that has been served waits for the first line
of a page (04 R103). -/
def armRun (s : State) : State :=
  let s := loadSelection (val Obj.PROGRAM_SELECT s) s
  armPoint { s with
    tim := { s.tim with
      armed := true, pending := none, inFlight := [], nextY := 0, runLines := 0, pagePending := [],
      pagePrevious := none, pageNow := false, pageFirstY := none, gapLine := false, webHalt := false, pendingDiag := [],
      pagesPassed := 0, posBreaks := [],
      highest := pathPosition s, roseAt := s.clk },
    lamps := { s.lamps with settleNext := true },
    lv := { s.lv with recent := [], readAt := none } }

/-- Image capture stops: no further line starts. -/
def disarm (s : State) : State :=
  { s with tim := { s.tim with armed := false, pending := none, pendingDiag := [], inFlight := [], webHalt := false } }

/-- LINE_RATE. -/
def lineRate (s : State) : Nat :=
  10 * (s.tim.recentLines.filter (fun t => decide (s.clk < t + 100000000))).length

/-- TIMING_STATUS (Table 3.6). -/
def timingStatus (s : State) : Nat :=
  let t := s.tim
  bitsOf [engineRuns s, t.lineActive, t.pending.isSome, bitOf t.sticky 3, t.webHalt, holding s, bitOf t.sticky 6,
    bitOf t.sticky 7, bitOf t.sticky 8, t.gapLine, !t.diagPending.isEmpty]

/-- STATUS_CLEAR of `0x2100:0A`. -/
def writeTimingClear (v : Nat) (s : State) : WriteOut :=
  .ok { s with tim := { s.tim with sticky := unstick s.tim.sticky v } }

end Sys2Proof.Machine
end

