-- ==== Sys2Proof/Machine/Pipeline.lean ====
section
/-! DEFINITION. Stages 4 to 11 of the image path (05 R111 to R122, R130 to R138; 06 R139 to R157): a line from the line hold
to the stagger region, registration, averaging, packing and commit, bank switches and the stagger measurement. -/
namespace Sys2Proof.Machine

/-! ## Banks (05 R118 to R122) -/

def bankOf (b : Nat) (s : State) : Bank := s.pipe.banks.getD b Bank.reset
def modBank (b : Nat) (f : Bank → Bank) (s : State) : State :=
  { s with pipe := { s.pipe with banks := modifyAt f b s.pipe.banks } }

/-- A capture has been requested and has not ended: REF_STATE is not IDLE. -/
def captureBusy (s : State) : Bool := decide (s.pipe.capture.state ≠ .idle)

/-- Stage B sets the fall-back mark (R122). -/
def fallbackMark (s : State) : Bool := decide ((bankOf s.pipe.active s).state = 0) || s.pipe.lastFailed

/-- A requested switch takes effect; every entry of PW_REF is set to 0 (07 R178). -/
def switchBank (s : State) : State :=
  clearBulk (objKey 0x4501 0) { s with pipe := { s.pipe with active := 1 - s.pipe.active, switchPending := false, lastFailed := false } }

/-- A switch is requested: in READY it takes effect at once (R121). -/
def requestSwitch (s : State) : State :=
  if s.modes.mode = .ready then switchBank s else { s with pipe := { s.pipe with switchPending := true } }

/-- The next line to begin at stage B: the oldest of the hold. -/
def nextAtStageB (s : State) : Option LineRec := s.tim.lines.head?

/-- BANK_SWITCH_EFFECT: in READY, or as a line without SETTLING begins at stage B in INLINE or SHEET. -/
def switchEffect (s : State) : State :=
  if !s.pipe.switchPending then s
  else if s.modes.mode = .ready then switchBank s
  else if capturing s then
    match nextAtStageB s with
    | some l => if l.settling then s else switchBank s
    | none => s
  else s

/-- The row BANK_SWITCH_EFFECT. -/
def execBankSwitchEffect (s : State) : Host.Outcome State Fault Refusal := .next (switchEffect s)

/-- BANK_SWITCH (R121). -/
def writeBankSwitch (v : Bool) (s : State) : WriteOut :=
  if !v then .ok s
  else if !imaging s || s.pipe.switchPending || captureBusy s
      || decide ((bankOf (1 - s.pipe.active) s).state = 3) then .abort abortState s
  else .ok (requestSwitch s)

/-- The row BANK_SWITCH. -/
def execBankSwitch (via : Path) (s : State) : Host.Outcome State Fault Refusal :=
  writeCommand via (writeBankSwitch true) s

/-! ## From the line hold to stage 6 (05 R112, R116 to R118, R131) -/

/-- A list of exactly `n` words, filled up with 0. -/
def padWords (n : Nat) (ws : List Nat) : List Nat := (ws ++ List.replicate (n - ws.length) 0).take n

/-- The slot of a line in a colour. -/
def slotIn (l : LineRec) (c : Colour) : Option SlotRec := l.slots.find? (fun x => decide (x.colour = c))

/-- The words of each port after stage 4: marked ports 0 (R53, R112), the others linearised (R117). -/
def stage4 (l : LineRec) (c : Nat) (s : State) : List (Nat × List Nat) :=
  let lin := flagVal Obj.LIN_ENABLE s
  match slotIn l (Colour.ofCode c) with
  | none => []
  | some x => x.words.map (fun pw =>
      if l.invalid.getLsbD pw.1 then (pw.1, List.replicate pw.2.length 0)
      else (pw.1, if lin then pw.2.map (linearise l.lin pw.1 c) else pw.2))

/-- Stage B on the words of a port (R118). -/
def shadeTile (raw : Option (List Byte)) (p c : Nat) (ws : List Nat) : List Nat :=
  ((List.range ws.length).zip ws).map (fun iv =>
    if iv.1 < 816 then stageB (bankEntry raw (816 * p + iv.1) c) iv.2 else iv.2)

/-- Stages B and 6 on the words of a colour, with the number of substitutions left (R118, R131). -/
def stage56 (l : LineRec) (c : Nat) (words : List (Nat × List Nat)) (s : State) : List (Nat × List Nat) × Nat :=
  let raw := (bankOf s.pipe.active s).raw
  let host := words32 (l.hostDefects.getD [])
  let auto := bankDefects raw
  let onePort (acc : List (Nat × List Nat) × Nat) (pw : Nat × List Nat) : List (Nat × List Nat) × Nat :=
    if l.invalid.getLsbD pw.1 then (acc.1 ++ [pw], acc.2)
    else
      let ws := if flagVal Obj.STAGE_B_ENABLE s then shadeTile raw pw.1 c pw.2 else pw.2
      if flagVal Obj.DEFECT_ENABLE s then
        let (ws, n) := substituteTile host auto pw.1 c ws
        (acc.1 ++ [(pw.1, ws)], acc.2 + n)
      else (acc.1 ++ [(pw.1, ws)], acc.2)
  words.foldl onePort ([], 0)

/-- The data of a diagnostic line's colour are those of the line before it (03 R87); where stage 6 holds none, after a break, the
slot's own data stay (DESIGN CHOICE, log entry 181). -/
def replacePlane (old : Option Stage6Line) (rep : Bool) (c : Nat) (words : List (Nat × List Nat)) :
    List (Nat × List Nat) :=
  if rep then match old with
    | some o => o.planes.getD c []
    | none => words
  else words

/-- The line as it leaves stage 6, with the substitutions left. -/
def stage6Line (l : LineRec) (s : State) : Stage6Line × Nat :=
  let old := s.pipe.stage6.getLast?
  let rep (c : Nat) : Bool := l.diagnostic.contains (Colour.ofCode c)
  let done := (List.range 3).map (fun c => stage56 l c (stage4 l c s) s)
  let centre (c : Nat) : Int := match slotIn l (Colour.ofCode c) with
    | some x => x.centre
    | none => 0
  let red := match slotIn l .red with
    | some x => (x.endTime - 1250 * x.width) / 1000
    | none => l.startTime / 1000
  let redClk := match slotIn l .red with
    | some x => x.centreClk
    | none => 0
  ({ id := l.id, page := l.page, pageStart := l.pageStart, pageLine := l.pageLine, leadIn := l.leadIn, gap := l.gap,
     reference := l.refPhase.isSome, dropped := l.dropped, trigPos := l.trigPos, time := red, clk := redClk,
     positions := (List.range 3).map centre,
     planes := (List.range 3).map (fun c => replacePlane old (rep c) c (done.getD c ([], 0)).1),
     replaced := (List.range 3).map rep,
     oldInvalid := (old.map (·.invalid)).getD 0, oldFallback := (old.map (·.fallback)).getD false,
     invalid := l.invalid, settling := l.settling,
     fallback := flagVal Obj.STAGE_B_ENABLE s && fallbackMark s, discontinuity := false, lead := none },
   sumNats (done.map (·.2)))

/-- Whether a discontinuity lies before an image line (06 R147): a write of ENC_POSITION before it is one too (06 R142). -/
def breaksBefore (l : Stage6Line) (s : State) : Bool :=
  s.pipe.afterBreak || s.tim.posBreaks.any (fun w => decide (w ≤ l.clk)) ||
    match s.pipe.lastRed with
    | none => true
    | some q =>
      let d := l.positions.getD 0 0 - q
      decide (d ≤ 0) || decide (256 * (valRun Obj.REG_SPAN_MAX s : Int) < d)

/-- Counts an image line's discontinuity. -/
def noteDiscontinuity (b : Bool) (s : State) : State :=
  if b then
    { s with pipe := { s.pipe with discontinuities := s.pipe.discontinuities + 1, regSticky := stick 2 s.pipe.regSticky } }
  else s

/-- The place of a line in the stagger region. -/
def staggerPlace (serial : Nat) (s : State) : Nat := regionBase rStagger s + 235072 * (serial % staggerDepth s)

/-- An image line enters the stagger region (R133 to R135): the first after a break starts it empty. -/
def pushImage (l : Stage6Line) (s : State) : State :=
  let disc := breaksBefore l s
  let fresh := s.pipe.afterBreak
  let s := noteDiscontinuity disc s
  let start := if fresh then l.id.serial else s.pipe.breakSerial
  let depth := staggerDepth s
  let keep := min s.pipe.nextCommit l.id.serial - 3
  let kept := s.pipe.stage6.filter (fun x => decide (keep ≤ x.id.serial) || decide (l.id.serial < x.id.serial + depth))
  let capture := s.pipe.capture
  let late := decide (capture.lateLine = some l.id.serial)
  let s := { s with
    tim := { s.tim with posBreaks := s.tim.posBreaks.filter (fun w => decide (l.clk < w)) },
    pipe := { s.pipe with
      stage6 := kept ++ [{ l with discontinuity := disc }], breakSerial := start, afterBreak := false,
      lastRed := some (l.positions.getD 0 0),
      missed := if late then some (l.page, l.leadIn) else s.pipe.missed,
      capture := { capture with lateLine := if late then none else capture.lateLine } } }
  noteOccupancy rStagger (235072 * min depth (l.id.serial + 1 - start)) (clearPoison (staggerPlace l.id.serial s) 235072 s)

/-- A reference line: it waits to be committed; the image line after it follows a break. -/
def pushReference (l : Stage6Line) (s : State) : State :=
  { s with pipe := { s.pipe with stage6 := s.pipe.stage6 ++ [l] } }

/-- A line passes stages 4 to 6. -/
def passStages (l : LineRec) (s : State) : State :=
  let (x, left) := stage6Line l s
  let s := if left = 0 then s else
    { s with pipe := { s.pipe with unresolved := s.pipe.unresolved + left, sticky := stick 6 s.pipe.sticky } }
  if x.reference then pushReference x s else pushImage x s

/-! ## The sums of a capture (05 R124, R125) -/

/-- Which of the four phases of an attempt a line of a phase belongs to. -/
def phaseIndex (ph : RefPhase) (s : State) : Nat :=
  let c := s.pipe.capture
  match ph with
  | .black => 2 * (c.pass - 1)
  | .white => if c.state = .black then 2 * (c.pass - 1) - 1 else 2 * (c.pass - 1) + 1

/-- Adds the words of a line to the sums of a phase. -/
def addToSums (words : List (Nat × List Nat)) (p : PhaseSum) : PhaseSum :=
  let one (acc : List (Nat × List Nat)) (kw : Nat × List Nat) : List (Nat × List Nat) :=
    if acc.any (fun x => decide (x.1 = kw.1)) then
      acc.map (fun x => if x.1 = kw.1 then (x.1, List.zipWith (· + ·) x.2 kw.2) else x)
    else acc ++ [kw]
  { lines := p.lines + 1, sums := words.foldl one p.sums }

/-- A line of a phase leaves the hold: it is used, or it gained SETTLING and another is gathered in its place while the
phase still begins lines. -/
def gatherLine (l : LineRec) (s : State) : State :=
  match l.refPhase with
  | none => s
  | some ph =>
    if !l.counted || !captureRuns s then s
    else
      let c := s.pipe.capture
      if l.settling then
        if gathering s = some ph then { s with pipe := { s.pipe with capture := { c with begun := c.begun - 1 } } } else s
      else
        let k := phaseIndex ph s
        -- the first line of a phase writes its sums without a read of the old ones (09 R227)
        let quarter := regionSize rSums s / 4
        let first := decide ((c.phases[k]?.map (·.lines)).getD 0 = 0)
        let s := if first then
            noteOccupancy rSums ((k + 1) * quarter) (clearPoison (regionBase rSums s + k * quarter) quarter s)
          else s
        let words := (List.range 3).flatMap (fun col => (stage4 l col s).map (fun pw => (4 * pw.1 + col, pw.2)))
        { s with pipe := { s.pipe with capture := { c with
            used := c.used + 1, marked := c.marked ||| l.invalid,
            phases := modifyAt (addToSums words) k c.phases } } }

/-! ## Registration (06 R143 to R148) -/

/-- What a row gives for a colour of a line. -/
inductive Pick where
  /-- The row's data count as not held (R143, R148). -/
  | notHeld
  /-- A named line has been overwritten (R135). -/
  | short
  /-- The four taps with their coefficients, φq, and whether a replacement occurred (R148). -/
  | taps (ls : List Stage6Line) (h : List Int) (q : Nat) (clamp : Bool)
  deriving DecidableEq, Repr

def linePos (c : Nat) (l : Stage6Line) : Int := l.positions.getD c 0

/-- Of two indices the one whose line lies nearer to serial `y`. -/
def nearerTo (held : List Stage6Line) (y : Nat) (i j : Nat) : Nat :=
  let far (k : Nat) : Nat := match held[k]? with
    | some l => (l.id.serial - y) + (y - l.id.serial)
    | none => 0
  if far j < far i then j else i

/-- The bracket of a target: the pair of held lines about it, the one nearest to the line itself where several are (log
entry 31). -/
def bracketOf (held : List Stage6Line) (c : Nat) (t : Int) (y : Nat) : Option Nat :=
  let ok (i : Nat) : Bool := match held[i]?, held[i + 1]? with
    | some a, some b => decide (linePos c a ≤ t) && decide (t < linePos c b)
    | _, _ => false
  ((List.range held.length).filter ok).foldl (fun (best : Option Nat) i => match best with
    | none => some i
    | some j => some (nearerTo held y j i)) none

/-- The held sample nearest to a target in position. -/
def nearestOf (held : List Stage6Line) (c : Nat) (t : Int) : Option Nat :=
  let far (i : Nat) : Nat := match held[i]? with
    | some l => (linePos c l - t).natAbs
    | none => 0
  (List.range held.length).foldl (fun (best : Option Nat) i => match best with
    | none => some i
    | some j => if far i < far j then some i else some j) none

/-- The four taps of one sample at φq 0. -/
def sampleAlone (l : Stage6Line) (h : List Int) (q : Nat) (clamp : Bool) : Pick := .taps [l, l, l, l] h q clamp

/-- The taps about bracket `i` at phase φ (R143, R144, R148). `lost` says that lines before the held ones have been
overwritten. -/
def tapsAt (held : List Stage6Line) (c : Nat) (t : Int) (mode span : Nat) (lost : Bool) (i : Nat) : Pick :=
  match held[i]?, held[i + 1]? with
  | some a, some b =>
    let phi := Frac.mk' (t - linePos c a) (linePos c b - linePos c a)
    let q0 := (phi.mul (Frac.ofNat 64)).round.toNat
    let carry := decide (q0 = 64)
    let i := if carry then i + 1 else i
    let q := if carry then 0 else q0
    let h := if mode = 2 then nearestKernel (if carry then Frac.zero else phi) else kernel q
    let a := if carry then b else a
    let next := held[i + 1]?
    let spans := match next with
      | some n => n.discontinuity
      | none => false
    if spans then
      let n := next.getD a
      let near := if (linePos c n - t).natAbs < (linePos c a - t).natAbs then n else a
      if (linePos c near - t).natAbs ≤ 128 * span then sampleAlone near h q true else .notHeld
    else
      let used (k : Nat) : Bool := decide (h.getD k 0 ≠ 0)
      let before := if i = 0 then none else held[i - 1]?
      let b := next.getD a
      let after := held[i + 2]?
      let cutBefore := before.isNone || a.discontinuity
      let cutAfter := match after with
        | some x => x.discontinuity
        | none => true
      if used 0 && before.isNone && lost then .short
      else
        .taps [if cutBefore then a else before.getD a, a, b, if cutAfter then b else after.getD b] h q
          ((used 0 && cutBefore) || (used 3 && cutAfter))
  | _, _ => .notHeld

/-- The taps of a row in a colour for a target. `own` is the index of the line itself where the bracket is the line itself:
the trailing row's red plane. -/
def pickTaps (held : List Stage6Line) (c : Nat) (t : Int) (y mode span : Nat) (lost own : Bool) : Pick :=
  let bracket := if own then
      (bracketOf held c t y).filter (fun i => match held[i]? with
        | some l => decide (l.id.serial = y)
        | none => false)
    else bracketOf held c t y
  match bracket with
  | some i => tapsAt held c t mode span lost i
  | none =>
    let below := match held.head? with
      | some l => decide (t < linePos c l)
      | none => true
    if lost && below then .short
    else
      let near := if own then held.findIdx? (fun l => decide (l.id.serial = y)) else nearestOf held c t
      match near.bind (fun i => held[i]?) with
      | none => .notHeld
      | some l => if (linePos c l - t).natAbs ≤ 128 * span then sampleAlone l (kernel 0) 0 false else .notHeld

/-- The taps with a coefficient that is not zero. -/
def Pick.used : Pick → List Stage6Line
  | .taps ls h _ _ => ((ls.zip h).filter (fun x => decide (x.2 ≠ 0))).map (·.1)
  | _ => []

def Pick.isShort : Pick → Bool
  | .short => true
  | _ => false

def Pick.isHeld : Pick → Bool
  | .notHeld => false
  | _ => true

def Pick.clamped : Pick → Bool
  | .taps _ _ _ k => k
  | _ => false

def Pick.phase : Pick → Nat
  | .taps _ _ q _ => q
  | _ => 0

/-- A tile lies in the leading row (05 R132). -/
def leadingTile (t : Nat) (s : State) : Bool :=
  let rowA := decide (t % 2 = valReady Obj.ROW_A_PARITY s)
  decide (valReady Obj.LEADING_ROW s = 0) == rowA

/-- The mask of the ports of a row. -/
def rowMask (leading : Bool) (s : State) : BitVec 96 :=
  BitVec.ofNat 96 (maskOf (fun t => decide (leadingTile t s = leading)) 96)

/-- The lines that the trailing row holds for line y. -/
def trailingHeld (y : Nat) (s : State) : List Stage6Line :=
  s.pipe.stage6.filter (fun l => !l.reference && decide (s.pipe.breakSerial ≤ l.id.serial) && decide (y ≤ l.id.serial + 3)
    && decide (l.id.serial ≤ y + 2))

/-- The newest image line after stage 6. -/
def newestImage (s : State) : Nat := ((s.pipe.stage6.filter (fun l => !l.reference)).getLast?.map (fun l => l.id.serial)).getD 0

/-- The lines that the leading row holds: those of the stagger region. -/
def leadingHeld (s : State) : List Stage6Line :=
  let newest := newestImage s
  s.pipe.stage6.filter (fun l => !l.reference && decide (s.pipe.breakSerial ≤ l.id.serial)
    && decide (newest < l.id.serial + staggerDepth s))

/-- Leading-row lines have been overwritten since the break. -/
def leadingLost (s : State) : Bool :=
  let newest := newestImage s
  decide (s.pipe.breakSerial + staggerDepth s ≤ newest)

/-- The marks that a tap passes in a colour: its own, and those of the data that replaced it (R145, 03 R87). -/
def tapInvalid (c : Nat) (l : Stage6Line) : BitVec 96 :=
  if l.replaced.getD c false then l.invalid ||| l.oldInvalid else l.invalid

/-- The stitched words of a tile in a tap (05 R136, R137). -/
def tapWords (c t : Nat) (l : Stage6Line) (s : State) : List Nat :=
  let n := if stitching s then 816 else activeCount t s
  let ws := match (l.planes.getD c []).find? (fun x => decide (x.1 = t)) with
    | some x => padWords n x.2
    | none => List.replicate n 0
  if stitching s && flagVal Obj.SEAM_EDGE_ENABLE s && !l.invalid.getLsbD t then
    edgeTile (bytesGet (objKey 0x4306 0) s.dict.bulk) t c ws
  else ws

/-- The words of a tile in a colour after stage 9 (R144). -/
def tileWords (c t : Nat) (p : Pick) (invalid : BitVec 96) (s : State) : List Nat :=
  let n := if stitching s then 816 else activeCount t s
  if invalid.getLsbD t then List.replicate n 0
  else
    match p with
    | .taps ls h _ _ =>
      let ws := ls.map (fun l => tapWords c t l s)
      (List.range n).map (fun i => interpolate h (ws.map (fun w => w.getD i 0)))
    | _ => List.replicate n 0

/-- A line as stage 9 forms it: none where R134 does not commit it; otherwise the line, whether a leading line was missing, and
whether a replacement occurred. -/
structure Formed where
  line : RegLine
  short : Bool
  /-- The leading-row lines that it takes from the stagger region, by serial. -/
  read : List Nat
  clamp : Bool
  deriving DecidableEq, Repr

/-- Where the leading-row data of a line are poisoned in the stagger region. -/
def staggerPoison (l : Stage6Line) (s : State) : Option Nat := (poisonedIn (staggerPlace l.id.serial s) 235072 s).head?

/-- The leading-row data of a line are lost: found so when they were read into the tap window, or poisoned before that. -/
def leadLost (l : Stage6Line) (s : State) : Bool :=
  match l.lead with
  | some whole => !whole
  | none => (staggerPoison l s).isSome

/-- A pick as the read of the stagger region leaves it: a lost tap counts as missing (09 Table 9.5). -/
def readTaps (p : Pick) (s : State) : Pick := if p.used.any (fun l => leadLost l s) then .short else p

/-- The leading-row lines that a line takes are read from the stagger region, each once, into the tap window (09 Table 9.4); a
line that is lost is one item (09 R226). -/
def readLead (y : Nat) (s : State) : State :=
  match s.pipe.stage6.find? (fun l => decide (l.id.serial = y) && !l.reference) with
  | none => s
  | some l =>
    if l.lead.isSome then s
    else
      let bad := staggerPoison l s
      let mark (x : Stage6Line) : Stage6Line :=
        if x.id.serial = y ∧ x.reference = false then { x with lead := some bad.isNone } else x
      let s := { s with pipe := { s.pipe with stage6 := s.pipe.stage6.map mark } }
      match bad with
      | some a => dataLost (eccUncorrectable a s)
      | none => s

/-- The common part of a registered line. -/
def regLineOf (l : Stage6Line) (planes : List (List Nat)) (invalid : BitVec 96) (settling fallback : Bool) : RegLine :=
  { id := l.id, page := l.page, pageStart := l.pageStart, pageLine := l.pageLine, leadIn := l.leadIn, gap := l.gap,
    reference := l.reference, dropped := l.dropped, position := linePos 0 l, time := l.time, planes := planes,
    invalid := invalid, settling := settling, fallback := fallback, gapFlag := false, discontinuity := l.discontinuity,
    phases := 0 }

/-- A reference line: every colour of both rows comes from the line's own trigger (R128, R146). -/
def formReference (l : Stage6Line) (s : State) : RegLine :=
  let pick : Pick := sampleAlone l (kernel 0) 0 false
  regLineOf { l with page := 0, pageLine := 0 }
    ((List.range 3).map (fun c => (List.range 96).flatMap (fun t => tileWords c t pick l.invalid s)))
    l.invalid l.settling l.fallback

/-- An image line (R143 to R148), with the restart correction ε in force (10 R272). -/
def formImage (l : Stage6Line) (eps : Int) (s : State) : Option Formed :=
  let y := l.id.serial
  let mode := valRun Obj.REG_MODE s
  let span := valRun Obj.REG_SPAN_MAX s
  let t := linePos 0 l + eps
  let trail := (List.range 3).map (fun c =>
    pickTaps (trailingHeld y s) c t y mode span false (decide (c = 0) && decide (eps = 0)))
  let ahead := (List.range 3).map (fun c =>
    if stitching s then pickTaps (leadingHeld s) c (t - staggerCounts s) y mode span (leadingLost s) false
    else trail.getD c .notHeld)
  let lead := if stitching s then ahead.map (fun p => readTaps p s) else ahead
  if !(trail ++ lead).all Pick.isHeld then none
  else
    let short := lead.any Pick.isShort
    let marks (ps : List Pick) : BitVec 96 :=
      ((List.range 3).zip ps).foldl (fun m x => x.2.used.foldl (fun m l => m ||| tapInvalid x.1 l) m) 0
    let leadMask := rowMask true s
    let trailMask := rowMask false s
    let invalid := if short then (marks trail &&& trailMask) ||| leadMask
      else (marks trail &&& trailMask) ||| (marks lead &&& leadMask)
    let taps := ((List.range 3).zip trail) ++ (if short then [] else (List.range 3).zip lead)
    let settles := taps.any (fun x => x.2.used.any (fun l => l.settling || l.replaced.getD x.1 false))
    let falls := taps.any (fun x => x.2.used.any (fun l => l.fallback || (l.replaced.getD x.1 false && l.oldFallback)))
    let planes := (List.range 3).map (fun c => (List.range 96).flatMap (fun t =>
      tileWords c t ((if leadingTile t s then lead else trail).getD c .notHeld) invalid s))
    some { line := { regLineOf l planes invalid settles falls with
                      phases := (trail.getD 1 .notHeld).phase + 256 * (trail.getD 2 .notHeld).phase },
           short := ahead.any Pick.isShort,
           read := if stitching s then (ahead.flatMap (fun p => p.used.map (·.id.serial))).eraseDups else [],
           clamp := (trail ++ lead).any Pick.clamped }

/-! ## Stages 10 and 11 (06 R151 to R154) -/

/-- The port of pixel x before stage 10. -/
def portAtPixel (x : Nat) (s : State) : Nat :=
  if stitching s then x / 816
  else
    let rec go : Nat → Nat → Nat → Nat
      | 0, p, _ => p
      | n + 1, p, left => if left < activeCount p s then p else go n (p + 1) (left - activeCount p s)
    go 95 0 x

/-- The committed form of one registered line, or of a pair (R151 to R154, 10 R251). -/
def outputLine (rows : List RegLine) (s : State) : LineSlot :=
  let invalid := rows.foldl (fun m l => m ||| l.invalid) 0
  let bad (x : Nat) : Bool := decide (invalid ≠ 0) && invalid.getLsbD (portAtPixel x s)
  let b := outBitsOf s
  let plane (c : Nat) : List Nat :=
    (averageLines (xavgOf s) (rows.map (fun l => l.planes.getD c [])) bad).map (outWord b)
  let first := rows.head?
  let position := match rows with
    | [a, c] => roundDiv (a.position + c.position) 2
    | a :: _ => a.position
    | [] => 0
  { uid := 0, spill := false, reference := (first.map (·.reference)).getD false,
    flags := bitsOf [rows.any (·.settling), decide (invalid ≠ 0), rows.any (·.fallback), rows.any (·.gapFlag),
      decide (rows.length = 2)],
    bits := b, xavg := xavgOf s, layout := outLayoutOf s, page := (first.map (·.page)).getD 0,
    y := (first.bind (fun l => l.id.y)).getD 0, time := (first.map (·.time)).getD 0, position := position,
    invalid := invalid, pageLine := (first.map (·.pageLine)).getD 0, outPixels := outPixelsOf s,
    planes := (List.range 3).map plane, place := 0, sent := false, cut := false, free := none,
    discontinuity := (first.map (·.discontinuity)).getD false, run := s.cmp.run }

/-! ## What takes committed lines: the compare engine (08 R184) and a stagger measurement (06 R150) -/

/-- The row of a measurement that a committed line gives. -/
def measureRow (l : RegLine) (s : State) : MeasureRow :=
  let g := l.planes.getD 1 []
  let first (t : Nat) : Nat := if stitching s then 816 * t else sumNats ((List.range t).map (fun p => activeCount p s))
  { position := l.position,
    seams := (List.range 95).map (fun j =>
      if l.invalid.getLsbD j || l.invalid.getLsbD (j + 1) then none
      else some (g.getD (first (j + 1) - 1) 0, g.getD (first (j + 1)) 0)) }

/-- A committed image line without SETTLING is taken by a running measurement. -/
def measureLine (l : RegLine) (s : State) : State :=
  match s.pipe.measure with
  | some (n + 1, rows) =>
    if l.settling then s
    else { s with pipe := { s.pipe with measure := some (n, measureRow l s :: rows) } }
  | _ => s

/-- What follows the commit of a line or of a pair: the compare engine and a measurement take its image lines, and
REG_PHASE_LAST is of its last line. `alone` says that a pair's line had no partner (06 R152). -/
def takeRows (rows : List RegLine) (alone : Bool) (s : State) : State :=
  let image := rows.filter (fun l => !l.reference)
  let s := { s with pipe := { s.pipe with
    phaseLast := (rows.getLast?.map (·.phases)).getD s.pipe.phaseLast, singles := s.pipe.singles + b2n alone,
    missed := if image.isEmpty then s.pipe.missed else none } }
  image.foldl (fun s l => measureLine l (compareLine l s)) s

/-- A line that is not committed follows a discontinuity: no group of compare rows spans it (08 R185). -/
def breakGroup (discontinuity : Bool) (page : Nat) (s : State) : State :=
  if discontinuity && s.cmp.active then flushGroup (pageKey page s) s else s

/-- What follows where a line or a pair finds no free slot: in INLINE its page has missed lines (10 R252). -/
def leaveRows (rows : List RegLine) (s : State) : State :=
  match rows with
  | [] => s
  | l :: _ =>
    let s := breakGroup l.discontinuity l.page s
    if s.modes.mode = .inline then { s with pipe := { s.pipe with missed := some (l.page, l.leadIn) } } else s

/-! ## Commit (01 R16, 10 R261 to R264, R269 to R273, R477) -/

/-- A committed line in SHEET finds no free slot (10 R269): capture stops at once. The stop is one of the Weir, and ends what an
earlier restart left in force. -/
def weirOverrun (s : State) : State :=
  logEvent ⟨0x0804, noSource, []⟩ { s with
    host := { s.host with overrun := true, stopped := true, overruns := s.host.overruns + 1, sticky := stick 5 s.host.sticky,
                          weir := if s.host.weir = .stopped then .stopped else .stopping, restart := Restart.reset },
    tim := { s.tim with armed := false, pending := none, inFlight := [] } }

/-- A restart's first committed line ends its stop, and with it an unmatched restart (10 R268, R273). -/
def endStop (s : State) : State :=
  match s.host.restart.phase with
  | .formed => { s with host := { s.host with stopped := false } }
  | .unmatched => { s with host := { s.host with restart := Restart.reset, stopped := false, weir := .fullSpeed } }
  | _ => s

/-- Commits a line in SHEET to a free slot: what `taken` does follows its commit, and what `left` does where there is none. -/
def commitSlot (l : LineSlot) (taken left : State → State) (s : State) : State :=
  match findSlot s with
  | some (sp, p) => commitTaken sp p l (flagVal Obj.CMP_IMAGE_SEND s) (fun s => taken (endStop s)) s
  | none => left (weirOverrun s)

/-- A speculative line goes to its region (10 R270 step 4). -/
def storeSpeculative (l : LineSlot) (s : State) : State :=
  let r := s.host.restart
  if r.lines.length < slotsIn rSpeculative s then
    let place := r.lines.length
    let s := clearPoison (regionBase rSpeculative s + place * slotSize s) (slotSize s) s
    noteOccupancy rSpeculative ((place + 1) * slotSize s)
      { s with host := { s.host with restart := { r with lines := r.lines ++ [{ l with place := place }] } } }
  else s

/-- A committed line of an unmatched restart: commit resumes at the first line beyond P_c, with the gap record (10 R273). The
lines of the approach follow a discontinuity, so no group of compare rows spans the stop (08 R185). -/
def resumeUnmatched (l : LineSlot) (taken left : State → State) (s : State) : State :=
  let r := s.host.restart
  if l.position ≤ r.pc then s
  else
    let n := (Int.fdiv (l.position - r.pc) (256 * (val Obj.LINE_DIVIDER s : Int)) - 1).toNat
    let s := makeItem (.gap (gapRecord 5 0 r.page (r.yc + 1) (l.y - 1) n)) s
    commitSlot { l with flags := setBit l.flags 3 true } taken left (breakGroup true l.page s)

/-- A line leaves stage 11 in SHEET. -/
def commitSheet (l : LineSlot) (taken left : State → State) (s : State) : State :=
  if s.host.overrun then left s
  else
    match s.host.restart.phase with
    | .backup => s
    | .again => s
    | .speculative => storeSpeculative l s
    | .unmatched => resumeUnmatched l taken left s
    | _ => commitSlot l taken left s

/-- The lines of a restart that are not committed: those on the approach (10 R270). -/
def onApproach (s : State) : Bool :=
  match s.host.restart.phase with
  | .backup => true
  | .speculative => true
  | .again => true
  | _ => false

/-- GAP on the first committed line of a page after lines of the page that were not committed (10 R252). -/
def gapFlagged (s : State) (l : RegLine) : RegLine :=
  { l with gapFlag := !onApproach s && !l.reference && decide (s.pipe.missed = some (l.page, l.leadIn)) }

/-- A line, or a pair as its first line, leaves stage 11 and is committed, stored or discarded. -/
def commitRows (rows : List RegLine) (alone : Bool) (s : State) : State :=
  let rows := rows.map (gapFlagged s)
  let l := outputLine rows s
  let taken := takeRows rows alone
  if l.reference then commitReference l taken s
  else if s.modes.mode = .inline then commitInline l ((rows.head?.map (·.dropped)).getD false) taken (leaveRows rows) s
  else if s.modes.mode = .sheet then commitSheet l taken (leaveRows rows) s
  else s

/-- Commits the open line of a pair alone (06 R152). -/
def closePair (s : State) : State :=
  match s.pipe.pair with
  | none => s
  | some a => commitRows [a] true { s with pipe := { s.pipe with pair := none } }

/-- Whether a line can close the open pair. -/
def joinsPair (a l : RegLine) : Bool :=
  !l.pageStart && !l.discontinuity && decide (a.reference = l.reference) && decide (a.page = l.page)
    && decide (a.leadIn = l.leadIn)

/-- A registered line reaches stage 10 (06 R152). A pair is committed, or dropped, as its first line. -/
def averagePairs (l : RegLine) (s : State) : State :=
  if valRun Obj.YAVG_ENABLE s = 0 then commitRows [l] false s
  else
    let s := match s.pipe.pair with
      | some a => if joinsPair a l then s else closePair s
      | none => s
    match s.pipe.pair with
    | some a => commitRows [a, l] false { s with pipe := { s.pipe with pair := none } }
    | none => { s with pipe := { s.pipe with pair := some l } }

/-! ## The end of a stagger measurement (06 R150) -/

/-- STAGGER_MEASURE. -/
def writeStaggerMeasure (v : Bool) (s : State) : WriteOut :=
  if !v then .ok s
  else if !capturing s || s.pipe.measure.isSome then .abort abortState s
  else .ok { s with pipe := { s.pipe with measure := some (val Obj.STAGGER_MEASURE_LINES s, []), measureResult := 1 } }

/-- The row STAGGER_MEASURE. -/
def execStaggerMeasure (via : Path) (s : State) : Host.Outcome State Fault Refusal :=
  writeCommand via (writeStaggerMeasure true) s

/-- Leaving the mode, or the start of a capture, ends a measurement ABANDONED. -/
def abandonMeasure (s : State) : State :=
  if s.pipe.measure.isSome then { s with pipe := { s.pipe with measure := none, measureResult := 4 } } else s

/-- n times the covariance sums of two profiles: n Σab − Σa Σb. -/
def covariance (a b : List Int) : Int :=
  (a.length : Int) * sumInts (List.zipWith (· * ·) a b) - sumInts a * sumInts b

/-- The correlation coefficient of two profiles: its square with its sign, exactly, and its value in units of 2⁻³² (log entry
30); 0 where a profile is flat. -/
def correlation (a b : List Int) : Frac × Int :=
  let v := covariance a a * covariance b b
  let c := covariance a b
  let root := isqrt (v.toNat * 2 ^ 64)
  if v ≤ 0 then (Frac.zero, 0) else (Frac.mk' (c * c.natAbs) v, Int.tdiv (c * 2 ^ 64) root)

/-- The correlation of two profiles with the first shifted by k lines. -/
def shifted (a b : List Int) (k : Int) : Frac × Int :=
  let n := a.length - k.natAbs
  let from' (l : List Int) (d : Nat) : List Int := (l.drop d).take n
  if 0 ≤ k then correlation (from' a k.toNat) (from' b 0) else correlation (from' a 0) (from' b k.natAbs)

/-- The standard deviation of a profile is at least 256 units. -/
def contrastOk (a : List Int) : Bool := decide (65536 * ((a.length : Int) * a.length) ≤ covariance a a)

/-- The residual shift of a seam in lines, where it qualifies. `a` is the trailing row's profile, `b` the leading row's. -/
def seamShift (a b : List Int) : Option Frac :=
  if !contrastOk a || !contrastOk b then none
  else
    let ks := (List.range 17).map (fun (i : Nat) => (i : Int) - 8)
    let rs := ks.map (shifted a b)
    let square (k : Int) : Frac := (rs.getD (k + 8).toNat (Frac.zero, 0)).1
    let at' (k : Int) : Int := (rs.getD (k + 8).toNat (Frac.zero, 0)).2
    let best := ks.foldl (fun m k => if (square m).lt (square k) then k else m) (-8)
    if (square best).lt (Frac.mk' 16 25) then none
    else if best = -8 ∨ best = 8 then some (Frac.ofInt best)
    else
      let l := at' (best - 1)
      let r := at' (best + 1)
      let d := l - 2 * at' best + r
      some (if d = 0 then Frac.ofInt best else (Frac.ofInt best).add (Frac.mk' (l - r) (2 * d)))

/-- The median of fractions. -/
def medianOf (l : List Frac) : Frac := medianFrac l

/-- STAGGER_MEASURE_DONE: the measurement has its lines. -/
def measureDone (s : State) : State :=
  match s.pipe.measure with
  | some (0, rows) =>
    let rows := rows.reverse
    let shifts := (List.range 95).filterMap (fun j =>
      let ps := rows.map (fun r => r.seams.getD j none)
      if ps.any Option.isNone then none
      else
        let left := ps.map (fun (x : Option (Nat × Nat)) => ((x.getD (0, 0)).1 : Int))
        let right := ps.map (fun (x : Option (Nat × Nat)) => ((x.getD (0, 0)).2 : Int))
        if leadingTile j s then seamShift right left else seamShift left right)
    if shifts.length < 16 then { s with pipe := { s.pipe with measure := none, measureResult := 3 } }
    else
      let first := (rows.head?.map (·.position)).getD 0
      let last := (rows.getLast?.map (·.position)).getD 0
      let spacing := Frac.mk' (last - first) (256 * ((rows.length : Int) - 1))
      let moved := ((medianOf shifts).mul spacing).mul (Frac.mk' (encPitch s) 1000)
      let d := ((Frac.ofNat (valRun Obj.STAGGER_DISTANCE s)).add moved).round.toNat
      { s with pipe := { s.pipe with measure := none, measureResult := 2, measured := d } }
  | _ => s

/-- The row STAGGER_MEASURE_DONE. -/
def execStaggerMeasureDone (s : State) : Host.Outcome State Fault Refusal := .next (measureDone s)

/-! ## LINE_COMMIT -/

/-- R134: an image line is not committed; an open pair is committed alone. -/
def passUncommitted (l : Stage6Line) (s : State) : State :=
  let s := closePair s
  if onApproach s then s
  else
    let s := breakGroup l.discontinuity l.page s
    { s with pipe := { s.pipe with missed := some (l.page, l.leadIn) } }

/-- R135: a leading line was missing; those that are held are read (09 R226). -/
def noteShort (f : Formed) (s : State) : State :=
  let s := if f.short then
      let was := s.pipe.sticky
      logOnce was 7 ⟨0x0402, noSource, []⟩
        { s with pipe := { s.pipe with staggerShort := s.pipe.staggerShort + 1, sticky := stick 7 was } }
    else s
  f.read.foldl (fun s y => readLead y s) s

def noteClamp (f : Formed) (s : State) : State :=
  if f.clamp then
    { s with pipe := { s.pipe with clampCount := s.pipe.clampCount + 1, regSticky := stick 1 s.pipe.regSticky } }
  else s

/-- The line that stage 9 forms in the place of a restart's stage-9 line: it takes the y and the page of its bracket line,
two triggers earlier, and its position and page line continue within the page of the stop (10 R272). -/
def placeFormed (l : RegLine) (s : State) : RegLine × State :=
  let r := s.host.restart
  if r.phase ≠ .formed then (l, s)
  else
    let s' := { s with host := { s.host with restart := { r with m := r.m + 1 } } }
    match s.pipe.stage6.find? (fun x => decide (x.id.serial + 2 = l.id.serial)) with
    | none => (l, s')
    | some b =>
      let inPage := decide (b.page = r.page)
      ({ l with
          id := b.id, page := b.page, pageStart := b.pageStart, leadIn := b.leadIn, gap := b.gap,
          pageLine := if inPage then r.pageLine + r.m else b.pageLine,
          position := if inPage then r.pc + 256 * (val Obj.LINE_DIVIDER s : Int) * r.m else linePos 0 b,
          discontinuity := false }, s')

/-- A trigger that precedes that of the restart's first line forms no line (10 R272). -/
def skipsTrigger (s : State) : Bool := decide (s.host.restart.phase = .formed) && decide (0 < s.host.restart.skip)

def takeSkip (s : State) : State :=
  { s with host := { s.host with restart := { s.host.restart with skip := s.host.restart.skip - 1 } } }

/-- A registered image line goes on to stage 10 with the place that a restart gives it. -/
def commitImage (f : Formed) (s : State) : State :=
  let s := noteClamp f (noteShort f s)
  let (l, s) := placeFormed f.line s
  averagePairs l s

/-- Image capture has stopped: no line follows those of the hold. -/
def captureStopped (s : State) : Bool := !s.tim.armed || captureRuns s

/-- The first line after stage 6 that has not been committed, and whether its last interpolator tap is available: two lines
follow it, or none will. -/
def nextToCommit (final : Bool) (s : State) : Option Stage6Line :=
  match s.pipe.stage6.filter (fun l => decide (s.pipe.nextCommit ≤ l.id.serial)) with
  | [] => none
  | l :: rest =>
    let ended := final || (captureStopped s && s.tim.lines.isEmpty)
    if l.reference || decide (2 ≤ rest.length) || ended then some l else none

/-- A line passes stages 7 to 11. -/
def commitNext (final : Bool) (s : State) : State :=
  match nextToCommit final s with
  | none => s
  | some l =>
    let s := { s with pipe := { s.pipe with nextCommit := l.id.serial + 1 } }
    if l.reference then
      let s := averagePairs (formReference l s) s
      { s with pipe := { s.pipe with stage6 := s.pipe.stage6.filter (fun x => decide (x.id.serial ≠ l.id.serial)) } }
    else if skipsTrigger s then takeSkip s
    else
      match formImage l (if s.host.restart.phase = .formed then s.host.restart.epsilon else 0) s with
      | none => passUncommitted l s
      | some f => commitImage f s

/-- The row LINE_COMMIT. -/
def execLineCommit (s : State) : Host.Outcome State Fault Refusal :=
  .next (if domainOn 13 s then inOneCycle (commitNext false) s else s)

/-- Every line after stage 6 passes to commit, and the open line of a pair is committed alone. -/
def commitAll : Nat → State → State
  | 0, s => closePair s
  | n + 1, s => commitAll n (commitNext true s)

/-- Image capture has ended: the lines of stage 6 are committed, and leading-row data without a trailing-row partner are
discarded (01 Table 1.9, 05 R124). -/
def finishLines (s : State) : State :=
  let s := commitAll s.pipe.stage6.length s
  { s with pipe := { s.pipe with stage6 := [], afterBreak := true, lastRed := none } }

/-- Every line not committed is discarded (01 R30). -/
def discardLines (s : State) : State :=
  { s with
    tim := { s.tim with lines := [], lineActive := false, placed := [], due := List.replicate 8 [] },
    pipe := { s.pipe with stage6 := [], afterBreak := true, lastRed := none, pair := none, missed := none } }

/-! ## Status (Tables 5.8 and 6.7) -/

def shadingStatus (s : State) : Nat :=
  bitsOf [flagVal Obj.STAGE_B_ENABLE s, decide (s.pipe.active = 1), s.pipe.switchPending, fallbackMark s, captureBusy s,
    bitOf s.pipe.sticky 5, bitOf s.pipe.sticky 6, bitOf s.pipe.sticky 7]

/-- SHADING_STATUS_CLEAR. -/
def writeShadingClear (v : Nat) (s : State) : WriteOut :=
  .ok { s with pipe := { s.pipe with sticky := unstick s.pipe.sticky v } }

/-- The objects whose new value is deferred (R156). -/
def deferredRefs : List Ref :=
  [Obj.REG_MODE, Obj.ENC_PITCH, Obj.STAGGER_DISTANCE, Obj.REG_NOMINAL_RATE, Obj.REG_SPAN_MAX, Obj.XAVG_RATIO,
   Obj.YAVG_ENABLE, Obj.OUT_BITS, Obj.OUT_LAYOUT, Obj.CMP_ENABLE, Obj.CMP_Y_RATIO]

/-- A deferred write awaits its point; UPDATE_PENDING shows the objects of Table 6.4. -/
def updatePending (s : State) : Bool := (deferredRefs.take 9).any (fun r => decide (val r s ≠ valRun r s))

def regStatus (s : State) : Nat :=
  bitsOf [decide (valRun Obj.REG_MODE s ≠ 2), bitOf s.pipe.regSticky 1, bitOf s.pipe.regSticky 2, updatePending s,
    s.pipe.measure.isSome]

/-- REG_STATUS_CLEAR. -/
def writeRegClear (v : Nat) (s : State) : WriteOut :=
  .ok { s with pipe := { s.pipe with regSticky := unstick s.pipe.regSticky v } }

end Sys2Proof.Machine
end

