-- ==== Sys2Proof/Machine/Leaven.lean ====
section
/-! DEFINITION. Leaven (07_calibration R158 to R183) with the spares it shares with the host (02 R45 to R48): windows and
their statistics, passes, seeds, spare checks, paper white, records, and the release of a line from the hold. -/
namespace Sys2Proof.Machine

/-! ## Statistics of a window (R159) -/

/-- One code into a histogram in ascending code. -/
def histAdd (code : Nat) : List (Nat × Nat) → List (Nat × Nat)
  | [] => [(code, 1)]
  | (b, n) :: t => if b = code then (b, n + 1) :: t else if code < b then (code, 1) :: (b, n) :: t else (b, n) :: histAdd code t

def histAddAll (codes : List Nat) (h : List (Nat × Nat)) : List (Nat × Nat) := codes.foldl (fun h c => histAdd c h) h

def histCount (h : List (Nat × Nat)) (b : Nat) : Nat := ((h.find? (fun x => decide (x.1 = b))).map (·.2)).getD 0

def histTotal (h : List (Nat × Nat)) : Nat := sumNats (h.map (·.2))

/-- The mode bin: the lowest of the fullest bins. -/
def histMode (h : List (Nat × Nat)) : Nat := (h.foldl (fun (m : Nat × Nat) x => if m.2 < x.2 then x else m) (0, 0)).1

/-- The counts of the mode bin and its two neighbours. -/
def modeCounts (h : List (Nat × Nat)) : Nat × Nat × Nat :=
  let b := histMode h
  (if b = 0 then 0 else histCount h (b - 1), histCount h b, histCount h (b + 1))

/-- The mode refined by a parabola through the peak bin and its two neighbours. -/
def refinedMode (h : List (Nat × Nat)) : Frac :=
  let (l, m, r) := modeCounts h
  let d : Int := 2 * m - l - r
  let base := Frac.ofNat (histMode h)
  if d = 0 then base else base.add (Frac.mk' ((r : Int) - l) (2 * d))

def WindowColour.empty : WindowColour := { histogram := [], lampSum := Frac.zero, lampSlots := 0 }

/-- A window that opens on a chain; lines begun before it are not its own. -/
def openWindow (chain : Nat) (lamp : Bool) (s : State) : CalWindow :=
  { chain := chain, lamp := lamp, lines := 0, openedAt := s.clk, first := s.tim.nextSerial,
    colours := List.replicate 4 WindowColour.empty }

/-- The taps of a port in the slots of a line. -/
def portTaps (p : Nat) (l : LineRec) : List (SlotRec × Option PortTap) :=
  l.slots.map (fun x => (x, x.taps.find? (fun t => decide (t.port = p))))

/-- A line is usable for a port read on a chain (R159), lamp windows apart. -/
def lineUsable (p chain : Nat) (l : LineRec) : Bool :=
  !l.settling && l.diagnostic.isEmpty && !l.invalid.getLsbD p && !l.slots.isEmpty
    && (portTaps p l).all (fun x => match x.2 with
      | some t => decide (t.chain = chain)
      | none => false)

/-- Every RED, GREEN and BLUE slot of the line was lit. -/
def lineLit (l : LineRec) : Bool :=
  [Colour.red, .green, .blue].all (fun c => l.slots.any (fun x => decide (x.colour = c)))
    && l.slots.all (fun x => decide (x.colour = .dark) || x.lit)

/-- Takes the taps of a usable line into a window. -/
def windowTake (p : Nat) (l : LineRec) (w : CalWindow) : CalWindow :=
  let take (cs : List WindowColour) (x : SlotRec × Option PortTap) : List WindowColour :=
    match x.2 with
    | none => cs
    | some t =>
      let sig := match t.lamp with
        | some m => some ((Frac.ofNat m).sub (meanNat t.dark))
        | none => none
      let one (c : WindowColour) : WindowColour :=
        { histogram := histAddAll t.dark c.histogram,
          lampSum := match sig with
            | some v => c.lampSum.add v
            | none => c.lampSum,
          lampSlots := c.lampSlots + b2n sig.isSome }
      modifyAt one x.1.colour.code cs
  { w with lines := w.lines + 1, colours := (portTaps p l).foldl take w.colours }

def windowColour (w : CalWindow) (c : Nat) : WindowColour := w.colours.getD c WindowColour.empty

/-- O_w[c], in codes. -/
def windowOffset (w : CalWindow) (c : Nat) : Frac := refinedMode (windowColour w c).histogram

/-- m_w[c], in codes. -/
def windowLamp (w : CalWindow) (c : Nat) : Frac :=
  (windowColour w c).lampSum.div (Frac.ofNat (windowColour w c).lampSlots)

/-- Masked pixels of the colour were read in the window. -/
def windowHas (w : CalWindow) (c : Nat) : Bool := !(windowColour w c).histogram.isEmpty

/-- The mean lamp signal of a colour over two windows. -/
def lampOver (a b : CalWindow) (c : Nat) : Frac :=
  ((windowColour a c).lampSum.add (windowColour b c).lampSum).div
    (Frac.ofNat ((windowColour a c).lampSlots + (windowColour b c).lampSlots))

/-! ## Sweeps (R160) -/

/-- The INL of a sweep, in codes, from the sums of 256 samples at its 17 levels: the largest deviation of the means from
their least-squares line. -/
def sweepInl (sums : List Nat) : Frac :=
  let ys := (List.range 17).map (fun j => Frac.mk' (sums.getD j 0) 256)
  let js := List.range 17
  let sy := ys.foldl Frac.add Frac.zero
  let sjy := (js.zip ys).foldl (fun a x => a.add ((Frac.ofNat x.1).mul x.2)) Frac.zero
  -- Σ j = 136 and Σ j² = 1,496 over j = 0 to 16
  let slope := (((Frac.ofNat 17).mul sjy).sub ((Frac.ofNat 136).mul sy)).div (Frac.ofNat (17 * 1496 - 136 * 136))
  let base := (sy.sub (slope.mul (Frac.ofNat 136))).div (Frac.ofNat 17)
  (js.zip ys).foldl (fun m x => m.max ((x.2.sub (base.add (slope.mul (Frac.ofNat x.1)))).abs)) Frac.zero

/-- An INL in 1/16 code. -/
def inl16 (l : List Frac) : Nat := ((l.foldl Frac.max Frac.zero).mul (Frac.ofNat 16)).round.toNat

/-- The linearity tests of R164 on two sweeps. -/
def inlOk (l1 l2 : Frac) (s : State) : Bool :=
  (((l1.sub l2).abs).mul (Frac.ofNat 16)).le (Frac.ofNat (val Obj.CAL_INL_TOL s))
    && ((l1.max l2).mul (Frac.ofNat 16)).le (Frac.ofNat (val Obj.CAL_INL_MAX s))

/-! ## Chains, groups and records -/

/-- GROUP_TEMP (R168). -/
def groupTemp (k : Nat) (s : State) : Int := s.pwr.temps.getD (4 + k) 0

/-- The group of a chain: own chains as their ports, 96 + k the spare of Gk. -/
def groupOfChain (ch : Nat) : Nat := if ch < 96 then ch / 12 else ch - 96

/-- The chain holds an accepted record at a range, as a handover, a full pass or a seed asks: one that holds an accepted gain
(log entry 32). -/
def chainRecorded (ch r : Nat) (s : State) : Bool := bitOf (chainOf ch s).gains r

/-- Writes entry `i` of a table of `n`-byte values that holds `count` entries of default `d`. -/
def setTable (key n count d i v : Nat) (s : State) : State :=
  let t := (bytesGet key s.dict.bulk).getD ((List.replicate count (leBytes n d)).flatten)
  setBulk key (t.take (n * i) ++ leBytes n v ++ t.drop (n * (i + 1))) s

/-- STAGE_A_CHAIN as last written (R114). -/
def chainEntryNow (ch r c : Nat) (s : State) : Nat := chainEntry (bytesGet (objKey 0x4304 0) s.dict.bulk) ch r c

def setChainEntry (ch r c v : Nat) (s : State) : State := setTable (objKey 0x4304 0) 4 1664 chainDefault (16 * ch + 4 * r + c) v s

def setOffset (ch r c o : Nat) (s : State) : State :=
  setChainEntry ch r c (entryGain (chainEntryNow ch r c s) * 65536 + o) s

def setGain (ch r c g : Nat) (s : State) : State :=
  setChainEntry ch r c (g * 65536 + entryOffset (chainEntryNow ch r c s)) s

/-- Bytes 0 to 59 of a record (Table 7.6). -/
def recordBody (r : LeavenRecord) : List Byte :=
  leBytes 1 (if r.tombstone then 2 else 1) ++ leBytes 1 r.chain ++ leBytes 1 r.range ++ leBytes 1 r.flags
    ++ leBytes 4 r.sequence ++ leBytes 8 r.time ++ leBytes 4 r.accepted ++ leBytes 2 (toRaw 16 r.temp) ++ leBytes 2 r.inl
    ++ (List.range 4).flatMap (fun c => leBytes 4 (r.entries.getD c 0)) ++ List.replicate 20 0

/-- The 64 bytes of a record as stored (Table 7.6). -/
def recordBytes (r : LeavenRecord) : List Byte := recordBody r ++ leBytes 4 r.check

/-- The record with its check word, CRC-32C over bytes 0 to 59 (Table 7.6). -/
def sealRecord (r : LeavenRecord) : LeavenRecord := { r with check := crc32c (recordBody r) }

/-- The check word of a stored record is right (R181). -/
def recordGood (r : LeavenRecord) : Bool := decide (r.check = crc32c (recordBody r))

/-- A record of acceptance (Table 7.6). It is appended to the store later (R180), with its sequence number and check word. -/
def writeRecord (ch r flags inl : Nat) (s : State) : State :=
  let info := chainOf ch s
  let rec' : LeavenRecord :=
    { tombstone := false, chain := ch, range := r, flags := flags + 8 * b2n info.nonlinear, sequence := 0, time := s.now,
      accepted := info.accepted, temp := groupTemp (groupOfChain ch) s, inl := inl,
      entries := (List.range 4).map (fun c => chainEntryNow ch r c s), check := 0 }
  { s with lv := { s.lv with toStore := s.lv.toStore ++ [rec'] } }

/-- A chain is accepted at a range with a result and the INL of its last sweeps, and its record written: the range shows an
accepted record (Table 7.11). `gain` says that a gain has been accepted with it. -/
def acceptChain (ch r : Nat) (res : CalResult) (gain : Bool) (flags : Nat) (inl : Option Nat) (s : State) : State :=
  let s := modChain ch (fun x => { x with
    accepted := x.accepted + 1, acceptTime := s.now, endTime := s.now, temp := groupTemp (groupOfChain ch) s,
    inl := inl.getD x.inl, ranges := setBit x.ranges r true,
    gains := if gain then setBit x.gains r true else x.gains, result := res }) s
  writeRecord ch r (flags + 4 * b2n inl.isSome) (inl.getD 0) s

/-- A chain's pass, seed or check ends with a result that is not an acceptance. -/
def endChain (ch : Nat) (res : CalResult) (rejected : Bool) (s : State) : State :=
  modChain ch (fun x => { x with result := res, endTime := s.now, rejected := x.rejected + b2n rejected }) s

/-- Logs LEAVEN_REJECTED with its reason. -/
def logRejected (ch : Nat) (res : CalResult) (s : State) : State := logEvent ⟨0x0500, ch, leBytes 1 res.code⟩ s

/-! ## Calibrations of a group (R166, R169 to R174) -/

/-- Ports of a group that a calibration takes (R170). -/
def calPorts (k : Nat) (s : State) : List Nat :=
  ((List.range 12).map (fun i => 12 * k + i)).filter (fun p => portEnabled p s && !(portOf p s).latched)

/-- HOST_ASSIGN of a group. -/
def hostAssign (k : Nat) (s : State) : Nat := val (Obj.HOST_ASSIGN k) s

/-- The calibration of a group completes (R170). -/
def completeCal (k : Nat) (s : State) : State :=
  modCal k (fun g => { g with running := false, due := g.due || g.again, again := false, ports := [],
                              tempCal := groupTemp k s, timeCal := s.now, clkCal := s.clk }) s

/-- Completes the calibration of a group where no port is left. -/
def checkComplete (k : Nat) (s : State) : State :=
  let g := calOf k s
  if g.running && !g.spareCheck && !g.checkAgain && g.ports.isEmpty && g.pass.isNone then completeCal k s else s

/-- Counts and logs an abandonment (R47, R174). -/
def noteAbandoned (source : Nat) (detail : List Byte) (s : State) : State :=
  logEvent ⟨0x0502, source, detail⟩ { s with lv := { s.lv with
    abandonCount := s.lv.abandonCount + 1, sticky := stick 4 s.lv.sticky } }

/-- The port that Leaven holds goes back at the next slot boundary, unless HOST_ASSIGN names it (R47, R174). -/
def releaseSpare (k : Nat) (s : State) : State :=
  let g := groupOf k s
  let named := match g.port with
    | some p => decide (hostAssign k s = p)
    | none => false
  let cancel (x : Group) : Group := match x.assignDue with
    | some (_, false) => { x with assignDue := none }
    | _ => x
  let s := modGroup k cancel s
  if g.spare ≠ .leaven then s
  else if named then modGroup k (fun g => { g with spare := .host, returnHost := false }) s
  else modGroup k (fun g => { g with returnDue := true }) s

/-- The last pass in progress has ended: a level 1 step of the governor takes effect (14 R372). -/
def passesEnded (s : State) : State :=
  if s.lv.groups.all (fun g => g.pass.isNone) then govEffect .background s else s

/-- A pass ends: its port is done in the calibration. -/
def endPass (k : Nat) (s : State) : State :=
  match (calOf k s).pass with
  | none => s
  | some p =>
    let s := modCal k (fun g => { g with
      pass := none, ports := if p.seed then g.ports else g.ports.filter (fun q => decide (q ≠ p.port)) }) s
    passesEnded (checkComplete k s)

/-- The pass has been judged for good and only the port's return is to come. -/
def passJudged (p : Pass) : Bool := decide (p.step = .returning) && !p.retry

/-- A pass in progress is abandoned with the row of Table 7.4 that ended it; its port is taken again after the last. A pass
that has been judged keeps its result, and ends (log entry 164). -/
def abandonPass (k cause : Nat) (s : State) : State :=
  match (calOf k s).pass with
  | none => s
  | some p =>
    if passJudged p then endPass k (releaseSpare k s)
    else
    let s := modCal k (fun g => { g with
      pass := none, ports := if g.running && !p.seed then g.ports.filter (fun q => decide (q ≠ p.port)) ++ [p.port] else g.ports }) s
    let s := endChain (if p.seed then 96 + k else p.chain) .abandoned false s
    passesEnded (noteAbandoned p.port (leBytes 1 cause) (if p.seed then s else releaseSpare k s))

/-- The spare check of a group is abandoned by a host assignment; it runs again from its start (R47). SPARE_STATE changes
with the handover, at the slot boundary. -/
def abandonCheck (k : Nat) (s : State) : State :=
  if (calOf k s).spareCheck then
    noteAbandoned (96 + k) [] (modCal k (fun g => { g with spareCheck := false, checkAgain := true }) s)
  else s

/-- Leaven stops in a group: its pass or check is abandoned and its calibration stays due (R30, R32, R174). -/
def abandonGroup (k cause : Nat) (s : State) : State :=
  let s := abandonPass k cause s
  let s := modGroup k (fun g => { g with spare := if g.spare = .calibrated then .idle else g.spare }) s
  modCal k (fun g => if g.running then
    { g with running := false, due := true, spareCheck := false, checkAgain := false, ports := [] } else g) s

def abandonGroups (cause : Nat) (s : State) : State := (List.range 8).foldl (fun s k => abandonGroup k cause s) s

/-- Every pass in progress is abandoned: a download of STAGE_A_CHAIN (row 9 of Table 7.4). -/
def abandonPasses (cause : Nat) (s : State) : State := (List.range 8).foldl (fun s k => abandonPass k cause s) s

/-- Leaven runs (R173). -/
def leavenRuns (s : State) : Bool := domainOn 2 s && imaging s && flagVal Obj.LEAVEN_ENABLE s

/-- A group becomes due; while a calibration runs it is marked to run again (R169). -/
def makeDue (k : Nat) (s : State) : State :=
  modCal k (fun g => if g.running then { g with again := true } else { g with due := true }) s

/-- The temperature trigger of R169. -/
def tempDue (k : Nat) (s : State) : Bool :=
  decide (val Obj.CAL_DELTA_T s < (groupTemp k s - (calOf k s).tempCal).natAbs)

/-- The age trigger of R169. -/
def ageDue (k : Nat) (s : State) : Bool :=
  let age := val Obj.CAL_MAX_AGE s
  decide (age ≠ 0) && decide ((calOf k s).clkCal + age * 1000000000 ≤ s.clk)

/-- The spare is free for a check: idle, or still in the state of a check that was abandoned, and neither held nor asked
for. -/
def spareFree (k : Nat) (s : State) : Bool :=
  let g := groupOf k s
  (decide (g.spare = .idle) || (decide (g.spare = .calibrated) && (calOf k s).checkAgain)) && decide (hostAssign k s = 0xFF) && g.assignDue.isNone && !g.returnDue

/-- Groups that run passes: in a calibration, or on their own. -/
def groupsRunning (s : State) : Nat := (s.lv.groups.filter (fun g => g.running || g.pass.isSome)).length

/-- One more group may run passes (R171). -/
def groupMayRun (s : State) : Bool := decide (groupsRunning s < val Obj.LEAVEN_MAX_GROUPS s)

/-- Starts the spare check of a due group, or of one whose check was abandoned (R166, R170, R171). -/
def startCal (k : Nat) (s : State) : State :=
  let g := calOf k s
  let may := (g.due && !g.running && groupMayRun s) || g.checkAgain
  if !may || g.pass.isSome || !spareFree k s || !groupLive k s || backgroundDeferred s then s
  else
    let ports := if g.checkAgain then g.ports else calPorts k s
    if ports.isEmpty then completeCal k (modCal k (fun g => { g with due := false }) s)
    else
      let s := modCal k (fun g => { g with
        due := if g.checkAgain then g.due else false, running := true, spareCheck := true, checkAgain := false,
        ports := ports }) s
      modGroup k (fun g => { g with spare := .calibrated }) s

/-- A group waits for the governor (R172). -/
def groupDeferred (k : Nat) (s : State) : Bool :=
  let g := calOf k s
  backgroundDeferred s && g.pass.isNone && (g.due || g.running)

/-- The triggers of one group: a trigger that holds makes it due; while a calibration runs one that arises marks it to run
again (R169). -/
def evaluateGroup (k : Nat) (s : State) : State :=
  let g := calOf k s
  let t := tempDue k s
  let a := ageDue k s
  let arises := (t && !g.tempTrig) || (a && !g.ageTrig)
  let s := if (if g.running then arises else t || a) then makeDue k s else s
  modCal k (fun g => { g with tempTrig := t, ageTrig := a }) s

/-- The triggers make groups due: of the groups whose domain is on while Leaven runs (R169), and of all in STANDBY, from the
MP's temperature readings (R173). -/
def evaluateTriggers (s : State) : State :=
  (List.range 8).foldl (fun s k =>
    if decide (s.modes.mode = .standby) || domainOn (4 + k) s then evaluateGroup k s else s) s

/-- CAL_EVALUATE, every 10 ms (R169, R173). -/
def calEvaluate (s : State) : State :=
  if s.modes.mode = .standby ∧ flagVal Obj.LEAVEN_ENABLE s = true then evaluateTriggers s
  else if !leavenRuns s then s
  else
    let s := evaluateTriggers s
    let s := (List.range 8).foldl (fun s k => startCal k s) s
    (List.range 8).foldl (fun s k =>
      let waits := groupDeferred k s
      modCal k (fun g => if waits then { g with deferredSince := some (g.deferredSince.getD s.clk) }
        else { g with deferredSince := none, deferredLogged := false }) s) s

/-- The row CAL_EVALUATE. -/
def execCalEvaluate (s : State) : Host.Outcome State Fault Refusal := .next (calEvaluate s)

/-- LEAVEN_DEFERRED: one event for a group that has stayed deferred for CAL_DEFER_MAX (R172). -/
def leavenDeferred (k : Nat) (s : State) : State :=
  let g := calOf k s
  if g.deferredSince.isSome && !g.deferredLogged then
    logEvent ⟨0x0501, k, []⟩ (modCal k (fun g => { g with deferredLogged := true }) s)
  else s

/-- The row LEAVEN_DEFERRED. -/
def execLeavenDeferred (k : Fin 8) (s : State) : Host.Outcome State Fault Refusal := .next (leavenDeferred k.val s)

/-- CAL_REQUEST (R169). -/
def writeCalRequest (v : Nat) (s : State) : WriteOut :=
  .ok ((setBits v 8).foldl (fun s k => makeDue k s) s)

/-- The row CAL_REQUEST. -/
def execCalRequest (via : Path) (v : BitVec 8) (s : State) : Host.Outcome State Fault Refusal :=
  writeCommand via (writeCalRequest v.toNat) s

/-- The newest stored record of a chain and range that a predicate accepts, over the good records of the store. -/
def storedRecords (s : State) : List LeavenRecord :=
  s.flash.leaven.flatMap (fun b => b.records.filter recordGood)

/-- The group holds a record: some chain of it shows one in LEAVEN_CHAIN_INFO. -/
def groupRecorded (k : Nat) (s : State) : Bool :=
  ((96 + k) :: (List.range 12).map (fun i => 12 * k + i)).any (fun ch => decide ((chainOf ch s).ranges ≠ 0))

/-- The entry to READY: the first since reset makes the groups due that hold no record (R169), those with no restored record
(R181) and those whose records have been cleared since (R182). -/
def leavenReady (s : State) : State :=
  if s.lv.readySeen then s
  else
    (List.range 8).foldl (fun s k => if (calOf k s).restored && groupRecorded k s then s else makeDue k s)
      { s with lv := { s.lv with readySeen := true } }

/-- SPARE_CHECK: the spare is swept twice and judged (R166). -/
def spareCheck (k : Nat) (sums1 sums2 : List Nat) (s : State) : State :=
  let g := calOf k s
  if !g.spareCheck then s
  else
    let ch := 96 + k
    let l1 := sweepInl sums1
    let l2 := sweepInl sums2
    let inl := inl16 [l1, l2]
    let range := portRange (g.ports.headD (12 * k)) s
    let s := modCal k (fun g => { g with spareCheck := false }) s
    let s := modGroup k (fun g => { g with spare := .idle }) s
    let s := if inlOk l1 l2 s then
        acceptChain ch range .accepted false 0 (some inl) (modChain ch (fun x => { x with nonlinear := false }) s)
      else
        let s := modChain ch (fun x => { x with inl := inl, nonlinear := true }) s
        logRejected ch .rejectedLinearity (endChain ch .rejectedLinearity true s)
    checkComplete k s

/-- The row SPARE_CHECK. -/
def execSpareCheck (k : Fin 8) (sweep1 sweep2 : List Nat) (s : State) : Host.Outcome State Fault Refusal :=
  .next (spareCheck k.val sweep1 sweep2 s)

/-! ## Passes (R161 to R167) -/

/-- A pass of the port would be full (R161). -/
def fullAllowed (p k : Nat) (s : State) : Bool :=
  let r := portRange p s
  let st := s.pipe.capture.state
  gatesAllowed s && decide (valReady (Obj.LAMP_MON_INDEX p) s ≠ 0xFF) && chainRecorded (96 + k) r s
    && (chainRecorded p r s || flagVal Obj.UNRECORDED_HANDOVER s) && decide (hostAssign k s = 0xFF)
    && (decide (st = .idle) || decide (st = .waiting))

/-- A pass at its start. -/
def newPass (p : Nat) (full seed : Bool) (s : State) : Pass :=
  let ch := chainOfPort p s
  { port := p, range := portRange p s, chain := if seed then p else ch, full := full, seed := seed, attempt := 1,
    step := if seed then .windowsB else .windowsA, closedA := [], closedB := [],
    window := some (openWindow ch (full || seed) s), sweeps := [], dimmed := false, retry := false, returnFrom := 0 }

def setPass (k : Nat) (p : Option Pass) (s : State) : State := modCal k (fun g => { g with pass := p }) s

/-- The host holds a port on a spare without an accepted record at its range: it is seeded (R167). -/
def seedPort (k : Nat) (s : State) : Option Nat :=
  let g := groupOf k s
  match g.spare, g.port with
  | .host, some p =>
    if chainRecorded (96 + k) (portRange p s) s || (calOf k s).seedTried || g.returnDue then none else some p
  | _, _ => none

/-- The port that a group's next pass takes in its calibration, those no longer enabled or latched since left out. -/
def nextPort (k : Nat) (s : State) : Option Nat :=
  (calOf k s).ports.find? (fun p => (calPorts k s).contains p)

/-- PASS_START: a seed, a pass of the running calibration, or a full pass of a port with GAIN_DUE (R167, R170). While the
spare check waits for the end of a host assignment a seed alone is made (R47, R167). -/
def passStart (k : Nat) (s : State) : State :=
  let g := calOf k s
  if !leavenRuns s || !groupLive k s || backgroundDeferred s || g.pass.isSome || g.spareCheck
      || !(g.running || groupMayRun s) then s
  else
    match seedPort k s with
    | some p => setPass k (some (newPass p false true s)) (modCal k (fun g => { g with seedTried := true }) s)
    | none =>
      if g.checkAgain then s
      else if g.running then
        match nextPort k s with
        | some p =>
          let s := modCal k (fun g => { g with ports := p :: g.ports.filter (fun q => decide (q ≠ p)) }) s
          setPass k (some (newPass p (fullAllowed p k s) false s)) s
        | none => checkComplete k (modCal k (fun g => { g with ports := [] }) s)
      else if g.due then s
      else
        match (calPorts k s).find? (fun p => (chainOf p s).gainDue && fullAllowed p k s) with
        | some p => setPass k (some (newPass p true false s)) s
        | none => s

/-- The row PASS_START. -/
def execPassStart (k : Fin 8) (s : State) : Host.Outcome State Fault Refusal := .next (passStart k.val s)

/-- The offsets of two windows agree in the given colours. -/
def offsetsAgree (a b : CalWindow) (cs : List Nat) (s : State) : Bool :=
  cs.all (fun c =>
    ((((windowOffset a c).sub (windowOffset b c)).abs).mul (Frac.ofNat 16)).le (Frac.ofNat (val Obj.CAL_OFFSET_TOL s)))

/-- The colours measured in both windows. -/
def measured (a b : CalWindow) : List Nat := (List.range 4).filter (fun c => windowHas a c && windowHas b c)

/-- A handover of Leaven's falls due; one of the host's that is due already stands. -/
def requestHandover (k p : Nat) (s : State) : State :=
  modGroup k (fun g => match g.assignDue with
    | some (_, true) => g
    | _ => { g with assignDue := some (p, false) }) s

/-- Both windows A have closed: the attempt goes to the spare, or is to be judged (R162, R164). -/
def closedBothA (k : Nat) (p : Pass) (a b : CalWindow) (s : State) : State :=
  let least := Frac.ofNat (val Obj.CAL_MON_MIN s)
  let dim := (p.full || p.seed) && [0, 1, 2].any (fun c => (lampOver a b c).lt least)
  let s := if dim then modChain p.port (fun x => { x with gainDue := true }) s else s
  let p := { p with window := none, dimmed := dim }
  if p.full && !dim && offsetsAgree a b (measured a b) s then
    setPass k (some { p with step := .handover }) (requestHandover k p.port s)
  else setPass k (some { p with step := .judge }) s

/-- A full window closes, and the next opens (R159, R162, R167). -/
def closeWindow (k : Nat) (s : State) : State :=
  match (calOf k s).pass with
  | none => s
  | some p =>
    match p.window with
    | none => s
    | some w =>
      if w.lines < val Obj.CAL_WINDOW_LINES s then s
      else
        let next := { openWindow w.chain w.lamp s with first := 0 }
        match p.step with
        | .windowsA =>
          match p.closedA with
          | [] => setPass k (some { p with closedA := [w], window := some next }) s
          | a :: _ => closedBothA k { p with closedA := [a, w] } a w s
        | .windowsB =>
          match p.closedB with
          | [] => setPass k (some { p with closedB := [w], window := some next }) s
          | b :: _ =>
            setPass k (some { p with closedB := [b, w], window := none, step := if p.seed then .handover else .judge }) s
        | _ => s

/-- The row CAL_WINDOW_CLOSE. -/
def execCalWindowClose (k : Fin 8) (s : State) : Host.Outcome State Fault Refusal := .next (closeWindow k.val s)

/-- CAL_WINDOW_TIMEOUT: an open window has not closed in time (row 6 of Table 7.4). -/
def windowTimeout (k : Nat) (s : State) : State :=
  match (calOf k s).pass with
  | some p => if p.window.isSome then abandonPass k 6 s else s
  | none => s

/-- The row CAL_WINDOW_TIMEOUT. -/
def execCalWindowTimeout (k : Fin 8) (s : State) : Host.Outcome State Fault Refusal := .next (windowTimeout k.val s)

/-- SWEEP_DONE: a sweep of the own chain of a port on the spare (R162 step 4); only a chain that no input pair is connected to
is swept (R160). -/
def sweepDone (k : Nat) (sums : List Nat) (s : State) : State :=
  match (calOf k s).pass with
  | some p =>
    if p.step = .windowsB ∧ !p.seed ∧ p.sweeps.length < 2 ∧ (groupOf k s).port = some p.port then
      setPass k (some { p with sweeps := p.sweeps ++ [sweepInl sums] }) s
    else s
  | none => s

/-- The row SWEEP_DONE. -/
def execSweepDone (k : Fin 8) (sums : List Nat) (s : State) : Host.Outcome State Fault Refusal :=
  .next (sweepDone k.val sums s)

/-! ## Judging (R164, R165, R167) -/

/-- round(8 × (O1 + O2)), in 1/16 code. -/
def newOffset (a b : CalWindow) (c : Nat) : Nat :=
  (((windowOffset a c).add (windowOffset b c)).mul (Frac.ofNat 8)).round.toNat

/-- The ratio q of lamp signals of a colour (R164). -/
def lampRatio (b a : CalWindow) (c : Nat) : Frac := (windowLamp b c).div (windowLamp a c)

/-- The gain that a colour's ratios give: the own chain's, or the spare's for a seed. -/
def newGain (p : Pass) (spare c : Nat) (q1 q2 : Frac) (s : State) : Nat :=
  let sum := q1.add q2
  if p.seed then
    (((Frac.ofNat (2 * entryGain (chainEntryNow p.port p.range c s))).div sum)).round.toNat
  else ((Frac.ofNat (entryGain (chainEntryNow spare p.range c s))).mul (sum.div (Frac.ofNat 2))).round.toNat

/-- The judgement of the windows B with the ratios (R164): the first reason met in the order of the colours, and the gains. -/
def judgeRatios (p : Pass) (spare : Nat) (a1 a2 b1 b2 : CalWindow) (s : State) : CalResult × List Nat :=
  let tol := val Obj.CAL_GAIN_TOL s
  let step (acc : CalResult × List Nat) (c : Nat) : CalResult × List Nat :=
    let q1 := lampRatio b1 a1 c
    let q2 := lampRatio b2 a2 c
    let r := if offsetsAgree b1 b2 [c] s then acc.1 else .rejectedOffset
    let apart := ((Frac.mk' tol 20000).mul (q1.add q2)).lt ((q1.sub q2).abs)
    let r := if r = .accepted && apart then .rejectedGain else r
    let g := newGain p spare c q1 q2 s
    let r := if r = .accepted && (decide (g < 8192) || decide (32768 < g)) then .rejectedRange else r
    (r, acc.2 ++ [g])
  [0, 1, 2].foldl step (.accepted, [])

/-- What an attempt comes to, with the gains of RED, GREEN and BLUE. -/
def judgeAttempt (p : Pass) (k : Nat) (s : State) : CalResult × List Nat :=
  match p.closedA with
  | [a1, a2] =>
    if !offsetsAgree a1 a2 (measured a1 a2) s then (.rejectedOffset, [])
    else if (p.full || p.seed) && !p.dimmed then
      match p.closedB with
      | [b1, b2] =>
        let (r, gs) := judgeRatios p (96 + k) a1 a2 b1 b2 s
        let linear := match p.sweeps with
          | [l1, l2] => inlOk l1 l2 s
          | _ => true
        if r = .accepted && !p.seed && !linear then (.rejectedLinearity, gs)
        else if r = .accepted && p.seed then (.seeded, gs) else (r, gs)
      | _ => (.rejectedOffset, [])
    else (.acceptedOffsetOnly, [])
  | _ => (.rejectedOffset, [])

/-- Writes the offsets of two windows on a chain. -/
def writeOffsets (ch r : Nat) (a b : CalWindow) (s : State) : State :=
  (measured a b).foldl (fun s c => setOffset ch r c (newOffset a b c) s) s

/-- Writes gains with DARK from GREEN. -/
def writeGains (ch r : Nat) (gs : List Nat) (s : State) : State :=
  let s := [0, 1, 2].foldl (fun s c => setGain ch r c (gs.getD c 16384) s) s
  setGain ch r 3 (gs.getD 1 16384) s

/-- The entries, the chain's results and the records of an acceptance (R164, R165, R167). -/
def writeAccepted (p : Pass) (k : Nat) (res : CalResult) (gs : List Nat) (s : State) : State :=
  match p.closedA, res with
  | [a1, a2], .accepted =>
    let s := writeGains p.chain p.range gs (writeOffsets p.chain p.range a1 a2 s)
    let s := match p.closedB with
      | [b1, b2] => writeOffsets (96 + k) p.range b1 b2 s
      | _ => s
    let s := modChain p.port (fun x => { x with gainDue := false }) s
    acceptChain (96 + k) p.range .accepted true 0 none
      (acceptChain p.chain p.range .accepted true 0 (some (inl16 p.sweeps)) s)
  | [_, _], .seeded =>
    let s := match p.closedB with
      | [b1, b2] => writeOffsets (96 + k) p.range b1 b2 s
      | _ => s
    acceptChain (96 + k) p.range .seeded true 1 none (writeGains (96 + k) p.range gs s)
  | [a1, a2], _ =>
    acceptChain p.chain p.range .acceptedOffsetOnly false 2 none (writeOffsets p.chain p.range a1 a2 s)
  | _, _ => s

/-- A further attempt begins on the chain of the first (R164). -/
def nextAttempt (p : Pass) (s : State) : Pass :=
  { p with attempt := p.attempt + 1, step := .windowsA, closedA := [], closedB := [], sweeps := [], dimmed := false,
           retry := false, returnFrom := 0, window := some (openWindow p.chain (p.full || p.seed) s) }

/-- Leaven's hold of the port that HOST_ASSIGN names becomes the host's, where the port is: no handover takes place, and
SPARE_STATE goes from 1 to 2 at once (DESIGN CHOICE, log entry 165). -/
def giveToHost (k : Nat) (s : State) : State :=
  modGroup k (fun g => { g with
    spare := if g.spare = .leaven then .host else g.spare, returnDue := false, returnHost := false }) s

/-- The port of an attempt goes back, or stays where it is while HOST_ASSIGN names it, before the pass ends or is tried again
(R47, R162, R164). A further attempt of a full pass waits for the port's return (log entry 165). -/
def afterJudge (k : Nat) (p : Pass) (retry : Bool) (from' : Nat) (s : State) : State :=
  let g := groupOf k s
  let away := p.full && decide (g.port = some p.port)
  let waits := setPass k (some { p with step := .returning, retry := retry, returnFrom := from' }) s
  if away && decide (hostAssign k s = p.port) then
    if retry then waits else endPass k (giveToHost k s)
  else if away then modGroup k (fun g => { g with returnDue := true }) waits
  else if retry then setPass k (some (nextAttempt p s)) s
  else endPass k s

/-- What a write of HOST_ASSIGN that names the port on the spare does (R47): the port stays, and Leaven's hold of it becomes
the host's where no pass is still to be judged. -/
def keepOnSpare (k : Nat) (s : State) : State :=
  let s := modGroup k (fun g => { g with returnDue := false, returnHost := false, assignDue := none }) s
  match (calOf k s).pass with
  | some p =>
    if p.seed then giveToHost k s else if passJudged p then endPass k (giveToHost k s) else s
  | none => giveToHost k s

/-- The handover that Leaven's pass has asked for falls due again, where a move of the host's stood in its place and is not
made (R47, R162). -/
def askAgain (k : Nat) (s : State) : State :=
  match (calOf k s).pass with
  | some p =>
    if p.step = .handover && !p.seed && decide ((groupOf k s).port ≠ some p.port) then requestHandover k p.port s else s
  | none => s

/-- The INL of the sweeps of an attempt, the last ones of its chain, whatever it comes to (Table 7.11). -/
def noteSweeps (p : Pass) (s : State) : State :=
  if p.full && decide (p.sweeps.length = 2) then modChain p.chain (fun x => { x with inl := inl16 p.sweeps }) s else s

/-- ATTEMPT_JUDGE (R164). -/
def attemptJudge (k : Nat) (s : State) : State :=
  match (calOf k s).pass with
  | none => s
  | some p =>
    if p.step ≠ .judge || (p.full && decide (p.closedB.length = 2) && decide (p.sweeps.length ≠ 2)) then s
    else
      let (res, gs) := judgeAttempt p k s
      let s := noteSweeps p s
      if res = .accepted || res = .acceptedOffsetOnly || res = .seeded then
        let s := writeAccepted p k res gs { s with lv := { s.lv with acceptCount := s.lv.acceptCount + 1 } }
        afterJudge k p false s.tim.nextSerial s
      else if !p.seed && decide (p.attempt ≤ val Obj.CAL_RETRIES s) then afterJudge k p true 0 s
      else
        let ch := if p.seed then 96 + k else p.chain
        let s := endChain ch res true { s with lv := { s.lv with
          rejectCount := s.lv.rejectCount + 1, sticky := stick 3 s.lv.sticky } }
        afterJudge k p false 0 (logRejected ch res s)

/-- The row ATTEMPT_JUDGE. -/
def execAttemptJudge (k : Fin 8) (s : State) : Host.Outcome State Fault Refusal := .next (attemptJudge k.val s)

/-! ## Handovers (02 R45 to R48, R163) -/

/-- The serial of the line in progress. -/
def lineInProgress (s : State) : Nat := s.tim.nextSerial - 1

/-- A handover or a return of Leaven's waits: while a capture reads the strip (R163), a handover while HOST_ASSIGN names a
port (R47), and a return after an acceptance until a line that begins after the writes (R162). -/
def handoverWaits (k : Nat) (s : State) : Bool :=
  let g := groupOf k s
  let st := s.pipe.capture.state
  let reads := decide (st = .black) || decide (st = .white) || decide (st = .evaluating)
  let ours := (g.returnDue && !g.returnHost && decide (g.spare = .leaven)) || (!g.returnDue && match g.assignDue with
    | some (_, host) => !host
    | none => false)
  let early := match (calOf k s).pass with
    | some p => g.returnDue && decide (p.step = .returning) && decide (lineInProgress s < p.returnFrom)
    | none => false
  let named := !g.returnDue && decide (hostAssign k s ≠ 0xFF)
  ours && (reads || early || named)

/-- What a handover or a return does to the pass of the group. -/
def followHandover (k : Nat) (s : State) : State :=
  let g := groupOf k s
  match (calOf k s).pass with
  | none => s
  | some p =>
    let on := decide (g.port = some p.port) && decide (g.spare ≠ .idle)
    let windows (ch : Nat) (st : PassStep) : State :=
      setPass k (some { p with step := st, window := some (openWindow ch true s) }) s
    match p.step with
    | .handover =>
      if p.seed then (if on then s else windows p.port .windowsA)
      else if on then windows (96 + k) .windowsB else s
    | .windowsB => if p.seed && !on then abandonPass k 1 s else s
    | .returning =>
      if on then s
      else if p.retry then setPass k (some (nextAttempt p s)) s
      else endPass k s
    | _ => s

/-- HANDOVER. -/
def handoverEvent (k : Nat) (s : State) : State :=
  if handoverWaits k s then s
  else
    let s := handover k s
    let s := if (groupOf k s).spare = .idle then modCal k (fun g => { g with seedTried := false }) s else s
    followHandover k s

/-- The row HANDOVER. -/
def execHandover (k : Fin 8) (s : State) : Host.Outcome State Fault Refusal := .next (handoverEvent k.val s)

/-- HOST_ASSIGN (R47). A write of 0xFF returns the assigned port at the next slot boundary, also where Leaven holds it: its pass
then stands without its port on the spare, finds no further line usable, and times out (DEDUCED, log entry 165). -/
def writeHostAssign (k v : Nat) (s : State) : WriteOut :=
  if v ≠ 0xFF ∧ v / 12 ≠ k then .abort abortRange s
  else
    let old := hostAssign k s
    let s := setVal (Obj.HOST_ASSIGN k) v s
    let g := groupOf k s
    let ask (x : Group) : Group := { x with assignDue := some (v, true) }
    if v = old then .ok s
    else if v = 0xFF then
      -- a move that is still due is not made; the port that the host holds goes back
      let drop (x : Group) : Group := match x.assignDue with
        | some (_, true) => { x with assignDue := none }
        | _ => x
      let s := askAgain k (modGroup k drop s)
      let assigned := decide (g.spare = .host) || (decide (g.spare = .leaven) && decide (g.port = some old))
      .ok (if assigned then modGroup k (fun g => { g with returnDue := true, returnHost := true }) s else s)
    else if g.spare ≠ .idle && decide (g.port = some v) then
      -- the port is on the spare already, and stays there
      .ok (keepOnSpare k s)
    else
      let s := abandonCheck k s
      let other := match (calOf k s).pass with
        | some p => decide (p.port ≠ v)
        | none => false
      let s := if other then abandonPass k 1 s else s
      let held := decide ((groupOf k s).spare = .leaven) || decide ((groupOf k s).spare = .host)
      .ok (modGroup k (fun g => ask { g with returnDue := g.returnDue || held }) s)

/-- The row HOST_ASSIGN. -/
def execHostAssign (via : Path) (k : Fin 8) (port : BitVec 8) (s : State) : Host.Outcome State Fault Refusal :=
  writeCommand via (writeHostAssign k.val port.toNat) s

/-- The domain of a group turns off: its spare holds nothing, and Leaven stops in it (row 3 of Table 7.4). -/
def groupOff (k cause : Nat) (s : State) : State :=
  let s := clearSkips k (abandonGroup k cause s)
  modGroup k (fun g => { g with spare := .idle, port := none, returnDue := false, returnHost := false, assignDue := none,
                                settle := none, windowOpen := none }) s

/-- The domain of a group powers up: the assignment of the host is carried out (01 R23). -/
def groupOn (k : Nat) (s : State) : State :=
  let v := hostAssign k s
  if v = 0xFF then s else modGroup k (fun g => { g with assignDue := some (v, true) }) s

/-! ## Rows of the front end whose declarations stop a pass (R174) -/

/-- A pass whose port has become FAULT_LATCHED is abandoned (row 5 of Table 7.4). -/
def stopLatched (k : Nat) (s : State) : State :=
  match (calOf k s).pass with
  | some p => if (portOf p.port s).latched then abandonPass k 5 s else s
  | none => s

/-- The row TONE_WINDOW_END. -/
def execToneWindowEnd (k : Fin 8) (amplitudes : List (Fin 96 × Nat)) (s : State) :
    Host.Outcome State Fault Refusal := .next (inOneCycle (fun s => stopLatched k.val (endWindow k.val (some amplitudes) s)) s)

/-- The row START_PULSE; the timing engine lies in PD12. -/
def execStartPulse (k : Fin 8) (readings : List Reading) (s : State) : Host.Outcome State Fault Refusal :=
  .next (if domainOn 12 s then inOneCycle (fun s => stopLatched k.val (startPulse k.val readings s)) s else s)

/-! ## Paper white (R175 to R178) -/

/-- The stagger distance in lines, rounded (R176); 0 where both rows are undelayed. -/
def staggerLines (s : State) : Nat :=
  if stitching s then (roundDiv (staggerCounts s) (256 * (val Obj.LINE_DIVIDER s : Int))).toNat else 0

/-- The chain that every slot of the line read the port on. -/
def chainInLine (p : Nat) (l : LineRec) : Option Nat :=
  match (portTaps p l).head? with
  | some (_, some t) => if lineUsable p t.chain l then some t.chain else none
  | _ => none

/-- The active codes of a port in a colour of a line. -/
def activeCodes (p c : Nat) (l : LineRec) (s : State) : List Nat :=
  (portTaps p l).flatMap (fun x => match x.2 with
    | some t => if x.1.colour.code = c then (t.codes.drop (valReady (Obj.REF_LEAD p) s)).take (activeCount p s) else []
    | none => [])

/-- Takes a port's line into a half, for each colour; a change of chain makes the half unusable. -/
def halfTake (p : Nat) (l : LineRec) (hs : List PwHalf) (s : State) : List PwHalf :=
  match chainInLine p l with
  | none => hs
  | some ch => [0, 1, 2].foldl (fun hs c =>
      let codes := activeCodes p c l s
      if hs.any (fun h => decide (h.port = p) && decide (h.colour = c)) then
        hs.map (fun h => if h.port = p ∧ h.colour = c then
          { h with lines := h.lines + 1, histogram := histAddAll codes h.histogram,
                   chain := if h.chain = some ch then h.chain else none } else h)
      else hs ++ [⟨p, c, 1, histAddAll codes [], some ch⟩]) hs

/-- Notes the chains that the slots of a line read a port on, whether or not the line is usable. -/
def noteChains (p : Nat) (l : LineRec) (seen : List (Nat × Option Nat)) : List (Nat × Option Nat) :=
  (portTaps p l).foldl (fun seen x => match x.2 with
    | none => seen
    | some t =>
      if seen.any (fun e => decide (e.1 = p)) then
        seen.map (fun e => if e.1 = p && decide (e.2 ≠ some t.chain) then (p, none) else e)
      else seen ++ [(p, some t.chain)]) seen

/-- An image line of the trailing row in a region: its trailing ports, and the leading ports of the trigger that saw the
same paper. -/
def regionTake (l : LineRec) (s : State) (r : PwRegion) : PwRegion :=
  if l.page ≠ r.page ∨ l.leadIn ∨ l.pageLine < r.first ∨ r.first + r.count ≤ l.pageLine then r
  else
    let old := s.lv.recent.find? (fun x => decide (x.id.serial + staggerLines s = l.id.serial))
    let ports := (List.range (r.lastTile + 1 - r.firstTile)).map (fun i => r.firstTile + i)
    let lineOf (p : Nat) : Option LineRec := if leadingTile p s then old else some l
    let take (hs : List PwHalf) : List PwHalf := ports.foldl (fun hs p =>
      match lineOf p with
      | some x => halfTake p x hs s
      | none => hs) hs
    let seen := ports.foldl (fun seen p => match lineOf p with
      | some x => noteChains p x seen
      | none => seen) r.chains
    let r := { r with chains := seen }
    if 2 * (l.pageLine - r.first) < r.count then { r with half1 := take r.half1 } else { r with half2 := take r.half2 }

/-- An image line leaves the hold: the regions take it (R175, R176). -/
def paperLine (l : LineRec) (s : State) : State :=
  if !capturing s || l.refPhase.isSome then s
  else
    let keep := staggerLines s + 1
    let s := { s with lv := { s.lv with recent := (l :: s.lv.recent).take keep, readAt := some (l.page, l.pageLine) } }
    if flagVal Obj.PW_ENABLE s then { s with lv := { s.lv with regions := s.lv.regions.map (regionTake l s) } } else s

/-- Whether page line `n` of a page has been read: a line at or after it has left the hold. -/
def lineReadBy (page n : Nat) (s : State) : Bool :=
  match s.lv.readAt with
  | none => false
  | some (pg, ln) => if pg = page then decide (n ≤ ln) else pageFollows pg page

/-- PW_REGION_ADD (R175). -/
def writePwRegion (data : List Byte) (s : State) : WriteOut :=
  if data.length ≠ 16 then .abort abortLength s
  else
    let r : PwRegion :=
      { page := fieldAt data 0 4, first := fieldAt data 4 4, count := fieldAt data 8 4, firstTile := fieldAt data 12 1,
        lastTile := fieldAt data 13 1, half1 := [], half2 := [], chains := [] }
    if fieldAt data 14 2 ≠ 0 then .misuse .reservedBits
    else if r.count < 128 ∨ 1048576 < r.count ∨ 95 < r.firstTile ∨ 95 < r.lastTile ∨ r.lastTile < r.firstTile then
      .abort abortContent s
    else if 32 ≤ s.lv.regions.length || (capturing s && lineReadBy r.page r.first s) then
      .ok { s with lv := { s.lv with dropped := s.lv.dropped + 1, sticky := stick 8 s.lv.sticky } }
    else .ok { s with lv := { s.lv with regions := s.lv.regions ++ [r] } }

/-- The row PW_REGION_ADD. -/
def execPwRegionAdd (via : Path) (data : List Byte) (s : State) : Host.Outcome State Fault Refusal :=
  writeCommand via (writePwRegion data) s

/-- The level of a half in stage A units (R176), where the half is used. -/
def halfLevel (h : PwHalf) (s : State) : Option Frac :=
  match h.chain with
  | none => none
  | some ch =>
    let (l, m, r) := modeCounts h.histogram
    if h.lines < 64 || decide (100 * (l + m + r) < val Obj.PW_MIN_FRACTION s * histTotal h.histogram) then none
    else
      let e := chainEntry s.lv.chainInForce ch (portRange h.port s) h.colour
      let gd := stageAGain e (driftEntry s.lv.driftInForce h.port h.colour)
      let x := ((refinedMode h.histogram).mul (Frac.ofNat 16)).sub (Frac.ofNat (entryOffset e))
      some ((Frac.ofNat 1024).add ((x.mul (Frac.ofInt gd)).div (Frac.ofNat 16384)))

/-- PW_REF of a port and colour. -/
def pwRef (p c : Nat) (s : State) : Nat := tableEntry (bytesGet (objKey 0x4501 0) s.dict.bulk) 2 (3 * p + c) 0

/-- The new drift (R177): held to PW_REF, limited in its step and clipped. -/
def newDrift (d ref step : Nat) (u : Frac) : Nat :=
  let full := ((Frac.ofNat (d * ref)).div u).round
  let lim : Int := (d * step / 10000 : Nat)
  (clampInt 8192 32768 (clampInt ((d : Int) - lim) (d + lim) full)).toNat

/-- What a region gives for a port and colour (R177); nothing for a port that changed chain during it (R176). -/
def applyHalf (r : PwRegion) (h : PwHalf) (s : State) : State :=
  match r.half2.find? (fun x => decide (x.port = h.port) && decide (x.colour = h.colour)) with
  | none => s
  | some h2 =>
    match halfLevel h s, halfLevel h2 s with
    | some u1, some u2 =>
      let sum := u1.add u2
      if h.chain ≠ h2.chain || r.chains.any (fun e => decide (e.1 = h.port) && e.2.isNone) || ((Frac.mk' (val Obj.PW_TOL s) 20000).mul sum).lt ((u1.sub u2).abs) then s
      else
        let u := sum.div (Frac.ofNat 2)
        let i := 3 * h.port + h.colour
        let ref := pwRef h.port h.colour s
        if ref = 0 then setTable (objKey 0x4501 0) 2 288 0 i (clip16 u.round) s
        else
          let d := driftEntry (bytesGet (objKey 0x4305 0) s.dict.bulk) h.port h.colour
          setTable (objKey 0x4305 0) 2 288 16384 i (newDrift d ref (val Obj.PW_STEP_MAX s) u) s
    | _, _ => s

/-- PW_REGION_DONE: the lines of the first region whose last line has been read are judged; a region is used only in INLINE or
SHEET with PW_ENABLE set (R175). -/
def regionDone (s : State) : State :=
  match s.lv.regions.findIdx? (fun r => lineReadBy r.page (r.first + r.count - 1) s) with
  | none => s
  | some i =>
    match s.lv.regions[i]? with
    | none => s
    | some r =>
      let t := { s with lv := { s.lv with regions := s.lv.regions.eraseIdx i } }
      if capturing s && flagVal Obj.PW_ENABLE s then r.half1.foldl (fun s h => applyHalf r h s) t else t

/-- The row PW_REGION_DONE. -/
def execPwRegionDone (s : State) : Host.Outcome State Fault Refusal := .next (regionDone s)

/-- PW_RELEARN (R178). -/
def writePwRelearn (v : Bool) (s : State) : WriteOut := .ok (if v then clearBulk (objKey 0x4501 0) s else s)

/-- The row PW_RELEARN. -/
def execPwRelearn (via : Path) (s : State) : Host.Outcome State Fault Refusal := writeCommand via (writePwRelearn true) s

/-! ## RECORD_CLEAR, LEAVEN_ENABLE and status (R182, R183) -/

/-- A pass runs on a chain. -/
def passOn (ch : Nat) (s : State) : Bool :=
  match (calOf (groupOfChain ch) s).pass with
  | some p => decide (p.chain = ch) || (decide (ch = 96 + groupOfChain ch) && (p.full || p.seed))
  | none => false

/-- Clears a chain at a range: a tombstone, the defaults, and the range's bit. -/
def clearRange (ch r : Nat) (s : State) : State :=
  let s := (List.range 4).foldl (fun s c => setChainEntry ch r c chainDefault s) s
  let s := modChain ch (fun x => { x with ranges := setBit x.ranges r false, gains := setBit x.gains r false }) s
  let t : LeavenRecord :=
    { tombstone := true, chain := ch, range := r, flags := 0, sequence := 0, time := s.now,
      accepted := (chainOf ch s).accepted, temp := groupTemp (groupOfChain ch) s, inl := 0,
      entries := List.replicate 4 chainDefault, check := 0 }
  { s with lv := { s.lv with toStore := s.lv.toStore ++ [t] } }

/-- RECORD_CLEAR (R182). -/
def writeRecordClear (v : Nat) (s : State) : WriteOut :=
  let ch := bits v 7 0
  if bits v 15 12 ≠ 0 then .misuse .reservedBits
  else if 103 < ch then .abort abortRange s
  else if passOn ch s then .abort abortState s
  else .ok ((setBits (bits v 11 8) 4).foldl (fun s r => clearRange ch r s) s)

/-- The row RECORD_CLEAR. -/
def execRecordClear (via : Path) (v : BitVec 16) (s : State) : Host.Outcome State Fault Refusal :=
  writeCommand via (writeRecordClear v.toNat) s

/-- LEAVEN_ENABLE: 0 abandons what runs (row 10 of Table 7.4). -/
def writeLeavenEnable (v : Nat) (s : State) : WriteOut :=
  let s := setVal Obj.LEAVEN_ENABLE v s
  .ok (if v = 0 then abandonGroups 10 s else s)

/-- GROUP_CAL_STATE (Table 7.8). -/
def calState (k : Nat) (s : State) : Nat :=
  let g := calOf k s
  match g.pass with
  | some p => if p.seed then 6 else if p.full then 4 else 5
  | none =>
    if g.spareCheck then 3
    else if groupDeferred k s then 2
    else if g.due || g.running then 1 else 0

/-- GROUP_CAL_PORT. -/
def calPort (k : Nat) (s : State) : Nat :=
  match (calOf k s).pass with
  | some p => p.port
  | none => 0xFF

/-- GROUP_UNRECORDED, by the records that LEAVEN_CHAIN_INFO shows (Tables 7.8 and 7.11). -/
def groupUnrecorded (k : Nat) (s : State) : Nat :=
  let ps := ((List.range 12).map (fun i => 12 * k + i)).filter (fun p => portEnabled p s)
  let lacks (ch p : Nat) : Bool := !bitOf (chainOf ch s).ranges (portRange p s)
  (ps.filter (fun p => lacks p p)).length + b2n (ps.any (lacks (96 + k)))

/-- An entry of LEAVEN_CHAIN_INFO (Table 7.11). -/
def chainInfoBytes (x : ChainInfo) : List Byte :=
  leBytes 4 x.accepted ++ leBytes 4 x.rejected ++ leBytes 8 x.acceptTime ++ leBytes 8 x.endTime
    ++ leBytes 2 (toRaw 16 x.temp) ++ leBytes 2 x.inl ++ leBytes 1 x.ranges ++ leBytes 1 x.result.code
    ++ leBytes 1 (b2n x.gainDue + 2 * b2n x.nonlinear) ++ leBytes 1 0

/-- LEAVEN_STATUS (Table 7.10). -/
def leavenStatus (s : State) : Nat :=
  let learning := (List.range 288).any (fun i => decide (tableEntry (bytesGet (objKey 0x4501 0) s.dict.bulk) 2 i 0 = 0))
  bitsOf [flagVal Obj.LEAVEN_ENABLE s, s.lv.groups.any (fun g => g.pass.isSome || g.spareCheck),
    (List.range 8).any (fun k => groupDeferred k s), bitOf s.lv.sticky 3, bitOf s.lv.sticky 4, bitOf s.lv.sticky 5,
    bitOf s.lv.sticky 6, learning, bitOf s.lv.sticky 8]

/-- LEAVEN_STATUS_CLEAR. -/
def writeLeavenClear (v : Nat) (s : State) : WriteOut :=
  .ok { s with lv := { s.lv with sticky := unstick s.lv.sticky v } }

/-- The row LEAVEN_STATUS_CLEAR. -/
def execLeavenStatusClear (via : Path) (v : BitVec 16) (s : State) : Host.Outcome State Fault Refusal :=
  writeCommand via (writeLeavenClear v.toNat) s

/-! ## LINE_HOLD_RELEASE (01 R16, R159) -/

/-- A usable line of a pass goes to its open window; a window that is full closes first. -/
def passLine (l : LineRec) (k : Nat) (s : State) : State :=
  let s := closeWindow k s
  match (calOf k s).pass with
  | none => s
  | some p =>
    match p.window with
    | none => s
    | some w =>
      if decide (w.first ≤ l.id.serial) && lineUsable p.port w.chain l && (!w.lamp || lineLit l) then
        setPass k (some { p with window := some (windowTake p.port l w) }) s
      else s

/-- Every slot of a line has ended and been read. -/
def lineIsRead (l : LineRec) (s : State) : Bool :=
  !(s.tim.lineActive && decide ((s.tim.lines.getLast?.map (fun x => x.id.serial)) = some l.id.serial))
    && s.tim.due.all (fun d => d.all (fun x => decide (x.serial ≠ l.id.serial)))

/-- A suspect line of a port that leaves the hold without the port's mark is counted (02 R54). -/
def countReleased (l : LineRec) (s : State) : State :=
  (List.range 96).foldl (fun s p =>
    let suspect := match (portOf p s).suspect with
      | some f => decide (f.serial ≤ l.id.serial)
      | none => false
    if suspect && lineReads p l && !l.invalid.getLsbD p then modPort p (fun x => { x with released := x.released + 1 }) s
    else s) s

/-- The oldest line leaves the hold with its final marks: Leaven and a capture take it, and a line of a run or a capture
passes on. A switch that waits for a line without SETTLING takes effect with it (05 R121). -/
def releaseOldest (s : State) : State :=
  match s.tim.lines with
  | [] => s
  | l :: rest =>
    if !lineIsRead l s then s
    else
      let s := if l.settling then s else switchEffect s
      let s := countReleased l { s with tim := { s.tim with lines := rest } }
      let s := (List.range 8).foldl (fun s k => passLine l k s) s
      let s := paperLine l (gatherLine l s)
      if l.id.y.isSome then passStages l s else s

/-- The oldest line has been held for 4 lines (Table 2.1, 01 Table 1.2): four lines after it have ended, or, where lines do not
follow, four line periods have passed since its last slot ended, its period being the time to the next line's start, or that
of its own slots where no line has begun after it (log entry 99). -/
def holdOver (s : State) : Bool :=
  match s.tim.lines with
  | [] => true
  | l :: rest =>
    let own := sumNats (l.slots.map (fun x => 2500 * x.width))
    let period := match rest with
      | n :: _ => max own (n.startTime - l.startTime)
      | [] => own
    decide (l.id.serial + 5 + b2n s.tim.lineActive ≤ s.tim.nextSerial) || (match l.ended with
      | some t => decide (1000 * t + 4 * period ≤ 1000 * s.clk)
      | none => false)

/-- LINE_HOLD_RELEASE: the oldest line that has been held long enough leaves the hold. -/
def releaseLine (s : State) : State := if holdOver s then releaseOldest s else s

/-- The row LINE_HOLD_RELEASE. -/
def execLineHoldRelease (s : State) : Host.Outcome State Fault Refusal :=
  .next (if domainOn 12 s then releaseLine s else s)

/-- Every line that has been read leaves the hold and is committed; a line that has not is discarded: the end of image
capture (01 Table 1.9, 05 R124). -/
def drainLines (s : State) : State :=
  let rec go : Nat → State → State
    | 0, s => s
    | n + 1, s => go n (releaseOldest s)
  let s := finishLines (go s.tim.lines.length s)
  { s with tim := { s.tim with lines := [] } }

end Sys2Proof.Machine
end

