-- ==== Sys2Proof/Machine/Ramps.lean ====
section
/-! DEFINITION. Ramps, blends, moves and emergency ramps of a motion profile (11_motion R284 to R288), in update periods
of 10 µs. -/
namespace Sys2Proof.Machine

/-! ## Sine -/

/-- The binary scale of the sine: 2⁶⁰. -/
def sinScale : Nat := 2 ^ 60

/-- π/2 at the binary scale. -/
def halfPi : Nat := 1811004864519280711

/-- The Taylor series of the sine: the term of order `2k+1` is `term`. -/
def sinTerms (x : Int) : Nat → Nat → Int → Int
  | 0, _, _ => 0
  | n + 1, k, term =>
    term + sinTerms x n (k + 1)
      (-(term * x / (sinScale : Int) * x / (sinScale : Int) / (((2 * k + 2) * (2 * k + 3) : Nat) : Int)))

/-- sin(x) of an angle at the binary scale, from 0 to π/2. -/
def sinFirst (x : Int) : Int := sinTerms x 14 0 x

/-- sin(2πt), t in turns, to 2⁻⁵⁰ (log entry 35). -/
def sinTurn (t : Frac) : Frac :=
  let u := t.sub (Frac.ofInt t.floor)
  let q := (u.mul (Frac.ofNat 4)).floor
  let r := (u.mul (Frac.ofNat 4)).sub (Frac.ofInt q)
  let x := (r.mul (Frac.ofNat halfPi)).floor
  let y := (halfPi : Int) - x
  let v := if q = 0 then sinFirst x else if q = 1 then sinFirst y else if q = 2 then -(sinFirst x) else -(sinFirst y)
  Frac.mk' v sinScale

def cosTurn (t : Frac) : Frac := sinTurn (t.add (Frac.mk' 1 4))

/-- √a rounded down to 2⁻²⁰ of the unit of its denominator. -/
def fracSqrt (a : Frac) : Frac := Frac.mk' (isqrt (a.num.toNat * a.den * 2 ^ 40)) (a.den * 2 ^ 20)

/-! ## Units -/

/-- Update periods in a second. -/
def perSecond : Nat := 100000

/-- A time in seconds as whole update periods, rounded up. -/
def periods (t : Frac) : Nat := (t.mul (Frac.ofNat perSecond)).ceil.toNat

/-- The velocity word of a speed: VW = f × 2⁴⁸ / 10⁸, rounded, at most 5,000,000 microsteps/s (R284). -/
def velocityWord (f : Frac) : Nat :=
  Nat.min 14073748835532 ((f.abs.mul (Frac.ofNat (2 ^ 48))).div (Frac.ofNat 100000000)).round.toNat

/-- The step rate of a velocity word, rounded (AXIS_VELOCITY). -/
def rateOfWord (vw : Nat) : Int := roundDiv (vw * 100000000 : Nat) (2 ^ 48 : Nat)

/-- A position as INT32 (R283). -/
def wrap32 (v : Int) : Int := toSigned 32 (toRaw 32 v)

/-! ## Phases -/

/-- Seconds that an emergency ramp takes from its present acceleration to the peak. -/
def emergencyRise (a0 peak jerk : Frac) : Frac := (a0.add peak).abs.div jerk

/-- Seconds of a whole emergency ramp. -/
def emergencyTime (a0 peak flat jerk : Frac) : Frac :=
  ((emergencyRise a0 peak jerk).add flat).add (peak.div jerk)

/-- Update periods of a phase; none where it runs until replaced. -/
def Phase.length : Phase → Option Nat
  | .ramp _ _ n _ => some n
  | .cruise _ n => some n
  | .hold _ => none
  | .blend _ _ n => some n
  | .emergency _ _ a0 peak flat jerk => some (periods (emergencyTime a0 peak flat jerk))

def halfFrac (a : Frac) : Frac := a.mul (Frac.mk' 1 2)

/-- Speed along the direction of motion at `t` seconds of an emergency ramp, and the acceleration. -/
def emergencyAt (v0 a0 peak flat jerk t : Frac) : Frac × Frac :=
  let t1 := emergencyRise a0 peak jerk
  let total := emergencyTime a0 peak flat jerk
  let down := decide (0 ≤ (a0.add peak).num)
  let slope := if down then jerk.neg else jerk
  let v1 := v0.add ((halfFrac (a0.sub peak)).mul t1)
  let (v, a) :=
    if t.lt t1 then ((v0.add (a0.mul t)).add (halfFrac ((slope.mul t).mul t)), a0.add (slope.mul t))
    else if t.lt (t1.add flat) then (v1.sub (peak.mul (t.sub t1)), peak.neg)
    else if t.lt total then
      let u := total.sub t
      (halfFrac ((jerk.mul u).mul u), (jerk.mul u).neg)
    else (Frac.zero, Frac.zero)
  if v.num < 0 then (Frac.zero, Frac.zero) else (v, a)

/-- Table 11.3: how far a ramp has gone at τ. -/
def rampShare (shape : Nat) (x : Frac) : Frac :=
  if shape = 0 then x.sub ((sinTurn x).div (Frac.mk' (2 * 3141592653589793238) 1000000000000000000))
  else ((x.pow 3).mul (Frac.ofNat 10)).add (((x.pow 5).mul (Frac.ofNat 6)).sub ((x.pow 4).mul (Frac.ofNat 15)))

/-- The derivative of Table 11.3 at τ. -/
def rampSlope (shape : Nat) (x : Frac) : Frac :=
  if shape = 0 then Frac.one.sub (cosTurn x)
  else (((x.pow 2).mul (Frac.ofNat 30)).sub ((x.pow 3).mul (Frac.ofNat 60))).add ((x.pow 4).mul (Frac.ofNat 30))

/-- The velocity of a phase `t` update periods after its start. -/
def Phase.vel (t : Frac) : Phase → Frac
  | .ramp v0 v1 n shape => v0.add ((v1.sub v0).mul (rampShare shape (t.div (Frac.ofNat n))))
  | .cruise v _ => v
  | .hold v => v
  | .blend v0 a0 n =>
    let x := t.div (Frac.ofNat n)
    let secs := Frac.mk' n perSecond
    v0.add ((halfFrac (a0.mul secs)).mul
      (x.add ((sinTurn (halfFrac x)).div (Frac.mk' 3141592653589793238 1000000000000000000))))
  | .emergency dir v0 a0 peak flat jerk =>
    (Frac.ofInt dir).mul (emergencyAt v0 a0 peak flat jerk (t.div (Frac.ofNat perSecond))).1

/-- The acceleration of a phase `t` update periods after its start. -/
def Phase.acc (t : Frac) : Phase → Frac
  | .ramp v0 v1 n shape =>
    ((v1.sub v0).mul (rampSlope shape (t.div (Frac.ofNat n)))).mul (Frac.mk' perSecond n)
  | .cruise _ _ => Frac.zero
  | .hold _ => Frac.zero
  | .blend _ a0 n =>
    let c := cosTurn ((t.div (Frac.ofNat n)).div (Frac.ofNat 4))
    a0.mul (c.mul c)
  | .emergency dir v0 a0 peak flat jerk =>
    (Frac.ofInt dir).mul (emergencyAt v0 a0 peak flat jerk (t.div (Frac.ofNat perSecond))).2

/-- The velocity at the end of a phase, where its acceleration is 0. -/
def Phase.endVel : Phase → Frac
  | .ramp _ v1 _ _ => v1
  | .cruise v _ => v
  | .hold v => v
  | .blend v0 a0 n => v0.add (halfFrac (a0.mul (Frac.mk' n perSecond)))
  | .emergency _ _ _ _ _ _ => Frac.zero

/-- Whether a phase has no length and is left out. -/
def Phase.empty (p : Phase) : Bool := decide (p.length = some 0)

/-! ## Moves (R287) -/

/-- Update periods of a ramp: |v1 − v0| / A, rounded up to whole periods (R285). -/
def rampPeriods (v0 v1 : Frac) (a : Nat) : Nat := periods ((v1.sub v0).abs.div (Frac.ofNat a))

/-- Numbers of periods a ramp between two speeds may take where the cruise speed is lowered a little from `u`: fewer where
the ramp leads up to it, more where it leads down, as it then does from a speed that is near `u` (R287). -/
def rampChoices (v u : Frac) (a : Nat) : List Nat :=
  let n := rampPeriods v u a
  if u.lt v then List.range' n 5
  else (List.range 5).map (fun i => n - i) ++ (if n < 5 then List.range' (n + 1) 5 else [])

/-- The highest cruise speed at or below `peak` for ramps of `n1` and `n2` periods: `d` in the unit of a speed over update
periods. None where it asks for more than the mean acceleration. -/
def speedFor (d vin vout peak : Frac) (a n1 n2 : Nat) : Option (Frac × Nat × Nat × Nat) :=
  let half1 := Frac.mk' n1 2
  let half2 := Frac.mk' n2 2
  let need := (d.sub (vin.mul half1)).sub (vout.mul half2)
  let cap := (peak.min (vin.add (Frac.mk' (a * n1) perSecond))).min (vout.add (Frac.mk' (a * n2) perSecond))
  if need.num ≤ 0 ∨ cap.num ≤ 0 then none
  else
    let nc := (((need.div cap).sub half1).sub half2).ceil.toNat
    let u := need.div ((half1.add half2).add (Frac.ofNat nc))
    if rampPeriods vin u a ≤ n1 ∧ rampPeriods u vout a ≤ n2 then some (u, n1, nc, n2) else none

/-- The peak speed, lowered by the least amount, with which a ramp, a cruise and a ramp of whole periods cover `d` (R287):
the speed, the periods of the first ramp, of the cruise and of the last ramp (log entry 36). -/
def solvePeak (d vin vout peak : Frac) (a : Nat) : Option (Frac × Nat × Nat × Nat) :=
  let dp := d.mul (Frac.ofNat perSecond)
  let all := (rampChoices vin peak a).flatMap (fun n1 =>
    (rampChoices vout peak a).filterMap (fun n2 => speedFor dp vin vout peak a n1 n2))
  match all with
  | [] => none
  | x :: t => some (t.foldl (fun best y => if best.1.lt y.1 then y else best) x)

/-- The peak speed of a move over `d` (R287). -/
def peakSpeed (d vin vout limit : Frac) (a : Nat) : Frac :=
  limit.min (fracSqrt ((d.mul (Frac.ofNat a)).add (halfFrac ((vin.mul vin).add (vout.mul vout)))))

/-- The phases along `dir` that a solved peak gives. -/
def peakPhases (dir : Int) (vin vout : Frac) (shape : Nat) (p : Frac × Nat × Nat × Nat) : List Phase :=
  let sg (v : Frac) : Frac := (Frac.ofInt dir).mul v
  [Phase.ramp (sg vin) (sg p.1) p.2.1 shape, Phase.cruise (sg p.1) p.2.2.1, Phase.ramp (sg p.1) (sg vout) p.2.2.2 shape].filter
    (fun p => !p.empty)

/-- The phases of a move over `d` in the direction `dir`, from speed `vin` to speed `vout` with limit `limit`, all along
`dir`. Where whole periods leave no peak speed, which takes a distance of a few periods, one cruise covers it (log entry
36). -/
def coverPhases (dir : Int) (d vin vout limit : Frac) (a shape : Nat) : List Phase :=
  match solvePeak d vin vout (peakSpeed d vin vout limit a) a with
  | some p => peakPhases dir vin vout shape p
  | none =>
    let n := Nat.max 1 (periods (d.div ((vin.max vout).max Frac.one)))
    [Phase.cruise ((Frac.ofInt dir).mul (d.mul (Frac.mk' perSecond n))) n]

def signOf (v : Frac) : Int := if v.num < 0 then -1 else 1

/-- A position, which may lie between microsteps, as it counts after the direction changes: the complement of ACC (R284)
puts it one microstep back. -/
def turnAround (dir : Int) (p : Frac) : Frac := if p.den = 1 then p else p.sub (Frac.ofInt dir)

/-- A move from rest over `d`. -/
def restPhases (d speed : Frac) (a shape : Nat) : List Phase :=
  if d.isZero then [] else coverPhases (signOf d) d.abs Frac.zero Frac.zero speed a shape

/-- A ramp to 0 and a move from there over what is then left of `d` (R287). -/
def stopPhases (d v speed : Frac) (a shape : Nat) (turn : Bool) : List Phase :=
  let n := rampPeriods v Frac.zero a
  let stop := (v.mul (Frac.mk' n (2 * perSecond)))
  let left := d.sub stop
  let left := if turn && decide (signOf left ≠ signOf v) && decide (left.den ≠ 1)
    then left.add (Frac.ofInt (signOf v)) else left
  [Phase.ramp v Frac.zero n shape] ++ restPhases left speed a shape

/-- A point-to-point move over `d` from velocity `v` at zero acceleration (R287); `turn` asks for the complement of ACC where
the direction changes. A distance ahead that no whole periods reach is made like one that lies too near. -/
def movePhases (d v speed : Frac) (a shape : Nat) (turn : Bool) : List Phase :=
  if v.isZero then restPhases d speed a shape
  else if signOf d = signOf v && !d.isZero && (halfFrac (v.mul v)).le (d.abs.mul (Frac.ofNat a)) then
    match solvePeak d.abs v.abs Frac.zero (peakSpeed d.abs v.abs Frac.zero speed a) a with
    | some p => peakPhases (signOf d) v.abs Frac.zero shape p
    | none => stopPhases d v speed a shape turn
  else stopPhases d v speed a shape turn

/-! ## Emergency ramps (R288) -/

/-- The emergency ramp from velocity `v` and acceleration `a0`. -/
def emergencyPhase (v a0 decel jerk : Frac) : Phase :=
  let dir := if v.isZero then signOf a0 else signOf v
  let v0 := v.abs
  let a := (Frac.ofInt dir).mul a0
  let holdOf (peak : Frac) : Frac :=
    let t1 := emergencyRise a peak jerk
    let v1 := v0.add ((halfFrac (a.sub peak)).mul t1)
    (v1.sub ((peak.mul peak).div (jerk.mul (Frac.ofNat 2)))).div peak
  let full := holdOf decel
  if 0 ≤ full.num then .emergency dir v0 a decel full jerk
  else
    let peak := fracSqrt ((jerk.mul v0).add (halfFrac (a.mul a)))
    .emergency dir v0 a peak Frac.zero jerk

/-! ## Blends (R286) -/

/-- The blend from velocity `v` and acceleration `a0` toward a request of mean acceleration `a`; `us` is RAMP_BLEND. -/
def blendPhase (v a0 : Frac) (a us : Nat) : Phase :=
  .blend v a0 (Nat.max 1 (periods ((a0.abs.mul (Frac.mk' us 1000000)).div (Frac.ofNat (2 * a)))))

/-! ## Carrying out a profile -/

/-- The profile one update period on, and the part it has ended, if any. -/
def Profile.advance (p : Profile) : Profile × Option PlanPart :=
  match p.parts with
  | [] => (p, none)
  | part :: rest =>
    match part.phases with
    | [] => ({ p with parts := rest, done := 0, acc := Frac.zero }, some part)
    | ph :: more =>
      let k := p.done + 1
      if (ph.length.map (fun n => decide (n ≤ k))).getD false then
        let q : Profile := { p with done := 0, vel := ph.endVel, acc := Frac.zero }
        if more = [] then ({ q with parts := rest }, some part)
        else ({ q with parts := { part with phases := more } :: rest }, none)
      else
        let t := Frac.ofNat k
        ({ p with done := k, vel := ph.vel t, acc := ph.acc t }, none)

/-- The velocity at the middle of the update period that begins now (R285). -/
def Profile.middle (p : Profile) : Frac :=
  match p.parts with
  | [] => Frac.zero
  | part :: _ =>
    match part.phases with
    | [] => Frac.zero
    | ph :: _ => ph.vel (Frac.mk' (2 * p.done + 1) 2)

/-- A profile that starts now from the velocity of another. -/
def Profile.start (p : Profile) (parts : List PlanPart) : Profile :=
  { p with parts := parts, done := 0, acc := Frac.zero }

/-- Parts that have phases, or a target to reach. -/
def livePart (p : PlanPart) : Bool := !p.phases.isEmpty || p.target.isSome

end Sys2Proof.Machine
end

