-- ==== Sys2Proof/Machine/Motion.lean ====
section
/-! DEFINITION. Axes (11_motion R283 to R284, R289, R292, R299 to R308): positions, requests, ownership, currents, retention
and gate shutdowns. -/
namespace Sys2Proof.Machine

/-! ## The axes in use -/

/-- AXIS_ENABLE in force. -/
def axisEnabled (a : Nat) (s : State) : Bool := decide (valReady (Obj.AXIS_ENABLE a) s ≠ 0)

def axisNumbers : List Nat := List.range 6

/-- The enabled axes of TRANSPORT_AXES. -/
def transportAxes (s : State) : List Nat :=
  axisNumbers.filter (fun a => bitOf (valReady Obj.TRANSPORT_AXES s) a && axisEnabled a s)

/-- MSTOP is at its level and enabled (R314). -/
def mstopActive (s : State) : Bool := s.mot.mstop && flagVal Obj.MSTOP_ENABLE s

/-- Whether the MC runs: PD03 is on and its watchdog has not expired (R316). -/
def mcRuns (s : State) : Bool := domainOn 3 s && !s.mot.mcHeld

/-- An axis moves or is about to move. -/
def Axis.moving (x : Axis) : Bool := decide (x.state = .moving) || decide (x.state = .stopping) || x.goal.isSome

def setTransport (f : Transport → Transport) (s : State) : State :=
  { s with mot := { s.mot with transport := f s.mot.transport } }

/-- Changes the list of an axis. -/
def modSeg (a : Nat) (f : SegList → SegList) (s : State) : State :=
  modAxis a (fun x => { x with seg := f x.seg }) s

/-! ## Groups that move together (R297, R310) -/

/-- The axis whose profile an axis runs on: the leading axis of its linked move, or itself. -/
def leaderOf (a : Nat) (s : State) : Nat :=
  match (axisOf a s).link with
  | some l => l.leader
  | none => a

/-- The axes that move with an axis: its linked group, the pacer's group, or itself alone. -/
def groupAxes (a : Nat) (s : State) : List Nat :=
  let x := axisOf a s
  if x.owner = .pacer && x.profile.parts.isEmpty && x.goal.isNone && x.blending.isNone then transportAxes s
  else axisNumbers.filter (fun b => decide (leaderOf b s = leaderOf a s))

/-! ## Currents and gates (R304, R306 to R308) -/

/-- Milliamperes in the unit of `current`, 0.01 mA. -/
def milli (n : Nat) : Nat := 100 * n

/-- Gates low: the axis carries no current. -/
def gatesLow (a : Nat) (s : State) : State :=
  modAxis a (fun x => { x with energised := false, current := 0, currentTarget := 0, fade := none, parkAfterFade := false,
                               loadValid := false, lastCurrents := none, stallSince := none,
                               chopA := ChopCycle.reset, chopB := ChopCycle.reset }) s

/-- The axis enters a state at rest; standstill is timed from now (R306). -/
def standStill (st : AxisState) (a : Nat) (s : State) : State :=
  modAxis a (fun x => { x with state := st, vw := 0, profile := Profile.reset, goal := none, blending := none,
                               stillSince := some s.clk, holdDelayOver := false, emergency := false, stopRamp := false,
                               currentTarget := if x.fade.isSome then x.currentTarget else x.current,
                               loadValid := false, lastCurrents := none, stallSince := none }) s

/-- Energises an axis that is OFF or PARKED (R307); from OFF the current rises toward HOLD_CURRENT (log entry 37). -/
def energiseAxis (a : Nat) (s : State) : State :=
  let x := axisOf a s
  let hold := milli (val (Obj.HOLD_CURRENT a) s)
  let base : Axis := { x with state := .holding, energised := true, stillSince := some s.clk, holdDelayOver := false,
                              currentTarget := hold }
  if x.state = .off then modAxis a (fun _ => base) s
  else if x.state = .parked then
    modAxis a (fun _ => { base with fade := some (0, hold, 100 * val (Obj.PARK_FADE a) s, 0) }) s
  else if x.parkAfterFade then
    modAxis a (fun _ =>
      { base with fade := some (x.current, hold, 100 * val (Obj.PARK_FADE a) s, 0), parkAfterFade := false, task := .none }) s
  else s

/-- Gates low at once at rest: OFF, with REFERENCED cleared (Table 11.8, NONE). -/
def axisOff (a : Nat) (s : State) : State :=
  let s := gatesLow a s
  modAxis a (fun x => { x with state := .off, vw := 0, profile := Profile.reset, goal := none, blending := none,
                               referenced := false, task := .none, emergency := false, stopRamp := false }) s

/-- The amplitude I_t of R304, in 0.01 mA. -/
def runCurrent (a : Nat) (s : State) : Nat :=
  let x := axisOf a s
  let base := milli (val (Obj.RUN_CURRENT_BASE a) s)
  let top := milli (val (Obj.RUN_CURRENT_MAX a) s)
  if !x.loadValid then base
  else
    let lo : Int := val (Obj.LOAD_ANGLE_LOW a) s
    let hi : Int := val (Obj.LOAD_ANGLE_HIGH a) s
    let share := ((Frac.mk' (x.loadAngle - lo) (hi - lo)).max Frac.zero).min Frac.one
    (Frac.add (Frac.ofNat base) ((Frac.ofInt ((top : Int) - base)).mul share)).round.toNat

/-- One update period of the current: a fade, or the slew of R304 and R306. -/
def currentStep (a : Nat) (s : State) : State :=
  let x := axisOf a s
  if !x.energised then s
  else match x.fade with
    | some (i0, i1, n, k) =>
      let k := k + 1
      if n ≤ k then
        if x.parkAfterFade then
          let s := gatesLow a s
          modAxis a (fun y => { y with state := .parked, task := .none }) s
        else modAxis a (fun y => { y with current := i1, currentTarget := i1, fade := none }) s
      else
        let i := (roundDiv ((i0 : Int) * (n - k : Nat) + (i1 : Int) * k) n).toNat
        modAxis a (fun y => { y with current := i, fade := some (i0, i1, n, k) }) s
    | none =>
      let goal :=
        if x.state = .moving ∨ x.state = .stopping then runCurrent a s
        else if x.holdDelayOver then milli (val (Obj.HOLD_CURRENT a) s)
        else x.currentTarget
      let rise := val (Obj.CURRENT_RISE a) s
      let fall := val (Obj.CURRENT_FALL a) s
      let i := if x.current < goal then Nat.min goal (x.current + rise) else Nat.max goal (x.current - fall)
      modAxis a (fun y => { y with current := i, currentTarget := goal }) s

/-- The phase current targets of R283 as 12-bit steps of I_fs: phases A and B. -/
def phaseTargets (a : Nat) (s : State) : Int × Int :=
  let x := axisOf a s
  let t := Frac.mk' (x.pos % 1024) 1024
  -- I_fs = 200 mV / SENSE_RESISTANCE in force, 4096 steps
  let unit := Frac.mk' (x.current * valReady (Obj.SENSE_RESISTANCE a) s * 4096) (100 * 200 * 1000)
  ((unit.mul (sinTurn t)).round, (unit.mul (cosTurn t)).round)

/-! ### Chopper cycles (R301) -/

/-- CHOP_OFF_TIME in ns. -/
def chopOffNs (a : Nat) (s : State) : Nat := 100 * val (Obj.CHOP_OFF_TIME a) s

/-- The on-phase ends: after the blanking at |i| ≥ |target|, or after 64 × CHOP_OFF_TIME. -/
def onPhaseEnds (a age : Nat) (goal i : Int) (s : State) : Bool :=
  (decide (val (Obj.CHOP_BLANK a) s ≤ age) && decide (goal.natAbs ≤ i.natAbs)) || decide (64 * chopOffNs a s ≤ age)

/-- The phase of a cycle 1 ns later, with the present target and phase current. A target of the other sign takes effect at the
next on-phase, one of the same sign and one of 0 at once. -/
def chopPhase (a : Nat) (target i : Int) (s : State) (c : ChopCycle) : ChopCycle :=
  let start : ChopCycle := { c with dir := target.sign, goal := target, on := true, age := 0 }
  if target = 0 then { c with dir := 0, goal := 0, on := false, age := 0 }
  else if c.dir = 0 then start
  else
    let c := { c with age := c.age + 1, goal := if target.sign = c.dir then target else c.goal }
    if c.on then (if onPhaseEnds a c.age c.goal i s then { c with on := false, age := 0 } else c)
    else if chopOffNs a s ≤ c.age then start else c

/-- The half-bridges that have their high side on: one drives the direction in force, the other the reverse for the fast decay,
and none in the slow decay. -/
def chopSides (a : Nat) (s : State) (c : ChopCycle) : Bool × Bool :=
  let fast := !c.on && decide (100 * c.age < val (Obj.CHOP_FAST_FRACTION a) s * chopOffNs a s)
  let drive := if c.on then c.dir else if fast then -c.dir else 0
  (decide (drive = 1), decide (drive = -1))

/-- One ns of a chopper cycle. -/
def chopStep (a : Nat) (target i : Int) (s : State) (c : ChopCycle) : ChopCycle :=
  let n := chopPhase a target i s c
  let high := chopSides a s n
  { n with high := high, since := (if high.1 = c.high.1 then c.since.1 + 1 else 0, if high.2 = c.high.2 then c.since.2 + 1 else 0) }

/-- The gates of a half-bridge, high and low, `since` ns after its last change of side: both low for DEAD_TIME. -/
def halfBridgeGates (a : Nat) (high : Bool) (since : Nat) (s : State) : Bool × Bool :=
  if since < valReady (Obj.DEAD_TIME a) s then (false, false) else (high, !high)

/-- The gates of an axis, high and low of each half-bridge of A and of B. -/
def axisGates (a : Nat) (s : State) : List (Bool × Bool) :=
  let x := axisOf a s
  if x.energised then [x.chopA, x.chopB].flatMap (fun c =>
    [halfBridgeGates a c.high.1 c.since.1 s, halfBridgeGates a c.high.2 c.since.2 s])
  else List.replicate 4 (false, false)

/-- One ns of the chopper cycles of an axis; its phase currents are free values (log entry 115). -/
def chopAxis (a : Nat) (s : State) : State :=
  if !(axisOf a s).energised then s
  else
    let (i, s) := takeFree 13 s
    let (j, s) := takeFree 13 s
    let t := phaseTargets a s
    modAxis a (fun x => { x with chopA := chopStep a t.1 (toSigned 13 i) s x.chopA,
                                 chopB := chopStep a t.2 (toSigned 13 j) s x.chopB }) s

/-- One ns of every chopper cycle. -/
def chopTick (s : State) : State := axisNumbers.foldl (fun s a => chopAxis a s) s

/-! ## Requests (R286, R289, R290) -/

/-- A motion request: it takes effect at the next update; an axis that is OFF or PARKED is energised first. -/
def request11 (a : Nat) (g : AxisGoal) (s : State) : State :=
  let s := energiseAxis a s
  modAxis a (fun x => { x with goal := some g, state := if x.state = .error ∨ x.state = .disabled then x.state else .moving,
                               atTarget := false, holdDelayOver := false, stillSince := none }) s

/-- The values a command of the axis moves with. -/
def moveGoal (target : Int) (a : Nat) (s : State) : AxisGoal :=
  .moveTo target (val (Obj.MOVE_SPEED a) s) (val (Obj.MOVE_ACCEL a) s) (val (Obj.RAMP_SHAPE a) s)

def runGoal (v : Int) (a : Nat) (s : State) : AxisGoal :=
  .run (Frac.ofInt v) (val (Obj.MOVE_ACCEL a) s) (val (Obj.RAMP_SHAPE a) s)

def haltGoal (a : Nat) (s : State) : AxisGoal := .halt (val (Obj.MOVE_ACCEL a) s) (val (Obj.RAMP_SHAPE a) s)

/-- An axis that follows coarse steps has the velocity of its velocity word. -/
def leaveFollow (a : Nat) (s : State) : State :=
  modAxis a (fun x =>
    if x.owner = .follow then
      let v := Frac.mk' ((if x.forward then 1 else -1) * (x.vw * 100000000 : Nat)) (2 ^ 48)
      { x with owner := .host, profile := { Profile.reset with vel := v }, followFast := 0, followEdge := none }
    else x) s

/-- A normal stop of an axis that moves (Table 11.4); a linked group stops on the leading axis's ramp and keeps its ratio.
While a park move runs its end is left to it. -/
def normalStop (a : Nat) (s : State) : State :=
  let l := leaderOf a s
  let s := leaveFollow a s
  if !(axisOf l s).moving || (axisOf l s).emergency then s
  else
    let s := modAxis l (fun x => { x with goal := some (haltGoal l s), target := none }) s
    (groupAxes a s).foldl (fun s b => modAxis b (fun x => { x with state := .stopping, stopRamp := true }) s) s

/-- The emergency ramp of an axis and of its linked group (R288, R297). -/
def emergencyStop (a : Nat) (s : State) : State :=
  let l := leaderOf a s
  let s := leaveFollow a s
  if !(axisOf l s).moving then s
  else
    let g := groupAxes a s
    let s := if (axisOf l s).emergency then s
      else modAxis l (fun x => { x with goal := some .emergency, target := none,
                                        captureNext := if x.owner = .capture then x.target else x.captureNext }) s
    g.foldl (fun s b => modAxis b (fun x => { x with state := .stopping, emergency := true, stopRamp := false }) s) s

/-! ## Words of a list (Table 11.7) -/

/-- A list runs or waits. -/
def SegList.live (l : SegList) : Bool := decide (l.state = .running) || decide (l.state = .waiting)

/-- A segment-list instruction. -/
inductive SegOp where
  | nop
  | move (absolute : Bool) (mask : Nat) (value : Int)
  | speed (v : Nat)
  | accel (shape v : Nat)
  | dwell (us : Nat)
  | wait (condition : Nat)
  | sync (mask tag : Nat)
  | loop (c target count : Nat)
  | jump (target : Nat)
  | notify (code : Nat)
  | halt
  | reserved
  deriving DecidableEq, Repr

/-- The instruction of a word. -/
def segOp (w : Nat) : SegOp :=
  match opcode64 w with
  | 0 => .nop
  | 1 => .move (bitOf w 59) (bits w 53 48) (toSigned 32 (bits w 31 0))
  | 2 => .speed (bits w 31 0)
  | 3 => .accel (bits w 40 40) (bits w 31 0)
  | 4 => .dwell (bits w 31 0)
  | 5 => .wait (bits w 35 32)
  | 6 => .sync (bits w 53 48) (bits w 7 0)
  | 7 => .loop (bits w 59 58) (bits w 55 48) (bits w 15 0)
  | 8 => .jump (bits w 7 0)
  | 9 => .notify (bits w 15 0)
  | 10 => .halt
  | _ => .reserved

/-- What stands at the word of an axis's list. -/
def standsAt (b : Nat) (s : State) : Option SegOp :=
  let l := (axisOf b s).seg
  if l.live && !l.blocked && decide ((axisOf b s).owner = .list) then (l.words[l.pc]?).map segOp else none

/-! ## Lists that end (R299) -/

/-- The mask of the linked move at the front of an axis's look-ahead; 0 where there is none. -/
def frontMask (a : Nat) (s : State) : Nat := ((axisOf a s).seg.moves.head?.map (·.mask)).getD 0

/-- The mask of a SYNC, or of a linked MOVE that is not taken in yet, at which the list of an axis stands. -/
def standMask (a : Nat) (s : State) : Nat :=
  match standsAt a s with
  | some (.sync m _) => m
  | some (.move _ m _) => m
  | _ => 0

/-- Other axes whose lists are in the linked move of an axis, or stand with it at a SYNC or a linked MOVE. -/
def listPartners (a : Nat) (s : State) : List Nat :=
  axisNumbers.filter (fun b => decide (b ≠ a) && (axisOf b s).seg.live
    && ((bitOf (frontMask a s) b && decide (frontMask b s = frontMask a s))
      || (bitOf (standMask a s) b && decide (standMask b s = standMask a s))))

/-- A list that ends with its axis, or whose axis is stopped, has the unexecuted part of its plan discarded, unless its stop
ramp already runs (R298). -/
def countStopped (x : Axis) : Axis :=
  if decide (x.owner = .list) && !x.profile.parts.isEmpty && (!(x.emergency || x.stopRamp) || x.goal.isSome)
    then { x with seg := { x.seg with replans := x.seg.replans + 1 } } else x

/-- The SYNC or the linked MOVE at which the list of an axis stands, as `barred` names it. -/
def standKey (a : Nat) (s : State) : Option (Nat × Option Nat) :=
  match standsAt a s with
  | some (.sync m t) => some (m, some t)
  | some (.move _ m _) => if m = 0 then none else some (m, none)
  | _ => none

/-- The list of an axis that ends stands at a SYNC or a linked MOVE: every other list of the mask that comes there later waits
there too (R299). -/
def barOthers (a : Nat) (s : State) : State :=
  match standKey a s with
  | none => s
  | some k => (axisNumbers.filter (fun b => decide (b ≠ a) && bitOf k.1 b && (axisOf b s).seg.live)).foldl
      (fun s b => modSeg b (fun l => { l with barred := k :: l.barred }) s) s

/-- Ends the list of an axis with a reason; every other list of the mask of its linked move or its SYNC waits from now on, or
from when it comes there, until it is stopped (R299, log entry 168). -/
def stopList (a reason : Nat) (s : State) : State :=
  if !(axisOf a s).seg.live then s
  else
    let partners := listPartners a s
    let s := barOthers a s
    let s := partners.foldl (fun s b => modSeg b (fun l =>
      { l with state := .waiting, blocked := true, moves := if frontMask b s = 0 then l.moves else [] }) s) s
    let s := modAxis a countStopped s
    let s := modAxis a (fun x => { x with owner := if x.owner = .list then .host else x.owner }) s
    modSeg a (fun l => { l with state := .stopped, stopReason := reason, moves := [], dwellUntil := none,
                                blocked := false, budget := 0 }) s

/-- A command, list or follow that runs on an axis ends for another owner: it takes the normal ramp, and a list stops with
a reason. -/
def endRun (a reason : Nat) (s : State) : State :=
  let s := normalStop a s
  let s := stopList a reason s
  modAxis a (fun x => { x with task := .none, owner := if x.owner = .capture then .capture else .host }) s

/-! ## Errors (R281, R302, R308) -/

/-- The axis enters ERROR: gates low, its profile ended, REFERENCED cleared, and the entry counted. -/
def enterError (a : Nat) (s : State) : State :=
  let s := stopList a 5 s
  let s := gatesLow a s
  let s := modAxis a (fun x =>
    { x with state := .error, vw := 0, profile := Profile.reset, goal := none, blending := none, referenced := false,
             target := none, task := .none, emergency := false, errorAtStop := false, stopRamp := false, link := none,
             owner := if x.owner = .follow then .host else x.owner, errorCount := x.errorCount + 1 }) s
  { s with mot := { s.mot with sticky := stick 5 s.mot.sticky } }

/-- A gate shutdown of one axis with a sticky bit of AXIS_STATUS. The rest of a linked group stands still: on its leading
axis's normal ramp, or at once where the leading axis itself is lost (log entry 38). -/
def gateShutdown (a bit : Nat) (s : State) : State :=
  let x := axisOf a s
  let rest := (groupAxes a s).filter (fun b => decide (b ≠ a))
  let leads := decide (leaderOf a s = a)
  let s := if x.owner = .pacer || rest = [] then s
    else if leads then
      rest.foldl (fun s b => standStill .holding b (modAxis b (fun y => { y with link := none }) s)) s
    else normalStop a s
  let s := modAxis a (fun y => { y with captureNext := if y.owner = .capture && y.target.isSome then y.target else y.captureNext }) s
  let s := enterError a s
  modAxis a (fun y => { y with sticky := stick bit y.sticky }) s

/-! ## De-energising (Table 11.8) -/

/-- The nearest position at which θ is a multiple of 256 (R306); of two as near, the one farther from zero (R475). -/
def parkPosition (pos : Int) : Int :=
  let r := pos % 256
  wrap32 (if r < 128 ∨ (r = 128 ∧ pos < 0) then pos - r else pos + (256 - r))

/-- Fades the current to 0 at the parked angle. -/
def parkFade (a : Nat) (s : State) : State :=
  modAxis a (fun x => { x with fade := some (x.current, 0, 100 * val (Obj.PARK_FADE a) s, 0), parkAfterFade := true,
                               task := .park, state := .holding }) s

/-- De-energises an axis at standstill as PARK. -/
def parkAxis (a : Nat) (s : State) : State :=
  let p := (axisOf a s).pos
  if parkPosition p = p then parkFade a s
  else
    let s := request11 a (moveGoal (parkPosition p) a s) s
    modAxis a (fun x => { x with task := .park, target := some (parkPosition p) }) s

/-- De-energises an axis at standstill as RETAIN_MODE gives (R306). -/
def deEnergiseAxis (a : Nat) (s : State) : State :=
  let x := axisOf a s
  if x.state ≠ .holding || x.parkAfterFade then s
  else if val (Obj.RETAIN_MODE a) s = 0 then axisOff a s else parkAxis a s

/-- What an axis at standstill does after a FAULT (Table 11.8): HOLD stays at HOLD_CURRENT. -/
def retainAfterFault (a : Nat) (s : State) : State :=
  if (axisOf a s).state ≠ .holding then s
  else if val (Obj.RETAIN_MODE a) s = 2 then modAxis a (fun x => { x with holdDelayOver := true }) s
  else deEnergiseAxis a s

/-! ## Capture moves (R293) -/

/-- A capture's move begins: the capture owns the axis. -/
def beginCaptureMove (a : Nat) (target : Int) (s : State) : State :=
  let s := request11 a (moveGoal target a s) s
  modAxis a (fun x => { x with owner := .capture, task := .none, captureNext := none, target := some target }) s

/-- Whether a waiting capture move may begin: nothing of higher precedence runs on the axis (Table 11.4). -/
def captureMayMove (a : Nat) (s : State) : Bool :=
  let x := axisOf a s
  axisEnabled a s && !mstopActive s && decide (s.modes.mode ≠ .fault) && !x.moving && decide (x.state ≠ .error)

/-- A capture takes the axis for a move: an axis that moves, or runs a list, first ends that (R293). -/
def captureMove (a : Nat) (target : Int) (s : State) : State :=
  let s := if (axisOf a s).owner = .capture then s else endRun a 2 s
  let s := modAxis a (fun x => { x with captureNext := some target }) s
  if captureMayMove a s then beginCaptureMove a target s else s

/-- A capture gives up the axis: its move, if one runs or waits, ends on the normal ramp (R129). -/
def captureLeave (a : Nat) (s : State) : State :=
  let own := decide ((axisOf a s).owner = .capture)
  let s := modAxis a (fun x => { x with captureNext := none }) s
  if own then modAxis a (fun x => { x with owner := .host }) (normalStop a s) else s

/-! ## Positions (R284, R292, R309) -/

/-- The accumulator over one update period of 1,000 ticks; each carry moves AXIS_POSITION one microstep. -/
def runAccumulator (x : Axis) : Axis :=
  let t := x.acc + 1000 * x.vw
  let n : Int := (t / 2 ^ 48 : Nat)
  { x with acc := t % 2 ^ 48, pos := wrap32 (if x.forward then x.pos + n else x.pos - n) }

/-- Writes VW and the direction for a velocity (R284). A change of direction while VW is not 0 first writes VW 0; ACC is
complemented at the change (log entry 40). -/
def writeVelocity (v : Frac) (x : Axis) : Axis :=
  let fwd := decide (0 ≤ v.num)
  let w := velocityWord v
  if w = 0 ∨ fwd = x.forward then { x with vw := w }
  else
    let acc := (2 ^ 48 - x.acc) % 2 ^ 48
    if x.vw = 0 then { x with vw := w, forward := fwd, acc := acc }
    else { x with vw := 0, forward := fwd, acc := acc }

/-- The position of an axis with the part of a microstep in ACC, as it counts for a motion in the direction `dir`. -/
def exactPosition (x : Axis) (dir : Int) : Frac :=
  let part := Frac.mk' x.acc (2 ^ 48)
  let own : Int := if x.forward then 1 else -1
  if dir = own || decide (x.acc = 0) then (Frac.ofInt x.pos).add ((Frac.ofInt own).mul part)
  else (Frac.ofInt x.pos).add ((Frac.ofInt dir).mul (Frac.one.sub part))

/-- The distance to a target, modulo 2³² within ±2³¹ (R283). -/
def distanceTo (x : Axis) (target : Int) : Frac :=
  let whole := wrap32 (target - x.pos)
  if whole = 0 && x.profile.vel.isZero then Frac.zero
  else
    let own : Int := if x.forward then 1 else -1
    let dir : Int := if x.profile.vel.isZero then (if whole < 0 then -1 else 1) else own
    (Frac.ofInt whole).sub ((exactPosition x dir).sub (Frac.ofInt x.pos))

/-- Shifts every position of an axis (R309 step 4). -/
def shiftPositions (d : Int) (x : Axis) : Axis :=
  { x with pos := wrap32 (x.pos + d), homeLatch := wrap32 (x.homeLatch + d), mrefLatch := wrap32 (x.mrefLatch + d) }

/-- A write of AXIS_POSITION (R292). -/
def writeAxisPosition (a v : Nat) (s : State) : WriteOut :=
  let x := axisOf a s
  if x.owner ≠ .host || x.moving then .abort abortState s
  else .ok (modAxis a (fun y => { y with pos := toSigned 32 v, referenced := true }) s)

/-- The row AXIS_POSITION_WRITE. -/
def execAxisPositionWrite (via : Path) (a : Fin 6) (v : BitVec 32) (s : State) : Host.Outcome State Fault Refusal :=
  writeCommand via (writeAxisPosition a.val v.toNat) s

/-! ## Axes at the entry to READY (R308) -/

/-- AXIS_ENABLE as it comes into force: a disabled axis is DISABLED with its gates low, an enabled one that was DISABLED
is OFF. -/
def axisReady (a : Nat) (s : State) : State :=
  let x := axisOf a s
  if axisEnabled a s then
    if x.state = .disabled then modAxis a (fun y => { y with state := .off, referenced := false }) s else s
  else modAxis a (fun y => { y with state := .disabled }) (axisOff a s)

def axesReady (s : State) : State := axisNumbers.foldl (fun s a => axisReady a s) s

end Sys2Proof.Machine
end

