-- ==== Sys2Proof/Machine/Segments.lean ====
section
/-! DEFINITION. Segment lists (11_motion R294 to R299, Table 11.7) and the update of the axes every 10 µs (R284). -/
namespace Sys2Proof.Machine

/-! ## Words of a list (Table 11.7) -/

/-- The reserved bits of a word, which the host writes as 0 (R9). -/
def segReserved (w : Nat) : Nat :=
  match segOp w with
  | .nop => bits w 59 0
  | .move _ _ _ => bits w 58 54 + bits w 47 32
  | .speed _ => bits w 59 32
  | .accel _ _ => bits w 59 41 + bits w 39 32
  | .dwell _ => bits w 59 32
  | .wait _ => bits w 59 36 + bits w 31 0
  | .sync _ _ => bits w 59 54 + bits w 47 8
  | .loop _ _ _ => bits w 57 56 + bits w 47 16
  | .jump _ => bits w 59 8
  | .notify _ => bits w 59 16
  | .halt => bits w 59 0
  | .reserved => 0

/-- A word passes R296 in the list of `n` words of axis `a`. -/
def segWordOk (a n : Nat) (s : State) (w : Nat) : Bool :=
  match segOp w with
  | .move _ mask _ =>
    decide (mask = 0) || (bitOf mask a && (setBits mask 6).all (fun b => axisEnabled b s
      && !(decide (s.modes.mode = .sheet) && bitOf (valReady Obj.TRANSPORT_AXES s) b)))
  | .speed v => decide (1 ≤ v ∧ v ≤ 5000000)
  | .accel _ v => decide (1000 ≤ v ∧ v ≤ 4000000000)
  | .wait c => decide (c ≤ 5)
  | .loop _ t k => decide (k ≠ 0) && decide (t < n)
  | .jump t => decide (t < n)
  | .reserved => false
  | _ => true

/-- The words of SEGMENT_LIST a. -/
def segWords (a : Nat) (s : State) : List Nat := words64 (bulkVal (objKey (0x4900 + a) 0) [] s)

/-- The list of an axis passes R296. -/
def segListOk (a : Nat) (s : State) : Bool :=
  let l := segWords a s
  decide (l ≠ []) && l.all (segWordOk a l.length s)

/-- Starts the list at word 0 (R294). -/
def startList (a : Nat) (s : State) : State :=
  let old := (axisOf a s).seg
  let l : SegList := { SegList.reset with
    state := .running, words := segWords a s, budget := 16, speed := val (Obj.MOVE_SPEED a) s,
    accel := val (Obj.MOVE_ACCEL a) s, shape := val (Obj.RAMP_SHAPE a) s, notifyLast := old.notifyLast,
    replans := old.replans }
  modAxis a (fun x => { x with owner := .list, seg := l, task := .none }) s

/-! ## Plans of a list (R298) -/

/-- The direction of a distance. -/
def sgn (d : Int) : Int := if d < 0 then -1 else if d = 0 then 0 else 1

/-- Whether the moves of two instructions join, from `p0` over `t1` to `t2` of this axis (R298). The direction of the
other axes of a linked move is checked where the move is taken in. -/
def joins (m1 m2 : SegMove) (p0 : Int) : Bool :=
  decide (m1.mask = m2.mask) && decide (m1.leader = m2.leader) && !m2.barrier
    && decide (sgn (wrap32 (m1.target - p0)) = sgn (wrap32 (m2.target - m1.target)))

/-- The moves at the front of the look-ahead that join. -/
def joinedRun (p0 : Int) : List SegMove → List SegMove
  | [] => []
  | [m] => [m]
  | m :: m' :: t => if joins m m' p0 then m :: joinedRun m.target (m' :: t) else [m]

/-- Speeds at which the moves of a run can still slow down: for each move the speed at its end, from the last to the
first, with the lesser of the two limits at each junction (log entry 41). -/
def endSpeeds : List (Frac × SegMove) → List Frac
  | [] => []
  | [_] => [Frac.zero]
  | (_, m) :: (d', m') :: t =>
    let later := endSpeeds ((d', m') :: t)
    let out := later.headD Frac.zero
    let reach := fracSqrt ((out.mul out).add ((d'.mul (Frac.ofNat m'.accel)).mul (Frac.ofNat 2)))
    ((Frac.ofNat (Nat.min m.speed m'.speed)).min reach) :: later

/-- The highest of `k` sixteenths of a speed that whole periods can reach at the end of a distance; the speed itself where they
reach none (log entry 41). -/
def reachable (d v e : Frac) (m : SegMove) : Nat → Frac
  | 0 => e
  | k + 1 =>
    let out := e.mul (Frac.mk' (k + 1) 16)
    if (solvePeak d v out (peakSpeed d v out (Frac.ofNat m.speed) m.accel) m.accel).isSome then out else reachable d v e m k

/-- The parts of a run, from speed `v` along `dir`. -/
def runParts (dir : Int) (v : Frac) : List (Frac × SegMove) → List Frac → List PlanPart
  | (d, m) :: t, e :: es =>
    let reach := fracSqrt ((v.mul v).add ((d.mul (Frac.ofNat m.accel)).mul (Frac.ofNat 2)))
    let out := if e.isZero then e else reachable d v (e.min reach) m 16
    let ph := if d.isZero then [] else coverPhases dir d v out (Frac.ofNat m.speed) m.accel m.shape
    ⟨ph, some m.target⟩ :: runParts dir out t es
  | _, _ => []

/-- Consecutive distances of a run of moves after the first. -/
def laterDistances : List SegMove → List (Frac × SegMove)
  | m :: m' :: t => ((Frac.ofInt (wrap32 (m'.target - m.target))).abs, m') :: laterDistances (m' :: t)
  | _ => []

/-- The plan of the moves within the look-ahead from the present position and velocity. A first move that cannot be
reached ahead is made as a move of its own (R287). -/
def planList (x : Axis) : List PlanPart :=
  match joinedRun x.pos x.seg.moves with
  | [] => []
  | m :: t =>
    let d := distanceTo x m.target
    let v := x.profile.vel
    let ahead := v.isZero || (decide (signOf d = signOf v) && (halfFrac (v.mul v)).le (d.abs.mul (Frac.ofNat m.accel)))
    if ahead then
      let l := (d.abs, m) :: laterDistances (m :: t)
      runParts (signOf d) v.abs l (endSpeeds l)
    else [⟨movePhases d v (Frac.ofNat m.speed) m.accel m.shape true, some m.target⟩]

/-! ## Starting profiles -/

/-- The mean acceleration of a request. -/
def goalAccel (x : Axis) : AxisGoal → Nat
  | .moveTo _ _ a _ => a
  | .run _ a _ => a
  | .halt a _ => a
  | .list => (x.seg.moves.head?.map (·.accel)).getD x.seg.accel
  | .travel _ _ a _ => a
  | .emergency => 1

/-- The parts of a request from the present velocity at zero acceleration. -/
def goalParts (x : Axis) : AxisGoal → List PlanPart
  | .moveTo t speed a shape => [⟨movePhases (distanceTo x t) x.profile.vel (Frac.ofNat speed) a shape true, some t⟩]
  | .run v a shape =>
    [⟨[Phase.ramp x.profile.vel v (rampPeriods x.profile.vel v a) shape].filter (fun p => !p.empty)
        ++ (if v.isZero then [] else [.hold v]), none⟩]
  | .halt a shape =>
    [⟨[Phase.ramp x.profile.vel Frac.zero (rampPeriods x.profile.vel Frac.zero a) shape].filter (fun p => !p.empty), none⟩]
  | .list => planList x
  | .travel _ _ _ _ => []
  | .emergency => []

/-- The emergency ramp of an axis with its own limits. -/
def axisEmergency (a : Nat) (x : Axis) (s : State) : List PlanPart :=
  let ph := emergencyPhase x.profile.vel x.profile.acc (Frac.ofNat (val (Obj.EMERGENCY_DECEL a) s))
    (Frac.ofNat (1000 * val (Obj.EMERGENCY_JERK a) s))
  [⟨if x.profile.vel.isZero && x.profile.acc.isZero then [] else [ph].filter (fun p => !p.empty), none⟩]

/-- A discard of the unexecuted part of a list's plan is counted (R298). -/
def countReplan (x : Axis) : Axis :=
  if x.owner = .list && !x.profile.parts.isEmpty then { x with seg := { x.seg with replans := x.seg.replans + 1 } } else x

/-- Takes up the request of an axis at an update: an emergency ramp at once, a profile where the acceleration is 0, else a
blend before it (R286, R288). -/
def takeGoal (a : Nat) (s : State) (x : Axis) : Axis :=
  match x.goal with
  | some .emergency =>
    let y := countReplan x
    { y with goal := none, blending := none, profile := y.profile.start (axisEmergency a y s) }
  | some g =>
    if x.fade.isSome then x
    else
      let y := countReplan x
      if y.profile.acc.isZero then
        { y with goal := none, blending := none, profile := y.profile.start ((goalParts y g).filter livePart) }
      else
        let b := blendPhase y.profile.vel y.profile.acc (goalAccel y g) (val (Obj.RAMP_BLEND a) s)
        { y with goal := none, blending := some g, profile := { y.profile with parts := [⟨[b], none⟩], done := 0 } }
  | none =>
    match x.blending with
    | some g =>
      if x.profile.parts.isEmpty then
        { x with blending := none, profile := x.profile.start ((goalParts x g).filter livePart) }
      else x
    | none => x

/-! ## Linked moves (R297) -/

/-- The followers of a leading axis. -/
def followersOf (a : Nat) (s : State) : List Nat :=
  axisNumbers.filter (fun b => match (axisOf b s).link with
    | some l => decide (l.leader = a)
    | none => false)

/-- A follower at the place that the leading axis's progress gives. -/
def followLeader (lead : Axis) (x : Axis) : Axis :=
  match x.link with
  | some l =>
    let run := wrap32 (lead.pos - l.leadStart)
    let vel := if l.leadDist = 0 then Frac.zero else lead.profile.vel.mul (Frac.mk' l.dist l.leadDist)
    { writeVelocity vel x with
      pos := wrap32 (l.start + (if l.leadDist = 0 then 0 else roundDiv (l.dist * run) l.leadDist)) }
  | none => x

/-- The axes of the linked move at the front of an axis's look-ahead stand ready for it. -/
def linkReady (m : SegMove) (s : State) : Bool :=
  (setBits m.mask 6).all (fun b =>
    let x := axisOf b s
    (match x.seg.moves.head? with
      | some n => decide (n.mask = m.mask ∧ n.leader = m.leader)
      | none => false)
    && x.profile.parts.isEmpty && x.profile.vel.isZero && x.goal.isNone && x.blending.isNone && x.fade.isNone
    && decide (x.owner = .list) && !x.emergency && !x.stopRamp && x.link.isNone)

/-- Ties the followers of a linked move to its leading axis from the present positions. -/
def tieFollowers (m : SegMove) (s : State) : State :=
  let lead := axisOf m.leader s
  let target (x : Axis) : Int := (x.seg.moves.head?.map (·.target)).getD x.pos
  ((setBits m.mask 6).filter (fun b => decide (b ≠ m.leader))).foldl (fun s b =>
    let x := axisOf b s
    let run : LinkRun := { leader := m.leader, start := x.pos, dist := wrap32 (target x - x.pos),
                           leadStart := lead.pos, leadDist := wrap32 (target lead - lead.pos) }
    modAxis b (fun y => { y with link := some run, state := .moving, atTarget := false, stillSince := none,
                                 holdDelayOver := false, target := some (target x) }) s) s

/-- The next move of a list starts its axis, or its group, from standstill. -/
def startNext (a : Nat) (s : State) : State :=
  let x := axisOf a s
  match x.seg.moves with
  | [] => s
  | m :: _ =>
    if x.owner ≠ .list || x.moving || x.emergency || x.stopRamp || x.link.isSome || !x.seg.live || x.seg.blocked then s
    else
      let s := energiseAxis a s
      if m.mask = 0 then
        modAxis a (fun y => { y with target := some m.target }) (request11 a .list s)
      else if m.leader = a && linkReady m ((setBits m.mask 6).foldl (fun s b => energiseAxis b s) s) then
        let s := tieFollowers m ((setBits m.mask 6).foldl (fun s b => energiseAxis b s) s)
        modAxis a (fun y => { y with target := some m.target }) (request11 a .list s)
      else (setBits m.mask 6).foldl (fun s b => energiseAxis b s) s

/-- The NOTIFY codes of a reached move: SEG_NOTIFY_LAST and a SEGMENT_NOTICE each (16 Table 16.3). -/
def sendNotices (a : Nat) (codes : List Nat) (s : State) : State :=
  codes.foldl (fun s c =>
    let s := modSeg a (fun l => { l with notifyLast := c }) s
    mpMessage 0x83 (leBytes 1 a ++ [0] ++ leBytes 2 c ++ leBytes 4 (toRaw 32 (axisOf a s).pos)) s) s

/-- The move at the front of a list has reached its target. -/
def reachFront (a : Nat) (s : State) : State :=
  match (axisOf a s).seg.moves with
  | [] => s
  | m :: t => sendNotices a m.notify (modSeg a (fun l => { l with moves := t }) s)

/-- A part of the plan of an axis has ended: an axis with a target stands exactly on it (log entry 40); the followers of a
linked move arrive with it. -/
def endPart (a : Nat) (part : PlanPart) (s : State) : State :=
  match part.target with
  | none => s
  | some t =>
    let s := modAxis a (fun x => if x.pos = t then x else { x with pos := t, acc := 0 }) s
    if (axisOf a s).owner = .list then
      let fs := followersOf a s
      let s := fs.foldl (fun s b => modAxis b (followLeader (axisOf a s)) s) s
      let s := (a :: fs).foldl (fun s b => reachFront b s) s
      -- a joined linked move goes on from here
      match (axisOf a s).seg.moves with
      | m :: _ => if fs ≠ [] ∧ (axisOf a s).profile.parts ≠ [] then tieFollowers m s else s
      | [] => s
    else s

/-! ## Standstill -/

/-- What a finished standstill leads to on one axis. -/
def afterStandstill (a : Nat) (s : State) : State :=
  let x := axisOf a s
  let wasEmergency := x.emergency
  let s := standStill .holding a (modAxis a (fun y => { y with link := none }) s)
  let s := if x.errorAtStop then enterError a s else s
  if x.errorAtStop then s
  else if s.modes.mode = .fault then
    let s := modAxis a (fun y => { y with owner := .host }) s
    if x.task = .park && !wasEmergency then parkFade a s else retainAfterFault a s
  else
    let reached := decide (x.target = some (axisOf a s).pos) && !wasEmergency && !x.stopRamp
    let s := modAxis a (fun y => { y with atTarget := reached, target := if reached then none else y.target }) s
    if x.owner = .capture then
      if reached || x.stopRamp then modAxis a (fun y => { y with owner := .host }) s else s
    else if wasEmergency then modAxis a (fun y => { y with task := .none }) s
    else match x.task with
      | .park => if reached then parkFade a s else modAxis a (fun y => { y with task := .none }) s
      | .move => modAxis a (fun y => { y with task := .none }) s
      | .home 1 t =>
        let s := modAxis a (fun y => { y with task := .home 2 t }) s
        request11 a (runGoal (sval 32 (Obj.HOME_VELOCITY a) s) a s) s
      | .home 3 _ =>
        modAxis a (fun y =>
          { shiftPositions (wrap32 (sval 32 (Obj.HOME_POSITION a) s - y.homeLatch)) y with referenced := true, task := .none }) s
      | _ => s

/-- An axis and its followers have come to rest: each takes what follows. -/
def comeToRest (a : Nat) (s : State) : State :=
  let g := a :: followersOf a s
  g.foldl (fun s b => afterStandstill b s) s

/-! ## Following (R300) -/

/-- One update period of an axis that follows its coarse input and stands to its direction: first the microsteps still
outstanding toward the previous target at 5,000,000 microsteps/s, then, where that is the same way, the rate of the last
edges toward the target, never past it (log entry 42). -/
def followRun (x : Axis) : Axis :=
  let fast : Int := clampInt (-50) 50 x.followFast
  let ticks : Nat := 1000 - 20 * fast.natAbs
  let pos1 := wrap32 (x.pos + fast)
  let left := wrap32 (x.followTarget - pos1)
  let top := 14073748835532
  if x.followFast ≠ fast ∨ (left ≠ 0 ∧ decide (0 ≤ left) ≠ x.forward) then
    { x with pos := pos1, followFast := x.followFast - fast, vw := top, state := .moving }
  else if left = 0 then { x with pos := pos1, followFast := 0, vw := 0, acc := 0 }
  else
    let vw := velocityWord x.followRate
    let t := x.acc + ticks * vw
    let n := Nat.min left.natAbs (t / 2 ^ 48)
    let arrived := decide (n = left.natAbs)
    { x with pos := wrap32 (pos1 + (if x.forward then (n : Int) else -(n : Int))), followFast := 0,
             acc := if arrived then 0 else t % 2 ^ 48, vw := if arrived then 0 else vw, state := .moving }

/-- One update period of an axis that follows. Its direction changes only at an update at which VW is 0, with the complement
of ACC: an axis that runs the other way first takes an update with VW 0 (R284). -/
def followStep (x : Axis) : Axis :=
  let want := if x.followFast ≠ 0 then x.followFast else wrap32 (x.followTarget - x.pos)
  if want = 0 then { x with vw := 0, acc := 0 }
  else if decide (0 ≤ want) = x.forward then followRun x
  else
    let y : Axis := { x with forward := !x.forward, acc := (2 ^ 48 - x.acc) % 2 ^ 48 }
    if x.vw = 0 then followRun y else { y with vw := 0, state := .moving }

/-- An axis that follows: HOLDING while it stands at the follow target. -/
def followUpdate (a : Nat) (s : State) : State :=
  if (axisOf a s).fade.isSome then s
  else
    let was := (axisOf a s).state
    let s := modAxis a followStep s
    let x := axisOf a s
    if x.vw = 0 ∧ x.pos = x.followTarget ∧ was ≠ .holding then
      modAxis a (fun y => { y with state := .holding, stillSince := some s.clk, holdDelayOver := false,
                                   currentTarget := y.current }) s
    else s

/-- A rising edge of XSTEPe with the level of XDIRe moves the follow target of an axis. -/
def followEdge (a : Nat) (dirHigh : Bool) (s : State) : State :=
  let x := axisOf a s
  let size : Int := val (Obj.EXT_STEP_SIZE a) s
  let rate := match x.followEdge with
    | some (t, d) =>
      let dt := s.clk - t
      if d = dirHigh ∧ dt ≤ 1000 * val (Obj.EXT_TIMEOUT a) s ∧ dt ≠ 0
        then (Frac.ofInt size).mul (Frac.mk' 1000000000 dt) else Frac.ofNat (val (Obj.MOVE_SPEED a) s)
    | none => Frac.ofNat (val (Obj.MOVE_SPEED a) s)
  let s := energiseAxis a s
  modAxis a (fun y => { y with followFast := wrap32 (y.followTarget - y.pos),
                               followTarget := wrap32 (y.followTarget + (if dirHigh then size else -size)),
                               followEdge := some (s.clk, dirHigh), followRate := rate, stillSince := none,
                               state := if y.state = .holding then .moving else y.state, atTarget := false }) s

/-- The row XSTEP_EDGE. -/
def execXstepEdge (e : Fin 2) (dirHigh : Bool) (s : State) : Host.Outcome State Fault Refusal :=
  if mcRuns s then
    .next ((axisNumbers.filter (fun a => decide ((axisOf a s).owner = .follow)
      && decide (val (Obj.STEP_SOURCE a) s = e.val))).foldl (fun s a => followEdge a dirHigh s) s)
  else .next s

/-! ## Instructions of a list (R295, R296) -/

/-- The instruction at the word of an axis's list, while it runs or waits and has instructions left in this period. -/
def segCurrent (a : Nat) (s : State) : Option SegOp :=
  let l := (axisOf a s).seg
  if l.live && !l.blocked && decide (0 < l.budget) && mcRuns s && decide ((axisOf a s).owner = .list)
    then (l.words[l.pc]?).map segOp else none

/-- Goes to a word. A list that runs past its last word ends as with HALT (log entry 43). -/
def segGoto (a pc : Nat) (s : State) : State :=
  modSeg a (fun l => { l with pc := pc, state := .running, budget := l.budget - 1 }) s

def segAdvance (a : Nat) (s : State) : State := segGoto a ((axisOf a s).seg.pc + 1) s

/-- The list waits at its word, which does not part two joined moves. -/
def segPause (a : Nat) (s : State) : State := modSeg a (fun l => { l with state := .waiting }) s

def segWaits (a : Nat) (s : State) : State := modSeg a (fun l => { l with state := .waiting, barrier := true }) s

/-- The axis stands still with every MOVE of its list reached. -/
def listAtRest (a : Nat) (s : State) : Bool :=
  let x := axisOf a s
  x.seg.moves.isEmpty && !x.moving && x.profile.parts.isEmpty

/-- The position the next MOVE counts from: the target of the last MOVE taken in, or the present position. -/
def listPosition (a : Nat) (s : State) : Int :=
  ((axisOf a s).seg.moves.getLast?.map (·.target)).getD (axisOf a s).pos

/-- The target of a MOVE. -/
def moveTarget (a : Nat) (absolute : Bool) (v : Int) (s : State) : Int :=
  if absolute then v else wrap32 (listPosition a s + v)

/-- Takes a MOVE into the look-ahead of its list, and plans anew (R298). -/
def takeIn (a mask leader : Nat) (target : Int) (turn : Bool) (s : State) : State :=
  let l := (axisOf a s).seg
  let m : SegMove := { target := target, mask := mask, leader := leader, speed := l.speed, accel := l.accel,
                       shape := l.shape, barrier := l.barrier || turn, notify := [] }
  let s := segAdvance a (modSeg a (fun l => { l with moves := l.moves ++ [m], barrier := false }) s)
  let x := axisOf a s
  if x.link.isNone && x.profile.parts ≠ [] && !x.emergency && !x.stopRamp
    then modAxis a (fun y => { y with goal := some .list }) s else s

/-- The list of an axis may go on from a SYNC or a linked MOVE: it has instructions left in its update period, and no list of
the mask has ended there early (R296, R299). -/
def mayPass (k : Nat × Option Nat) (b : Nat) (s : State) : Bool :=
  decide (0 < (axisOf b s).seg.budget) && !(axisOf b s).seg.barred.contains k

/-- A list comes to a SYNC or a linked MOVE at which another of the mask has ended early: it waits until it is stopped. -/
def holdBarred (k : Nat × Option Nat) (a : Nat) (s : State) : State :=
  if (axisOf a s).seg.barred.contains k then modSeg a (fun l => { l with blocked := true }) s else s

/-- MOVE with a link mask: waits until every axis of the mask stands at a MOVE with the same mask (R297). -/
def linkedMove (a mask : Nat) (s : State) : State :=
  let group := setBits mask 6
  let dist (b : Nat) : Option Int := match standsAt b s with
    | some (.move abs m v) => if m = mask ∧ (axisOf b s).seg.moves.length < 8
        then some (wrap32 (moveTarget b abs v s - listPosition b s)) else none
    | _ => none
  if group.all (fun b => (dist b).isSome && mayPass (mask, none) b s) then
    let size (b : Nat) : Nat := ((dist b).getD 0).natAbs
    let leader := group.foldl (fun best b => if size best < size b then b else best) (group.headD a)
    -- a joined linked move keeps the direction of every axis that moves
    let turns := group.any (fun b => match (axisOf b s).seg.moves.getLast? with
      | some m =>
        let before := ((axisOf b s).seg.moves.dropLast.getLast?.map (·.target)).getD (axisOf b s).pos
        decide (sgn (wrap32 (m.target - before)) * sgn ((dist b).getD 0) < 0)
      | none => false)
    group.foldl (fun s b => takeIn b mask leader (wrap32 (listPosition b s + (dist b).getD 0)) turns s) s
  else holdBarred (mask, none) a (segPause a s)

/-- The condition of WAIT. -/
def segCondition (a c : Nat) (s : State) : Bool :=
  match c with
  | 0 => (axisOf a s).mref
  | 1 => !(axisOf a s).mref
  | _ => bitOf (val Obj.SEG_HOST_FLAGS s) (c - 2)

/-- SYNC: every axis of the mask stands at a SYNC with the same mask and tag; all then continue. -/
def syncAll (a mask tag : Nat) (s : State) : State :=
  let group := setBits mask 6
  if group.all (fun b => decide (standsAt b s = some (.sync mask tag)) && listAtRest b s && mayPass (mask, some tag) b s) then
    group.foldl (fun s b => segAdvance b (modSeg b (fun l => { l with barrier := true }) s)) s
  else holdBarred (mask, some tag) a (segWaits a s)

/-- Ends the list as HALT does. -/
def segEnd (a : Nat) (s : State) : State :=
  if listAtRest a s then
    modAxis a (fun x => { x with owner := .host, seg := { x.seg with state := .halted, barrier := false } }) s
  else segWaits a s

/-- Carries out one instruction of a list. -/
def segDo (a : Nat) (op : SegOp) (s : State) : State :=
  match op with
  | .nop => segAdvance a s
  | .move abs 0 v =>
    if (axisOf a s).seg.moves.length < 8 then
      let s := takeIn a 0 a (moveTarget a abs v s) false s
      startNext a s
    else segPause a s
  | .move _ mask _ =>
    let s := linkedMove a mask s
    (setBits mask 6).foldl (fun s b => startNext b s) s
  | .speed v => segAdvance a (modSeg a (fun l => { l with speed := v }) s)
  | .accel shape v => segAdvance a (modSeg a (fun l => { l with accel := v, shape := shape }) s)
  | .dwell us =>
    if (axisOf a s).seg.dwellUntil.isSome then s
    else if listAtRest a s then
      modSeg a (fun l => { l with state := .waiting, barrier := true, dwellUntil := some (s.clk + 1000 * us) }) s
    else segWaits a s
  | .wait c => if segCondition a c s then segAdvance a (modSeg a (fun l => { l with barrier := true }) s) else segWaits a s
  | .sync mask tag => syncAll a mask tag s
  | .loop c t n =>
    let left := loopCount (axisOf a s).seg.cnt c n
    let s := modSeg a (fun l => { l with cnt := setAt l.cnt c left }) s
    if left = 0 then segAdvance a s else segGoto a t s
  | .jump t => segGoto a t s
  | .notify code =>
    let s := segAdvance a s
    match (axisOf a s).seg.moves.reverse with
    | [] => sendNotices a [code] s
    | m :: t => modSeg a (fun l => { l with moves := ({ m with notify := m.notify ++ [code] } :: t).reverse }) s
  | .halt => segEnd a s
  | .reserved => s

/-- Which instruction a row carries out. -/
def segStep (a : Nat) (is : SegOp → Bool) (s : State) : State :=
  match segCurrent a s with
  | some op => if is op then segDo a op s else s
  | none => s

/-- The row SEG_NOP. -/
def execSegNop (a : Fin 6) (s : State) : Host.Outcome State Fault Refusal :=
  .next (segStep a.val (fun o => match o with | .nop => true | _ => false) s)

/-- The row MOVE. -/
def execMove (a : Fin 6) (s : State) : Host.Outcome State Fault Refusal :=
  .next (segStep a.val (fun o => match o with | .move _ _ _ => true | _ => false) s)

/-- The row SPEED. -/
def execSpeed (a : Fin 6) (s : State) : Host.Outcome State Fault Refusal :=
  .next (segStep a.val (fun o => match o with | .speed _ => true | _ => false) s)

/-- The row ACCEL. -/
def execAccel (a : Fin 6) (s : State) : Host.Outcome State Fault Refusal :=
  .next (segStep a.val (fun o => match o with | .accel _ _ => true | _ => false) s)

/-- The row DWELL. -/
def execDwell (a : Fin 6) (s : State) : Host.Outcome State Fault Refusal :=
  .next (segStep a.val (fun o => match o with | .dwell _ => true | _ => false) s)

/-- DWELL_END: the time of a running DWELL has passed. -/
def dwellEnd (a : Nat) (s : State) : State :=
  let l := (axisOf a s).seg
  if l.dwellUntil.isSome && l.live && !l.blocked && mcRuns s
    then segAdvance a (modSeg a (fun l => { l with dwellUntil := none }) s) else s

/-- The row DWELL_END. -/
def execDwellEnd (a : Fin 6) (s : State) : Host.Outcome State Fault Refusal := .next (dwellEnd a.val s)

/-- The row SEG_WAIT. -/
def execSegWait (a : Fin 6) (s : State) : Host.Outcome State Fault Refusal :=
  .next (segStep a.val (fun o => match o with | .wait _ => true | _ => false) s)

/-- The row SYNC. -/
def execSync (a : Fin 6) (s : State) : Host.Outcome State Fault Refusal :=
  .next (segStep a.val (fun o => match o with | .sync _ _ => true | _ => false) s)

/-- The row SEG_LOOP. -/
def execSegLoop (a : Fin 6) (s : State) : Host.Outcome State Fault Refusal :=
  .next (segStep a.val (fun o => match o with | .loop _ _ _ => true | _ => false) s)

/-- The row SEG_JUMP. -/
def execSegJump (a : Fin 6) (s : State) : Host.Outcome State Fault Refusal :=
  .next (segStep a.val (fun o => match o with | .jump _ => true | _ => false) s)

/-- The row NOTIFY. -/
def execNotify (a : Fin 6) (s : State) : Host.Outcome State Fault Refusal :=
  .next (segStep a.val (fun o => match o with | .notify _ => true | _ => false) s)

/-- The row SEG_HALT. -/
def execSegHalt (a : Fin 6) (s : State) : Host.Outcome State Fault Refusal :=
  .next (segStep a.val (fun o => match o with | .halt => true | _ => false) s)

/-- A list at an update: its 16 instructions of the period are renewed, an instruction that waits is tried again, a list
past its last word ends, and the next move starts. -/
def segUpdate (a : Nat) (s : State) : State :=
  let l := (axisOf a s).seg
  if !l.live || l.blocked then s
  else
    let s := modSeg a (fun l => { l with budget := 16 }) s
    let s := if l.words.length ≤ l.pc then segEnd a s
      else if l.state = .waiting then
        match segCurrent a s with
        | some op => segDo a op s
        | none => s
      else s
    startNext a s

/-! ## The update of an axis (R284) -/

/-- One update of an axis that runs a profile of its own, with its followers. -/
def profileUpdate (a : Nat) (s : State) : State :=
  let s := modAxis a runAccumulator s
  let r := (axisOf a s).profile.advance
  let s := modAxis a (fun x => { x with profile := r.1 }) s
  let s := match r.2 with
    | some part => endPart a part s
    | none => s
  let s := (followersOf a s).foldl (fun s b => modAxis b (followLeader (axisOf a s)) s) s
  let s := modAxis a (takeGoal a s) s
  let x := axisOf a s
  let s := if x.profile.parts.isEmpty && x.goal.isNone && x.blending.isNone && (decide (x.state = .moving) || decide (x.state = .stopping))
    then
      comeToRest a s
    else s
  let s := modAxis a (fun y => writeVelocity y.profile.middle y) s
  let y := axisOf a s
  let slow := y.profile.middle.abs.lt (Frac.ofNat (val (Obj.LOAD_MIN_SPEED a) s))
  if slow then modAxis a (fun y => { y with loadValid := false, lastCurrents := none, stallSince := none }) s else s

/-- A capture's move that waits begins when nothing stands in its way. -/
def captureUpdate (a : Nat) (s : State) : State :=
  match (axisOf a s).captureNext with
  | some t => if captureMayMove a s then beginCaptureMove a t s else s
  | none => s

end Sys2Proof.Machine
end

