-- ==== Sys2Proof/Machine/Pacer.lean ====
section
/-! DEFINITION. The pacer and its transport group (11_motion R310 to R313), and the update of an axis (R284). -/
namespace Sys2Proof.Machine

/-! ## The group in path units -/

/-- TRANSPORT_ACCEL in µm/s². -/
def groupAccel (s : State) : Nat := 1000 * val Obj.TRANSPORT_ACCEL s

/-- The speed limit TRANSPORT_SPEED_NOM × GOVERNOR_SPEED_CAP / 100, in µm/s. -/
def cappedSpeed (s : State) : Frac := Frac.mk' (val Obj.TRANSPORT_SPEED_NOM s * s.pwr.gov.cap) 100

/-- RAMP_BLEND of the group: the longest of its axes (log entry 44). -/
def groupBlend (s : State) : Nat := maxNat ((transportAxes s).map (fun a => val (Obj.RAMP_BLEND a) s))

/-- The velocity of a transport axis at a path speed in µm/s: V × PATH_SCALE. -/
def axisRate (a : Nat) (v : Frac) (s : State) : Frac :=
  v.mul (Frac.mk' (sval 32 (Obj.PATH_SCALE a) s) 1000000)

/-- Path position at the end of a backup is past its target by the take-up: the largest BACKLASH of the group's axes, in
µm (log entry 45). -/
def takeUpPath (s : State) : Frac :=
  (transportAxes s).foldl (fun m a =>
    let k := sval 32 (Obj.PATH_SCALE a) s
    if k = 0 then m else m.max (Frac.mk' ((val (Obj.BACKLASH a) s : Int) * 1000000) k.natAbs)) Frac.zero

/-- The group stands and has nothing to do. -/
def groupStands (s : State) : Bool :=
  let t := s.mot.transport
  t.profile.parts.isEmpty && t.goal.isNone && t.blending.isNone && t.profile.vel.isZero

/-- Whether the pacer drives an axis: the group is the pacer's, and the axis has ended what ran on it. -/
def paced (a : Nat) (s : State) : Bool :=
  let x := axisOf a s
  s.mot.transport.owns && decide (x.owner = .pacer) && x.profile.parts.isEmpty && x.goal.isNone && x.blending.isNone

/-- The axes that the pacer takes have come to rest and carry their current (R307, R311). -/
def groupReady (s : State) : Bool := (transportAxes s).all (fun a => paced a s && (axisOf a s).fade.isNone)

/-- A request of the group takes effect at its next update. -/
def groupGoal (g : AxisGoal) (s : State) : State := setTransport (fun t => { t with goal := some g }) s

/-- The parts of a request of the group. -/
def groupParts (t : Transport) : AxisGoal → List PlanPart
  | .run v a shape =>
    [⟨[Phase.ramp t.profile.vel v (rampPeriods t.profile.vel v a) shape].filter (fun p => !p.empty)
        ++ (if v.isZero then [] else [.hold v]), none⟩]
  | .halt a shape =>
    [⟨[Phase.ramp t.profile.vel Frac.zero (rampPeriods t.profile.vel Frac.zero a) shape].filter (fun p => !p.empty), none⟩]
  | .travel d speed a shape => [⟨movePhases d t.profile.vel speed a shape false, none⟩]
  | _ => []

def groupGoalAccel : AxisGoal → Nat
  | .run _ a _ => a
  | .halt a _ => a
  | .travel _ _ a _ => a
  | _ => 1

/-- The group takes up its request. -/
def takeGroupGoal (s : State) (t : Transport) : Transport :=
  match t.goal with
  | some .emergency =>
    let ph := emergencyPhase t.profile.vel t.profile.acc (Frac.ofNat (1000 * val Obj.TRANSPORT_EMERGENCY_DECEL s))
      (Frac.ofNat (1000000 * val Obj.TRANSPORT_EMERGENCY_JERK s))
    let parts : List PlanPart := if t.profile.vel.isZero && t.profile.acc.isZero then [] else [⟨[ph], none⟩]
    { t with goal := none, blending := none, profile := t.profile.start parts }
  | some g =>
    if t.profile.acc.isZero then
      { t with goal := none, blending := none, profile := t.profile.start ((groupParts t g).filter livePart) }
    else
      let b := blendPhase t.profile.vel t.profile.acc (groupGoalAccel g) (groupBlend s)
      { t with goal := none, blending := some g, profile := { t.profile with parts := [⟨[b], none⟩], done := 0 } }
  | none =>
    match t.blending with
    | some g =>
      if t.profile.parts.isEmpty then
        { t with blending := none, profile := t.profile.start ((groupParts t g).filter livePart) }
      else t
    | none => t

/-! ## Taking and leaving the group (R311) -/

/-- The pacer takes the group: what runs on its axes ends on the normal ramp first. -/
def pacerTake (s : State) : State :=
  let s := (transportAxes s).foldl (fun s a =>
    let s := endRun a 2 s
    let s := energiseAxis a s
    modAxis a (fun x => { x with owner := .pacer }) s) s
  setTransport (fun _ => { Transport.reset with owns := true }) s

/-- The group ends at standstill outside SHEET: the owner returns to HOST. -/
def pacerLeft (s : State) : State :=
  let s := (transportAxes s).foldl (fun s a =>
    modAxis a (fun x => { x with owner := if x.owner = .pacer then .host else x.owner }) s) s
  setTransport (fun t => { t with owns := false, standstill := false, move := .none, moveWaits := false }) s

/-- The normal ramp of the group to standstill. -/
def groupHalt (s : State) : State :=
  setTransport (fun t =>
    if t.emergency then { t with targetV := Frac.zero, move := .none }
    else { t with targetV := Frac.zero, move := .none, goal := some (.halt (groupAccel s) (val Obj.TRANSPORT_RAMP_SHAPE s)) }) s

/-- A stop ends a restart's move on the group's normal ramp (R312). -/
def endGroupMove (s : State) : State :=
  if s.mot.transport.owns && decide (s.mot.transport.move ≠ .none) then groupHalt s else s

/-- The transition from SHEET to READY: the group takes its normal ramp and holds its position. -/
def pacerRelease (s : State) : State := if s.mot.transport.owns then groupHalt s else s

/-- The group takes its emergency ramp (R312); in SHEET it commands standstill from now on. -/
def groupEmergency (s : State) : State :=
  let t := s.mot.transport
  if !t.owns || t.emergency || (groupStands s) then s
  else
    let s := setTransport (fun t => { t with goal := some .emergency, emergency := true, targetV := Frac.zero, move := .none }) s
    (transportAxes s).foldl (fun s a =>
      if (axisOf a s).state = .error then s
      else modAxis a (fun x => { x with state := .stopping, emergency := true }) s) s

/-! ## Moves of a restart (R313) -/

/-- The backup over a path distance, and back past the target by the take-up, from where the forward move leads to it. -/
def groupBackup (d : Frac) (s : State) : State :=
  let g : AxisGoal := .travel (d.sub (takeUpPath s)) (cappedSpeed s) (groupAccel s) (val Obj.TRANSPORT_RAMP_SHAPE s)
  setTransport (fun t => { t with goal := some g, move := .backup, standstill := false }) s

/-- The forward move that takes up the backlash. -/
def groupTakeUp (s : State) : State :=
  let g : AxisGoal := .travel (takeUpPath s) (Frac.ofNat (val Obj.TRANSPORT_TAKEUP_SPEED s)) (groupAccel s)
    (val Obj.TRANSPORT_RAMP_SHAPE s)
  setTransport (fun t => { t with goal := some g, move := .takeup }) s

/-! ## One update of the group -/

/-- A transport axis at a path speed for one update period. -/
def paceAxis (v : Frac) (s : State) (a : Nat) : State :=
  let r := axisRate a v s
  modAxis a (fun x =>
    if x.state = .error ∨ x.state = .off ∨ x.state = .disabled ∨ x.state = .parked then { x with vw := 0 }
    else
      let y := writeVelocity r x
      if v.isZero then y
      else { y with state := if x.state = .holding then .moving else x.state, atTarget := false, stillSince := none,
                    holdDelayOver := false }) s

/-- The group has come to rest. -/
def groupRests (s : State) : State :=
  let t := s.mot.transport
  let wasEmergency := t.emergency
  let s := setTransport (fun t => { t with emergency := false }) s
  let s := (transportAxes s).foldl (fun s a =>
    let x := axisOf a s
    if x.state = .moving ∨ x.state = .stopping then
      let s := standStill .holding a s
      let s := modAxis a (fun y => { y with owner := .pacer }) s
      if x.errorAtStop then enterError a s
      else if s.modes.mode = .fault then retainAfterFault a (modAxis a (fun y => { y with owner := .host }) s) else s
    else s) s
  if s.modes.mode ≠ .sheet then pacerLeft s
  else if wasEmergency then s
  else match t.move with
    | .backup => if (takeUpPath s).isZero then setTransport (fun t => { t with move := .none }) s else groupTakeUp s
    | .takeup => setTransport (fun t => { t with move := .none }) s
    | .none => s

/-- The update of the group, on the update of its lowest axis: all axes stay in ratio. -/
def groupUpdate (s : State) : State :=
  let axes := (transportAxes s).filter (fun a => paced a s)
  let s := axes.foldl (fun s a => modAxis a (fun x => if x.state = .error then x else runAccumulator x) s) s
  let t := s.mot.transport
  let moved := t.profile.middle.mul (Frac.mk' 1 perSecond)
  let r := t.profile.advance
  let s := setTransport (fun t => { t with path := t.path.add moved, profile := r.1 }) s
  let wasMoving := !(groupStands s) || !t.profile.parts.isEmpty || t.goal.isSome
  let s := if groupReady s then setTransport (takeGroupGoal s) s else s
  let s := if wasMoving && groupStands s then groupRests s else s
  let v := s.mot.transport.profile.middle
  axes.foldl (paceAxis v) s

/-! ## AXIS_UPDATE -/

/-- One update period of an axis. -/
def axisUpdate (a : Nat) (s : State) : State :=
  if !mcRuns s then s
  else
    let s := currentStep a s
    let s := if (transportAxes s).head? = some a && s.mot.transport.owns then groupUpdate s else s
    if paced a s || (axisOf a s).link.isSome then segUpdate a s
    else if (axisOf a s).owner = .follow then followUpdate a s
    else
      let s := if (axisOf a s).moving then profileUpdate a s else s
      segUpdate a (captureUpdate a s)

/-- The transport has reached the speed that the governor's cap leaves it: a speed step takes effect (14 R372). -/
def speedReached (s : State) : State :=
  let t := s.mot.transport
  let due := t.targetV.isZero || t.targetV.eq (s.host.request.min (cappedSpeed s))
  if t.goal.isNone && t.blending.isNone && t.profile.vel.eq t.targetV && due then govEffect .speed s else s

/-- The row AXIS_UPDATE. -/
def execAxisUpdate (a : Fin 6) (s : State) : Host.Outcome State Fault Refusal := .next (speedReached (axisUpdate a.val s))

end Sys2Proof.Machine
end

