-- ==== Sys2Proof/Machine/Weir.lean ====
section
/-! DEFINITION. SHEET: the Weir, the stop and the seamless restart (10_host_stream R267 to R273). -/
namespace Sys2Proof.Machine

/-! ## The speed request (R267) -/

/-- The fill is at or above a percentage. -/
def fillAtLeast (p : Nat) (s : State) : Bool := decide (p * slotsTotal s ≤ 100 * slotsHeld s)
/-- The fill is at or below a percentage. -/
def fillAtMost (p : Nat) (s : State) : Bool := decide (100 * slotsHeld s ≤ p * slotsTotal s)

/-- V_nom in µm/s. -/
def nominalSpeed (s : State) : Frac := Frac.ofNat (val Obj.TRANSPORT_SPEED_NOM s)

/-- The rows of Table 10.6 for a fill below WEIR_HIGH: the state and the request. -/
def fillRow (s : State) : WeirState × Frac :=
  if fillAtMost (val Obj.WEIR_LOW s) s then (.fullSpeed, nominalSpeed s)
  else
    let low : Int := val Obj.WEIR_LOW s
    let high : Int := val Obj.WEIR_HIGH s
    let m := Frac.mk' (val Obj.WEIR_MIN_SPEED s) 100
    let f := Frac.mk' (100 * slotsHeld s) (slotsTotal s)
    let share := (f.sub (Frac.ofInt low)).div (Frac.ofInt (high - low))
    (.slowing, (nominalSpeed s).mul (Frac.one.sub ((Frac.one.sub m).mul share)))

/-- SPEED_REQUEST: V as a share of V_nom, in whole % (log entry 17). -/
def speedRequest (s : State) : Nat := (((s.host.request.mul (Frac.ofNat 100)).div (nominalSpeed s)).floor).toNat

/-! ## Stops (R268) -/

/-- A restart is between its begin and its end. -/
def restarting (s : State) : Bool :=
  match s.host.restart.phase with
  | .none => false
  | .formed => false
  | _ => true

/-- A stop in SHEET. From now on the pacer commands standstill. A stop while a restart runs ends its move on the normal ramp
(11 R312) and discards the speculative lines, and no line is committed until the next restart (R273). -/
def weirStop (s : State) : State :=
  if s.modes.mode ≠ .sheet ∨ (s.host.stopped ∧ s.host.restart.phase = .none) then s
  else
    let again := restarting s
    let s := if again then endGroupMove (discardLines (disarm s)) else s
    let s := { s with host := { s.host with
      stopped := true, weir := .stopping, request := Frac.zero, restart := Restart.reset,
      overrun := s.host.overrun || again } }
    setTransport (fun t => { t with standstill := true, moveWaits := false }) s

/-- The end of a stop's ramp: the lines up to standstill are committed, and capture stands. -/
def weirStopped (s : State) : State :=
  let s := if captureRuns s then s else drainLines (disarm s)
  { s with host := { s.host with weir := .stopped } }

/-- WEIR_EVALUATE: every 1 ms in SHEET. -/
def weirEvaluate (s : State) : State :=
  if s.modes.mode ≠ .sheet then s
  else if s.host.stopped && decide (s.host.restart.phase = .none) then
    let s := setTransport (fun t => { t with standstill := true }) { s with host := { s.host with request := Frac.zero } }
    if s.host.weir ≠ .stopped && groupStands s && groupReady s then weirStopped s else s
  else match s.host.restart.phase with
    | .backup => { s with host := { s.host with request := Frac.zero, weir := .restarting } }
    | .again => { s with host := { s.host with request := Frac.zero, weir := .restarting } }
    | _ =>
      if fillAtLeast (val Obj.WEIR_HIGH s) s then weirStop s
      else
        let row := fillRow s
        { s with host := { s.host with request := row.2, weir := if restarting s then .restarting else row.1 } }

/-- The row WEIR_EVALUATE. -/
def execWeirEvaluate (s : State) : Host.Outcome State Fault Refusal := .next (weirEvaluate s)

/-- HOLD becomes active: in SHEET it is a stop. -/
def holdAsserted (s : State) : State :=
  let s := holdOn s
  if holding s && domainOn 12 s then weirStop s else s

/-- The row HOLD_ASSERT. -/
def execHoldAssert (s : State) : Host.Outcome State Fault Refusal := .next (holdAsserted s)

/-- The row HOLD_RELEASE. -/
def execHoldRelease (s : State) : Host.Outcome State Fault Refusal := .next (holdOff s)

/-! ## The begin of a restart (R270) -/

/-- The restart's moves may run (11 R312, R314). -/
def groupMayMove (s : State) : Bool :=
  !mstopActive s && (transportAxes s).all (fun a => decide ((axisOf a s).state ≠ .error)) && groupReady s && groupStands s

/-- Position of the last committed line, in 1/256 count; where no line has been committed, the present position (log entry
46). -/
def stopPosition (s : State) : Int := (lastCommitted s).getD (256 * pathPosition s)

/-- The path distance to the backup target, in µm (11 R313). -/
def backupDistance (s : State) : Frac :=
  let target := (Frac.mk' (s.host.restart.pc) 256).sub
    (Frac.ofNat (val Obj.RESTART_BACKUP_LINES s * val Obj.LINE_DIVIDER s))
  (target.sub (Frac.ofInt (pathPosition s))).mul (Frac.mk' (encPitch s) 1000000)

/-- Starts the backup, or lets it wait. -/
def startBackup (s : State) : State :=
  if groupMayMove s then groupBackup (backupDistance s) (setTransport (fun t => { t with moveWaits := false }) s)
  else setTransport (fun t => { t with moveWaits := true }) s

/-- RESTART_BEGIN: a restart begins, or repeats from step 1. -/
def restartBegin (s : State) : State :=
  let r := s.host.restart
  if s.modes.mode ≠ .sheet ∨ s.modes.trans.isSome ∨ !s.host.stopped ∨ !(groupStands s) ∨ holding s ∨ captureRuns s then s
  else if r.phase = .again then
    startBackup { s with host := { s.host with restart := { r with phase := .backup, attempts := r.attempts + 1, lines := [] } } }
  else if r.phase = .none && decide (s.host.weir = .stopped) && fillAtMost (val Obj.WEIR_RESUME s) s then
    let last := s.host.overlap.head?
    let r' : Restart := { Restart.reset with
      phase := .backup, attempts := 1, pc := stopPosition s, yc := (last.map (·.y)).getD 0,
      page := (last.map (·.page)).getD s.tim.pageNumber, pageLine := (last.map (·.pageLine)).getD 0 }
    startBackup { s with host := { s.host with restart := r', weir := .restarting } }
  else s

/-- The row RESTART_BEGIN. -/
def execRestartBegin (s : State) : Host.Outcome State Fault Refusal := .next (restartBegin s)

/-- The restart record, its counts and its result (R271, R273). -/
def recordRestart (result : Nat) (offset epsilon : Int) (score : Nat) (s : State) : State :=
  let r := s.host.restart
  let s := makeItem (.restart (restartRecord result r.attempts r.page r.yc offset epsilon score)) s
  { s with host := { s.host with restarts := s.host.restarts + 1, lastResult := result, lastOffset := offset } }

/-- The restart is unmatched (R273). -/
def restartUnmatched (s : State) : State :=
  let s := recordRestart 3 0 0 0 s
  logEvent ⟨0x0805, noSource, []⟩ { s with host := { s.host with
    unmatched := s.host.unmatched + 1, sticky := stick 7 s.host.sticky,
    restart := { s.host.restart with phase := .unmatched, lines := [], epsilon := 0 } } }

/-- The overlap is 64 lines without a discontinuity, and lines are triggered by the encoder divider without averaging. -/
def matchPossible (s : State) : Bool :=
  decide (valReady Obj.TRIG_SOURCE s = 0) && decide (valRun Obj.YAVG_ENABLE s = 0) && decide (s.host.overlap.length = 64)
    && (s.host.overlap.take 63).all (fun l => !l.discontinuity)

/-- BACKUP_TARGET_REACHED: capture is armed anew, and the lines that follow are speculative (R270 steps 2 to 4). -/
def backupReached (s : State) : State :=
  if s.host.restart.phase ≠ .backup ∨ s.modes.trans.isSome ∨ s.mot.transport.moveWaits ∨ s.mot.transport.move ≠ .none ∨ !(groupStands s) then s
  else
    let s := { s with
      tim := { s.tim with armed := true, pending := none, inFlight := [], webHalt := false,
                          highest := pathPosition s, roseAt := s.clk },
      pipe := { s.pipe with stage6 := [], afterBreak := true, lastRed := none },
      host := { s.host with overrun := false, restart := { s.host.restart with phase := .speculative, lines := [] } } }
    let s := armPoint s
    if matchPossible s then s else restartUnmatched s

/-- The row BACKUP_TARGET_REACHED. -/
def execBackupTargetReached (s : State) : Host.Outcome State Fault Refusal := .next (backupReached s)

/-! ## The match (R271) -/

/-- A scale on which the mean of 1 to 16 words is whole. -/
def meanScale : Nat := 720720

/-- The means of the green output words over groups of 16 output pixels. -/
def groupMeans (l : LineSlot) : List Nat :=
  let g := l.planes.getD 1 []
  (List.range (ceilDiv g.length 16)).map (fun i =>
    let w := (g.drop (16 * i)).take 16
    sumNats w * (meanScale / w.length))

/-- The groups of a line with no marked port among their pixels. -/
def cleanGroups (l : LineSlot) (s : State) : List Bool :=
  (List.range (ceilDiv l.outPixels 16)).map (fun i =>
    (List.range 16).all (fun k => !l.invalid.getLsbD (portAtPixel ((16 * i + k) * l.xavg) s)))

/-- Where the bytes of a held speculative line are poisoned. -/
def speculativePoison (l : LineSlot) (s : State) : Option Nat :=
  (poisonedIn (regionBase rSpeculative s + l.place * slotSize s) (slotSize s) s).head?

/-- The bytes of a held speculative line have been lost (09 R226). -/
def speculativeLost (l : LineSlot) (s : State) : Bool := (speculativePoison l s).isSome

/-- The sum of the differences of two lines over their clean groups, and how many groups they are. -/
def lineScore (a b : LineSlot) (s : State) : Nat × Nat :=
  let ok := List.zipWith (· && ·) (cleanGroups a s) (cleanGroups b s)
  let d := List.zipWith (fun x y => if x ≤ y then y - x else x - y) (groupMeans a) (groupMeans b)
  (List.zip ok d).foldl (fun r x => if x.1 then (r.1 + x.2, r.2 + 1) else r) (0, 0)

/-- The overlap, oldest first. -/
def overlapLines (s : State) : List LineSlot := s.host.overlap.reverse

/-- score[s] (R271); none where no group is compared (log entry 47). -/
def scoreAt (j0 : Nat) (k : Int) (s : State) : Option Frac :=
  let parts := (List.zip (List.range 64) (overlapLines s)).map (fun x =>
    let j := (j0 : Int) + k + x.1
    if j < 0 then (0, 0)
    else match s.host.restart.lines[j.toNat]? with
      | some l => if speculativeLost l s then (0, 0) else lineScore x.2 l s
      | none => (0, 0))
  let n := sumNats (parts.map (·.2))
  if n = 0 then none else some (Frac.mk' (sumNats (parts.map (·.1))) n)

/-- The speculative line nearest to a position; of two as near, the earlier. -/
def nearestSpeculative (p : Int) (s : State) : Nat :=
  let l := (s.host.restart.lines.map (·.position)).zip (List.range s.host.restart.lines.length)
  match l with
  | [] => 0
  | x :: t => (t.foldl (fun best y => if (y.1 - p).natAbs < (best.1 - p).natAbs then y else best) x).2

/-- The contrast C of the overlap. -/
def overlapContrast (s : State) : Frac :=
  let g := (overlapLines s).flatMap groupMeans
  let n := g.length
  if n = 0 then Frac.zero
  else
    let mean := Frac.mk' (sumNats g) n
    (g.foldl (fun t x => t.add ((Frac.ofNat x).sub mean).abs) Frac.zero).div (Frac.ofNat (n * meanScale))

/-- What the match comes to: the result, u_c, and the best score. -/
structure MatchResult where
  result : Nat
  u : Frac
  j0 : Nat
  score : Frac
  deriving DecidableEq, Repr

/-- The decision of R271. -/
def decideMatch (s : State) : MatchResult :=
  let p63 := ((overlapLines s).head?.map (·.position)).getD 0
  let j0 := nearestSpeculative p63 s
  let n : Int := val Obj.RESTART_SEARCH s
  let ks := (List.range (2 * n.toNat + 1)).map (fun (i : Nat) => (i : Int) - n)
  let scored := ks.filterMap (fun k => (scoreAt j0 k s).map (fun f => (k, f)))
  let better (x y : Int × Frac) : Bool :=
    if x.2.eq y.2 then (if x.1.natAbs = y.1.natAbs then decide (x.1 < y.1) else decide (x.1.natAbs < y.1.natAbs))
    else x.2.lt y.2
  let at' (k : Int) : Frac := ((scored.find? (fun x => decide (x.1 = k))).map (·.2)).getD Frac.zero
  let j0p := ((s.host.restart.lines[j0]?).map (·.position)).getD 0
  let encoder : MatchResult :=
    { result := 2, j0 := j0, score := Frac.zero,
      u := (Frac.ofNat (j0 + 63)).add (Frac.mk' (p63 - j0p) (256 * (val Obj.LINE_DIVIDER s : Int))) }
  match scored with
  | [] => encoder
  | x :: t =>
    let best := t.foldl (fun b y => if better y b then y else b) x
    let med := medianOf (scored.map (·.2))
    let high := (Frac.mk' (val Obj.RESTART_MIN_CONTRAST s) 16).le (overlapContrast s)
    let low := best.2.le (med.mul (Frac.mk' (val Obj.RESTART_MATCH_MAX s) 100))
    if high && low then
      let f :=
        if best.1.natAbs < n.toNat then
          let l := at' (best.1 - 1)
          let r := at' (best.1 + 1)
          let d := ((l.sub (best.2.mul (Frac.ofNat 2))).add r).mul (Frac.ofNat 2)
          if d.isZero then Frac.zero
          else (((l.sub r).div d).max (Frac.mk' (-1) 2)).min (Frac.mk' 1 2)
        else Frac.zero
      { result := 1, j0 := j0, score := best.2, u := (Frac.ofInt ((j0 : Int) + 63 + best.1)).add f }
    else { encoder with score := best.2 }

/-! ## Forming lines (R272) -/

/-- Free words for the compare engine (log entry 29). -/
def freeWords : Nat → State → List Nat × State
  | 0, s => ([], s)
  | n + 1, s =>
    let (w, s) := takeFree 16 s
    let (t, s) := freeWords n s
    (w :: t, s)

/-- A line formed from four speculative lines at phase φq: `b` is its bracket line. -/
def formSpeculative (taps : List LineSlot) (b : LineSlot) (q m : Nat) (s : State) : LineSlot :=
  let r := s.host.restart
  let h := kernel q
  let used := ((h.zip taps).filter (fun x => decide (x.1 ≠ 0))).map (·.2)
  let plane (c : Nat) : List Nat :=
    let ps := taps.map (fun t => t.planes.getD c [])
    (List.range (b.planes.getD c []).length).map (fun i =>
      Nat.min (2 ^ b.bits - 1) (interpolate h (ps.map (fun w => w.getD i 0))))
  let flags := used.foldl (fun f t => Nat.lor f t.flags) 0
  let inPage := decide (b.page = r.page)
  { b with
    flags := setBit (setBit flags 3 false) 5 true, invalid := used.foldl (fun v t => v ||| t.invalid) 0,
    position := if inPage then r.pc + 256 * (val Obj.LINE_DIVIDER s : Int) * m else b.position,
    pageLine := if inPage then r.pageLine + m else b.pageLine,
    planes := (List.range 3).map plane, discontinuity := false }

/-- What a formed line hands to the compare engine and to a measurement: its registered words are free (log entry 29), and its
phases are those that it is formed at (log entry 183). -/
def takeFormed (l : LineSlot) (s : State) : State :=
  let n := if s.cmp.active || s.pipe.measure.isSome then linePixels s else 0
  let (r, s) := freeWords n s
  let (g, s) := freeWords n s
  let (b, s) := freeWords n s
  let q := s.host.restart.phiQ
  let x : RegLine := {
    id := ⟨0, some l.y⟩, page := l.page, pageStart := decide (l.pageLine = 0), pageLine := l.pageLine, leadIn := false,
    gap := false, reference := false, dropped := false, position := l.position, time := l.time,
    planes := [r, g, b], invalid := l.invalid, settling := bitOf l.flags 0, fallback := bitOf l.flags 2,
    gapFlag := false, discontinuity := false, phases := q + 256 * q }
  takeRows [x] false s

/-- A formed line is committed, and the compare engine and a measurement take it. -/
def commitSpeculative (l : LineSlot) (s : State) : State :=
  if s.host.overrun then s else commitSlot l (takeFormed l) id s

/-- The lines with floor(u_m) ≤ j_sw − 3: the count of m, from u_c's whole part. -/
def heldLines (k jsw : Nat) : Nat := jsw - 3 - k

/-- The triggers from j_sw on that precede floor(u_1) + 2, where no line is formed from held ones. -/
def triggersToSkip (k jsw : Nat) : Nat := k + 3 - jsw

/-- The taps of every line formed from held speculative lines, with the bracket line. -/
def formedTaps (k n : Nat) (s : State) : List (Nat × LineSlot × List LineSlot) :=
  let ls := s.host.restart.lines
  (List.range n).filterMap (fun i =>
    let m := i + 1
    let taps := [k + m - 1, k + m, k + m + 1, k + m + 2].filterMap (fun j => ls[j]?)
    match ls[k + m]? with
    | some b => if taps.length = 4 then some (m, b, taps) else none
    | none => none)

/-- A failed attempt (R273): capture stops and the transport ramps to standstill, or the restart is unmatched. -/
def attemptFails (s : State) : State :=
  let r := s.host.restart
  if r.attempts ≤ val Obj.RESTART_RETRIES s then
    let s := discardLines (disarm s)
    let s := { s with host := { s.host with restart := { r with phase := .again, lines := [] } } }
    setTransport (fun t => { t with standstill := true }) s
  else restartUnmatched s

/-- The decision reads the speculative lines from index `lo` to `hi`: each that is lost is an uncorrectable error and one item
lost (09 R226). -/
def readSpeculative (lo hi : Nat) (s : State) : State :=
  (((s.host.restart.lines.take (hi + 1)).drop lo).filterMap (fun l => speculativePoison l s)).foldl
    (fun s a => dataLost (eccUncorrectable a s)) s

/-- RESTART_DECISION: the match is decided once the line j0 + RESTART_SEARCH + 63 is stored. -/
def restartDecision (s : State) : State :=
  let r := s.host.restart
  if r.phase ≠ .speculative then s
  else
    let m := decideMatch s
    if r.lines.length ≤ m.j0 + val Obj.RESTART_SEARCH s + 63 then s
    else
      let k0 := m.u.floor.toNat
      let q0 := ((m.u.sub (Frac.ofInt m.u.floor)).mul (Frac.ofNat 64)).round.toNat
      let k := if q0 = 64 then k0 + 1 else k0
      let q := if q0 = 64 then 0 else q0
      let jsw := r.lines.length
      let n := heldLines k jsw
      let parts := formedTaps k n s
      let lost := parts.any (fun p => ((kernel q).zip p.2.2).any (fun x => decide (x.1 ≠ 0) && speculativeLost x.2 s))
      let search := val Obj.RESTART_SEARCH s
      let s := readSpeculative (m.j0 - search) (if n = 0 then m.j0 + search + 63 else jsw - 1) s
      if lost then attemptFails s
      else
        let eps := -(roundDiv (256 * (val Obj.LINE_DIVIDER s : Int) * (128 - q)) 64)
        let offset := ((m.u.sub (Frac.ofNat (m.j0 + 63))).mul (Frac.ofNat 64)).round
        let score := ((m.score.mul (Frac.ofNat 256)).div (Frac.ofNat meanScale)).round.toNat
        let s := recordRestart m.result offset eps score s
        let lines := parts.map (fun p => formSpeculative p.2.2 p.2.1 q p.1 s)
        let s := { s with host := { s.host with
          restart := { s.host.restart with phase := .formed, lines := [], epsilon := eps, phiQ := q, m := n + 1, skip := triggersToSkip k jsw } } }
        lines.foldl (fun s l => commitSpeculative l s) s

/-- The row RESTART_DECISION. -/
def execRestartDecision (s : State) : Host.Outcome State Fault Refusal := .next (inOneCycle restartDecision s)

/-- RESTART_ATTEMPT_FAILED: SPECULATIVE has filled before the decision. -/
def attemptFailed (s : State) : State :=
  if s.host.restart.phase = .speculative ∧ slotsIn rSpeculative s ≤ s.host.restart.lines.length then attemptFails s else s

/-- The row RESTART_ATTEMPT_FAILED. -/
def execRestartAttemptFailed (s : State) : Host.Outcome State Fault Refusal := .next (attemptFailed s)

/-- The end of SHEET ends a stop and a restart (R272, R273). -/
def weirEnd (s : State) : State :=
  { s with host := { s.host with
      weir := .fullSpeed, request := Frac.zero, stopped := false, overrun := false, restart := Restart.reset } }

/-- The entry to SHEET. -/
def weirBegin (s : State) : State :=
  let s := weirEnd s
  { s with host := { s.host with overlap := [] } }

end Sys2Proof.Machine
end

