-- ==== Sys2Proof/Machine/Capture.lean ====
section
/-! DEFINITION. Reference-strip capture (05_pixel_correction R123 to R129). -/
namespace Sys2Proof.Machine

def setCapture (f : RefCapture → RefCapture) (s : State) : State :=
  { s with pipe := { s.pipe with capture := f s.pipe.capture } }

/-- REF_AXIS, if the strip is on an axis. -/
def stripAxis (s : State) : Option Nat :=
  let a := val Obj.REF_AXIS s
  if a < 6 then some a else none

/-- The capture moves an axis to a position. -/
def moveStrip (a : Nat) (target : Int) (s : State) : State :=
  captureMove a target (setCapture (fun c => { c with move := some (a, target) }) s)

/-! ## Phases (R124) -/

/-- A phase starts: its first line opens a lamp settling window. -/
def startPhase (st : RefState) (pass : Nat) (s : State) : State :=
  setCapture (fun c => { c with state := st, pass := pass, begun := 0, used := 0 })
    { s with lamps := { s.lamps with settleNext := true } }

/-- A phase follows the one before it; a trigger that pends begins its first line. -/
def nextPhase (st : RefState) (pass : Nat) (s : State) : State :=
  let s := startPhase st pass s
  if s.tim.atLine then takePending (max s.tim.slotStart (1000 * s.now)) s else s

/-- Triggers that have arrived or are on their way are dropped. -/
def dropTriggers (s : State) : State := { s with tim := { s.tim with pending := none, inFlight := [] } }

/-- An attempt starts with its black phase of pass 1. -/
def startAttempt (n : Nat) (s : State) : State :=
  let s := setCapture (fun c => { c with attempt := n, marked := 0, phases := List.replicate 4 { lines := 0, sums := [] } }) s
  startPhase .black 1 (dropTriggers s)

/-- A capture begins (R123, R124): image capture stops, and the strip moves in. The lines before it pass on to commit as
they leave the hold; what is left of the stagger region is discarded as the capture ends. -/
def captureBegins (s : State) : State :=
  let s := abandonMeasure s
  let s := if capturing s then dropTriggers (weirStop s)
    else { s with tim := { s.tim with nextY := 0 }, dict := { s.dict with atRun := s.dict.held } }
  let s := setCapture (fun c => { c with state := .movingIn, attempt := 0, pass := 0, begun := 0, used := 0 }) s
  let s := closeReference s
  match stripAxis s with
  | some a => moveStrip a (sval 32 Obj.REF_POS_IN s) s
  | none => startAttempt 1 s

/-- A shading bank is being downloaded, over CoE SDO or over a lane (R120, R123). -/
def bankDownloading (s : State) : Bool :=
  let bank (i : Nat) : Bool := decide (i = 0x4300) || decide (i = 0x4301)
  (match s.ecat.sdo with
    | some (.down i _ _ _ _) => bank i
    | _ => false)
    || s.host.lanes.any (fun l => match l.down with
      | some x => bank x.1
      | none => false)

/-- REF_CAPTURE (R123). -/
def writeRefCapture (v : Bool) (s : State) : WriteOut :=
  if !v then .ok s
  else if !imaging s || captureBusy s || s.pipe.switchPending || bankDownloading s then .abort abortState s
  else if s.modes.mode = .ready then .ok (captureBegins s)
  else .ok (setCapture (fun c => { c with state := .waiting, since := s.tim.nextSerial }) s)

/-- The row REF_CAPTURE. -/
def execRefCapture (via : Path) (s : State) : Host.Outcome State Fault Refusal := writeCommand via (writeRefCapture true) s

/-- The row CAPTURE_BEGIN: the end of the gap line, or of the line in progress, that a waiting capture awaits. -/
def execCaptureBegin (s : State) : Host.Outcome State Fault Refusal :=
  .next (if captureDue s then captureBegins s else s)

/-! ## The end of a capture (R124 step 7, R127) -/

/-- The capture has ended with its result. -/
def endCapture (s : State) : State :=
  let c := s.pipe.capture
  let s := closeReference (commitAll s.pipe.stage6.length s)
  let failed := decide (c.result ≠ 1)
  let was := s.pipe.sticky
  let s := setCapture (fun c => { c with
    state := .idle, lastTime := s.now, fails := c.fails + b2n failed, 
    resumeAt := if s.modes.mode = .inline then some (pathPosition s) else none }) s
  let s := { s with pipe := { s.pipe with
    lastFailed := failed, sticky := if failed then stick 5 was else was, stage6 := [], afterBreak := true, lastRed := none } }
  let s := if failed then logEvent ⟨0x0400, noSource, leBytes 1 c.result⟩ s else s
  let s := dropTriggers s
  if s.modes.mode = .inline then
    armPoint { s with tim := { s.tim with highest := pathPosition s, roseAt := s.clk, webHalt := false } }
  else if s.modes.mode = .sheet then disarm s
  else s

/-- Step 6: the strip moves out, or the capture ends where no axis moves it. -/
def moveOut (s : State) : State :=
  match stripAxis s with
  | some a => moveStrip a (sval 32 Obj.REF_POS_OUT s) (setCapture (fun c => { c with state := .movingOut }) s)
  | none => endCapture s

/-- The strip axis stands at its target. -/
def stripArrived (a : Nat) (target : Int) (s : State) : Bool :=
  let x := axisOf a s
  x.captureNext.isNone && !x.moving && decide (x.owner ≠ .capture) && x.atTarget && decide (x.pos = target)

/-- CAPTURE_MOVE_DONE: the axis stands at the target that the move was given. -/
def captureMoveDone (s : State) : State :=
  match s.pipe.capture.move with
  | none => s
  | some (a, target) =>
    if !stripArrived a target s then s
    else match s.pipe.capture.state with
      | .movingIn => startAttempt 1 s
      | .movingOut => endCapture s
      | _ => s

/-- The row CAPTURE_MOVE_DONE. -/
def execCaptureMoveDone (s : State) : Host.Outcome State Fault Refusal := .next (captureMoveDone s)

/-- CAPTURE_MOVE_TIMEOUT: a move has not reached its target within REF_TIMEOUT. -/
def captureMoveTimeout (s : State) : State :=
  let failed (a : Nat) : State := endCapture (setCapture (fun c => { c with result := 4 }) (captureLeave a s))
  match s.pipe.capture.state, s.pipe.capture.move with
  | .movingIn, some (a, _) => failed a
  | .movingOut, some (a, _) => failed a
  | _, _ => s

/-- The row CAPTURE_MOVE_TIMEOUT. -/
def execCaptureMoveTimeout (s : State) : Host.Outcome State Fault Refusal := .next (captureMoveTimeout s)

/-- CAPTURE_PHASE_END: the phase has gathered its lines. -/
def capturePhaseEnd (s : State) : State :=
  let c := s.pipe.capture
  if !inPhase s || decide (c.begun < phaseTarget s) || s.tim.lineActive then s
  else match c.state, c.pass with
    | .black, p => nextPhase .white p s
    | .white, 1 => nextPhase .black 2 s
    | _, _ => setCapture (fun c => { c with state := .evaluating }) (dropTriggers s)

/-- The row CAPTURE_PHASE_END. -/
def execCapturePhaseEnd (s : State) : Host.Outcome State Fault Refusal := .next (capturePhaseEnd s)

/-! ## Evaluation (R125, R126) -/

/-- What a capture measured of one pixel and colour: Bm and S of both passes. -/
structure Measured where
  b1 : Frac
  s1 : Frac
  b2 : Frac
  s2 : Frac
  deriving DecidableEq, Repr

/-- The mean of a phase at pixel `i` of a port and colour. -/
def phaseMean (c : RefCapture) (k key i : Nat) : Frac :=
  match c.phases[k]? with
  | some p => match p.sums.find? (fun x => decide (x.1 = key)) with
    | some x => Frac.mk' (x.2.getD i 0) p.lines
    | none => Frac.zero
  | none => Frac.zero

/-- The measurement of the 816 active pixels of a port and colour (R125). -/
def capturedPixels (c : RefCapture) (p col : Nat) : List Measured :=
  (List.range 816).map (fun i =>
    let m (k : Nat) : Frac := phaseMean c k (4 * p + col) i
    { b1 := m 0, s1 := (m 1).sub (m 0), b2 := m 2, s2 := (m 3).sub (m 2) })

/-- Half the sum of both signals. -/
def Measured.signal (m : Measured) : Frac := halfFrac (m.s1.add m.s2)

/-- The defective pixels of a port and colour, with whether each is a repeat failure (R125, R126). -/
def judgePixels (l : List Measured) (s : State) : List (Nat × Bool) :=
  let share := Frac.mk' (val Obj.REF_WHITE_MIN s) 100
  let min1 := (medianOf (l.map (·.s1))).mul share
  let min2 := (medianOf (l.map (·.s2))).mul share
  let top := Frac.ofNat 4095
  let tolB := Frac.ofNat (val Obj.REF_BLACK_TOL s)
  let tolW := Frac.mk' (val Obj.REF_WHITE_TOL s) 10000
  ((List.range l.length).zip l).filterMap (fun im =>
    let m := im.2
    if m.s1.lt min1 || top.lt m.b1 || m.s2.lt min2 || top.lt m.b2 then some (im.1, false)
    else if tolB.lt (m.b1.sub m.b2).abs || (tolW.mul m.signal).lt (m.s1.sub m.s2).abs then some (im.1, true)
    else none)

/-- The verdict on an attempt for one port and colour. -/
structure Verdict where
  port : Nat
  colour : Nat
  pixels : List Measured
  defects : List (Nat × Bool)
  deriving DecidableEq, Repr

/-- The ports of an attempt that are not excluded (R125). -/
def judgedPorts (s : State) : List Nat :=
  (List.range 96).filter (fun p => portEnabled p s && !s.pipe.capture.marked.getLsbD p)

/-- The verdicts of an attempt. -/
def verdicts (s : State) : List Verdict :=
  (judgedPorts s).flatMap (fun p => (List.range 3).map (fun c =>
    let l := capturedPixels s.pipe.capture p c
    { port := p, colour := c, pixels := l, defects := judgePixels l s }))

/-- The defective pixels of an attempt: x and colour. -/
def defectPixels (vs : List Verdict) : List (Nat × Nat) :=
  vs.flatMap (fun v => v.defects.map (fun d => (816 * v.port + d.1, v.colour)))

/-- The x named, in ascending order, each once. -/
def ascendingX (l : List (Nat × Nat)) : List Nat :=
  l.foldl (fun acc d => if acc.contains d.1 then acc else
    (acc.takeWhile (fun x => decide (x < d.1))) ++ [d.1] ++ acc.dropWhile (fun x => decide (x < d.1))) []

/-- The result of an attempt (R126); sums lost from STRIP_SUMS fail it (09 Table 9.4). -/
def attemptResult (vs : List Verdict) (s : State) : Nat :=
  let weak := vs.any (fun v => (medianOf (v.pixels.map (·.signal))).lt (Frac.ofNat 4096))
  let fails (c : Nat) : Nat := sumNats ((vs.filter (fun v => decide (v.colour = c))).map
    (fun v => (v.defects.filter (·.2)).length))
  if !(poisonedIn (regionBase rSums s) (regionSize rSums s) s).isEmpty then 3
  else if weak then 3
  else if (List.range 3).any (fun c => decide (val Obj.REF_FAIL_MAX s < fails c)) then 2
  else if 1024 < (ascendingX (defectPixels vs)).length then 3
  else 1

/-- STRIP_TARGET of a colour. -/
def stripTarget (c : Nat) (s : State) : Nat :=
  match c with
  | 0 => val Obj.STRIP_TARGET_RED s
  | 1 => val Obj.STRIP_TARGET_GREEN s
  | _ => val Obj.STRIP_TARGET_BLUE s

/-- The bank entry of a pixel: B and W (R126). -/
def capturedEntry (m : Measured) (c : Nat) (defect : Bool) (s : State) : Nat :=
  let b := (clampInt 0 4095 (halfFrac (m.b1.add m.b2)).round).toNat
  let w := if defect then 16384
    else (clampInt 1 65535 ((Frac.ofNat (16384 * stripTarget c s)).div m.signal).round).toNat
  b * 65536 + w

/-- The bank that an accepted attempt writes, in the layout of Table 5.2. -/
def capturedBank (vs : List Verdict) (s : State) : List Byte :=
  let old := (bankOf s.pipe.active s).raw
  let verdict (p c : Nat) : Option Verdict := vs.find? (fun v => decide (v.port = p ∧ v.colour = c))
  let entry (p i c : Nat) : Nat := match verdict p c with
    | some v =>
      let m := v.pixels.getD i { b1 := Frac.zero, s1 := Frac.zero, b2 := Frac.zero, s2 := Frac.zero }
      capturedEntry m c (v.defects.any (fun d => decide (d.1 = i))) s
    | none => let e := bankEntry old (816 * p + i) c; e.1 * 65536 + e.2
  let entries := (List.range 96).flatMap (fun p => (List.range 816).flatMap (fun i =>
    (List.range 3).flatMap (fun c => leBytes 4 (entry p i c))))
  let reference (p c : Nat) : Nat := match verdict p c with
    | some v =>
      let good := ((List.range v.pixels.length).zip v.pixels).filter (fun im => !v.defects.any (fun d => decide (d.1 = im.1)))
      ((good.foldl (fun t im => t.add im.2.signal) Frac.zero).div (Frac.ofNat good.length)).round.toNat
    | none => stripRef old p c
  let refs := (List.range 96).flatMap (fun p => (List.range 3).flatMap (fun c => leBytes 2 (reference p c)))
  let judged := judgedPorts s
  let found := defectPixels vs
  let ownEntry (x : Nat) : Nat := x + sumNats ((List.range 3).map (fun c => if found.contains (x, c) then 2 ^ (29 + c) else 0))
  let kept := (bankDefects old).filter (fun e => !judged.contains (defectX e / 816))
  let xs := ascendingX (found ++ kept.map (fun e => (defectX e, 0)))
  let list := xs.map (fun x => match kept.find? (fun e => decide (defectX e = x)) with
    | some e => e
    | none => ownEntry x)
  entries ++ refs ++ leBytes 4 list.length ++ list.flatMap (leBytes 4)

/-- An attempt is accepted (R126): the inactive bank is written and the switch requested. -/
def acceptCapture (vs : List Verdict) (s : State) : State :=
  let raw := capturedBank vs s
  let s := modBank (1 - s.pipe.active) (fun _ => { state := 1, time := s.now, raw := some raw }) s
  let s := setCapture (fun c => { c with result := 1, count := c.count + 1 }) s
  moveOut (requestSwitch s)

/-- Sums lost with their block are lost data (09 R226). -/
def noteLostSums (s : State) : State :=
  match (poisonedIn (regionBase rSums s) (regionSize rSums s) s).head? with
  | some a => dataLost (eccUncorrectable a s)
  | none => s

/-- CAPTURE_EVALUATE: every line of the attempt has left the hold. -/
def captureEvaluate (s : State) : State :=
  let c := s.pipe.capture
  if c.state ≠ .evaluating || s.tim.lines.any (fun l => l.refPhase.isSome) then s
  else
    let vs := verdicts s
    let r := attemptResult vs s
    let s := noteLostSums s
    if r = 1 then acceptCapture vs s
    else if c.attempt ≤ val Obj.REF_RETRIES s then startAttempt (c.attempt + 1) s
    else moveOut (setCapture (fun c => { c with result := r }) s)

/-- The row CAPTURE_EVALUATE. -/
def execCaptureEvaluate (s : State) : Host.Outcome State Fault Refusal := .next (captureEvaluate s)

/-! ## Abandonment (R129) -/

/-- A capture is abandoned; its reference lines that are still on their way commit, and the gap record of those dropped
follows them, as the mode is left (R477). `fault` says that the device enters FAULT, where the axis takes its emergency ramp instead. -/
def abandonCapture (fault : Bool) (s : State) : State :=
  if !captureBusy s then s
  else
    let s := setCapture (fun c => { c with state := .idle, result := 5, lastTime := s.now, resumeAt := none, lateLine := none }) s
    let s := logEvent ⟨0x0401, noSource, []⟩ s
    match stripAxis s with
    | some a => if fault then modAxis a (fun x => { x with captureNext := none }) s
      else captureMove a (sval 32 Obj.REF_POS_OUT s) s
    | none => s

end Sys2Proof.Machine
end

