-- ==== Sys2Proof/Machine/Axis.lean ====
section
/-! DEFINITION. The axis commands (11_motion R290, R291), protection and stall (R281, R302, R303, R305), standstill (R306),
HOME (R309), the pacer (R311), MSTOP (R314), FAULT (R315) and the hardware's stop (R316). -/
namespace Sys2Proof.Machine

/-! ## Axis commands (Table 11.6) -/

/-- The codes of Table 11.6. -/
inductive AxisCommand where
  | moveAbs | moveRel | velocity | stop | home | runList | follow | energise | deEnergise | clearError
  deriving DecidableEq, Repr

def AxisCommand.ofCode : Nat → Option AxisCommand
  | 1 => some .moveAbs | 2 => some .moveRel | 3 => some .velocity | 4 => some .stop | 5 => some .home
  | 6 => some .runList | 7 => some .follow | 8 => some .energise | 9 => some .deEnergise | 10 => some .clearError
  | _ => none

/-- Whether a command asks for motion (Table 11.4). -/
def AxisCommand.motion : AxisCommand → Bool
  | .moveAbs => true | .moveRel => true | .velocity => true | .home => true | .runList => true | .follow => true
  | _ => false

/-- A command that the state of the axis refuses (R289, R291). -/
def commandRefused (a : Nat) (c : AxisCommand) (s : State) : Bool :=
  let x := axisOf a s
  let clear := decide (c = .clearError)
  !axisEnabled a s || decide (s.modes.mode = .fault)
    || (mstopActive s && !clear)
    || (decide (x.state = .error) && !clear)
    || decide (x.owner = .pacer) || decide (x.owner = .capture)
    || ((decide (x.owner = .list) || decide (x.owner = .follow)) && decide (c ≠ .stop))
    || ((decide (c = .home) || decide (c = .runList) || decide (c = .follow) || decide (c = .deEnergise)) && x.moving)
    || (x.emergency && !clear)
    || (x.stopRamp && c.motion)

/-- Replaces a running command of an axis. -/
def command11 (a : Nat) (task : AxisTask) (target : Option Int) (g : AxisGoal) (s : State) : State :=
  modAxis a (fun x => { x with task := task, target := target }) (request11 a g s)

/-- MOVE_ABS. -/
def commandMoveAbs (a : Nat) (s : State) : State :=
  let t := sval 32 (Obj.AXIS_TARGET a) s
  command11 a .move (some t) (moveGoal t a s) s

/-- MOVE_REL: from the target of the running move, or from AXIS_POSITION. -/
def commandMoveRel (a : Nat) (s : State) : State :=
  let x := axisOf a s
  let base := if x.moving then x.target.getD x.pos else x.pos
  let t := wrap32 (base + sval 32 (Obj.AXIS_TARGET a) s)
  command11 a .move (some t) (moveGoal t a s) s

/-- VELOCITY. -/
def commandVelocity (a : Nat) (s : State) : State :=
  command11 a .velocity none (runGoal (sval 32 (Obj.JOG_VELOCITY a) s) a s) s

/-- A write of JOG_VELOCITY while VELOCITY runs is a new request. -/
def jogWritten (a : Nat) (s : State) : State :=
  let x := axisOf a s
  if x.task = .velocity && decide (x.owner = .host) && !x.stopRamp && !x.emergency then commandVelocity a s else s

/-- STOP. -/
def commandStop (a : Nat) (s : State) : State := endRun a 1 s

/-- HOME (R309): away from the switch first where it is active. -/
def commandHome (a : Nat) (s : State) : State :=
  let v := sval 32 (Obj.HOME_VELOCITY a) s
  if (axisOf a s).mref then command11 a (.home 1 s.clk) none (runGoal (-v) a s) s
  else command11 a (.home 2 s.clk) none (runGoal v a s) s

/-- FOLLOW: the follow target is the present position. -/
def commandFollow (a : Nat) (s : State) : State :=
  modAxis a (fun x => { x with owner := .follow, task := .none, followTarget := x.pos, followEdge := none,
                               followRate := Frac.zero, followFast := 0 }) (energiseAxis a s)

/-- CLEAR_ERROR. -/
def commandClearError (a : Nat) (s : State) : State :=
  modAxis a (fun x => { x with sticky := 0, state := if x.state = .error then .off else x.state }) s

/-- A write of AXIS_COMMAND (R290, R291, R296). A code outside Table 11.6 gives way to the refusals by the state, which
for such a code are those of ENERGISE (R328). -/
def writeAxisCommand (a : Nat) (code : Nat) (s : State) : WriteOut :=
  match AxisCommand.ofCode code with
  | none => .abort (if commandRefused a .energise s then abortState else abortRange) s
  | some c =>
    if commandRefused a c s then .abort abortState s
    else match c with
      | .moveAbs => .ok (commandMoveAbs a s)
      | .moveRel => .ok (commandMoveRel a s)
      | .velocity => .ok (commandVelocity a s)
      | .stop => .ok (commandStop a s)
      | .home => .ok (commandHome a s)
      | .runList => if segListOk a s then .ok (startList a s) else .abort abortContent s
      | .follow => .ok (commandFollow a s)
      | .energise => .ok (energiseAxis a s)
      | .deEnergise => .ok (deEnergiseAxis a s)
      | .clearError => .ok (commandClearError a s)

/-- The row MOVE_ABS. -/
def execMoveAbs (via : Path) (a : Fin 6) (s : State) : Host.Outcome State Fault Refusal :=
  writeCommand via (writeAxisCommand a.val 1) s

/-- The row MOVE_REL. -/
def execMoveRel (via : Path) (a : Fin 6) (s : State) : Host.Outcome State Fault Refusal :=
  writeCommand via (writeAxisCommand a.val 2) s

/-- The row VELOCITY. -/
def execVelocity (via : Path) (a : Fin 6) (s : State) : Host.Outcome State Fault Refusal :=
  writeCommand via (writeAxisCommand a.val 3) s

/-- The row STOP. -/
def execStop (via : Path) (a : Fin 6) (s : State) : Host.Outcome State Fault Refusal :=
  writeCommand via (writeAxisCommand a.val 4) s

/-- The row HOME. -/
def execHome (via : Path) (a : Fin 6) (s : State) : Host.Outcome State Fault Refusal :=
  writeCommand via (writeAxisCommand a.val 5) s

/-- The row RUN_LIST. -/
def execRunList (via : Path) (a : Fin 6) (s : State) : Host.Outcome State Fault Refusal :=
  writeCommand via (writeAxisCommand a.val 6) s

/-- The row FOLLOW. -/
def execFollow (via : Path) (a : Fin 6) (s : State) : Host.Outcome State Fault Refusal :=
  writeCommand via (writeAxisCommand a.val 7) s

/-- The row ENERGISE. -/
def execEnergise (via : Path) (a : Fin 6) (s : State) : Host.Outcome State Fault Refusal :=
  writeCommand via (writeAxisCommand a.val 8) s

/-- The row DE_ENERGISE. -/
def execDeEnergise (via : Path) (a : Fin 6) (s : State) : Host.Outcome State Fault Refusal :=
  writeCommand via (writeAxisCommand a.val 9) s

/-- The row CLEAR_ERROR. -/
def execClearError (via : Path) (a : Fin 6) (s : State) : Host.Outcome State Fault Refusal :=
  writeCommand via (writeAxisCommand a.val 10) s

/-! ## Protection (R281, R302) -/

/-- VDS_OVERCURRENT. -/
def vdsOvercurrent (a : Nat) (s : State) : State :=
  if domainOn 3 s && (axisOf a s).energised then logEvent ⟨0x0900, a, []⟩ (gateShutdown a 9 s) else s

/-- The row VDS_OVERCURRENT. -/
def execVdsOvercurrent (a : Fin 6) (s : State) : Host.Outcome State Fault Refusal := .next (vdsOvercurrent a.val s)

/-- GATE_UNDERVOLTAGE: VGD falls below 7.5 V, and every enabled axis enters ERROR. -/
def gateUndervoltage (s : State) : State :=
  if !domainOn 3 s || s.mot.gateUv then s
  else
    let s := (axisNumbers.filter (fun a => axisEnabled a s)).foldl (fun s a => gateShutdown a 11 s) s
    logEvent ⟨0x0901, noSource, []⟩ { s with mot := { s.mot with gateUv := true } }

/-- The row GATE_UNDERVOLTAGE. -/
def execGateUndervoltage (s : State) : Host.Outcome State Fault Refusal := .next (gateUndervoltage s)

/-- The speed of an axis. -/
def axisSpeed (a : Nat) (s : State) : Frac := Frac.mk' ((axisOf a s).vw * 100000000) (2 ^ 48)

/-- OPEN_COIL: below LOAD_MIN_SPEED, with a bridge target of at least 25 % of RUN_CURRENT_BASE. -/
def openCoil (a : Nat) (s : State) : State :=
  let x := axisOf a s
  let t := phaseTargets a s
  -- a target in steps of I_fs / 4096, I_fs = 200,000 / SENSE_RESISTANCE mA
  let enough (v : Int) : Bool :=
    decide (val (Obj.RUN_CURRENT_BASE a) s * valReady (Obj.SENSE_RESISTANCE a) s * 4096 ≤ 4 * v.natAbs * 200000)
  if domainOn 3 s && x.energised && (axisSpeed a s).lt (Frac.ofNat (val (Obj.LOAD_MIN_SPEED a) s))
      && (enough t.1 || enough t.2) then
    logEvent ⟨0x0902, a, []⟩ (gateShutdown a 10 s)
  else s

/-- The row OPEN_COIL. -/
def execOpenCoil (a : Fin 6) (s : State) : Host.Outcome State Fault Refusal := .next (openCoil a.val s)

/-! ## Load and stall (R303, R305) -/

/-- The bits of an angle in half steps of 0.1° that lie at or below atan(y/x), x > 0 and y ≥ 0, by bits from `k` down. -/
def angleSearch (x y : Int) : Nat → Nat → Nat
  | 0, r => r
  | k + 1, r =>
    let t := r + 2 ^ k
    -- the angle t tenths less half a tenth
    let h := Frac.mk' (2 * t - 1) 7200
    let ok := decide (t ≤ 900) && (((Frac.ofInt x).mul (sinTurn h)).le ((Frac.ofInt y).mul (cosTurn h)))
    angleSearch x y k (if ok then t else r)

/-- The angle of a vector in 0.1°, −1800 to 1800, from the x axis. -/
def angleOf (x y : Int) : Int :=
  let q : Int := angleSearch (x.natAbs : Int) (y.natAbs : Int) 10 0
  let q := if x = 0 then 900 else q
  if 0 ≤ x then (if 0 ≤ y then q else -q) else (if 0 ≤ y then 1800 - q else q - 1800)

/-- Wraps an angle to −180° to +180°. -/
def wrapAngle (v : Int) : Int :=
  let r := (v + 1800) % 3600
  if r = 0 ∧ 0 < v then 1800 else r - 1800

/-- The back-EMF of a phase in µV: u in mV, i and its change in mA, over 100 µs (R303). -/
def backEmf (a : Nat) (u i di : Int) (s : State) : Int :=
  1000 * u - val (Obj.COIL_RESISTANCE a) s * i - 10 * val (Obj.COIL_INDUCTANCE a) s * di

/-- LOAD_ESTIMATE: δ from the mean voltages and currents of the last 100 µs; the first period of a run has no change of
current to take and only notes the currents (log entry 51). -/
def loadEstimate (a : Nat) (uA uB iA iB : Int) (s : State) : State :=
  let x := axisOf a s
  let runs := decide (x.state = .moving ∨ x.state = .stopping)
    && (Frac.ofNat (val (Obj.LOAD_MIN_SPEED a) s)).le (axisSpeed a s)
  if !mcRuns s then s
  else if !runs then modAxis a (fun y => { y with loadValid := false, lastCurrents := none, stallSince := none }) s
  else match x.lastCurrents with
    | none => modAxis a (fun y => { y with lastCurrents := some (iA, iB) }) s
    | some (jA, jB) =>
      let eA := backEmf a uA iA (iA - jA) s
      let eB := backEmf a uB iB (iB - jB) s
      let sg : Int := if x.forward then 1 else -1
      -- i_A is the sine part and i_B the cosine part (R283)
      let none0 := decide (iA = 0 ∧ iB = 0) || decide (eA = 0 ∧ eB = 0)
      let dot := iB * eB + iA * eA
      let cross := iA * eB - iB * eA
      let (free, s') := takeFree 16 s
      let (delta, s) := if none0 then (wrapAngle ((free : Int) % 3600), s')
        else (wrapAngle (900 + sg * angleOf dot cross), s)
      let high := decide ((val (Obj.STALL_ANGLE a) s : Int) ≤ delta)
      modAxis a (fun y => { y with loadAngle := delta, loadValid := true, lastCurrents := some (iA, iB),
                                   stallSince := if high then some (y.stallSince.getD s.clk) else none }) s

/-- The row LOAD_ESTIMATE. -/
def execLoadEstimate (a : Fin 6) (uA uB iA iB : Int) (s : State) : Host.Outcome State Fault Refusal :=
  .next (loadEstimate a.val uA uB iA iB s)

/-- An emergency ramp of one axis with its group; in SHEET that of the pacer's group is a stop of the Weir (R312). -/
def emergencyOf (a : Nat) (s : State) : State :=
  if (axisOf a s).owner = .pacer && paced a s then (if groupStands s then s else groupEmergency (weirStop s))
  else emergencyStop a s

/-- Every enabled axis that moves takes its emergency ramp; a group takes its group ramp. -/
def emergencyAll (s : State) : State :=
  (axisNumbers.filter (fun a => axisEnabled a s)).foldl (fun s a => emergencyOf a s) s

/-- STALL: δ has been at or above STALL_ANGLE for STALL_TIME (R305). -/
def stallAxis (a : Nat) (s : State) : State :=
  let x := axisOf a s
  if x.stallSince.isNone || !mcRuns s then s
  else
    let s := modAxis a (fun y => { y with sticky := stick 8 y.sticky, referenced := false, stallCount := y.stallCount + 1,
                                          stallSince := none }) s
    let s := logEvent ⟨0x0903, a, []⟩ s
    match val (Obj.STALL_ACTION a) s with
    | 0 => s
    | 1 =>
      let group := groupAxes a s
      let s := emergencyOf a s
      group.foldl (fun s b => if (axisOf b s).emergency then modAxis b (fun y => { y with errorAtStop := true }) s else s) s
    | _ =>
      let s := emergencyAll s
      if (axisOf a s).emergency then modAxis a (fun y => { y with errorAtStop := true }) s else s

/-- The row STALL. -/
def execStall (a : Fin 6) (s : State) : Host.Outcome State Fault Refusal := .next (stallAxis a.val s)

/-! ## Standstill (R306) -/

/-- HOLD_DELAY after standstill has passed. -/
def holdDelayExpires (a : Nat) (s : State) : State :=
  let x := axisOf a s
  if mcRuns s && decide (x.state = .holding) && x.fade.isNone then modAxis a (fun y => { y with holdDelayOver := true }) s else s

/-- The row HOLD_DELAY_EXPIRE. -/
def execHoldDelayExpire (a : Fin 6) (s : State) : Host.Outcome State Fault Refusal := .next (holdDelayExpires a.val s)

/-- STANDSTILL_OFF has passed: the axis de-energises unless the pacer owns it, RETAIN_MODE is HOLD, or MSTOP is active and
keeps it energised (R314). -/
def standstillOff (a : Nat) (s : State) : State :=
  let x := axisOf a s
  if mcRuns s && decide (x.state = .holding) && decide (val (Obj.STANDSTILL_OFF a) s ≠ 0) && decide (x.owner ≠ .pacer)
      && decide (val (Obj.RETAIN_MODE a) s ≠ 2) && !mstopActive s then deEnergiseAxis a s else s

/-- The row STANDSTILL_OFF_EXPIRE. -/
def execStandstillOffExpire (a : Fin 6) (s : State) : Host.Outcome State Fault Refusal := .next (standstillOff a.val s)

/-! ## HOME (R309) -/

/-- MREF_EDGE: the level, the latch, and the next step of HOME; an emergency ramp goes on to standstill (R288, R289). -/
def mrefEdge (a : Nat) (active : Bool) (s : State) : State :=
  if !domainOn 3 s then s
  else
    let s := modAxis a (fun x => { x with mref := active, mrefLatch := x.pos }) s
    let x := axisOf a s
    if !mcRuns s || x.emergency then s
    else
      match x.task, active with
      | .home 1 _, false => modAxis a (fun y => { y with goal := some (haltGoal a s) }) s
      | .home 2 t, true =>
        modAxis a (fun y => { y with goal := some (haltGoal a s), homeLatch := y.pos, task := .home 3 t }) s
      | _, _ => s

/-- The row MREF_EDGE. -/
def execMrefEdge (a : Fin 6) (active : Bool) (s : State) : Host.Outcome State Fault Refusal := .next (mrefEdge a.val active s)

/-- HOME_TIMEOUT. -/
def homeTimeout (a : Nat) (s : State) : State :=
  match (axisOf a s).task with
  | .home _ _ =>
    if !mcRuns s then s
    else
      let s := normalStop a s
      let s := modAxis a (fun x => { x with task := .none, sticky := stick 12 x.sticky }) s
      logEvent ⟨0x0904, a, []⟩ s
  | _ => s

/-- The row HOME_TIMEOUT. -/
def execHomeTimeout (a : Fin 6) (s : State) : Host.Outcome State Fault Refusal := .next (homeTimeout a.val s)

/-! ## The pacer (R311, R312) -/

/-- PACER_UPDATE: every 1 ms in SHEET, until the group's ramp out of it begins, the pacer applies the speed request; a restart's move that waits begins as soon as
nothing stands in its way. -/
def pacerUpdate (s : State) : State :=
  let t := s.mot.transport
  if !t.owns || decide (s.modes.mode ≠ .sheet) || s.modes.trans.isSome || t.emergency || !mcRuns s then s
  else if t.moveWaits then startBackup s
  else if t.move ≠ .none || decide (s.host.restart.phase = .backup) then s
  else
    let free := !standstillCommanded s && groupReady s && !mstopActive s
    let v := if free then s.host.request.min (cappedSpeed s) else Frac.zero
    if v.eq t.targetV then s
    else
      let shape := val Obj.TRANSPORT_RAMP_SHAPE s
      let g : AxisGoal := if v.isZero then .halt (groupAccel s) shape else .run v (groupAccel s) shape
      setTransport (fun t => { t with targetV := v, goal := some g }) s

/-- The row PACER_UPDATE. -/
def execPacerUpdate (s : State) : Host.Outcome State Fault Refusal := .next (pacerUpdate s)

/-- TRANSPORT_SPEED_ACTUAL, in µm/s. -/
def transportSpeed (s : State) : Int := if s.mot.transport.owns then s.mot.transport.profile.vel.round else 0

/-! ## MSTOP (R314) -/

/-- Lists stop with a reason and following ends. -/
def endLists (reason : Nat) (s : State) : State :=
  axisNumbers.foldl (fun s a =>
    let s := stopList a reason s
    if (axisOf a s).owner = .follow then leaveFollow a s else s) s

/-- What an active MSTOP does to motion. -/
def mstopEffect (s : State) : State :=
  let s := emergencyAll s
  let s := endLists 3 s
  axisNumbers.foldl (fun s a => modAxis a (fun x => { x with task := .none }) s) s

/-- MSTOP reaches its active level. -/
def mstopAssert (s : State) : State :=
  if !domainOn 3 s || s.mot.mstop then s
  else
    let s := { s with mot := { s.mot with mstop := true } }
    if mstopActive s then
      let s := logEvent ⟨0x0905, noSource, []⟩ { s with mot := { s.mot with sticky := stick 4 s.mot.sticky } }
      if mcRuns s then mstopEffect s else s
    else s

/-- The row MSTOP_ASSERT. -/
def execMstopAssert (s : State) : Host.Outcome State Fault Refusal := .next (mstopAssert s)

/-- MSTOP is released: a capture's move that waits and the pacer's restart proceed. -/
def mstopRelease (s : State) : State :=
  if !domainOn 3 s then s
  else
    let s := { s with mot := { s.mot with mstop := false } }
    if mcRuns s then axisNumbers.foldl (fun s a => captureUpdate a s) s else s

/-- The row MSTOP_RELEASE. -/
def execMstopRelease (s : State) : Host.Outcome State Fault Refusal := .next (mstopRelease s)

/-! ## FAULT (R315) and the hardware's stop (R316) -/

/-- The entry to FAULT, where the MC runs. -/
def motionFault (s : State) : State :=
  if s.mot.mcHeld then s
  else
    let s := axisNumbers.foldl (fun s a => modAxis a (fun x => { x with captureNext := none }) s) s
    let s := (axisNumbers.filter (fun a => axisEnabled a s)).foldl (fun s a =>
      if (axisOf a s).owner = .pacer && paced a s then groupEmergency s else emergencyStop a s) s
    let s := endLists 4 s
    let s := if s.mot.transport.owns && groupStands s then pacerLeft s else s
    axisNumbers.foldl (fun s a =>
      let s := modAxis a (fun x => { x with task := if x.task = .park && !x.emergency then .park else .none,
                                            captureNext := none }) s
      if axisEnabled a s && !(axisOf a s).moving && !(axisOf a s).parkAfterFade then
        modAxis a (fun x => { x with owner := .host }) (retainAfterFault a s)
      else s) s

/-- One axis as the hardware leaves it when the MC watchdog expires (R316). -/
def hardwareStop (a : Nat) (s : State) : State :=
  let x := axisOf a s
  let moved := decide (x.state = .moving) || decide (x.state = .stopping)
  let calm : Axis := { x with vw := 0, profile := Profile.reset, goal := none, blending := none, target := none,
                              task := .none, emergency := false, errorAtStop := false, stopRamp := false,
                              captureNext := none, link := none, fade := none, parkAfterFade := false,
                              loadValid := false, lastCurrents := none, stallSince := none,
                              referenced := x.referenced && !moved }
  let hold := milli (val (Obj.HOLD_CURRENT a) s)
  if !x.energised then modAxis a (fun _ => { calm with fade := none }) s
  else if val (Obj.RETAIN_MODE a) s = 2 then
    modAxis a (fun _ => { calm with state := .holding, current := hold, currentTarget := hold, holdDelayOver := true,
                                    stillSince := some s.clk }) s
  else
    let s := gatesLow a (modAxis a (fun _ => calm) s)
    if moved then
      let s := modAxis a (fun y => { y with state := .error, referenced := false, errorCount := y.errorCount + 1 }) s
      { s with mot := { s.mot with sticky := stick 5 s.mot.sticky } }
    else modAxis a (fun y => { y with state := .off, referenced := false }) s

/-- The MC is held in reset: every accumulator stops, and what its firmware ran ends (R316). -/
def mcStop (s : State) : State :=
  let s := { s with mot := { s.mot with mcHeld := true } }
  let s := axisNumbers.foldl (fun s a => hardwareStop a s) s
  let s := axisNumbers.foldl (fun s a =>
    let s := stopList a 4 s
    modAxis a (fun x => { x with owner := .host }) s) s
  setTransport (fun _ => Transport.reset) s

/-- The transition from FAULT to STANDBY: the MC starts again, and the axes stand with owner HOST (R315, R316). -/
def motionResume (s : State) : State :=
  let s := pacerLeft { s with mot := { s.mot with mcHeld := false } }
  axisNumbers.foldl (fun s a => modAxis a (fun x => { x with owner := .host }) s) s

/-! ## Status (Tables 11.9 and 11.10) -/

/-- MOTION_STATUS. -/
def motionStatus (s : State) : Nat :=
  bitsOf [mstopActive s, s.mot.transport.owns, standstillCommanded s, s.mot.gateUv, bitOf s.mot.sticky 4, bitOf s.mot.sticky 5]

/-- MOTION_STATUS_CLEAR. -/
def writeMotionClear (v : Nat) (s : State) : WriteOut :=
  .ok { s with mot := { s.mot with sticky := unstick s.mot.sticky v } }

/-- The row MOTION_STATUS_CLEAR. -/
def execMotionStatusClear (via : Path) (v : BitVec 16) (s : State) : Host.Outcome State Fault Refusal :=
  writeCommand via (writeMotionClear v.toNat) s

/-- AXIS_STATUS. -/
def axisStatus (a : Nat) (s : State) : Nat :=
  let x := axisOf a s
  bitsOf [axisEnabled a s, x.energised, decide (x.state = .moving) || decide (x.state = .stopping), x.referenced,
    x.atTarget, x.mref, x.loadValid, decide (milli (val (Obj.RUN_CURRENT_BASE a) s) < x.current), bitOf x.sticky 8,
    bitOf x.sticky 9, bitOf x.sticky 10, bitOf x.sticky 11, bitOf x.sticky 12]

/-- AXIS_STATUS_CLEAR. -/
def writeAxisClear (a v : Nat) (s : State) : WriteOut :=
  .ok (modAxis a (fun x => { x with sticky := unstick x.sticky v }) s)

/-- The row AXIS_STATUS_CLEAR. -/
def execAxisStatusClear (via : Path) (a : Fin 6) (v : BitVec 16) (s : State) : Host.Outcome State Fault Refusal :=
  writeCommand via (writeAxisClear a.val v.toNat) s

end Sys2Proof.Machine
end

