-- ==== Sys2Proof/Machine/Indicators.lean ====
section
/-! DEFINITION. The indicators and their four pattern engines (04_illumination R106 to R110). -/
namespace Sys2Proof.Machine

/-- The words of an indicator program. -/
def indWords (i : Nat) (s : State) : List Nat := words32 (bulkVal (objKey (0x4200 + i) 0) [] s)

/-- The owner code of a sink in force (R106). With a reserved code neither an engine nor the host owns the sink, and a write of
one, or of bits [63:48], is accepted (DESIGN CHOICE, log entry 180). -/
def sinkOwner (sink : Nat) (s : State) : Nat := bits s.ind.owner (4 * sink + 3) (4 * sink)

/-- The sinks of a mask that an engine owns, in sink order. -/
def ownedSinks (i mask : Nat) (s : State) : List Nat :=
  (List.range 12).filter (fun k => bitOf mask k && decide (sinkOwner k s = i))

def indLevel (sink : Nat) (s : State) : Nat := s.ind.levels.getD sink 0

/-- Sets the levels of sinks. -/
def setLevels (l : List (Nat × Nat)) (s : State) : State :=
  { s with ind := { s.ind with levels := l.foldl (fun v x => setAt v x.1 x.2) s.ind.levels } }

/-- The duty of a sink at 4 kHz, of 4,095 (R106). -/
def indDuty (level : Nat) : Nat := (roundDiv (4095 * (level * level : Nat)) (255 * 255)).toNat

/-- An instruction of Table 4.6. -/
inductive IndOp where
  | nop
  | set (mask level : Nat)
  | ramp (mask target ticks : Nat)
  | wait (n : Nat)
  | loop (c target count : Nat)
  | jump (target : Nat)
  | rotate (mask : Nat) (reverse : Bool)
  | test (cond target : Nat)
  | halt
  | reserved
  deriving DecidableEq, Repr

def indOp (w : Nat) : IndOp :=
  let mask := bits w 27 16
  match opcode32 w with
  | 0 => .nop
  | 1 => .set mask (bits w 7 0)
  | 2 => .ramp mask (bits w 15 8) (bits w 7 0)
  | 3 => .wait (bits w 15 0)
  | 4 => .loop (bits w 27 26) (bits w 21 16) (bits w 15 0)
  | 5 => .jump (bits w 5 0)
  | 6 => .rotate mask (bitOf w 0)
  | 7 => .test (bits w 27 24) (bits w 5 0)
  | 8 => .halt
  | _ => .reserved

/-- The reserved bits of an instruction (R108). -/
def indReserved (w : Nat) : Nat :=
  match indOp w with
  | .nop => bits w 27 0
  | .set _ _ => bits w 15 8
  | .ramp _ _ _ => 0
  | .wait _ => bits w 27 16
  | .loop _ _ _ => bits w 25 22
  | .jump _ => bits w 27 6
  | .rotate _ _ => bits w 15 1
  | .test _ _ => bits w 23 6
  | .halt => bits w 27 0
  | .reserved => 0

/-- A word passes R109 in a program of `n` words. -/
def indWordOk (n w : Nat) : Bool :=
  match indOp w with
  | .ramp _ _ d => decide (d ≠ 0)
  | .wait k => decide (k ≠ 0)
  | .loop _ t k => decide (k ≠ 0) && decide (t < n)
  | .jump t => decide (t < n)
  | .test c t => decide (c ≤ 11) && decide (t < n)
  | .reserved => false
  | _ => true

/-- A condition of TEST; a source in a domain that is off reads 0. -/
def indCondition (c : Nat) (s : State) : Bool :=
  match c with
  | 0 => decide (s.modes.mode = .standby)
  | 1 => decide (s.modes.mode = .ready)
  | 2 => decide (s.modes.mode = .inline)
  | 3 => decide (s.modes.mode = .sheet)
  | 4 => decide (s.modes.mode = .fault)
  | 5 => (List.range 96).any (fun p => domainOn (4 + groupOfPort p) s && (portOf p s).latched)
  | 6 => domainOn 12 s && (s.lamps.monitor.any (·.dim) || s.lamps.openMap.any (fun m => decide (m ≠ 0)))
  | 7 => domainOn 12 s && (s.tim.webHalt || holding s)
  | _ => bitOf (val Obj.IND_HOST_FLAGS s) (c - 8)

/-- The instruction at an engine's word, while it runs and neither waits nor ramps; none before its first tick (R107). -/
def indCurrent (i : Nat) (s : State) : Option IndOp :=
  let e := engineOf i s
  if e.state = 1 ∧ e.fresh = false ∧ e.waiting = 0 ∧ e.ramp.isNone then (indWords i s)[e.pc]?.map indOp else none

/-- The next word; after the last the engine goes on at word 0 (log entry 34). -/
def indNext (i : Nat) (s : State) : Nat :=
  let n := (indWords i s).length
  if (engineOf i s).pc + 1 < n then (engineOf i s).pc + 1 else 0

def indAdvance (i : Nat) (s : State) : State :=
  let pc := indNext i s
  modEngine i (fun e => { e with pc := pc }) s

def indGoto (i pc : Nat) (s : State) : State := modEngine i (fun e => { e with pc := pc }) s

/-- The levels after ROTATE, one place along the sinks (Table 4.6). -/
def rotated (levels : List Nat) (reverse : Bool) : List Nat :=
  if reverse then levels.drop 1 ++ levels.take 1
  else levels.drop (levels.length - 1) ++ levels.take (levels.length - 1)

/-- Carries out one instruction of an engine. It stays at a WAIT or a RAMP until the last of its ticks (Table 4.8). -/
def indDo (i : Nat) (op : IndOp) (s : State) : State :=
  match op with
  | .nop => indAdvance i s
  | .set mask level => indAdvance i (setLevels ((ownedSinks i mask s).map (fun k => (k, level))) s)
  | .ramp mask target d =>
    let r : IndRamp := { mask := mask, target := target, ticks := d, done := 0, from0 := s.ind.levels }
    modEngine i (fun e => { e with ramp := some r }) s
  | .wait n => modEngine i (fun e => { e with waiting := n }) s
  | .loop c t n =>
    let left := loopCount (engineOf i s).cnt c n
    let s := modEngine i (fun e => { e with cnt := setAt e.cnt c left }) s
    if left = 0 then indAdvance i s else indGoto i t s
  | .jump t => indGoto i t s
  | .rotate mask rev =>
    let ks := ownedSinks i mask s
    indAdvance i (setLevels (ks.zip (rotated (ks.map (fun k => indLevel k s)) rev)) s)
  | .test c t => if indCondition c s then indGoto i t s else indAdvance i s
  | .halt => modEngine i (fun e => { e with state := 2 }) s
  | .reserved => s

/-- An engine carries out the instruction at its word if it is of the kind that a predicate names. -/
def indStep (i : Nat) (kind : IndOp → Bool) (s : State) : State :=
  match indCurrent i s with
  | some op => if kind op then indDo i op s else s
  | none => s

def isIndNop : IndOp → Bool
  | .nop => true
  | _ => false
def isSet : IndOp → Bool
  | .set _ _ => true
  | _ => false
def isRamp : IndOp → Bool
  | .ramp _ _ _ => true
  | _ => false
def isWait : IndOp → Bool
  | .wait _ => true
  | _ => false
def isIndLoop : IndOp → Bool
  | .loop _ _ _ => true
  | _ => false
def isIndJump : IndOp → Bool
  | .jump _ => true
  | _ => false
def isRotate : IndOp → Bool
  | .rotate _ _ => true
  | _ => false
def isTest : IndOp → Bool
  | .test _ _ => true
  | _ => false
def isHalt : IndOp → Bool
  | .halt => true
  | _ => false

/-- The rows of Table 4.6. -/
def execIndNop (i : Fin 4) (s : State) : Host.Outcome State Fault Refusal := .next (indStep i.val isIndNop s)
def execSet (i : Fin 4) (s : State) : Host.Outcome State Fault Refusal := .next (indStep i.val isSet s)
def execRamp (i : Fin 4) (s : State) : Host.Outcome State Fault Refusal := .next (indStep i.val isRamp s)
def execWait (i : Fin 4) (s : State) : Host.Outcome State Fault Refusal := .next (indStep i.val isWait s)
def execIndLoop (i : Fin 4) (s : State) : Host.Outcome State Fault Refusal := .next (indStep i.val isIndLoop s)
def execIndJump (i : Fin 4) (s : State) : Host.Outcome State Fault Refusal := .next (indStep i.val isIndJump s)
def execRotate (i : Fin 4) (s : State) : Host.Outcome State Fault Refusal := .next (indStep i.val isRotate s)
def execTest (i : Fin 4) (s : State) : Host.Outcome State Fault Refusal := .next (indStep i.val isTest s)
def execHalt (i : Fin 4) (s : State) : Host.Outcome State Fault Refusal := .next (indStep i.val isHalt s)

/-- One tick of a ramp (R108): the levels after it; after the last one the engine goes on. -/
def rampTick (i : Nat) (s : State) : State :=
  match (engineOf i s).ramp with
  | none => s
  | some r =>
    let k := r.done + 1
    let level (sink : Nat) : Nat :=
      let l0 : Int := r.from0.getD sink 0
      ((Frac.ofInt l0).add (Frac.mk' (((r.target : Int) - l0) * k) r.ticks)).round.toNat
    let s := setLevels ((ownedSinks i r.mask s).map (fun sink => (sink, level sink))) s
    if r.ticks ≤ k then indAdvance i (modEngine i (fun e => { e with ramp := none }) s)
    else modEngine i (fun e => { e with ramp := some { r with done := k } }) s

/-- One tick of a WAIT (R108): after the last one the engine goes on. -/
def waitTick (i : Nat) (s : State) : State :=
  let n := (engineOf i s).waiting
  if n = 0 then s
  else
    let s := modEngine i (fun e => { e with waiting := n - 1 }) s
    if n = 1 then indAdvance i s else s

/-- The first tick of an engine after ENGINE_RUN: word 0, with its counters cleared (R107). -/
def IndEngine.start (e : IndEngine) : IndEngine :=
  { e with fresh := false, pc := 0, cnt := [0, 0, 0, 0], waiting := 0, ramp := none }

/-- Instructions of one tick, up to a WAIT, a RAMP, a HALT or 64 of them (R107). -/
def indRun (i : Nat) : Nat → State → State
  | 0, s => s
  | n + 1, s =>
    match indCurrent i s with
    | some op => indRun i n (indDo i op s)
    | none => s

/-- ENGINE_TICK (R106, R107). -/
def engineTick (i : Nat) (s : State) : State :=
  if !running s then s
  else
    let s := { s with ind := { s.ind with owner := val Obj.IND_OWNER s } }
    if (engineOf i s).state ≠ 1 then s
    else
      let s := if (engineOf i s).fresh then modEngine i IndEngine.start s else rampTick i (waitTick i s)
      indRun i 64 s

/-- The row ENGINE_TICK. -/
def execEngineTick (i : Fin 4) (s : State) : Host.Outcome State Fault Refusal := .next (engineTick i.val s)

/-- ENGINE_RUN (R107, R109). A write of 1 to an engine that runs is accepted and leaves it where it stands (DESIGN CHOICE, log
entry 180). -/
def writeEngineRun (i v : Nat) (s : State) : WriteOut :=
  if 1 < v then .abort abortRange s
  else if v = 0 then
    .ok (modEngine i (fun e => { e with state := 0, fresh := false }) (setVal (Obj.ENGINE_RUN i) 0 s))
  else
    let ws := indWords i s
    if ws.isEmpty || !ws.all (indWordOk ws.length) then .abort abortContent s
    else
      let run (e : IndEngine) : IndEngine := if e.state = 1 then e else { e with state := 1, fresh := true }
      .ok (modEngine i run (setVal (Obj.ENGINE_RUN i) 1 s))

/-- The row ENGINE_RUN. -/
def execEngineRun (via : Path) (i : Fin 4) (v : BitVec 8) (s : State) : Host.Outcome State Fault Refusal :=
  writeCommand via (fun s => (writeEngineRun i.val v.toNat s).noted) s

/-- IND_LEVEL: writable for a sink that the host owns. -/
def writeIndLevel (sink v : Nat) (s : State) : WriteOut :=
  if sinkOwner sink s = 0xF then .ok (setLevels [(sink, v)] s) else .abort abortState s

end Sys2Proof.Machine
end

