-- ==== Sys2Proof/Machine/Image.lean ====
section
/-! DEFINITION. Firmware images (16_management R410) and the checks that the Starter and VERIFY make of them
(15_startup R380): SHA-256, and ECDSA on the curve P-256. -/
namespace Sys2Proof.Machine

/-! ## SHA-256 -/

/-- Words of 32 bits. -/
def w32 : Nat := 4294967296

/-- A word rotated right by `n`. -/
def rotr (n x : Nat) : Nat := (x / 2 ^ n) + (x % 2 ^ n) * 2 ^ (32 - n)

/-- The cube root of `n` rounded down, by bits from `k` down. -/
def cubeRootAux (n : Nat) : Nat → Nat → Nat
  | 0, r => r
  | k + 1, r =>
    let t := r + 2 ^ k
    cubeRootAux n k (if t * t * t ≤ n then t else r)

/-- No number from 2 up to `d + 1` divides `n`. -/
def noDivisor (n : Nat) : Nat → Bool
  | 0 => true
  | d + 1 => decide (n % (d + 2) ≠ 0) && noDivisor n d

/-- The first 64 primes: those up to 311. -/
def shaPrimes : List Nat := (List.range 312).filter (fun n => decide (2 ≤ n) && noDivisor n (isqrt n - 1))

/-- The round constants: the first 32 bits of the fraction of the cube root of each prime. -/
def shaK : List Nat := shaPrimes.map (fun p => cubeRootAux (p * 2 ^ 96) 36 0 % w32)

/-- The initial digest: the first 32 bits of the fraction of the square root of the first eight primes. -/
def shaInit : List Nat := (shaPrimes.take 8).map (fun p => isqrt (p * 2 ^ 64) % w32)

/-- The message schedule, newest word first. -/
def shaExpand : Nat → List Nat → List Nat
  | 0, w => w
  | n + 1, w =>
    let x2 := w.getD 1 0
    let x15 := w.getD 14 0
    let s0 := Nat.xor (Nat.xor (rotr 7 x15) (rotr 18 x15)) (x15 / 8)
    let s1 := Nat.xor (Nat.xor (rotr 17 x2) (rotr 19 x2)) (x2 / 1024)
    shaExpand n (((w.getD 15 0 + s0 + w.getD 6 0 + s1) % w32) :: w)

/-- One round on the working words a to h. -/
def shaRound (h : List Nat) (kw : Nat × Nat) : List Nat :=
  match h with
  | [a, b, c, d, e, f, g, x] =>
    let s1 := Nat.xor (Nat.xor (rotr 6 e) (rotr 11 e)) (rotr 25 e)
    let ch := Nat.xor (Nat.land e f) (Nat.land (w32 - 1 - e) g)
    let t1 := x + s1 + ch + kw.1 + kw.2
    let s0 := Nat.xor (Nat.xor (rotr 2 a) (rotr 13 a)) (rotr 22 a)
    let maj := Nat.xor (Nat.xor (Nat.land a b) (Nat.land a c)) (Nat.land b c)
    [(t1 + s0 + maj) % w32, a, b, c, (d + t1) % w32, e, f, g]
  | _ => h

/-- The 16 words of a block of 64 bytes, newest first. -/
def shaWords : Nat → List Byte → List Nat → List Nat
  | 0, _, acc => acc
  | n + 1, bs, acc => shaWords n (bs.drop 4) (beNat (bs.take 4) :: acc)

def shaBlock (h : List Nat) (bs : List Byte) : List Nat :=
  let w := (shaExpand 48 (shaWords 16 bs [])).reverse
  let r := (shaK.zip w).foldl shaRound h
  (h.zip r).map (fun x => (x.1 + x.2) % w32)

def shaBlocks : Nat → List Nat → List Byte → List Nat
  | 0, h, _ => h
  | n + 1, h, bs => shaBlocks n (shaBlock h (bs.take 64)) (bs.drop 64)

/-- SHA-256 of some bytes. -/
def sha256 (m : List Byte) : List Byte :=
  let n := m.length
  let zeros := (119 - n % 64) % 64
  let padded := m ++ [0x80] ++ List.replicate zeros 0 ++ beBytes 8 (8 * n)
  (shaBlocks (padded.length / 64) shaInit padded).flatMap (beBytes 4)

/-! ## ECDSA on P-256 -/

def p256 : Nat := 0xffffffff00000001000000000000000000000000ffffffffffffffffffffffff
def p256b : Nat := 0x5ac635d8aa3a93e7b3ebbd55769886bc651d06b0cc53b0f63bce3c3e27d2604b
def p256n : Nat := 0xffffffff00000000ffffffffffffffffbce6faada7179e84f3b9cac2fc632551
def p256x : Nat := 0x6b17d1f2e12c4247f8bce6e563a440f277037d812deb33a0f4a13945d898c296
def p256y : Nat := 0x4fe342e2fe1a7f9b8ee7eb4a7c0f9e162bce33576b315ececbb6406837bf51f5

/-- `b ^ e` modulo `m`, over the `n` low bits of `e`. -/
def powMod (m : Nat) : Nat → Nat → Nat → Nat
  | 0, _, _ => 1 % m
  | n + 1, b, e =>
    let r := powMod m n (b * b % m) (e / 2)
    if e % 2 = 1 then b * r % m else r

/-- The inverse modulo a prime. -/
def invMod (m a : Nat) : Nat := powMod m 256 (a % m) (m - 2)

/-- A point of the curve; none is the point at infinity. -/
abbrev CurvePoint := Option (Nat × Nat)

def subMod (m a b : Nat) : Nat := (a + m - b % m) % m

/-- The sum of two points. -/
def curveAdd (a b : CurvePoint) : CurvePoint :=
  match a, b with
  | none, q => q
  | p, none => p
  | some (x1, y1), some (x2, y2) =>
    if x1 = x2 ∧ (y1 + y2) % p256 = 0 then none
    else
      let l := if x1 = x2 then (3 * x1 * x1 + (p256 - 3)) * invMod p256 (2 * y1) % p256
        else subMod p256 y2 y1 * invMod p256 (subMod p256 x2 x1) % p256
      let x3 := subMod p256 (subMod p256 (l * l) x1) x2
      some (x3, subMod p256 (l * subMod p256 x1 x3) y1)

/-- A multiple of a point, over the `n` low bits of the factor. -/
def curveMul : Nat → Nat → CurvePoint → CurvePoint
  | 0, _, _ => none
  | n + 1, k, p =>
    let r := curveMul n (k / 2) (curveAdd p p)
    if k % 2 = 1 then curveAdd p r else r

/-- Whether a signature r, s over a digest verifies with a public key. -/
def ecdsaOk (digest : Nat) (x y r s : Nat) : Bool :=
  let onCurve := decide (x < p256) && decide (y < p256)
    && decide (y * y % p256 = (x * x * x + (p256 - 3) * x + p256b) % p256)
  if !onCurve || decide (r = 0) || decide (s = 0) || decide (p256n ≤ r) || decide (p256n ≤ s) then false
  else
    let w := invMod p256n s
    match curveAdd (curveMul 256 (digest * w % p256n) (some (p256x, p256y))) (curveMul 256 (r * w % p256n) (some (x, y))) with
    | none => false
    | some (px, _) => decide (px % p256n = r)

/-! ## Images (Table 16.9) -/

def imageSlotBytes : Nat := 4 * 1024 * 1024

/-- Bytes of a slot: erased flash reads 0xFF past the bytes programmed. -/
def slotSlice (bs : List Byte) (off len : Nat) : List Byte :=
  let got := (bs.drop off).take len
  got ++ List.replicate (len - got.length) 0xFF

/-- Offset, length and digest of section `i`: 0 MP, 1 PC, 2 MC. -/
def imageSection (h : List Byte) (i : Nat) : Nat × Nat × List Byte :=
  (leNat (slotSlice h (32 + 48 * i) 4), leNat (slotSlice h (36 + 48 * i) 4), slotSlice h (40 + 48 * i) 32)

/-- The section equals its digest. -/
def sectionMatches (bs : List Byte) (i : Nat) : Bool :=
  let (off, len, digest) := imageSection bs i
  decide (off + len ≤ imageSlotBytes) && decide (sha256 (slotSlice bs off len) = digest)

/-- The image version of a header. -/
def imageVersionOf (bs : List Byte) : Nat := leNat (slotSlice bs 8 4)
def imageSvnOf (bs : List Byte) : Nat := leNat (slotSlice bs 12 4)

/-- The first failing check of R380 as UPDATE_RESULT codes it (Table 16.14); 1 OK. -/
def imageResult (x : ImageSlot) (o : Otp) : Nat :=
  match x with
  | .none => 2
  | .factory _ svn => if svn < o.minSvn then 4 else 1
  | .image bs =>
    let key := slotSlice bs 176 64
    if sha256 key ≠ o.keyHash then 2
    else if !ecdsaOk (beNat (sha256 (slotSlice bs 0 448))) (beNat (key.take 32)) (beNat (key.drop 32))
        (beNat (slotSlice bs 448 32)) (beNat (slotSlice bs 480 32)) then 3
    else if imageSvnOf bs < o.minSvn then 4
    else if !((List.range 3).all (sectionMatches bs)) then 5
    else if 512 * 1024 < (imageSection bs 0).2.1 then 6
    else 1

/-- The image passes R380. -/
def imageOk (x : ImageSlot) (o : Otp) : Bool := decide (imageResult x o = 1)

/-- What slot A, 0, or B, 1, holds. -/
def slotImage (n : Nat) (s : State) : ImageSlot := if n = 0 then s.flash.slotA else s.flash.slotB

def setSlotImage (n : Nat) (x : ImageSlot) (s : State) : State :=
  if n = 0 then { s with flash := { s.flash with slotA := x } } else { s with flash := { s.flash with slotB := x } }

/-- The version of an image. -/
def ImageSlot.version : ImageSlot → Nat
  | .none => 0
  | .image bs => imageVersionOf bs
  | .factory v _ => v

/-- The security version of an image. -/
def ImageSlot.svn : ImageSlot → Nat
  | .none => 0
  | .image bs => imageSvnOf bs
  | .factory _ v => v

/-- SLOT_A_VERSION and SLOT_B_VERSION: 0 where no valid image lies in the slot. -/
def slotVersion (n : Nat) (s : State) : Nat :=
  let x := slotImage n s
  if imageOk x s.otp then x.version else 0

/-- The section that the MP loads for the PC, 1, or the MC, 2, equals its digest (R383). -/
def sectionOk (i : Nat) (s : State) : Bool :=
  match slotImage s.boot.slot s with
  | .none => false
  | .factory _ _ => true
  | .image bs => sectionMatches bs i

end Sys2Proof.Machine
end

