-- ==== Sys2Proof/Machine/Mailbox.lean ====
section
/-! DEFINITION. The mailboxes (16_management R393 to R400). -/
namespace Sys2Proof.Machine

/-- PDd is powering up. -/
def poweringUp (d : Nat) (s : State) : Bool := s.pwr.powering.getLsbD d

/-- A domain that is off begins to power up. -/
def wakeDomain (d : Nat) (s : State) : State :=
  if domainOn d s || poweringUp d s then s
  else { s with pwr := { s.pwr with powering := s.pwr.powering ||| (1#20 <<< d) } }

/-- The receiver of a direction is held in reset (R383, R392). -/
def receiverHeld (d : Nat) (s : State) : Bool :=
  match ringDomain d with
  | 2 => s.mot.pcHeld
  | 3 => s.mot.mcHeld
  | _ => false

/-- The processor that sends on a direction runs. -/
def senderRuns (d : Nat) (s : State) : Bool :=
  if d = 3 ∨ d = 6 then domainOn 2 s && !s.mot.pcHeld
  else if d = 5 ∨ d = 7 then domainOn 3 s && !s.mot.mcHeld
  else running s

/-- A ring held empty: its processor is held in reset, or its domain is off. -/
def emptyRings (l : List Nat) (s : State) : State := l.foldl (fun s d => modDir d (fun x => { x with ring := [] }) s) s

/-- The PC is held in reset. -/
def holdPc (s : State) : State := emptyRings [2, 7] { s with mot := { s.mot with pcHeld := true } }

/-- The sends of a processor that stops are gone. -/
def dropSends (l : List Nat) (s : State) : State :=
  l.foldl (fun s d => modDir d (fun x => { x with sending := none, queued := [] }) s) s

/-! ## Sending and delivering -/

/-- A message of 64 bytes. -/
def asMessage (m : List Byte) : Message := padTo 64 (m.take 64)

/-- The ring of a direction with a send lies in a domain that is off: the domain is powered up (R394). -/
def wakeFor (d : Nat) (s : State) : State :=
  let p := ringDomain d
  if domainOn p s || poweringUp p s then s
  else modDir d (fun x => { x with wakes := x.wakes + 1 }) (wakeDomain p s)

/-- The sends in progress to rings in a domain that has gone off power it up again (R394). -/
def rewake (s : State) : State :=
  [2, 4, 6, 7].foldl (fun s d => if (dirOf d s).sending.isSome then wakeFor d s else s) s

/-- MAILBOX_SEND: a sender with no send in progress places a message. On direction 1 the MP sends the messages of Table 16.3 alone,
each where its own rule says (R400; log entry 184). -/
def mailboxSend (d : Nat) (m : List Byte) (s : State) : State :=
  if !running s || !senderRuns d s || decide (d = 1) || (dirOf d s).sending.isSome then s
  else wakeFor d (modDir d (fun x => { x with sending := some (asMessage m) }) s)

/-- The row MAILBOX_SEND. -/
def execMailboxSend (d : Fin 8) (message : List Byte) (s : State) : Host.Outcome State Fault Refusal :=
  .next (mailboxSend d.val message s)

/-- The send in progress has ended: the next one that its sender holds back begins. -/
def nextSend (d : Nat) (s : State) : State :=
  match (dirOf d s).queued with
  | [] => modDir d (fun x => { x with sending := none }) s
  | m :: t => wakeFor d (modDir d (fun x => { x with sending := some m, queued := t }) s)

/-- The outcome of an HM_SEND reaches whoever awaits it (R398). -/
def hostSendEnds (code : Nat) (s : State) : State :=
  let t := { s with mbox := { s.mbox with hostWaits := none } }
  match s.mbox.hostWaits with
  | none => s
  | some (.write via) => answerWrite via code t
  | some .sdo =>
    let m := if code = 0 then MailIn.downloaded 0x2D00 1 else MailIn.abort 0x2D00 1 code
    if mailboxOn t then fillMailbox (answerWrite .sdo code { t with ecat := { t.ecat with responses := t.ecat.responses ++ [m] } })
    else t
  | some (.tsp f) => respond f 0x84 code [] (answerWrite .tsp code t)

/-- The MP acts on a host message (R400). -/
def hostMessageIn (m : Message) (s : State) : State :=
  if (m.getD 0 0).toNat = 1 then mpMessage 0x81 ((m.drop 8).take (min 56 (m.getD 1 0).toNat)) s
  else { s with mbox := { s.mbox with unknown := s.mbox.unknown + 1 } }

/-- MAILBOX_DELIVER: the message of a send lands in a free slot of a ring whose domain is on. -/
def mailboxDeliver (d : Nat) (s : State) : State :=
  let x := dirOf d s
  match x.sending with
  | none => s
  | some m =>
    if !running s || !domainOn (ringDomain d) s || receiverHeld d s || decide (ringSlots d ≤ x.ring.length) then s
    else
      let s := modDir d (fun x => { x with
        ring := x.ring ++ [m], delivered := x.delivered + 1, highWater := max x.highWater (x.ring.length + 1) }) s
      let s := nextSend d s
      if d = 0 then hostMessageIn m (hostSendEnds 0 s) else s

/-- The row MAILBOX_DELIVER. -/
def execMailboxDeliver (d : Fin 8) (s : State) : Host.Outcome State Fault Refusal := .next (mailboxDeliver d.val s)

/-- MAILBOX_TIMEOUT: the send ends undelivered, and its message is discarded (R395). -/
def mailboxTimeout (d : Nat) (s : State) : State :=
  if (dirOf d s).sending.isNone || !running s then s
  else
    let was := s.mbox.sticky
    let s := nextSend d (modDir d (fun x => { x with timeouts := x.timeouts + 1 }) s)
    let s := { s with mbox := { s.mbox with
      sticky := stick d s.mbox.sticky, lost := if d = 1 then s.mbox.lost + 1 else s.mbox.lost } }
    let s := if d = 1 then s else logOnce was d ⟨0x0C04, d, []⟩ s
    if d = 0 then hostSendEnds abortState s else s

/-- The row MAILBOX_TIMEOUT. -/
def execMailboxTimeout (d : Fin 8) (s : State) : Host.Outcome State Fault Refusal := .next (mailboxTimeout d.val s)

/-- MAILBOX_RELEASE: a receiving program frees the oldest slot. Direction 1 is the host's (R399). -/
def mailboxRelease (d : Nat) (s : State) : State :=
  if !running s || decide (d = 1) || receiverHeld d s || !domainOn (ringDomain d) s then s
  else modDir d (fun x => { x with ring := x.ring.drop 1 }) s

/-- The row MAILBOX_RELEASE. -/
def execMailboxRelease (d : Fin 8) (s : State) : Host.Outcome State Fault Refusal := .next (mailboxRelease d.val s)

/-- PD02 goes off: the PC and its rings keep nothing (R392, Table 14.3). -/
def pcOff (s : State) : State := dropSends [3, 6] (emptyRings [2, 7] s)

/-- PC_RELEASE: in STANDBY the PC, with its rings empty and none of its sends in progress, signals idle (R397). -/
def pcRelease (s : State) : State :=
  let idle := [2, 7].all (fun d => (dirOf d s).ring.isEmpty) && [3, 6].all (fun d => (dirOf d s).sending.isNone)
  if decide (s.modes.mode = .standby) && s.modes.trans.isNone && domainOn 2 s && !s.mot.pcHeld && idle then
    rewake (pcOff { s with pwr := { s.pwr with domains := s.pwr.domains &&& ~~~(1#20 <<< 2) } })
  else s

/-- The row PC_RELEASE. -/
def execPcRelease (s : State) : Host.Outcome State Fault Refusal := .next (pcRelease s)

/-! ## The host's side (R398, R399) -/

/-- A write of HM_SEND by a sender who awaits the outcome. -/
def writeHmSend (w : Waiting) (data : List Byte) (s : State) : WriteOut :=
  if data.length ≠ 64 then .abort abortLength s
  else if (dirOf 0 s).sending.isSome then .abort abortState s
  else
    let s := modDir 0 (fun x => { x with sending := some data }) s
    .later { s with mbox := { s.mbox with hostWaits := some w } }

/-- The row HM_SEND. -/
def execHmSend (via : Path) (message : List Byte) (s : State) : Host.Outcome State Fault Refusal :=
  writeCommand via (writeHmSend (.write via) message) s

/-- MH_RELEASE: the oldest message of direction 1 goes if the number is its own. -/
def writeMhRelease (v : Nat) (s : State) : WriteOut :=
  match (dirOf 1 s).ring with
  | m :: _ => .ok (if leNat ((m.drop 2).take 2) = v then modDir 1 (fun x => { x with ring := x.ring.drop 1 }) s else s)
  | [] => .ok s

/-- The row MH_RELEASE. -/
def execMhRelease (via : Path) (v : BitVec 16) (s : State) : Host.Outcome State Fault Refusal :=
  writeCommand via (writeMhRelease v.toNat) s

/-- MBOX_STATUS_CLEAR. -/
def writeMboxClear (v : Nat) (s : State) : WriteOut := .ok { s with mbox := { s.mbox with sticky := unstick s.mbox.sticky v } }

/-- The row MBOX_STATUS_CLEAR. -/
def execMboxStatusClear (via : Path) (v : BitVec 8) (s : State) : Host.Outcome State Fault Refusal :=
  writeCommand via (writeMboxClear v.toNat) s

/-- MBOX_RECEIVER_STATE: 0 OFF, 1 POWERING, 2 ON, 3 IN_RESET. -/
def receiverState (d : Nat) (s : State) : Nat :=
  let p := ringDomain d
  if domainOn p s then (if receiverHeld d s then 3 else 2) else if poweringUp p s then 1 else 0

end Sys2Proof.Machine
end

