-- ==== Sys2Proof/Machine/TwoWire.lean ====
section
/-! DEFINITION. The two-wire buses (17_two_wire). A transaction of the device as controller is one command, from START to
STOP, whose operand is what the other parties put on the bus at each of its steps; where the operand ends before the STOP, the
transaction is in progress, and the bus's next command goes on with it or ends it. -/
namespace Sys2Proof.Machine

/-- TJ_MAX and TJ_MAX_MONITOR: the highest reading, and its monitor (14 R367). -/
def tjMax (s : State) : Int × Nat :=
  ((List.range 24).zip s.pwr.temps).foldl (fun (m : Int × Nat) x => if x.1 = 0 ∨ m.1 < x.2 then (x.2, x.1) else m) (0, 0)

/-- The timing fields as last accepted (R420). -/
def twFields (b : Nat) (s : State) : List Nat :=
  [val (Obj.TW_SCL_LOW b) s, val (Obj.TW_SCL_HIGH b) s, val (Obj.TW_HD_DAT b) s, val (Obj.TW_SU_STA b) s,
   val (Obj.TW_HD_STA b) s, val (Obj.TW_SU_STO b) s, val (Obj.TW_BUF b) s]

/-- The bus is free: fields written before take effect (R420, R422). -/
def twFree (b : Nat) (s : State) : State := modBus b (fun x => { x with state := .idle, timing := twFields b s }) s

/-- The bus test begins (R423). -/
def twTest (b : Nat) (s : State) : State := modBus b (fun x => { x with state := .testing }) s

/-! ## Writes -/

/-- The field of a timing object, by its place in `twFields`. -/
def twFieldRef (b i : Nat) : Ref :=
  match i with
  | 0 => Obj.TW_SCL_LOW b
  | 1 => Obj.TW_SCL_HIGH b
  | 2 => Obj.TW_HD_DAT b
  | 3 => Obj.TW_SU_STA b
  | 4 => Obj.TW_HD_STA b
  | 5 => Obj.TW_SU_STO b
  | _ => Obj.TW_BUF b

/-- A write of a timing field in its range (R420). -/
def writeTwField (b i v : Nat) (s : State) : WriteOut :=
  let t := setVal (twFieldRef b i) v s
  if val (Obj.TW_SCL_LOW b) t ≤ val (Obj.TW_HD_DAT b) t then .abort abortContent s
  else if (busOf b t).state = .idle then .ok (twFree b t) else .ok t

/-- TW_CONTROL: RECOVER runs the bus test, and is refused while a transaction runs, as controller or as target; a bus not in
use is left alone (DEDUCED, log entry 55). -/
def writeTwControl (b v : Nat) (s : State) : WriteOut :=
  if v ≠ 1 then .abort abortRange s
  else match (busOf b s).state with
    | .controller => .abort abortState s
    | .target => .abort abortState s
    | .off => .ok s
    | _ => .ok (twTest b s)

/-- The row RECOVER. -/
def execRecover (via : Path) (b : Fin 2) (s : State) : Host.Outcome State Fault Refusal :=
  writeCommand via (writeTwControl b.val 1) s

/-- An address that the device never addresses (R418). -/
def twReserved (a : Nat) : Bool := decide (a < 8) || decide (0x78 ≤ a)

/-- A transaction waits for its bus, behind those that arrived before it (R421). -/
def addJob (b : Nat) (j : TwJob) (s : State) : State := modBus b (fun x => { x with jobs := x.jobs ++ [j] }) s

/-- A write of TW_REQUEST (Table 17.4, R428). -/
def writeTwRequest (data : List Byte) (s : State) : WriteOut :=
  let at' (i : Nat) : Nat := (data.getD i 0).toNat
  let b := at' 0
  let n := at' 2
  if data.length < 4 ∨ data.length ≠ 4 + n ∨ 36 < data.length then .abort abortLength s
  else if s.tw.request.isSome then .abort abortState s
  else if 1 < b then .abort abortRange s
  else if 0x80 ≤ at' 1 then .misuse .reservedBits
  else
    match (busOf b s).state with
    | .off => .abort abortState s
    | .testing => .abort abortState s
    | .stuck => .abort abortState s
    | _ =>
      if !flagVal (Obj.TW_ENABLE b) s then .abort abortState s
      else if twReserved (at' 1) ∨ 32 < n ∨ 32 < at' 3 then .abort abortRange s
      else if at' 1 = valReady (Obj.TW_OWN_ADDRESS b) s then .abort abortContent s
      else .ok (addJob b ⟨.host, 0⟩ { s with tw := { s.tw with
        request := some ⟨b, at' 1, data.drop 4, at' 3⟩, resultState := 1, resultAcked := 0, resultBytes := [] } })

/-- The row TW_REQUEST. -/
def execTwRequest (via : Path) (data : List Byte) (s : State) : Host.Outcome State Fault Refusal :=
  writeCommand via (writeTwRequest data) s

/-- TW_RESULT (Table 17.5). -/
def twResult (s : State) : List Byte :=
  leBytes 1 s.tw.resultState ++ leBytes 1 s.tw.resultAcked ++ leBytes 1 s.tw.resultBytes.length ++ [0]
    ++ padTo 32 s.tw.resultBytes

/-! ## The bits of a transaction (R425) -/

/-- One byte that the controller sends, bit 7 first: the byte observed, and whether arbitration is lost. The line is the
wired-AND of both sides; from the first 1 that meets a 0 on, the controller releases SDA (R425). -/
def twWire (sent others : Byte) : Nat × Bool :=
  (List.range 8).reverse.foldl (fun (acc : Nat × Bool) i =>
    let level := (acc.2 || sent.getLsbD i) && others.getLsbD i
    (2 * acc.1 + b2n level, acc.2 || (sent.getLsbD i && !level))) (0, false)

/-- What a transaction is at after steps: in progress, at its end, or lost, where it is lost in an address byte with the byte
observed. -/
inductive TwEnd where
  | going (r : TwRun)
  | done (r : TwRun)
  | lost (r : TwRun) (observed : Option Nat)
  deriving DecidableEq, Repr

/-- A byte that is not acknowledged ends the transaction with its STOP (R428). -/
def TwRun.nacked (r : TwRun) (code : Nat) : TwEnd := .going { r with steps := [.stop], nack := some code }

/-- One step of a transaction with what the others put on the bus (R425, R428). A NACK of the device that meets an ACK, and a
repeated START or a STOP that meets a 0, are losses. -/
def twStep (x : TwSeen) (r : TwRun) : TwEnd :=
  match r.steps with
  | [] => .done r
  | .address y :: t =>
    let (observed, lost) := twWire y x.bits
    if lost then .lost r (some observed) else if x.low then .going { r with steps := t } else r.nacked 4
  | .write y :: t =>
    if (twWire y x.bits).2 then .lost r none
    else if x.low then .going { r with steps := t, acked := r.acked + 1 } else r.nacked 5
  | .restart :: t => if x.low then .lost r none else .going { r with steps := t }
  | .read last :: t =>
    let r := { r with steps := t, got := r.got ++ [x.bits] }
    if last && x.low then .lost r none else .going r
  | .stop :: t => if x.low then .lost r none else .done { r with steps := t }

/-- The steps of a transaction as far as the operand goes. -/
def twSteps : List TwSeen → TwRun → TwEnd
  | [], r => .going r
  | x :: t, r =>
    match twStep x r with
    | .going r' => twSteps t r'
    | e => e

/-- The address byte: the address, and 1 for a read. -/
def twAddress (a : Nat) (read : Bool) : TwStep := .address (BitVec.ofNat 8 (2 * a + b2n read))

/-- The reads of `n` bytes: each is acknowledged, except the last. -/
def twReads (n : Nat) : List TwStep := (List.range n).map (fun i => .read (decide (i + 1 = n)))

/-- The steps of a transaction that writes bytes to an address and reads `n` from it (R428). -/
def twScript (a : Nat) (written : List Byte) (n : Nat) : List TwStep :=
  (if n ≠ 0 ∧ written.isEmpty then [] else twAddress a false :: written.map TwStep.write)
    ++ (if n = 0 then [] else (if written.isEmpty then [] else [.restart]) ++ twAddress a true :: twReads n) ++ [.stop]

/-- The address of tile p on its bus, and that of bar sensor k (Table 17.7). -/
def tileAddress (p : Nat) : Nat := 0x10 + p % 48
def sensorAddress (k : Nat) : Nat := 0x08 + k

/-- The steps of the transaction for a piece of work: the host's, the read of a record from offset 0 (15 R386), or that of two
bytes from the pointer 0x00 of a sensor (R434). -/
def twScriptOf (w : TwWork) (s : State) : List TwStep :=
  match w with
  | .host =>
    match s.tw.request with
    | some r => twScript r.address r.written r.readLength
    | none => [.stop]
  | .tile p _ => twScript (tileAddress p) [0x00] 64
  | .poll k => twScript (sensorAddress k) [0x00] 2

/-! ## The three sources (R421) -/

/-- A state and the events to log for it, in the order of 18 R438. -/
abbrev TwOut := State × List Event

/-- Logs the events of a command. -/
def twLog (x : TwOut) : State := logEvents x.2 x.1

/-- The host request ends with a state of Table 17.5. -/
def endRequest (st acked : Nat) (bytes : List Byte) (s : State) : State :=
  { s with tw := { s.tw with request := none, resultState := st, resultAcked := acked, resultBytes := bytes } }

/-- A NACK ends a host request. -/
def nackRequest (b st acked : Nat) (s : State) : State :=
  endRequest st acked [] (modBus b (fun x => { x with nacks := x.nacks + 1 }) s)

/-- A poll of sensor `i` = 8b + s has failed (R434). -/
def pollFailed (i : Nat) (x : TwOut) : TwOut :=
  let n := x.1.tw.sensorFails.getD i 0 + 1
  let s := { x.1 with tw := { x.1.tw with sensorFails := setAt x.1.tw.sensorFails i (min n 4) } }
  if n ≠ 3 then (s, x.2)
  else
    ({ s with tw := { s.tw with barTemp := setAt s.tw.barTemp i (-32768), sticky := stick 4 s.tw.sticky } },
      ⟨0x0D02, i, []⟩ :: x.2)

/-- A poll has read its two bytes. -/
def pollRead (i : Nat) (bytes : List Byte) (s : State) : State :=
  { s with tw := { s.tw with
    barTemp := setAt s.tw.barTemp i (roundDiv (toSigned 16 (beNat (padTo 2 (bytes.take 2))) * 100) 256),
    sensorFails := setAt s.tw.sensorFails i 0 } }

/-- The check word of an identity record is right (15 Table 15.4). -/
def identityOk (l : List Byte) : Bool := decide (l.length = 64) && decide (fieldAt l 60 4 = crc32c (l.take 60))

/-- A port has its result. -/
def foundTile (p : Nat) (r : TileFound) (s : State) : State := { s with tw := { s.tw with tiles := s.tw.tiles ++ [(p, r)] } }

/-- Whether a bus carries out transactions, now or after its test: it is in use and not stuck. -/
def twUsable (b : Nat) (s : State) : Bool :=
  decide ((busOf b s).state ≠ .off) && decide ((busOf b s).state ≠ .stuck) && decide ((busOf b s).next ≠ some .off)

/-- The tiles from T`p` to the last of its bus are absent: their addresses meet no acknowledgement on a bus that is stuck or out
of use (15 R386, R424; log entry 57). -/
def tilesAbsent (p : Nat) (s : State) : State :=
  (List.range (48 - p % 48)).foldl (fun s i => foundTile (p + i) .absent s) s

/-- Discovery goes on to tile T`p`, whose read then arrives at its bus (log entry 174). -/
def readTile (p : Nat) (s : State) : State :=
  if twUsable (p / 48) s then addJob (p / 48) ⟨.tile p false, 0⟩ s else tilesAbsent p s

/-- A port has its result, and discovery goes on to the next of its bus, in ascending order (15 R386). -/
def tileDone (p : Nat) (r : TileFound) (s : State) : State :=
  let s := foundTile p r s
  if p % 48 = 47 then s else readTile (p + 1) s

/-- Discovery begins: both buses work in parallel. -/
def discoveryBegin (s : State) : State := readTile 48 (readTile 0 { s with tw := { s.tw with tiles := [] } })

/-- The read of a record has ended. An address without acknowledgement is an absent tile; a wrong check word is read again at
once, and the second one makes the tile bad (15 R386). -/
def tileRead (b p : Nat) (again : Bool) (r : TwRun) (s : State) : State :=
  if r.nack = some 4 then tileDone p .absent s
  else if identityOk r.got then tileDone p (.present r.got) s
  else if again then tileDone p .bad s
  else modBus b (fun x => { x with jobs := ⟨.tile p true, 0⟩ :: x.jobs }) s

/-- Work that is not done: on a stuck bus a host request ends BUS_STUCK, a poll fails and the tiles left are absent. A poll or a
read that has been started again three times is given up; the tile is then present by R386's "otherwise", with a free record
(log entry 174). -/
def dropWork (b : Nat) (stuck : Bool) (w : TwWork) (x : TwOut) : TwOut :=
  match w with
  | .host => (endRequest 7 0 [] x.1, x.2)
  | .poll k => pollFailed (8 * b + k) x
  | .tile p _ =>
    if stuck then (tilesAbsent p x.1, x.2)
    else
      let (r, s) := takeFree 512 x.1
      (tileDone p (.present (leBytes 64 r)) s, x.2)

/-- A transaction that ended ARB_LOST or BUS_TIMEOUT: the host's ends with that state; another starts again on the next free bus,
ahead of those that wait, up to three times (R427). -/
def endOrRetry (b code : Nat) (r : TwRun) (x : TwOut) : TwOut :=
  match r.job.work with
  | .host => (endRequest code r.acked r.got x.1, x.2)
  | w =>
    if r.job.tries < 3 then
      (modBus b (fun y => { y with jobs := { r.job with tries := r.job.tries + 1 } :: y.jobs }) x.1, x.2)
    else dropWork b false w x

/-- A transaction has come to its STOP. -/
def twEnds (b : Nat) (r : TwRun) (s : State) : TwOut :=
  match r.job.work with
  | .host =>
    match r.nack with
    | none => (endRequest 3 r.acked r.got s, [])
    | some code => (nackRequest b code r.acked s, [])
  | .poll k => if r.nack.isSome then pollFailed (8 * b + k) (s, []) else (pollRead (8 * b + k) r.got s, [])
  | .tile p again => (tileRead b p again r s, [])

/-- The bus goes out of use: its lines are released. Polls and reads of tiles that wait for it are not done; a host request waits
until the bus is in use again (log entry 57). -/
def twOff (b : Nat) (x : TwOut) : TwOut :=
  let jobs := (busOf b x.1).jobs
  let s := modBus b (fun y => { y with
    state := .off, next := none, won := none, jobs := y.jobs.filter (fun j => decide (j.work = .host)) }) x.1
  (jobs.filter (fun j => decide (j.work ≠ .host))).foldl (fun x j => dropWork b true j.work x) (s, x.2)

/-- After a transaction the bus is idle, unless it goes out of use or is tested (R435). -/
def twAfter (b : Nat) (x : TwOut) : TwOut :=
  match (busOf b x.1).next with
  | some .off => twOff b x
  | some y => (modBus b (fun z => { z with state := y, next := none, won := none }) x.1, x.2)
  | none => (modBus b (fun z => { z with state := .idle, won := none }) x.1, x.2)

/-- The controller has lost arbitration (R425). Where the address byte it observes is its own address on a bus that answers as a
target, the device serves the winner (R426). -/
def loseArbitration (b : Nat) (r : TwRun) (observed : Option Nat) (s : State) : TwOut :=
  let s := modBus b (fun x => { x with run := none, arbLost := x.arbLost + 1 })
    { s with tw := { s.tw with sticky := stick 2 s.tw.sticky } }
  let x := endOrRetry b 6 r (s, [])
  match observed with
  | some o =>
    if o / 2 = valReady (Obj.TW_OWN_ADDRESS b) s ∧ valReady (Obj.TW_TARGET_ENABLE b) s ≠ 0 then
      (modBus b (fun y => { y with state := .target, won := some (decide (o % 2 = 1)) }) x.1, x.2)
    else twAfter b x
  | none => twAfter b x

/-- A poll of a sensor whose bit of TW_SENSOR_MASK has been cleared while it waited is not run. -/
def stillDue (b : Nat) (s : State) (j : TwJob) : Bool :=
  match j.work with
  | .poll k => bitOf (val Obj.TW_SENSOR_MASK s) (8 * b + k)
  | _ => true

/-- On a free bus the next transaction begins, in order of arrival (R421, R422); a timing field written before is then in force
(R420). -/
def twStart (b : Nat) (s : State) : State :=
  if (busOf b s).state ≠ .idle then s
  else
    match (busOf b s).jobs.filter (stillDue b s) with
    | [] => modBus b (fun x => { x with jobs := [] }) s
    | j :: t =>
      let s := modBus b (fun x => { x with
        state := .controller, jobs := t, timing := twFields b s, run := some ⟨j, twScriptOf j.work s, 0, [], none⟩ }) s
      if j.work = .host then { s with tw := { s.tw with resultState := 2 } } else s

/-- The transaction in progress goes on for the steps of the operand. -/
def twCarry (b : Nat) (seen : List TwSeen) (s : State) : TwOut :=
  match (busOf b s).run with
  | none => (s, [])
  | some r =>
    match twSteps seen r with
    | .going r' => (modBus b (fun x => { x with run := some r' }) s, [])
    | .done r' => twAfter b (twEnds b r' (modBus b (fun x => { x with run := none }) s))
    | .lost r' o => loseArbitration b r' o s

/-- TW_TRANSACTION: the next transaction of the bus, or the one in progress. -/
def twTransaction (b : Nat) (seen : List TwSeen) (s : State) : State := twLog (twCarry b seen (twStart b s))

/-- The row TW_TRANSACTION. -/
def execTwTransaction (b : Fin 2) (seen : List TwSeen) (s : State) : Host.Outcome State Fault Refusal :=
  .next (twTransaction b.val seen s)

/-- TW_STRETCH_TIMEOUT: after the steps of the operand SCL stays low; the transaction ends BUS_TIMEOUT and the bus is tested
(R422). -/
def twTimeout (b : Nat) (seen : List TwSeen) (s : State) : State :=
  let x := twCarry b seen (twStart b s)
  match (busOf b x.1).run with
  | none => twLog x
  | some r =>
    let s := modBus b (fun y => { y with run := none, timeouts := y.timeouts + 1 }) x.1
    let events := if bitOf s.tw.sticky 3 then [] else [⟨0x0D00, b, []⟩]
    let x := endOrRetry b 8 r ({ s with tw := { s.tw with sticky := stick 3 s.tw.sticky } }, events)
    twLog (if (busOf b x.1).next = some .off then twOff b x else (twTest b x.1, x.2))

/-- The row TW_STRETCH_TIMEOUT. -/
def execTwStretchTimeout (b : Fin 2) (seen : List TwSeen) (s : State) : Host.Outcome State Fault Refusal :=
  .next (twTimeout b.val seen s)

/-- TW_SENSOR_POLL: a poll arrives, and is the bus's next transaction where none waits. On a bus that is stuck or out of use it
fails (log entry 57). -/
def twPoll (b sensor : Nat) (seen : List TwSeen) (s : State) : State :=
  if !domainOn 19 s || !bitOf (val Obj.TW_SENSOR_MASK s) (8 * b + sensor) then s
  else if !twUsable b s then twLog (pollFailed (8 * b + sensor) (s, []))
  else
    let first := decide ((busOf b s).state = .idle) && (busOf b s).jobs.isEmpty
    let s := addJob b ⟨.poll sensor, 0⟩ s
    if first then twTransaction b seen s else s

/-- The row TW_SENSOR_POLL. -/
def execTwSensorPoll (b : Fin 2) (sensor : Fin 8) (seen : List TwSeen) (s : State) : Host.Outcome State Fault Refusal :=
  .next (twPoll b.val sensor.val seen s)

/-- Entry to FAULT: the repetitions of R427 that remain are not run (18 R440), and their work is given up. -/
def twRetriesEnd (s : State) : State :=
  twLog ([0, 1].foldl (fun x b =>
    let late := (busOf b x.1).jobs.filter (fun j => decide (j.tries ≠ 0))
    let s := modBus b (fun y => { y with jobs := y.jobs.filter (fun j => decide (j.tries = 0)) }) x.1
    late.foldl (fun x j => dropWork b false j.work x) (s, x.2)) (s, []))

/-! ## The bus test (R423) -/

/-- What the controller drives in a test: up to nine clocks while SDA is low, until the first high sample, then a START and a STOP;
and the line found held, 0 SCL or 1 SDA (log entry 56). A sample that the operand does not give is low. -/
def twTestRun (t : TwTest) : List TwDrive × Option Nat :=
  let clocks := if t.sda then 0 else (t.clocks.take 9).takeWhile (fun x => !x) |>.length
  let released := t.sda || (t.clocks.take 9).any id
  if !t.scl then ([], some 0)
  else if !released then (List.replicate 9 .clock, some 1)
  else
    (List.replicate (if t.sda then 0 else clocks + 1) .clock ++ [.start, .stop], if t.held then none else some 1)

/-- The bus is stuck (R424); the line held is 0 SCL, 1 SDA (log entry 56). -/
def twStuck (b line : Nat) (s : State) : State :=
  let jobs := (busOf b s).jobs
  let s := modBus b (fun x => { x with state := .stuck, jobs := [], stuckCount := x.stuckCount + 1 }) s
  let s := { s with tw := { s.tw with sticky := stick 5 s.tw.sticky } }
  twLog (jobs.foldl (fun x j => dropWork b true j.work x) (s, [⟨0x0D01, b, leBytes 1 line⟩]))

/-- TW_BUS_TEST: the test ends. -/
def twTested (b : Nat) (t : TwTest) (s : State) : State :=
  if (busOf b s).state ≠ .testing then s
  else
    let (driven, held) := twTestRun t
    let s := modBus b (fun x => { x with driven := driven }) s
    match held with
    | none => twFree b s
    | some line => twStuck b line s

/-- The row TW_BUS_TEST. -/
def execTwBusTest (b : Fin 2) (result : TwTest) (s : State) : Host.Outcome State Fault Refusal := .next (twTested b.val result s)

/-- TW_ENABLE: clearing it releases the lines after the transaction in progress, setting it runs the bus test. -/
def writeTwEnable (b v : Nat) (s : State) : WriteOut :=
  if 1 < v then .abort abortRange s
  else
    let was := flagVal (Obj.TW_ENABLE b) s
    let s := setVal (Obj.TW_ENABLE b) v s
    let busy := decide ((busOf b s).state = .controller) || decide ((busOf b s).state = .target)
    if v = 0 then
      .ok (if busy then modBus b (fun x => { x with next := some .off }) s else twLog (twOff b (s, [])))
    else if was then .ok s
    else .ok (if busy then modBus b (fun x => { x with next := some .testing }) s else twTest b s)

/-- The row TW_ENABLE_WRITE. -/
def execTwEnableWrite (via : Path) (b : Fin 2) (v : BitVec 8) (s : State) : Host.Outcome State Fault Refusal :=
  writeCommand via (fun s => (writeTwEnable b.val v.toNat s).noted) s

/-- PD19 powers up: the pointers are 0, and the bus test of each bus in use runs (R423, R429). -/
def twPowerUp (s : State) : State :=
  [0, 1].foldl (fun s b =>
    let s := modBus b (fun x => { x with pointer := 0, state := .off }) s
    if flagVal (Obj.TW_ENABLE b) s then twTest b s else s) s

/-! ## The device as target (R429, R430) -/

/-- Bytes written after the pointer. -/
def twStore : List Byte → BitVec 8 → List Byte → List Byte × BitVec 8
  | [], p, scratch => (scratch, p)
  | x :: t, p, scratch =>
    twStore t (p + 1) (if 128 ≤ p.toNat then setAt scratch (p.toNat - 128) x else scratch)

/-- A byte of the window. -/
def twByte (p : BitVec 8) (s : State) : Byte :=
  if p.toNat < 128 then s.tw.window.getD p.toNat 0 else s.tw.scratch.getD (p.toNat - 128) 0

/-- What a transaction that the device serves does: the first byte written sets the pointer, later ones are stored from it on; a
read returns bytes from the pointer on (R429). -/
def twServe (b : Nat) (tr : TwTransfer) (s : State) : State :=
  let x := busOf b s
  match tr with
  | .write [] => s
  | .write (q :: rest) =>
    let (scratch, p) := twStore rest q s.tw.scratch
    modBus b (fun x => { x with pointer := p }) { s with tw := { s.tw with scratch := scratch } }
  | .read n =>
    let bytes := (List.range n).map (fun i => twByte (x.pointer + BitVec.ofNat 8 i) s)
    modBus b (fun x => { x with pointer := x.pointer + BitVec.ofNat 8 n, served := bytes }) s

/-- The direction of a transfer is a read. -/
def transferReads : TwTransfer → Bool
  | .write _ => false
  | .read _ => true

/-- TW_TARGET_TRANSACTION: one transaction of another controller, which the device serves where the address is its own. After a
loss to its own address (R426) it is the one whose address byte was observed. -/
def twTarget (b : Nat) (address : Nat) (tr : TwTransfer) (s : State) : State :=
  let x := busOf b s
  let heard := match x.state with
    | .idle => true
    | .target => decide (x.won = some (transferReads tr))
    | _ => false
  if !heard || !domainOn 19 s || decide (valReady (Obj.TW_TARGET_ENABLE b) s = 0)
      || decide (address ≠ valReady (Obj.TW_OWN_ADDRESS b) s) then s
  else
    let s := modBus b (fun x => { x with
      served := [], targetCount := x.targetCount + 1, timing := if x.state = .idle then twFields b s else x.timing }) s
    twLog (twAfter b (twServe b tr s, []))

/-- The row TW_TARGET_TRANSACTION. -/
def execTwTargetTransaction (b : Fin 2) (address : BitVec 7) (transfer : TwTransfer) (s : State) :
    Host.Outcome State Fault Refusal :=
  .next (twTarget b.val address.toNat transfer s)

/-- Bytes 0x00 to 0x7F of the window (Table 17.6). -/
def twWindow (s : State) : List Byte :=
  let first := match s.ev.first with
    | some e => e.code
    | none => 0
  padTo 128 (leBytes 1 0x96 ++ leBytes 1 s.modes.mode.code ++ leBytes 2 (toRaw 16 (tjMax s).1) ++ leBytes 2 first
    ++ leBytes 1 s.pwr.gov.level ++ leBytes 1 (val Obj.STREAM_ID s) ++ leBytes 8 s.otp.serial)

/-- The row TW_WINDOW_REFRESH. -/
def execTwWindowRefresh (s : State) : Host.Outcome State Fault Refusal :=
  .next (if domainOn 19 s then { s with tw := { s.tw with window := twWindow s } } else s)

/-- A dictionary write of TW_TARGET_SCRATCH: the whole scratch (R430). -/
def writeTwScratch (data : List Byte) (s : State) : WriteOut :=
  if data.length ≠ 128 then .abort abortLength s else .ok { s with tw := { s.tw with scratch := data } }

/-! ## Status -/

/-- TW_STATUS. -/
def twStatus (s : State) : Nat :=
  bitsOf [decide ((busOf 0 s).state = .stuck), decide ((busOf 1 s).state = .stuck), bitOf s.tw.sticky 2,
    bitOf s.tw.sticky 3, bitOf s.tw.sticky 4, bitOf s.tw.sticky 5]

/-- TW_STATUS_CLEAR. -/
def writeTwClear (v : Nat) (s : State) : WriteOut := .ok { s with tw := { s.tw with sticky := unstick s.tw.sticky v } }

/-- The row TW_STATUS_CLEAR. -/
def execTwStatusClear (via : Path) (v : BitVec 16) (s : State) : Host.Outcome State Fault Refusal :=
  writeCommand via (writeTwClear v.toNat) s

end Sys2Proof.Machine
end

