-- ==== Sys2Proof/Machine/Fault.lean ====
section
/-! DEFINITION. The governor's level (14_power_clocks R371 to R373), the power domains (R360 to R363), and the entry to
FAULT (01_architecture R29, R30; 18_errors R440). -/
namespace Sys2Proof.Machine

/-! ## The governor's level -/

/-- The highest level that a mode permits (R372). -/
def govHighest (m : Mode) (s : State) : Nat :=
  match m with
  | .sheet => 3
  | .ready => if flagVal Obj.GOV_ALLOW_HALF_RES s then 2 else 1
  | .inline => if flagVal Obj.GOV_ALLOW_HALF_RES s then 2 else 1
  | .standby => 1
  | .fault => 1
  | .off => 0

/-- The level and the speed cap take values: below level 3 the cap is 100 %, and half resolution is asked for from the
next page at level 2 and above (R371, R373). -/
def setGov (level cap : Nat) (s : State) : State :=
  let g := s.pwr.gov
  let times := match g.deferredFrom with
    | none => (g.deferred, if level = 0 then none else some s.clk)
    | some t => if level = 0 then (g.deferred + (s.clk - t), none) else (g.deferred, some t)
  let g' : Governor := { g with
    level := level, cap := if level < 3 then 100 else cap, deferred := times.1, deferredFrom := times.2,
    sticky := if level = 3 then stick 5 g.sticky else g.sticky }
  let half := decide (2 ≤ level) && flagVal Obj.GOV_ALLOW_HALF_RES s
  { s with pwr := { s.pwr with gov := g' }, cmp := { s.cmp with halfWanted := half } }

/-- The level falls at once, and a step that has not taken effect is given up with it (R373). -/
def lowerGov (level : Nat) (s : State) : State :=
  if level < s.pwr.gov.level then
    let s := setGov level 100 s
    { s with pwr := { s.pwr with gov := { s.pwr.gov with pendingStep := none } } }
  else s

/-- A mode change: a level above the highest of the new mode falls to it. -/
def govMode (m : Mode) (s : State) : State := lowerGov (govHighest m s) s

/-! ## Power domains (Table 1.10) -/

/-- A group with an enabled port. -/
def groupEnabled (k : Nat) (s : State) : Bool := (List.range 12).any (fun i => portEnabled (12 * k + i) s)

/-- A channel is populated, by the geometry in force (09 R215). -/
def channelPresent (c : Nat) (s : State) : Bool :=
  if c = 0 then true else decide (valReset Obj.DRAM_CH1_CAPACITY s ≠ 0)

/-- PDd is on in READY, INLINE and SHEET. -/
def domainInReady (d : Nat) (s : State) : Bool :=
  if d ≤ 3 ∨ d = 12 ∨ d = 13 ∨ d = 17 ∨ d = 19 then true
  else if d ≤ 11 then groupEnabled (d - 4) s
  else if d = 14 then flagVal Obj.CMP_ENABLE s
  else if d = 15 then channelPresent 0 s
  else if d = 16 then channelPresent 1 s
  else if d = 18 then decide (256 ≤ streamVal Obj.LANE_ENABLE s)
  else false

/-- PDd is on in a mode. -/
def domainIn (m : Mode) (d : Nat) (s : State) : Bool :=
  match m with
  | .off => decide (d = 0)
  | .standby => [0, 1, 3, 17, 19].contains d
  | .fault => [0, 1, 2, 3, 17, 19].contains d || (decide (d = 15 ∨ d = 16) && channelPresent (d - 15) s)
  | _ => domainInReady d s

/-- What a domain loses as it goes off (Table 14.3). -/
def domainLoses (d : Nat) (s : State) : State :=
  if d = 2 then pcOff s
  else if 4 ≤ d ∧ d ≤ 11 then groupOff (d - 4) 3 s
  else if d = 12 then
    let s := disarm (discardLines s)
    { s with tim := { s.tim with
        words := [], pc := 0, cnt := [0, 0, 0, 0], atLine := false, pagePending := [], pageNow := false,
        encoders := s.tim.encoders.map (fun e => { e with recent := [], lastCount := none }) } }
  else if d = 13 then discardLines s
  else if d = 14 then abandonCompare s
  else if d = 18 then (List.range 8).foldl (fun s i => loseLock (8 + i) s) s
  else s

/-- PDd goes off; where a send waits for a ring in it, it powers up again (16 R394). -/
def domainOff (d : Nat) (s : State) : State :=
  if domainOn d s || poweringUp d s then
    let s := if domainOn d s then domainLoses d s else s
    rewake { s with pwr := { s.pwr with
        domains := s.pwr.domains &&& ~~~(1#20 <<< d), powering := s.pwr.powering &&& ~~~(1#20 <<< d) } }
  else s

/-- The order of R361: PD02, PD12, PD13, PD15, PD16, PD18, PD14, then the groups. -/
def powerOrder : List Nat := [2, 12, 13, 15, 16, 18, 14, 4, 5, 6, 7, 8, 9, 10, 11]

/-- The domains that a mode does not keep on go off, in the reverse of that order. -/
def domainsDown (m : Mode) (s : State) : State :=
  powerOrder.reverse.foldl (fun s d => if domainIn m d s then s else domainOff d s) s

/-! ## Entry to FAULT -/

/-- A transition that runs is abandoned by a FATAL event (R29). -/
def abandonTransition (s : State) : State :=
  { s with modes := { s.modes with status := if s.modes.trans.isSome then 2 else s.modes.status, trans := none } }

/-- The domains that FAULT has on and that are off, in FAULT from STANDBY, begin to power up (Table 1.10; log entry 82). -/
def faultDomains (s : State) : State :=
  powerOrder.foldl (fun s d => if domainIn .fault d s then wakeDomain d s else s) s

/-- What the entry to FAULT stops and discards (R30). -/
def faultActions (s : State) : State :=
  let s := abandonMeasure (abandonCapture true (discardLines (disarm s)))
  let s := abandonGroups 4 s
  let s := discardStream (weirEnd s)
  let s := stopChannels (abortUpload (abandonCompare s))
  motionFault (twRetriesEnd (lampsOff s))

/-- ENTER_FAULT: in FAULT already, only a transition that runs is abandoned (R29, R440). -/
def enterFault (s : State) : State :=
  if s.modes.mode = .off then s
  else if s.modes.mode = .fault then abandonTransition s
  else
    let s := faultActions (abandonTransition s)
    let s := { s with modes := { s.modes with mode := .fault, changeTime := s.now } }
    govMode .fault (faultDomains (domainsDown .fault s))

/-- Events of one command are logged, and a FATAL one among them takes the device to FAULT; what the FAULT actions log falls in the
same cycle (18 R438). -/
def raise (l : List Event) (s : State) : State :=
  if l.any (fun e => decide (e.cls = 3)) then inOneCycle (fun s => enterFault (logEvents l s)) s else logEvents l s

/-- The conditions that hold among those of some codes, as 65536 × code + source: a condition not raised before is an
event, and one that has cleared may be raised again (R441; log entry 54). -/
def raiseConditions (codes : List Nat) (now : List Event) (others : List Event) (s : State) : State :=
  let key (e : Event) : Nat := 65536 * e.code + e.source
  let kept := s.pwr.raised.filter (fun x => !codes.contains (x / 65536) || (now.map key).contains x)
  let new := now.filter (fun e => !kept.contains (key e))
  raise (new ++ others) { s with pwr := { s.pwr with raised := kept ++ new.map key } }

/-! ## Causes of FATAL events (Table 18.4) -/

/-- The window of a monitor of Table 14.2, in mV. -/
def voltWindow (n : Nat) : Nat × Nat :=
  if n = 0 then (5200, 42000)
  else if n = 1 then (4500, 5500)
  else if n ≤ 5 then (705, 795)
  else if n ≤ 7 then (1045, 1155)
  else if n = 8 then (1656, 1944)
  else if n = 9 then (3036, 3564)
  else if n ≤ 17 then (1710, 1890)
  else if n = 18 then (855, 945)
  else (0, 65535)

def voltOf (n : Nat) (s : State) : Nat := s.pwr.volts.getD n 0

/-- A reading outside its window. -/
def voltBad (n : Nat) (s : State) : Bool :=
  decide (voltOf n s < (voltWindow n).1) || decide ((voltWindow n).2 < voltOf n s)

/-- The pairs of VM02 to VM05 that are more than 5 % apart, of the lower reading (log entry 58). -/
def imbalanced (s : State) : List (Nat × Nat) :=
  [(2, 3), (2, 4), (2, 5), (3, 4), (3, 5), (4, 5)].filter (fun p =>
    let a := voltOf p.1 s
    let b := voltOf p.2 s
    decide (5 * min a b < 100 * (max a b - min a b)))

/-- The RAIL_IMBALANCE and RAIL_FAULT conditions on the readings. -/
def railConditions (s : State) : List Event :=
  (imbalanced s).map (fun p => ⟨0x0B01, 256 * p.1 + p.2, []⟩)
    ++ ([6, 7, 9, 18].filter (fun n => voltBad n s && (decide (n ≠ 6 ∧ n ≠ 7) || channelPresent (n - 6) s))).map
      (fun n => ⟨0x0B02, n, []⟩)

/-- The neighbours of R368. -/
def neighbours : List (Nat × Nat) :=
  [(0, 20), (0, 21), (1, 2), (1, 20), (2, 12), (2, 13), (3, 4), (3, 20), (3, 21), (4, 5), (5, 6), (6, 7), (7, 8), (8, 9),
   (9, 10), (10, 11)] ++
  [(11, 12), (12, 13), (13, 14), (13, 16), (13, 22), (14, 15), (14, 17), (14, 22), (15, 18), (15, 23), (16, 22), (17, 23),
   (18, 19), (19, 23), (22, 23)]

def tempOf (n : Nat) (s : State) : Int := s.pwr.temps.getD n 0

/-- The difference of two neighbours, in 0.01 °C. -/
def gradient (p : Nat × Nat) (s : State) : Nat := (tempOf p.1 s - tempOf p.2 s).natAbs

/-- The THERMAL_GRADIENT and THERMAL_LIMIT conditions on the readings (R368, R369). -/
def thermalConditions (s : State) : List Event :=
  (neighbours.filter (fun p => decide (2500 < gradient p s))).map (fun p => ⟨0x0B07, 256 * p.1 + p.2, []⟩)
    ++ (if sval 16 Obj.TJ_LIMIT s ≤ (tjMax s).1 then [⟨0x0B08, (tjMax s).2, []⟩] else [])

/-- PLL0 to PLL4 unlocked; PLL4 feeds channel 1 alone. -/
def pllConditions (s : State) : List Event :=
  ((List.range 5).filter (fun n => !s.pwr.pllLocked.getLsbD n)).map (fun n => ⟨0x0B05, n, []⟩)

/-- A channel that is configured present has failed training (R215); only a reset clears it. -/
def trainingBad (s : State) : Bool :=
  match s.boot.trained with
  | some (a, b) => (channelPresent 0 s && !a) || (channelPresent 1 s && !b)
  | none => false

/-- The cause of a FATAL event has not cleared (R442, R445). Before the first sample of the voltage monitors no rail is
judged. -/
def causeActive (s : State) : Bool :=
  trainingBad s || s.boot.sectionBad || (decide (voltOf 0 s ≠ 0) && !(railConditions s).isEmpty)
    || !(thermalConditions s).isEmpty || !(pllConditions s).isEmpty

/-! ## Domains that come on (R363) -/

/-- A section of the booted image that fails its digest (R383). -/
def sectionBad (source : Nat) (s : State) : State :=
  raise [⟨0x0C02, source, []⟩] { s with boot := { s.boot with sectionBad := true } }

/-- The MC starts from its section, or stays in reset (R383, R392). -/
def startMc (s : State) : State :=
  if sectionOk 2 s then { s with mot := { s.mot with mcHeld := false } }
  else sectionBad 2 (emptyRings [4, 6] { s with mot := { s.mot with mcHeld := true } })

/-- What the MP does as a domain comes on. With PD12 the timing engine starts, in READY as well: the first trigger point of the
encoder divider lies LINE_DIVIDER beyond the position then (DESIGN CHOICE, log entry 166: 03 R73 names the arming of
capture alone). -/
def domainGains (d : Nat) (s : State) : State :=
  if d = 2 then
    if sectionOk 1 s then { s with mot := { s.mot with pcHeld := false } } else sectionBad 1 (holdPc s)
  else if d = 3 then startMc s
  else if 4 ≤ d ∧ d ≤ 11 then
    let k := d - 4
    let s := modGroup k (fun g => { g with
      vbias := Output.reset (val (Obj.GROUP_VBIAS k) s), vrst := Output.reset (val (Obj.GROUP_VRST k) s) }) s
    let s := (List.range 12).foldl (fun s i => modPort (12 * k + i) (fun p => { p with
      clearing := p.clearing.map (fun _ => 0), suspect := none, released := 0, satLine := true, satBefore := none,
      level := none }) s) s
    let s := takePhases k s
    groupOn k s
  else if d = 12 then
    let s := { s with tim := { s.tim with encoders := s.tim.encoders.map (fun e =>
      { e with position := e.posWrite.getD e.position, posWrite := none, recent := [], lastCount := none }) } }
    armPoint (loadSelection (val Obj.PROGRAM_SELECT s) s)
  else if d = 19 then twPowerUp s
  else s

/-- PDd is on. -/
def domainUp (d : Nat) (s : State) : State :=
  domainGains d { s with pwr := { s.pwr with
    domains := s.pwr.domains ||| (1#20 <<< d), powering := s.pwr.powering &&& ~~~(1#20 <<< d) } }

/-- Whether a domain that powers up is the next in the order of R361, which holds on STANDBY to READY. -/
def powersNext (d : Nat) (s : State) : Bool :=
  s.modes.trans.isNone || decide ((powerOrder.find? (fun x => poweringUp x s)) = some d) || !powerOrder.contains d

/-- DOMAIN_POWER_UP: a domain that powers up comes on. -/
def domainPowerUp (d : Nat) (s : State) : State :=
  if running s && poweringUp d s && powersNext d s then domainUp d s else s

/-- The row DOMAIN_POWER_UP. -/
def execDomainPowerUp (d : Fin 20) (s : State) : Host.Outcome State Fault Refusal := .next (domainPowerUp d.val s)

/-- The write of CMP_ENABLE powers PD14 up or down in READY, INLINE and SHEET (Table 14.3). -/
def comparePower (s : State) : State :=
  if !imaging s then s
  else if flagVal Obj.CMP_ENABLE s then wakeDomain 14 s
  else if capturing s then s
  else domainOff 14 (drainBands s.cmp.queue.length s)

end Sys2Proof.Machine
end

