-- ==== Sys2Proof/Machine/Modes.lean ====
section
/-! DEFINITION. The device modes (01_architecture R24 to R33): requests, transitions, and the loss of the last session. -/
namespace Sys2Proof.Machine

/-! ## Requests -/

/-- EtherCAT Op or an open TSP session (R31). -/
def hasSession (s : State) : Bool := inOp s || decide (s.host.session ≠ 0)

/-- A refused request: MODE_REFUSAL, and MODE_STATUS where no transition runs (R27). -/
def refuseMode (code : Nat) (s : State) : State :=
  { s with modes := { s.modes with
      refusal := code, status := if s.modes.trans.isNone then code else s.modes.status } }

/-- What a request for another mode comes to: a refusal of Table 1.8, or none where its transition starts. -/
def judgeRequest (target : Mode) (s : State) : Option Nat :=
  match s.modes.mode, target with
  | .fault, t =>
    if s.ev.first.isSome then some 0x14
    else if causeActive s then some 0x15
    else if t = .standby then none else some 0x11
  | .standby, .ready => if hasSession s then none else some 0x12
  | .ready, .standby => none
  | .ready, .inline =>
    if !hasSession s then some 0x12 else if selectionEmpty (val Obj.PROGRAM_SELECT s) s then some 0x13 else none
  | .ready, .sheet =>
    if !hasSession s then some 0x12
    else if selectionEmpty (val Obj.PROGRAM_SELECT s) s || (transportAxes s).isEmpty then some 0x13 else none
  | .inline, .ready => none
  | .sheet, .ready => none
  | _, _ => some 0x11

/-- A transition runs (R25). -/
def setTransition (t : Transition) (s : State) : State :=
  { s with modes := { s.modes with status := 1, trans := some t } }

/-! ## Starts of the transitions (Table 1.9) -/

/-- STANDBY to READY: the objects that wait for it come into force, and the domains power up. -/
def startReady (s : State) : State :=
  let s := { s with dict := { s.dict with atReady := s.dict.held, bulkAtReady := s.dict.bulk } }
  powerOrder.foldl (fun s d => if domainIn .ready d s then wakeDomain d s else s) s

/-- READY to STANDBY: lamps off, the timing program stops, captures, uploads and host channels end. -/
def startStandby (s : State) : State :=
  let s := abandonMeasure (abandonCapture false (lampsOff s))
  let s := closeReference (discardLines (disarm { s with tim := { s.tim with words := [] } }))
  stopChannels (abortUpload s)

/-- INLINE or SHEET to READY: capture stops at the end of the line in progress, in SHEET at standstill (R311). -/
def startStop (s : State) : State :=
  let s := abandonCapture false s
  if s.modes.mode = .sheet then pacerRelease s else disarm s

/-- The actions with which a transition leaves the present mode for another. -/
def startActions (target : Mode) (s : State) : State :=
  match s.modes.mode, target with
  | .standby, .ready => startReady s
  | .ready, .standby => startStandby s
  | .ready, _ => abandonCapture false s
  | .inline, _ => startStop s
  | .sheet, _ => startStop s
  | .fault, _ => startMc s
  | _, _ => s

/-- A transition starts with its actions; an event among them may abandon it (R29). -/
def startTransition (t : Transition) (s : State) : State := inOneCycle (startActions t.target) (setTransition t s)

/-- MODE_REQUEST with a code that names a requestable mode. -/
def writeModeRequest (target : Mode) (s : State) : WriteOut :=
  if s.modes.trans.isSome then .abort abortState (refuseMode 0x10 s)
  else
    let s := { s with modes := { s.modes with request := target.code } }
    if s.modes.mode = target then .ok { s with modes := { s.modes with status := 0 } }
    else match judgeRequest target s with
      | some code => .ok (refuseMode code s)
      | none => .ok (startTransition ⟨target, false, false⟩ s)

/-- MODE_REQUEST with any other code (R28); a running transition refuses it as busy (R27). -/
def writeModeInvalid (s : State) : WriteOut :=
  if s.modes.trans.isSome then .abort abortState (refuseMode 0x10 s) else .abort abortRange (refuseMode 0x11 s)

/-- The mode that a code of MODE_REQUEST names. -/
def requestableMode (code : Nat) : Option Mode :=
  match code with
  | 1 => some .standby
  | 2 => some .ready
  | 3 => some .inline
  | 4 => some .sheet
  | _ => none

/-- A write of MODE_REQUEST. -/
def writeMode (code : Nat) (s : State) : WriteOut :=
  match requestableMode code with
  | some m => writeModeRequest m s
  | none => writeModeInvalid s

/-- The row MODE_REQUEST_STANDBY. -/
def execModeRequestStandby (via : Path) (s : State) : Host.Outcome State Fault Refusal :=
  writeCommand via (writeModeRequest .standby) s

/-- The row MODE_REQUEST_READY. -/
def execModeRequestReady (via : Path) (s : State) : Host.Outcome State Fault Refusal :=
  writeCommand via (writeModeRequest .ready) s

/-- The row MODE_REQUEST_INLINE. -/
def execModeRequestInline (via : Path) (s : State) : Host.Outcome State Fault Refusal :=
  writeCommand via (writeModeRequest .inline) s

/-- The row MODE_REQUEST_SHEET. -/
def execModeRequestSheet (via : Path) (s : State) : Host.Outcome State Fault Refusal :=
  writeCommand via (writeModeRequest .sheet) s

/-- The row MODE_REQUEST_INVALID; a code that is requestable is a request. -/
def execModeRequestInvalid (via : Path) (code : BitVec 8) (s : State) : Host.Outcome State Fault Refusal :=
  writeCommand via (writeMode code.toNat) s

/-! ## Ends of the transitions -/

/-- Learning of TONE_REF begins where it is 0: at the entry to READY, or at a write of 0 (02 R51). A window that has begun by
then is not counted. -/
def learnPort (p : Nat) (s : State) : State :=
  if val (Obj.TONE_REF p) s = 0 then
    let g := groupOf (groupOfPort p) s
    let opened := g.windowOpen.isSome && decide (g.lastPulse + g.lastReadout ≤ 1000 * s.now)
    modPort p (fun x => { x with learning := some (0, Frac.zero), learnSkip := opened }) s
  else modPort p (fun x => { x with learning := none, learnSkip := false }) s

/-- READY is reached from STANDBY: layout, configuration, lamps off of any drive, and the timing program (R25). -/
def enterReady (s : State) : State :=
  let s := leavenReady (lampsReady (axesReady (placeLayout s)))
  (List.range 96).foldl (fun s p => learnPort p s) s

/-- INLINE or SHEET ends (R26, 08 R211): complete lines are committed, the rest is discarded, and the pages end. -/
def endRunMode (s : State) : State :=
  let s := closeReference (closePlace (drainLines (disarm s)))
  let s := endCompare (abandonMeasure s)
  let s := if s.modes.mode = .sheet then pacerLeft (weirEnd s) else s
  { s with host := { s.host with admission := Admission.reset } }

/-- The entry to INLINE or SHEET: the lines of READY leave the hold, reference lines of a capture among them; deferred objects come into force, y is 0 and capture is armed (R4, R156, R184). -/
def enterRun (target : Mode) (s : State) : State :=
  let s := closeReference (drainLines s)
  let s := { s with
    dict := { s.dict with atRun := s.dict.held }, host := { s.host with admission := Admission.reset },
    pipe := { s.pipe with afterBreak := true, missed := none, lastRed := none, stage6 := [] } }
  let s := armRun (startCompare s)
  if target = .sheet then pacerTake (weirBegin s) else s

/-- What a transition needs before it completes. -/
def transitionReady (t : Transition) (s : State) : Bool :=
  match s.modes.mode, t.target with
  | .standby, .ready => decide (s.pwr.powering = 0)
  | .inline, _ => !s.tim.lineActive && s.tim.due.all (fun l => l.isEmpty)
  | .sheet, _ => groupStands s && !s.tim.lineActive && s.tim.due.all (fun l => l.isEmpty)
  | _, _ => true

/-- The actions that complete a transition, with the mode still the old one. -/
def endActions (target : Mode) (s : State) : State :=
  match s.modes.mode, target with
  | .standby, .ready => enterReady s
  | .ready, .inline => enterRun .inline s
  | .ready, .sheet => enterRun .sheet s
  | .inline, _ => endRunMode s
  | .sheet, _ => endRunMode s
  | .fault, _ => motionResume s
  | _, _ => s

/-- The tracked level of every port starts anew on the entry to READY (02 R43). -/
def restartLevels (s : State) : State :=
  { s with fe := { s.fe with ports := s.fe.ports.map (fun x => { x with level := none }) } }

/-- The new mode is reached: a capture requested since the transition began is abandoned as its mode is left (05 R129). HOLD that is active on the entry to SHEET is a stop (03 R81, 10 R268). -/
def reachMode (m : Mode) (s : State) : State :=
  let s := govMode m { abandonCapture false s with modes := { s.modes with mode := m, changeTime := s.now } }
  match m with
  | .standby => domainsDown .standby (drainBands s.cmp.queue.length (stopChannels (abortUpload s)))
  | .ready => comparePower (switchEffect (restartLevels s))
  | .sheet => if holding s then weirStop s else s
  | _ => s

/-- MODE_TRANSITION_DONE: the running transition completes; from INLINE or SHEET, READY to STANDBY follows at once where the
last session was lost (R31). -/
def transitionDone (s : State) : State :=
  match s.modes.trans with
  | none => s
  | some t =>
    if !transitionReady t s then s
    else
      let s := inOneCycle (fun s => reachMode t.target (endActions t.target s)) s
      let s := { s with modes := { s.modes with trans := none, status := if t.abandoned then 2 else 0 } }
      if t.thenStandby then startTransition ⟨.standby, false, t.abandoned⟩ s else s

/-- The row MODE_TRANSITION_DONE. -/
def execModeTransitionDone (s : State) : Host.Outcome State Fault Refusal := .next (transitionDone s)

/-! ## Sessions (R31, 10 R254) -/

/-- LAST_SESSION_LOST: the loss of a session takes the device toward STANDBY where none remains. -/
def sessionLost (s : State) : State :=
  if hasSession s then s
  else match s.modes.trans with
    | none =>
      match s.modes.mode with
      | .ready => startTransition ⟨.standby, false, false⟩ s
      | .inline => startTransition ⟨.ready, true, false⟩ s
      | .sheet => startTransition ⟨.ready, true, false⟩ s
      | _ => s
    | some t =>
      match s.modes.mode, t.target with
      | .standby, .ready => rewake { (setTransition ⟨.standby, false, true⟩ s) with pwr := { s.pwr with powering := 0 } }
      | .ready, .inline => startTransition ⟨.standby, false, true⟩ s
      | .ready, .sheet => startTransition ⟨.standby, false, true⟩ s
      | .inline, .ready => setTransition ⟨.ready, true, true⟩ s
      | .sheet, .ready => setTransition ⟨.ready, true, true⟩ s
      | _, _ => s

/-- The row SESSION_CLOSE. -/
def execSessionClose (f : Frame) (s : State) : Host.Outcome State Fault Refusal :=
  .next (sessionPacket f (fun s => sessionLost (clearSession s)) s)

/-- SESSION_TIMEOUT: the session ends unheard. -/
def sessionTimeout (s : State) : State :=
  if s.host.session = 0 then s else inOneCycle (fun s => sessionLost (logEvent ⟨0x0800, noSource, []⟩ (clearSession s))) s

/-- The row SESSION_TIMEOUT. -/
def execSessionTimeout (s : State) : Host.Outcome State Fault Refusal := .next (sessionTimeout s)

end Sys2Proof.Machine
end

