-- ==== Sys2Proof/Machine/Pins.lean ====
section
/-! DEFINITION. The signal balls: their internal pulls, their states in OFF and with their domain off (19_pins_package R454, Table
19.3), and the levels on them as far as the spec gives them. -/
namespace Sys2Proof.Machine

/-- The signals of Table 19.3; a differential pair is one signal, named by its positive ball. -/
inductive Signal where
  | tile (port : Nat)
  | tclk (k : Nat)
  | tst (k : Nat)
  | vbias (k : Nat)
  | vrst (k : Nat)
  | avdd (k : Nat)
  /-- VPLL, VAON and VGD. -/
  | supply
  /-- LTRIG, PSYNC, PMARK and HOLD. -/
  | trigger (i : Nat)
  /-- A, B and Z of an encoder. -/
  | encoder (e channel : Nat)
  /-- LCnSDO, LCnCLK, LCnLAT, LGnR, LGnG and LGnB. -/
  | lamp (n i : Nat)
  | lampReturn (n : Nat)
  | ind (i : Nat)
  /-- MaxHk and MaxLk. -/
  | gate (a : Nat)
  /-- MaxSk, MaxBk, MaxIP and MaxIN. -/
  | bridge (a : Nat)
  | mref (a : Nat)
  | mstop
  /-- XSTEPe and XDIRe. -/
  | xstep (e : Nat)
  | xdir (e : Nat)
  | ddrReset (h : Nat)
  /-- CS0_N and CS1_N of a channel. -/
  | ddrSelect (h : Nat)
  | ddr (h : Nat)
  | laneTx (n : Nat)
  | laneRx (n : Nat)
  | laneClock
  /-- ECpTXD0 to TXD3, TXEN, TXCLK. -/
  | miiTx (p i : Nat)
  /-- ECpRXD0 to RXD3, RXDV, RXER, RXCLK. -/
  | miiRx (p i : Nat)
  | link (p : Nat)
  | mdc
  | mdio
  | phyReset
  | scl (b : Nat)
  | sda (b : Nat)
  /-- QSPI_CLK, QSPI_CS_N and QSPI_IO0 to IO3. -/
  | qspi (i : Nat)
  | resetN
  | xtalSel
  | testMode
  | tck
  | tms
  | tdi
  | tdo
  | trst
  /-- BKbHG and BKbLG. -/
  | buckGate (b : Nat)
  | buck (b : Nat)
  deriving DecidableEq, Repr

/-- Internal pulls (Table 19.3): to GND, to the supply, by JEDEC DDR5, or the fail-safe bias with which an open receiver reads 1. -/
inductive Pull where
  | none | down | up | jedec | failSafe
  deriving DecidableEq, Repr

/-- The internal pull of a signal, which stays connected in every state (R454). -/
def Signal.pull : Signal → Pull
  | .tclk _ => .down
  | .tst _ => .down
  | .vbias _ => .down
  | .vrst _ => .down
  | .trigger _ => .down
  | .encoder _ _ => .failSafe
  | .lamp _ _ => .down
  | .lampReturn _ => .down
  | .gate _ => .down
  | .mref _ => .up
  | .mstop => .up
  | .xstep _ => .down
  | .xdir _ => .down
  | .ddrReset _ => .jedec
  | .ddrSelect _ => .jedec
  | .ddr _ => .jedec
  | .miiTx _ _ => .down
  | .miiRx _ _ => .down
  | .link _ => .down
  | .mdc => .down
  | .mdio => .up
  | .phyReset => .down
  | .qspi i => if i = 1 then .up else .none
  | .resetN => .up
  | .xtalSel => .down
  | .testMode => .down
  | .tck => .down
  | .tms => .up
  | .tdi => .up
  | .trst => .down
  | _ => .none

/-- What a ball does. -/
inductive BallState where
  | highZ
  | low
  | high
  /-- A sink or a lane that is off. -/
  | off
  | discharged
  /-- An open-drain line that is released. -/
  | released
  /-- Held for self-refresh by keepers on VDDQ. -/
  | kept
  /-- An input, or a ball whose reset state Table 19.3 leaves to its own supply. -/
  | input
  /-- As its home chapter gives. -/
  | active
  deriving DecidableEq, Repr

/-- The OFF column of Table 19.3 (15 R378). -/
def Signal.offState : Signal → BallState
  | .tile _ => .highZ
  | .tclk _ => .highZ
  | .tst _ => .low
  | .vbias _ => .highZ
  | .vrst _ => .highZ
  | .avdd _ => .discharged
  | .supply => .discharged
  | .lamp _ _ => .low
  | .ind _ => .off
  | .gate _ => .low
  | .ddrReset _ => .low
  | .ddrSelect _ => .highZ
  | .ddr _ => .highZ
  | .laneTx _ => .off
  | .laneRx _ => .off
  | .miiTx _ _ => .low
  | .mdc => .low
  | .mdio => .highZ
  | .phyReset => .low
  | .scl _ => .released
  | .sda _ => .released
  | .qspi _ => .highZ
  | .tdo => .highZ
  | .buckGate _ => .low
  | _ => .input

/-- The domain of a signal that can be off in another mode than OFF (Table 1.10), and the state then: the *Domain off* column of
Table 19.3, or the OFF column where that has no state of its own. -/
def Signal.domainOffState : Signal → Option (Nat × BallState)
  | .tile p => some (4 + p / 12, .highZ)
  | .tclk k => some (4 + k, .low)
  | .tst k => some (4 + k, .low)
  | .vbias k => some (4 + k, .highZ)
  | .vrst k => some (4 + k, .highZ)
  | .avdd k => some (4 + k, .discharged)
  | .lamp _ _ => some (12, .low)
  | .ddrReset h => some (15 + h, .high)
  | .ddrSelect h => some (15 + h, .kept)
  | .ddr h => some (15 + h, .highZ)
  | .laneTx n => some (17 + n / 8, .off)
  | .laneRx n => some (17 + n / 8, .off)
  | .scl _ => some (19, .released)
  | .sda _ => some (19, .released)
  | _ => none

/-- Whether the rails are up: a step of the rail sequence, the Starter or the MP runs. -/
def railsUp (s : State) : Bool :=
  match s.boot.phase with
  | .unpowered => false
  | .pinHeld => false
  | .waitRestart => false
  | .lockedOut => false
  | _ => true

/-- The MP has configured the outputs: it runs, or boots and has come to its third order. -/
def configured (s : State) : Bool := running s || decide (s.boot.phase = .booting 3)

/-- What a ball does (R454): as in OFF until the MP configures it, with the exceptions that the table names, then as its domain has
it. TESTMODE keeps every ball as in OFF (R456). -/
def ballState (x : Signal) (s : State) : BallState :=
  if s.boot.phase = .starter && s.boot.testMode then x.offState
  else match x with
  | .ind i =>
    if configured s then .active else if i = 0 ∧ s.pins.ind0 ≠ .level then .active else .off
  | .phyReset => if s.pins.ecPhyReset then .high else .low
  | .qspi _ => if s.pins.qspiDriven then .active else .highZ
  | .tdo => if s.tap.tdo.isSome then .active else .highZ
  | .buckGate _ => if railsUp s then .active else .low
  | .supply => if railsUp s then .active else .discharged
  | x =>
    if !configured s then x.offState
    else match x.domainOffState with
      | some (d, y) => if domainOn d s then .active else y
      | none => if x.offState = .input then .input else .active

/-- The level of the MSTOP ball (R455). -/
def mstopPin (s : State) : Bool := if val Obj.MSTOP_LEVEL s = 0 then !s.mot.mstop else s.mot.mstop

/-- The level that equipment outside drives on a cell of the scan chain, if it drives it. -/
def benchLevel (cell : Nat) (s : State) : Option Bool :=
  match s.bench.balls.find? (fun x => decide (x.1 = cell)) with
  | some x => some x.2
  | none => none

/-- The level of an input whose changes are commands, as the last one left it. -/
def inputLevel (x : Signal) (s : State) : Option Bool :=
  match x with
  | .trigger 0 => some s.tim.ltrigLevel
  | .trigger 3 => some s.tim.holdLevel
  | .encoder e 0 => some (encoderOf e s).a
  | .encoder e 1 => some (encoderOf e s).b
  | .encoder e _ => some (encoderOf e s).z
  | .mref a => some (!(axisOf a s).mref)
  | .mstop => some (mstopPin s)
  | .link p => some (bitOf s.pins.links p)
  | .resetN => some (decide (s.boot.phase ≠ .pinHeld))
  | _ => none

/-- The level of a ball that nothing drives: its pull, where it has one. -/
def pullLevel (x : Signal) : Option Bool :=
  match x.pull with
  | .down => some false
  | .up => some true
  | .failSafe => some true
  | _ => none

/-- The level of the ball of a scan cell, as far as it is known: that of its driver, the device first, or that of its pull. -/
def ballLevel (cell : Nat) (x : Signal) (s : State) : Option Bool :=
  let outside := (benchLevel cell s).orElse (fun _ => pullLevel x)
  match ballState x s with
  | .low => some false
  | .high => some true
  | .off => outside
  | .highZ => outside
  | .released => outside
  | .input => (inputLevel x s).orElse (fun _ => outside)
  | _ => none

/-! ## The scan chain (R457) -/

/-- The signals of the scan chain, in the order of Tables 19.1 and 19.2: tile clocks and tests, axis references and external steps,
MSTOP, lamps, indicators, triggers, encoders, MII, two-wire, flash, RESET_N and straps. The balls of the charge inputs, the lanes, the
DDR5 channels, the gate drives and the buck controllers are not in it, nor are analogue ones (log entry 172). -/
def scanSignals : List Signal :=
  let upTo (n : Nat) (f : Nat → Signal) : List Signal := (List.range n).map f
  upTo 8 .tclk ++ upTo 8 .tst ++ upTo 6 .mref ++ [.xstep 0, .xdir 0, .xstep 1, .xdir 1, .mstop]
    ++ (List.range 4).flatMap (fun n => [.lamp n 0, .lamp n 1, .lamp n 2, .lampReturn n, .lamp n 3, .lamp n 4, .lamp n 5])
    ++ upTo 12 .ind ++ upTo 4 .trigger ++ (List.range 2).flatMap (fun e => upTo 3 (.encoder e))
    ++ (List.range 2).flatMap (fun p => upTo 6 (.miiTx p) ++ upTo 7 (.miiRx p))
    ++ [.mdc, .mdio, .phyReset, .link 0, .link 1, .scl 0, .sda 0, .scl 1, .sda 1]
    ++ upTo 6 .qspi ++ [.resetN, .xtalSel, .testMode]

/-- The cells of the straps. -/
def xtalCell : Nat := scanSignals.length - 2
def testModeCell : Nat := scanSignals.length - 1

/-- A ball that the device can drive: it is no input (Table 19.3). -/
def Signal.drives (x : Signal) : Bool := decide (x.offState ≠ .input)

end Sys2Proof.Machine
end

