-- ==== Sys2Proof/Machine/Reset.lean ====
section
/-! DEFINITION. Reset sources and what a reset keeps (15_startup R376 to R378). -/
namespace Sys2Proof.Machine

/-- Codes of Table 15.1. -/
def causePower : Nat := 0
def causePin : Nat := 1
def causeRail : Nat := 2
def causeThermal : Nat := 3
def causeWatchdog : Nat := 4
def causeSoftware : Nat := 5
def causeUpdate : Nat := 6

/-- Levels of the inputs, which lie outside the device: triggers, encoders, MSTOP and reference switches. The level of MSTOP is
kept, and MSTOP_LEVEL returns to active low (19 R455). -/
def keepInputs (s r : State) : State :=
  let enc (x : Encoder × Encoder) : Encoder := { x.2 with a := x.1.a, b := x.1.b, z := x.1.z }
  let axis (x : Axis × Axis) : Axis := { x.2 with mref := x.1.mref }
  { r with
    tim := { r.tim with
      holdLevel := s.tim.holdLevel, ltrigLevel := s.tim.ltrigLevel, encoders := (s.tim.encoders.zip r.tim.encoders).map enc },
    mot := { r.mot with mstop := !mstopPin s, axes := (s.mot.axes.zip r.mot.axes).map axis } }

/-- The state word of the configuration set of a version is programmed to 0 (12 R343). -/
def revokeIn (v : Nat) (f : Flash) : Flash :=
  { f with config := f.config.map (fun x => match x with
    | .set c => if c.version = v then .set { c with word := 0 } else .set c
    | .empty => .empty) }

/-- The flash after a reset: an update that has not been activated leaves its target without a valid image (16 R414), and
the state word of a revert that runs may or may not have been programmed (12 R347), as `done` says. -/
def keepFlash (cause : Nat) (done : Bool) (s : State) : Flash :=
  let s := if s.upd.state ≠ .idle && decide (cause ≠ causeUpdate) then setSlotImage (1 - s.boot.slot) .none s else s
  let f := match s.cfg.revert with
    | some v => if done then revokeIn v s.flash else s.flash
    | none => s.flash
  { f with sticky := 0, patrolBad := 0, reclaimDeferred := false }

/-- The entry to OFF: every state is cleared but flash, OTP, the reset record of PD00 and what lies outside the device
(R377). The DRAM's contents are undefined from here on (01 R33). -/
def enterOff (phase : BootPhase) (cause detail count : Nat) (resets : List Nat) (s : State) : State :=
  let (done, s) := takeFree 1 s
  let r := keepInputs s State.reset
  { r with
    clk := s.clk, fresh := s.fresh + 2 ^ 40, flash := keepFlash cause (decide (done = 1)) s,
    otp := s.otp, pending := s.pending,
    boot := { Boot.reset with
      phase := phase, cause := cause, detail := detail, count := count, railResets := resets, startedAt := s.clk,
      xtalSel := s.boot.xtalSel, testMode := s.boot.testMode },
    lv := { r.lv with groups := r.lv.groups.map (fun g => { g with clkCal := s.clk }) },
    cist := { r.cist with scratchFree := some s.fresh }, host := { r.host with out := s.host.out },
    pins := { r.pins with ind0 := if phase = .lockedOut then .blink4 else .level }, bench := s.bench }

/-- The straps are sampled: the levels that stand outside, or those of the last sampling (19 R456; log entry 66). -/
def sampleStraps (s : State) : State :=
  { s with boot := { s.boot with
    xtalSel := (benchLevel xtalCell s).getD s.boot.xtalSel, testMode := (benchLevel testModeCell s).getD s.boot.testMode } }

/-- A reset that restarts from step 3 at once. -/
def resetNow (cause : Nat) (s : State) : State :=
  sampleStraps (enterOff (.rails 3) cause 0 (s.boot.count + 1) s.boot.railResets s)

/-- A RAIL reset: the third within 10 s makes no further restart (R376). -/
def resetRail (monitor : Nat) (s : State) : State :=
  let l := s.clk :: s.boot.railResets.filter (fun t => decide (s.clk < t + 10000000000))
  enterOff (if 3 ≤ l.length then .lockedOut else .waitRestart) causeRail monitor (s.boot.count + 1) l s

/-- The supply falls below its lockout. Whether PD00 has kept its record is not stated (R377): a free value. -/
def resetPower (s : State) : State :=
  let (lost, s) := takeFree 1 s
  enterOff .unpowered causePower 0 (if lost = 1 then 1 else s.boot.count + 1) [] s

/-- The rails are good: the Starter or the MP runs. -/
def railsGood (s : State) : Bool :=
  match s.boot.phase with
  | .rails _ => false
  | _ => railsUp s

/-- The row VIN_UNDERVOLTAGE. -/
def execVinUndervoltage (s : State) : Host.Outcome State Fault Refusal :=
  .next (if s.boot.phase = .unpowered then s else resetPower s)

/-- The row POWER_ON; the straps are those of step 2 (19 R456). -/
def execPowerOn (xtalSel testMode : Bool) (s : State) : Host.Outcome State Fault Refusal :=
  .next (if s.boot.phase = .unpowered then
      { s with boot := { s.boot with phase := .rails 1, startedAt := s.clk, xtalSel := xtalSel, testMode := testMode } }
    else s)

/-- RESET_PIN: held low, the device stays in OFF; its rising edge restarts from step 3. -/
def resetPin (low xtalSel testMode : Bool) (s : State) : State :=
  match s.boot.phase, low with
  | .unpowered, _ => s
  | .pinHeld, true => s
  | .pinHeld, false =>
    { s with boot := { s.boot with phase := .rails 3, startedAt := s.clk, xtalSel := xtalSel, testMode := testMode } }
  | _, true => enterOff .pinHeld causePin 0 (s.boot.count + 1) [] s
  | _, false => s

/-- The row RESET_PIN. -/
def execResetPin (low xtalSel testMode : Bool) (s : State) : Host.Outcome State Fault Refusal :=
  .next (resetPin low xtalSel testMode s)

/-- The MP runs: it has been started by the Starter. -/
def mpRuns (s : State) : Bool :=
  match s.boot.phase with
  | .booting _ => true
  | .running => true
  | _ => false

/-- The row MP_WATCHDOG. -/
def execMpWatchdog (s : State) : Host.Outcome State Fault Refusal := .next (if mpRuns s then resetNow causeWatchdog s else s)

/-- SOFTWARE_RESET: 0xB007 resets; no answer outlives the reset. -/
def writeSoftwareReset (v : Nat) (s : State) : WriteOut :=
  if v = 0xB007 then .later (resetNow causeSoftware s) else .abort abortRange s

/-- The row SOFTWARE_RESET. -/
def execSoftwareReset (via : Path) (s : State) : Host.Outcome State Fault Refusal :=
  writeCommand via (writeSoftwareReset 0xB007) s

/-- The row RESET_RESTART: the cause of a RAIL or THERMAL reset has cleared. -/
def execResetRestart (xtalSel testMode : Bool) (s : State) : Host.Outcome State Fault Refusal :=
  .next (if s.boot.phase = .waitRestart then
      { s with boot := { s.boot with phase := .rails 3, startedAt := s.clk, xtalSel := xtalSel, testMode := testMode } }
    else s)

end Sys2Proof.Machine
end

