-- ==== Sys2Proof/Machine/Power.lean ====
section
/-! DEFINITION. Monitors, PLLs and the budget governor (14_power_clocks R354 to R375), and the processor watchdogs
(16_management R392). -/
namespace Sys2Proof.Machine

def setPwr (f : Power → Power) (s : State) : State := { s with pwr := f s.pwr }

/-! ## Voltages (R354, R358, R359) -/

/-- AVDDk leaves its window: the group is out of service, and so is its spare; the lines it still reads are marked. -/
def afeFault (k : Nat) (s : State) : State :=
  let bit : BitVec 8 := 1#8 <<< k
  let newest := s.tim.nextSerial - 1
  let reading (l : LineRec) : Bool :=
    (s.tim.due.getD k []).any (fun d => decide (d.serial = l.id.serial)) || (s.tim.lineActive && decide (l.id.serial = newest))
  let s := (List.range 12).foldl (fun s i => markLines (12 * k + i) reading s) s
  let s := setPwr (fun p => { p with afeOut := p.afeOut ||| bit, afeReturning := p.afeReturning &&& ~~~bit, railSticky := stick 3 p.railSticky }) s
  abandonGroup k 3 s

/-- The groups whose AVDD reads outside its window, in a domain that is on. -/
def afeBad (s : State) : List Nat := (List.range 8).filter (fun k => domainOn (4 + k) s && voltBad (10 + k) s)

/-- The checks of a sample while the device runs. -/
def voltChecks (s : State) : State :=
  let high := decide ((voltWindow 0).2 < voltOf 0 s)
  let vin := if high && !s.pwr.vinHigh then [⟨0x0B00, 0, []⟩] else ([] : List Event)
  let bad := afeBad s
  let fresh := bad.filter (fun k => !s.pwr.afeOut.getLsbD k)
  let s := setPwr (fun p => { p with vinHigh := high, railSticky := if high then stick 2 p.railSticky else p.railSticky }) s
  let s := bad.foldl (fun s k => afeFault k s) s
  let s := raiseConditions [0x0B01, 0x0B02, 0x0B05] (railConditions s ++ pllConditions s)
    (vin ++ fresh.map (fun k => ⟨0x0B03, k, []⟩)) s
  let s := { s with mot := { s.mot with gateSupply := voltOf 19 s } }
  if voltOf 19 s < 7500 then gateUndervoltage s else { s with mot := { s.mot with gateUv := false } }

/-- The voltage monitors whose action is OFF (Table 14.2) and whose rails have become good. -/
def offMonitors (s : State) : List Nat :=
  match s.boot.phase with
  | .rails n => [(1, 1), (3, 2), (3, 3), (3, 4), (3, 5), (4, 8)].filterMap (fun x => if x.1 < n then some x.2 else none)
  | _ => [1, 2, 3, 4, 5, 8]

/-- VOLT_MONITOR_SAMPLE: an action of OFF comes before any other. -/
def voltSample (mv : List Nat) (s : State) : State :=
  if !railsUp s then s
  else
    let s := setPwr (fun p => { p with volts := (mv ++ List.replicate (20 - mv.length) 0).take 20 }) s
    if voltOf 0 s < 5200 then resetPower s
    else match (offMonitors s).find? (fun n => voltBad n s) with
      | some n => resetRail n s
      | none => if running s then inOneCycle voltChecks s else s

/-- The row VOLT_MONITOR_SAMPLE. -/
def execVoltMonitorSample (mv : List Nat) (s : State) : Host.Outcome State Fault Refusal := .next (voltSample mv s)

/-- AFE_RAIL_RESTORE: AVDDk has stayed in its window for 10 ms; the group returns with the next line (R359). -/
def afeRestore (k : Nat) (s : State) : State :=
  if s.pwr.afeOut.getLsbD k && !voltBad (10 + k) s then
    setPwr (fun p => { p with afeReturning := p.afeReturning ||| (1#8 <<< k) }) s
  else s

/-- The row AFE_RAIL_RESTORE. -/
def execAfeRailRestore (k : Fin 8) (s : State) : Host.Outcome State Fault Refusal := .next (afeRestore k.val s)

/-- BUCK_CURRENT_LIMIT: 1 ms in current limit is an undervoltage of the buck's rail (R356). VCORE is named by VM02 (log
entry 63). -/
def buckLimit (b : Nat) (s : State) : State :=
  match b with
    | 0 => if railsUp s && (offMonitors s).contains 2 then resetRail 2 s else s
    | 2 => if railsUp s && (offMonitors s).contains 8 then resetRail 8 s else s
    | 1 => if running s then raise (([6, 7].filter (fun n => channelPresent (n - 6) s)).map (fun n => ⟨0x0B02, n, []⟩)) s else s
    | _ => if running s then raise [⟨0x0B02, 9, []⟩] s else s

/-- The row BUCK_CURRENT_LIMIT. -/
def execBuckCurrentLimit (b : Fin 4) (s : State) : Host.Outcome State Fault Refusal := .next (buckLimit b.val s)

/-! ## Temperatures and process monitors (R367 to R370) -/

/-- TEMP_MONITOR_SAMPLE. -/
def tempSample (centi : List Int) (s : State) : State :=
  if !running s then s
  else
    let s := setPwr (fun p => { p with temps := (centi ++ List.replicate (24 - centi.length) 0).take 24 }) s
    let warm := (List.range 31).filter (fun i => decide (2000 < gradient (neighbours.getD i (0, 0)) s))
    let fresh := warm.filter (fun i => !s.pwr.gradientWarn.contains i)
    let events := fresh.map (fun i =>
      let p := neighbours.getD i (0, 0)
      (⟨0x0B06, 256 * p.1 + p.2, []⟩ : Event))
    let most := maxNat (neighbours.map (fun p => gradient p s))
    let s := setPwr (fun p => { p with
      gradientWarn := warm, gradientMax := max p.gradientMax most,
      monSticky := if warm.isEmpty then p.monSticky else stick 1 p.monSticky }) s
    raiseConditions [0x0B07, 0x0B08] (thermalConditions s) events s

/-- The row TEMP_MONITOR_SAMPLE. -/
def execTempMonitorSample (centi : List Int) (s : State) : Host.Outcome State Fault Refusal := .next (tempSample centi s)

/-- The row THERMAL_SHUTDOWN: TM21, TM22 or TM23 at 125 °C or more. -/
def execThermalShutdown (monitor : Fin 24) (s : State) : Host.Outcome State Fault Refusal :=
  .next (if railsUp s && decide (21 ≤ monitor.val) then
      enterOff .waitRestart causeThermal monitor.val (s.boot.count + 1) s.boot.railResets s
    else s)

/-- Domain and temperature monitor of a process monitor, in the order of R370. -/
def processSite (i : Nat) : Nat × Nat :=
  [(1, 1), (2, 2), (3, 3), (12, 12), (14, 15), (15, 16), (16, 17), (17, 18), (18, 19), (19, 20), (13, 13), (13, 14)].getD i (0, 0)

/-- A reading more than 10 % below the OTP value at the monitor's temperature, interpolated between 25 °C and 85 °C. -/
def processSlow (i reading : Nat) (s : State) : Bool :=
  let r := s.otp.process.getD i (0, 0)
  let t := tempOf (processSite i).2 s
  decide ((60000 * reading : Int) < 9 * (6000 * (r.1 : Int) + ((r.2 : Int) - r.1) * (t - 2500)))

/-- PROCESS_MONITOR_SAMPLE. -/
def processSample (readings : List Nat) (s : State) : State :=
  if !running s then s
  else
    let live := (List.range 12).filter (fun i => domainOn (processSite i).1 s)
    let s := live.foldl (fun s i => setPwr (fun p => { p with procs := setAt p.procs i (readings.getD i 0) }) s) s
    let slow := live.filter (fun i => processSlow i (readings.getD i 0) s && !s.pwr.slowLogged.contains i)
    let s := setPwr (fun p => { p with
      slowLogged := p.slowLogged ++ slow, monSticky := if slow.isEmpty then p.monSticky else stick 2 p.monSticky }) s
    logEvents (slow.map (fun i => ⟨0x0B09, i, []⟩)) s

/-- The row PROCESS_MONITOR_SAMPLE. -/
def execProcessMonitorSample (readings : List Nat) (s : State) : Host.Outcome State Fault Refusal := .next (processSample readings s)

/-! ## Clocks (R364, R365) -/

/-- The lanes that a lane PLL feeds lose block lock; those that had it are noted (R365). -/
def pllLanes (n : Nat) (s : State) : State :=
  let lanes := (List.range 8).map (fun i => 8 * (n - 5) + i)
  let had := lanes.filter (fun l => (laneOf l s).blockLock)
  lanes.foldl (fun s l => loseLock l s) (setPwr (fun p => { p with laneLoss := setAt p.laneLoss (n - 5) (some (s.clk, had)) }) s)

/-- The lanes of a lane PLL return to service where it relocks within 1 ms; later, each regains block lock by its own row. -/
def pllLanesBack (n : Nat) (s : State) : State :=
  match s.pwr.laneLoss.getD (n - 5) none with
  | none => s
  | some (t, lanes) =>
    let s := setPwr (fun p => { p with laneLoss := setAt p.laneLoss (n - 5) none }) s
    if t + 1000000 < s.clk then s
    else lanes.foldl (fun s l =>
      if laneOn l s && laneEnabled l s then modLane l (fun x => { x with blockLock := true }) s else s) s

/-- The MP logs events: it runs, or boots and has come to its third order. -/
def mpLogs (s : State) : Bool := running s || decide (s.boot.phase = .booting 3)

/-- PLLs that lose lock before STANDBY are noted for the boot actions and for STANDBY. -/
def noteUnlocks (l : List Nat) (s : State) : State :=
  if running s then s else { s with boot := { s.boot with unlocked := s.boot.unlocked ++ l } }

/-- PLL_UNLOCK. -/
def pllUnlock (n : Nat) (s : State) : State :=
  let was := s.pwr.pllLocked.getLsbD n
  if !railsGood s || (!was && !running s) then s
  else
    let s := setPwr (fun p => { p with pllLocked := p.pllLocked &&& ~~~(1#7 <<< n), railSticky := stick 5 p.railSticky }) s
    let s := noteUnlocks [n] s
    if n ≤ 4 then (if mpLogs s then raiseConditions [0x0B05] (pllConditions s) [] s else s)
    else if was then pllLanes n (if mpLogs s then logEvent ⟨0x0B05, n, []⟩ s else s) else s

/-- The row PLL_UNLOCK. -/
def execPllUnlock (n : Fin 7) (s : State) : Host.Outcome State Fault Refusal := .next (pllUnlock n.val s)

/-- PLL_RELOCK. A PLL that REFCLK feeds locks again because REFCLK is back (log entry 135). -/
def pllRelock (n : Nat) (s : State) : State :=
  if !railsGood s then s
  else
    let s := setPwr (fun p => { p with
      pllLocked := p.pllLocked ||| (1#7 <<< n), refclkLost := p.refclkLost && decide (4 < n) }) s
    if 4 < n then pllLanesBack n s
    else if mpLogs s then raiseConditions [0x0B05] (pllConditions s) [] s else s

/-- The row PLL_RELOCK. -/
def execPllRelock (n : Fin 7) (s : State) : Host.Outcome State Fault Refusal := .next (pllRelock n.val s)

/-- CK00 runs, so that REFCLK is checked (step 2 of Table 15.2). -/
def refclkChecked (s : State) : Bool :=
  match s.boot.phase with
  | .rails n => decide (2 ≤ n)
  | _ => railsUp s

/-- REFCLK_LOST: the time base goes on, and the PLLs that REFCLK feeds lose lock. Before the MP logs, its event waits for the
boot actions, shown by the sticky bit (log entry 135). -/
def refclkLost (s : State) : State :=
  if !refclkChecked s || s.pwr.refclkLost then s
  else
    let lost := (List.range 5).filter (fun n => s.pwr.pllLocked.getLsbD n)
    let s := setPwr (fun p => { p with refclkLost := true, railSticky := stick 4 p.railSticky, pllLocked := p.pllLocked &&& 0x60#7 }) s
    let s := if lost.isEmpty then s else setPwr (fun p => { p with railSticky := stick 5 p.railSticky }) s
    let s := noteUnlocks lost s
    if mpLogs s then raiseConditions [0x0B05] (pllConditions s) [⟨0x0B04, noSource, []⟩] s else s

/-- The row REFCLK_LOST. -/
def execRefclkLost (s : State) : Host.Outcome State Fault Refusal := .next (refclkLost s)

/-! ## The governor (R371 to R373) -/

def setGovernor (f : Governor → Governor) (s : State) : State := setPwr (fun p => { p with gov := f p.gov }) s

/-- A step has been taken that takes effect later, or at once. -/
def govStep (g : Option GovStep) (s : State) : State :=
  setGovernor (fun x => match g with
    | some st => { x with pendingStep := some st }
    | none => { x with pendingStep := none, effectAt := some s.clk }) s

/-- The device is over, and the step before has had its time. -/
def govUp (s : State) : State :=
  let g := s.pwr.gov
  let step := val Obj.GOV_SPEED_STEP s
  let floor := val Obj.GOV_SPEED_FLOOR s
  if g.level = 3 ∧ floor < g.cap then speedReached (govStep (some .speed) (setGov 3 (max floor (g.cap - step)) s))
  else if g.level < govHighest s.modes.mode s then
    if g.level = 0 then passesEnded (govStep (some .background) (setGov 1 100 s))
    else if g.level = 1 ∧ flagVal Obj.GOV_ALLOW_HALF_RES s then govStep (some .resolution) (setGov 2 100 s)
    else speedReached (govStep (some .speed) (setGov 3 (max floor (100 - step)) s))
  else
    let was := g.atLimit
    let s := setGovernor (fun x => { x with atLimit := true, sticky := stick 4 x.sticky }) s
    if was then s else logEvent ⟨0x0B0A, noSource, []⟩ s

/-- The device has been clear for GOV_RELEASE_TIME. -/
def govDown (s : State) : State :=
  let g := s.pwr.gov
  let s := setGovernor (fun x => { x with atLimit := false }) s
  if g.level = 3 ∧ g.cap < 100 then
    speedReached (govStep (some .speed) (setGov 3 (min 100 (g.cap + val Obj.GOV_SPEED_STEP s)) s))
  else match g.level with
    | 0 => s
    | 1 => govStep none (setGov 0 100 s)
    | 2 => govStep (some .resolution) (setGov 1 100 s)
    | _ => govStep none (setGov (if flagVal Obj.GOV_ALLOW_HALF_RES s then 2 else 1) 100 s)

/-- One evaluation with GOV_ENABLE set. -/
def govEvaluate (s : State) : State :=
  let p := s.pwr.devicePower
  let tj := (tjMax s).1
  let cap := val Obj.POWER_CAP s
  let target := sval 16 Obj.TJ_TARGET s
  let above := decide (cap < p) || decide (target < tj)
  let clear := decide (p + val Obj.POWER_HYST s < cap) && decide (tj < target - val Obj.TJ_HYST s)
  let g := s.pwr.gov
  let settled (t : Nat) : Bool := g.pendingStep.isNone && match g.effectAt with
    | none => true
    | some e => decide (e + t ≤ s.clk)
  let s := setGovernor (fun x => { x with
    above := above, holding := !above && !clear, clearSince := if clear && !above then some (x.clearSince.getD s.clk) else none }) s
  if above then (if settled (1000000 * val Obj.GOV_STEP_TIME s) then govUp s else s)
  else if clear then
    let release := 1000000 * val Obj.GOV_RELEASE_TIME s
    let since := s.pwr.gov.clearSince.getD s.clk
    if settled release && decide (since + release ≤ s.clk) then govDown s else s
  else s

/-- GOVERNOR_EVALUATE, with DEVICE_POWER of the last 10 ms (R357). -/
def governorEvaluate (mw : Nat) (s : State) : State :=
  if !running s then s
  else
    let s := setPwr (fun p => { p with devicePower := mw }) s
    if flagVal Obj.GOV_ENABLE s then govEvaluate s else s

/-- The row GOVERNOR_EVALUATE. -/
def execGovernorEvaluate (milliwatts : Nat) (s : State) : Host.Outcome State Fault Refusal := .next (governorEvaluate milliwatts s)

/-- GOV_ENABLE: 0 returns the level to 0 and the cap to 100 % at once. -/
def writeGovEnable (v : Nat) (s : State) : WriteOut :=
  if 1 < v then .abort abortRange s
  else
    let s := setVal Obj.GOV_ENABLE v s
    if v = 0 then
      .ok (setGovernor (fun x => { x with pendingStep := none, above := false, holding := false, atLimit := false, clearSince := none })
        (setGov 0 100 s))
    else .ok s

/-- The row GOV_ENABLE_WRITE. -/
def execGovEnableWrite (via : Path) (v : BitVec 8) (s : State) : Host.Outcome State Fault Refusal :=
  writeCommand via (fun s => (writeGovEnable v.toNat s).noted) s

/-- GOV_ALLOW_HALF_RES: 0 lowers level 2 to 1 at once; half resolution follows from the next page. -/
def writeGovHalf (v : Nat) (s : State) : WriteOut :=
  if 1 < v then .abort abortRange s
  else
    let s := setVal Obj.GOV_ALLOW_HALF_RES v s
    .ok (if v = 0 ∧ s.pwr.gov.level = 2 then lowerGov 1 s else setGov s.pwr.gov.level s.pwr.gov.cap s)

/-- The row GOV_ALLOW_HALF_RES_WRITE. -/
def execGovAllowHalfResWrite (via : Path) (v : BitVec 8) (s : State) : Host.Outcome State Fault Refusal :=
  writeCommand via (fun s => (writeGovHalf v.toNat s).noted) s

/-! ## Status (Tables 14.9 and 14.10) -/

def railStatus (s : State) : Nat :=
  let p := s.pwr
  bitsOf [p.vinHigh, decide (p.afeOut ≠ 0), bitOf p.railSticky 2, bitOf p.railSticky 3, bitOf p.railSticky 4, bitOf p.railSticky 5]

def writeRailClear (v : Nat) (s : State) : WriteOut := .ok (setPwr (fun p => { p with railSticky := unstick p.railSticky v }) s)

/-- The row RAIL_STATUS_CLEAR. -/
def execRailStatusClear (via : Path) (v : BitVec 16) (s : State) : Host.Outcome State Fault Refusal :=
  writeCommand via (writeRailClear v.toNat) s

def monStatus (s : State) : Nat :=
  bitsOf [!s.pwr.gradientWarn.isEmpty, bitOf s.pwr.monSticky 1, bitOf s.pwr.monSticky 2]

def writeMonClear (v : Nat) (s : State) : WriteOut := .ok (setPwr (fun p => { p with monSticky := unstick p.monSticky v }) s)

/-- The row MON_STATUS_CLEAR. -/
def execMonStatusClear (via : Path) (v : BitVec 16) (s : State) : Host.Outcome State Fault Refusal :=
  writeCommand via (writeMonClear v.toNat) s

def govStatus (s : State) : Nat :=
  let g := s.pwr.gov
  bitsOf [g.above, g.holding, g.atLimit, g.pendingStep.isSome, bitOf g.sticky 4, bitOf g.sticky 5]

def writeGovClear (v : Nat) (s : State) : WriteOut := .ok (setGovernor (fun g => { g with sticky := unstick g.sticky v }) s)

/-- The row GOV_STATUS_CLEAR. -/
def execGovStatusClear (via : Path) (v : BitVec 16) (s : State) : Host.Outcome State Fault Refusal :=
  writeCommand via (writeGovClear v.toNat) s

/-- GOV_TIME_DEFERRED, in s. -/
def timeDeferred (s : State) : Nat :=
  let g := s.pwr.gov
  (g.deferred + (match g.deferredFrom with
    | some t => s.clk - t
    | none => 0)) / 1000000000

/-! ## Processor watchdogs (16 R392) -/

/-- The row PC_WATCHDOG: the PC, processor 1, is held in reset. -/
def execPcWatchdog (s : State) : Host.Outcome State Fault Refusal :=
  .next (if running s && domainOn 2 s && !s.mot.pcHeld then raise [⟨0x0C03, 1, []⟩] (holdPc s) else s)

/-- The row MC_WATCHDOG: the MC, processor 2, is held in reset, and the axes act as 11 R316 gives. -/
def execMcWatchdog (s : State) : Host.Outcome State Fault Refusal :=
  .next (if running s && domainOn 3 s && !s.mot.mcHeld then
      raise [⟨0x0C03, 2, []⟩] (emptyRings [4, 6] (mcStop s))
    else s)

end Sys2Proof.Machine
end

