-- ==== Sys2Proof/Machine/Flash.lean ====
section
/-! DEFINITION. The flash: the event log, the Leaven store, boot-control records and patrol (16_management R401 to R407,
R411; 07_calibration R180), and telemetry (R408). -/
namespace Sys2Proof.Machine

def setFlash (f : Flash → Flash) (s : State) : State := { s with flash := f s.flash }

/-! ## Wear (R402, R404) -/

/-- Sticky bits of FLASH_STATUS. -/
def flashPatrolBit : Nat := 2
def flashWearBit : Nat := 3
def flashFailBit : Nat := 4

/-- A program or erase fails its read-back. -/
def flashFailed (s : State) : State := setFlash (fun f => { f with sticky := stick flashFailBit f.sticky }) s

/-- The read-back of a program or erase whose outcome no operand gives (log entry 136); one that fails sets WRITE_FAILED. -/
def readBack (s : State) : Bool × State :=
  match s.bench.readBacks with
  | [] => (true, s)
  | ok :: t =>
    let s := { s with bench := { s.bench with readBacks := t } }
    (ok, if ok then s else flashFailed s)

/-- The number of a block in the flash map, in units of 64 KB: the Leaven store begins at 0xC1, the event log at 0xD1
(Table 16.5). -/
def flashBlock (i : Nat) : Nat := if i < 16 then 0xC1 + i else 0xD1 + (i - 16)

/-- A block of the Leaven store, 0 to 15, or of the event log, 16 to 31, is erased. -/
def eraseBlock (i : Nat) (s : State) : State :=
  let s := setFlash (fun f => { f with eraseCounts := modifyAt (fun n => n + 1) i f.eraseCounts }) s
  if 90000 ≤ s.flash.eraseCounts.getD i 0 && !s.flash.worn.contains i then
    logEvent ⟨0x0C05, flashBlock i, []⟩
      (setFlash (fun f => { f with worn := i :: f.worn, sticky := stick flashWearBit f.sticky }) s)
  else s

/-! ## The event log (R402, R403, R407) -/

/-- The head of the log takes a new block; with 16 in use the oldest is erased. Where that erase fails the log takes no entry. -/
def logBlockNew (s : State) : Bool × State :=
  let next := match s.flash.log.getLast? with
    | some b => (b.block + 1) % 16
    | none => 0
  let (ok, s) := match s.flash.log with
    | b :: t =>
      if t.length < 15 then (true, s)
      else
        let (ok, s) := readBack s
        (ok, if ok then eraseBlock (16 + b.block) (setFlash (fun f => { f with log := t }) s) else s)
    | [] => (true, s)
  (ok, if ok then setFlash (fun f => { f with log := f.log ++ [⟨next, [], [], false⟩] }) s else s)

/-- Room in the head of the log. -/
def logHasRoom (s : State) : Bool :=
  match s.flash.log.getLast? with
  | some b => decide (b.entries.length < 2046)
  | none => false

/-- Appends an entry to the log, or lets it wait on where the log takes none. An entry that filled the first-error record is noted,
also one that has been acknowledged before it is stored (18 R442). -/
def appendLog (e : LogEntry) (s : State) : State :=
  let (ok, s) := if logHasRoom s then (true, s) else logBlockNew s
  if !ok then { s with ev := { s.ev with waiting := s.ev.waiting ++ [e] } }
  else
    let filled := s.ev.fillers.contains e.sequence
    let s := { s with ev := { s.ev with fillers := s.ev.fillers.filter (fun n => decide (n ≠ e.sequence)) } }
    setFlash (fun f => { f with
      log := modifyAt (fun b => { b with entries := b.entries ++ [e] }) (f.log.length - 1) f.log,
      filled := if filled then some e else f.filled }) s

/-- LOG_FLUSH: the entries that wait are written, those of class FATAL first (R404). A write that fails its read-back
leaves them waiting. -/
def logFlush (ok : Bool) (s : State) : State :=
  if !mpRuns s || s.ev.waiting.isEmpty then s
  else if !ok then flashFailed s
  else
    let l := s.ev.waiting.filter (fun e => decide (e.cls = 3)) ++ s.ev.waiting.filter (fun e => decide (e.cls ≠ 3))
    l.foldl (fun s e => appendLog e s) { s with ev := { s.ev with waiting := [] } }

/-- The row LOG_FLUSH. -/
def execLogFlush (ok : Bool) (s : State) : Host.Outcome State Fault Refusal := .next (logFlush ok s)

/-- A CLEAR marker is an entry with flag [1]; its code and class are not stated and are free values. -/
def clearMarker (s : State) : State :=
  let (code, s) := takeFree 16 s
  let (cls, s) := takeFree 8 s
  let e : LogEntry :=
    { time := s.now, sequence := s.ev.nextSeq, code := code, cls := cls, flags := b2n (inOp s) + 2, source := noSource, detail := [] }
  let s := { s with ev := bufferEntry e { s.ev with nextSeq := s.ev.nextSeq + 1 } }
  if flagVal Obj.EVENT_NOTICE_ENABLE s then mpMessage 0x84 e.bytes s else s

/-- LOG_CLEAR. -/
def writeLogClear (v : Bool) (s : State) : WriteOut := .ok (if v then clearMarker s else s)

/-- The row LOG_CLEAR. -/
def execLogClear (via : Path) (s : State) : Host.Outcome State Fault Refusal := writeCommand via (writeLogClear true) s

/-- The entries of a block, each with whether its check word is right. -/
def LogBlock.checked (b : LogBlock) : List (LogEntry × Bool) :=
  ((List.range b.entries.length).zip b.entries).map (fun x => (x.2, !b.badAt.contains x.1))

/-- Entries of a block whose check word is right. -/
def LogBlock.good (b : LogBlock) : List LogEntry := b.checked.filterMap (fun x => if x.2 then some x.1 else none)

def insertEntry (e : LogEntry × Bool) : List (LogEntry × Bool) → List (LogEntry × Bool)
  | [] => [e]
  | x :: t => if x.1.sequence ≤ e.1.sequence then x :: insertEntry e t else e :: x :: t

/-- Every entry, stored and waiting, in order of its sequence number. -/
def allEntries (s : State) : List (LogEntry × Bool) :=
  (s.flash.log.flatMap LogBlock.checked ++ s.ev.waiting.map (fun e => (e, true))).foldl (fun acc e => insertEntry e acc) []

/-- What EVENT_LOG reads: of the newest 4,096 entries those with a right check word, after the last CLEAR marker, oldest first. -/
def eventLog (s : State) : List LogEntry :=
  let newest := ((allEntries s).reverse.take 4096).filterMap (fun x => if x.2 then some x.1 else none)
  (newest.takeWhile (fun e => !bitOf e.flags 1)).reverse

/-- The highest sequence number stored, plus one (order 4 of Table 15.3). -/
def logNextStored (s : State) : Nat :=
  maxNat ((s.flash.log.flatMap LogBlock.good).map (fun e => e.sequence + 1))

/-! ## The Leaven store (R180, R402, R403) -/

/-- LEAVEN_FREE_BLOCKS. -/
def leavenFree (s : State) : Nat := 16 - s.flash.leaven.length

/-- The sequence number of the next record. -/
def nextRecord (s : State) : Nat := maxNat ((s.flash.leaven.flatMap (fun b => b.records)).map (fun r => r.sequence + 1))

/-- The first block of the store that holds no record, from the one after the head on. -/
def leavenNewBlock (s : State) : Nat :=
  match s.flash.leaven.getLast? with
  | some b => (b.block + 1) % 16
  | none => 0

def leavenHasRoom (s : State) : Bool :=
  match s.flash.leaven.getLast? with
  | some b => decide (b.records.length < 1023)
  | none => false

/-- Appends the bytes of a record at the head. -/
def appendRecord (r : LeavenRecord) (s : State) : State :=
  let s := if leavenHasRoom s then s
    else setFlash (fun f => { f with leaven := f.leaven ++ [⟨leavenNewBlock s, [], false⟩] }) s
  setFlash (fun f => { f with
    leaven := modifyAt (fun b => { b with records := b.records ++ [r] }) (f.leaven.length - 1) f.leaven }) s

/-- Whether a record is the newest of its chain and range, and no tombstone. -/
def recordLive (r : LeavenRecord) (s : State) : Bool :=
  !r.tombstone && (storedRecords s).all (fun x =>
    decide (x.chain ≠ r.chain ∨ x.range ≠ r.range ∨ x.sequence ≤ r.sequence))

/-- The live records of the oldest block are copied to the head, and the block is erased. -/
def reclaim (s : State) : State :=
  match s.flash.leaven with
  | b :: t =>
    let live := b.records.filter (fun r => recordGood r && recordLive r s)
    let s := setFlash (fun f => { f with leaven := t }) s
    eraseBlock b.block (live.foldl (fun s r => appendRecord r s) s)
  | [] => s

/-- LEAVEN_RECLAIM: background work while four or more blocks are free. The head alone is never reclaimed. -/
def leavenReclaim (ok : Bool) (s : State) : State :=
  if !mpRuns s || decide (s.flash.leaven.length < 2) then s
  else if backgroundDeferred s && decide (4 ≤ leavenFree s) then setFlash (fun f => { f with reclaimDeferred := true }) s
  else if !ok then flashFailed s
  else reclaim (setFlash (fun f => { f with reclaimDeferred := false }) s)

/-- The row LEAVEN_RECLAIM. -/
def execLeavenReclaim (ok : Bool) (s : State) : Host.Outcome State Fault Refusal := .next (leavenReclaim ok s)

/-- The second write of a record has failed: its values stay in force until reset (R180). -/
def storeFailed (r : LeavenRecord) (s : State) : State :=
  logEvent ⟨0x0503, r.chain, []⟩ (flashFailed { s with lv := { s.lv with
    storeFails := s.lv.storeFails + 1, sticky := stick 5 s.lv.sticky } })

/-- A record that would leave fewer than two free blocks waits for a reclamation, which runs at once (R403). Where its erase fails
the record takes a block that is free, and without one it is not stored. -/
def storeRecord (r : LeavenRecord) (s : State) : State :=
  let append (s : State) : State := appendRecord (sealRecord { r with sequence := nextRecord s }) s
  if leavenHasRoom s || decide (2 < leavenFree s) then append s
  else
    let (ok, s) := readBack s
    if ok then append (reclaim s) else if leavenFree s = 0 then storeFailed r s else append s

/-- RECORD_STORE: the oldest record that waits is appended, or its second write fails (R180). -/
def recordStore (ok : Bool) (s : State) : State :=
  match s.lv.toStore with
  | [] => s
  | r :: t =>
    let s := { s with lv := { s.lv with toStore := t } }
    if ok then storeRecord r s else storeFailed r s

/-- The row RECORD_STORE. -/
def execRecordStore (ok : Bool) (s : State) : Host.Outcome State Fault Refusal :=
  .next (if mpRuns s then recordStore ok s else s)

/-! ## Boot-control records (R402, R411) -/

/-- The record in force: the highest sequence number among those whose check word is right. -/
def bootRecord (s : State) : Option BootRecord :=
  (s.flash.bootRecords.filter (fun r => !r.bad)).foldl (fun m r => match m with
    | some x => if x.sequence ≤ r.sequence then some r else some x
    | none => some r) none

/-- Appends a record; with the 16 sectors of 128 records full, the oldest sector is erased. One whose program fails its read-back
has a wrong check word (log entry 136). -/
def appendBoot (slot : Nat) (trial : Bool) (count : Nat) (s : State) : State :=
  let (ok, s) := readBack s
  setFlash (fun f =>
    let seq := maxNat (f.bootRecords.map (fun r => r.sequence + 1))
    let kept := if f.bootRecords.length < 2048 then f.bootRecords else f.bootRecords.drop 128
    { f with bootRecords := kept ++ [⟨seq, slot, trial, count, !ok⟩] }) s

/-- The booted image is on trial: it ran as a trial, and the record in force still names it as one. -/
def onTrial (s : State) : Bool :=
  s.boot.trial && match bootRecord s with
    | some r => r.trial && decide (r.slot = s.boot.slot)
    | none => false

/-! ## Patrol (R405) -/

/-- The bad items of the flash. An image header has no check word of its own: whether the image of a slot that does not
pass R380 counts is a free value. -/
def patrolCount (s : State) : Nat × State :=
  let blocks := sumNats (s.flash.leaven.map (fun b => b2n b.headerBad + (b.records.filter (fun r => !recordGood r)).length))
    + sumNats (s.flash.log.map (fun b => b2n b.headerBad + b.badAt.length))
    + (s.flash.bootRecords.filter (fun r => r.bad)).length
  let image (x : ImageSlot) (n : Nat × State) : Nat × State :=
    match x with
    | .image _ => if imageOk x s.otp then n else
      let (b, t) := takeFree 1 n.2
      (n.1 + b, t)
    | _ => n
  image s.flash.slotB (image s.flash.slotA (blocks, s))

/-- FLASH_PATROL. -/
def flashPatrol (s : State) : State :=
  if !mpRuns s || backgroundDeferred s then s
  else
    let (n, s) := patrolCount s
    if n = 0 then s
    else logEvent ⟨0x0C06, noSource, []⟩
      (setFlash (fun f => { f with patrolBad := f.patrolBad + n, sticky := stick flashPatrolBit f.sticky }) s)

/-- The row FLASH_PATROL. -/
def execFlashPatrol (s : State) : Host.Outcome State Fault Refusal := .next (flashPatrol s)

/-- FLASH_STATUS (Table 16.13). -/
def flashStatus (s : State) : Nat :=
  let busy := decide (s.upd.state = .erasing) || s.cfg.commit.isSome || s.cfg.revert.isSome
  bitsOf [busy, s.flash.reclaimDeferred && backgroundDeferred s, bitOf s.flash.sticky 2, bitOf s.flash.sticky 3, bitOf s.flash.sticky 4]

/-- FLASH_STATUS_CLEAR. -/
def writeFlashClear (v : Nat) (s : State) : WriteOut := .ok (setFlash (fun f => { f with sticky := unstick f.sticky v }) s)

/-- The row FLASH_STATUS_CLEAR. -/
def execFlashStatusClear (via : Path) (v : BitVec 16) (s : State) : Host.Outcome State Fault Refusal :=
  writeCommand via (writeFlashClear v.toNat) s

/-! ## Telemetry (R408) -/

/-- CISTERN_LOAD: what it measures is not modelled, a free value from 0 to 100. -/
def cisternLoad (s : State) : Nat × State :=
  let (v, s) := takeFree 7 s
  (v % 101, s)

/-- A snapshot (Table 16.7); a status object of a block that is off is 0 (01 R23). -/
def telemetrySnapshot (s : State) : State :=
  if !running s then s
  else
    let (load, s) := cisternLoad s
    let cistern (v : Nat) : Nat := if domainOn 15 s || domainOn 16 s then v else 0
    let seq := s.telem.sequence + 1
    let body :=
      leBytes 8 s.now ++ leBytes 1 s.modes.mode.code ++ leBytes 1 s.pwr.gov.level ++ leBytes 2 (seq % 65536)
        ++ leBytes 4 s.pwr.devicePower
        ++ ((List.range 24).map (fun i => leBytes 2 (toRaw 16 (s.pwr.temps.getD i 0)))).flatten
        ++ ((List.range 20).map (fun i => leBytes 2 (s.pwr.volts.getD i 0))).flatten
        ++ ((List.range 12).map (fun i => leBytes 2 (s.pwr.procs.getD i 0))).flatten
        ++ leBytes 4 (if domainOn 12 s then lineRate s / 10 else 0) ++ leBytes 1 (fillPercent s) ++ leBytes 1 (cistern load) ++ leBytes 2 0
        ++ leBytes 4 (cistern s.cist.corrected) ++ leBytes 4 s.ev.logged ++ leBytes 8 s.host.nextItem ++ List.replicate 100 0
    let snap := body ++ leBytes 4 (crc32c body)
    { s with telem := { last := snap, history := (s.telem.history ++ [snap]).drop (s.telem.history.length - 239), sequence := seq } }

/-- The row TELEMETRY_SNAPSHOT. -/
def execTelemetrySnapshot (s : State) : Host.Outcome State Fault Refusal := .next (telemetrySnapshot s)

end Sys2Proof.Machine
end

