-- ==== Sys2Proof/Machine/Update.lean ====
section
/-! DEFINITION. Firmware update and rollback (16_management R412 to R415). -/
namespace Sys2Proof.Machine

/-- Results of Table 16.14. -/
def updTooLarge : Nat := 6
def updFlashFailed : Nat := 7
def updAborted : Nat := 8

def setUpd (f : Update → Update) (s : State) : State := { s with upd := f s.upd }

/-- UPDATE_SLOT: the slot that did not boot. -/
def targetSlot (s : State) : Nat := 1 - s.boot.slot

/-- A change of UPDATE_STATE: one UPDATE event with the state, and one UPDATE_NOTICE (R412). -/
def updChange (st : UpdState) (s : State) : State :=
  let s := logEvent ⟨0x0C07, noSource, leBytes 1 st.code⟩ (setUpd (fun u => { u with state := st }) s)
  mpMessage 0x85 (leBytes 1 st.code ++ leBytes 1 s.upd.result ++ leBytes 2 0 ++ leBytes 4 s.upd.bytes) s

/-- FAILED with a result. -/
def updFail (result : Nat) (s : State) : State := updChange .failed (setUpd (fun u => { u with result := result }) s)

/-- SLOT_A_VERSION and SLOT_B_VERSION: BEGIN marks the target's version 0, until it is VERIFIED. -/
def shownVersion (n : Nat) (s : State) : Nat :=
  if decide (n = targetSlot s) && s.upd.state ≠ .idle && s.upd.state ≠ .verified then 0 else slotVersion n s

/-- BEGIN. -/
def updBegin (s : State) : WriteOut :=
  let free := decide (s.upd.state = .idle) || decide (s.upd.state = .verified) || decide (s.upd.state = .failed)
  if !free || onTrial s then .abort abortState s
  else .ok (updChange .erasing (setSlotImage (targetSlot s) .none s))

/-- VERIFY. -/
def updVerify (s : State) : WriteOut :=
  if s.upd.state = .receiving then .ok (updChange .verifying s) else .abort abortState s

/-- ACTIVATE; no answer outlives the reset. -/
def updActivate (s : State) : WriteOut :=
  if s.upd.state = .verified && atRest s then .later (resetNow causeUpdate (appendBoot (targetSlot s) true 0 s))
  else .abort abortState s

/-- R415. -/
def raiseSvn (s : State) : State :=
  let svn := (slotImage s.boot.slot s).svn
  if flagVal Obj.UPDATE_LOCK_SVN s && decide (s.otp.minSvn < svn) then
    logEvent ⟨0x0C09, noSource, []⟩ { s with otp := { s.otp with minSvn := svn } }
  else s

/-- CONFIRM. -/
def updConfirm (s : State) : WriteOut :=
  if onTrial s then .ok (raiseSvn (appendBoot s.boot.slot false 0 s)) else .abort abortState s

/-- REVERT. -/
def updRevert (s : State) : WriteOut :=
  if !atRest s then .abort abortState s
  else if imageOk (slotImage (targetSlot s) s) s.otp then .later (resetNow causeUpdate (appendBoot (targetSlot s) false 0 s))
  else .abort abortContent s

/-- ABORT. -/
def updAbort (s : State) : WriteOut :=
  let busy := decide (s.upd.state = .erasing) || decide (s.upd.state = .receiving) || decide (s.upd.state = .verifying)
  if busy then .ok (updFail updAborted (setSlotImage (targetSlot s) .none s)) else .abort abortState s

/-- UPDATE_COMMAND (Table 16.11). -/
def writeUpdateCommand (code : Nat) (s : State) : WriteOut :=
  match code with
  | 1 => updBegin s
  | 2 => updVerify s
  | 3 => updActivate s
  | 4 => updConfirm s
  | 5 => updRevert s
  | 6 => updAbort s
  | _ => .abort abortRange s

/-- UPDATE_DATA: the next bytes of the image, programmed as they arrive (R413). Whether the program fails its read-back is given,
or stands outside (log entry 136). -/
def writeUpdateData (offset : Nat) (data : List Byte) (given : Option Bool) (s : State) : WriteOut :=
  let receiving := decide (s.upd.state = .receiving)
  if imageSlotBytes < offset + data.length then
    .abort abortLength (if receiving then updFail updTooLarge s else s)
  else if !receiving then .abort abortState s
  else if offset ≠ s.upd.bytes then .abort abortToggle s
  else
    let (ok, s) := match given with
      | some ok => (ok, if ok then s else flashFailed s)
      | none => readBack s
    if !ok then .abort abortFlash (updFail updFlashFailed s) else
    let got := match slotImage (targetSlot s) s with
      | .image bs => bs
      | _ => []
    .ok (setUpd (fun u => { u with bytes := u.bytes + data.length }) (setSlotImage (targetSlot s) (.image (got ++ data)) s))

/-- The row BEGIN. -/
def execUpdBegin (via : Path) (s : State) : Host.Outcome State Fault Refusal := writeCommand via (writeUpdateCommand 1) s

/-- The row UPDATE_ERASE_DONE: the erase ends, in RECEIVING or, where it fails its read-back, in FAILED. -/
def execUpdateEraseDone (ok : Bool) (s : State) : Host.Outcome State Fault Refusal :=
  .next (if running s && decide (s.upd.state = .erasing) then
      if ok then updChange .receiving (setUpd (fun u => { u with bytes := 0 }) s) else updFail updFlashFailed (flashFailed s)
    else s)

/-- The row UPDATE_DATA. -/
def execUpdateData (via : Path) (offset : Nat) (data : List Byte) (ok : Bool) (s : State) : Host.Outcome State Fault Refusal :=
  writeCommand via (writeUpdateData offset data (some ok)) s

/-- The row VERIFY. -/
def execVerify (via : Path) (s : State) : Host.Outcome State Fault Refusal := writeCommand via (writeUpdateCommand 2) s

/-- The row UPDATE_VERIFY_DONE: the checks of R380 on the target slot have ended. -/
def execUpdateVerifyDone (s : State) : Host.Outcome State Fault Refusal :=
  .next (if running s && decide (s.upd.state = .verifying) then
      let r := imageResult (slotImage (targetSlot s) s) s.otp
      if r = 1 then updChange .verified (setUpd (fun u => { u with result := 1 }) s) else updFail r s
    else s)

/-- The row ACTIVATE. -/
def execActivate (via : Path) (s : State) : Host.Outcome State Fault Refusal := writeCommand via (writeUpdateCommand 3) s

/-- The row CONFIRM. -/
def execConfirm (via : Path) (s : State) : Host.Outcome State Fault Refusal := writeCommand via (writeUpdateCommand 4) s

/-- The row REVERT. -/
def execRevert (via : Path) (s : State) : Host.Outcome State Fault Refusal := writeCommand via (writeUpdateCommand 5) s

/-- The row ABORT. -/
def execUpdAbort (via : Path) (s : State) : Host.Outcome State Fault Refusal := writeCommand via (writeUpdateCommand 6) s

end Sys2Proof.Machine
end

