-- ==== Sys2Proof/Machine/Values.lean ====
section
/-! DEFINITION. What the dictionary checks of a value and what follows an accepted one (12_control_dictionary R324, R327,
R328, R330): own ranges, conditions between objects, the contents of bulk objects, and the objects that configuration
sets hold (R339). -/
namespace Sys2Proof.Machine

/-! ## Own ranges (R328, cause 5) -/

/-- The value obeys the object's own range or set of values; EXPOSURE, LANE_ENABLE and BOOL objects have one besides their
row (04 R99, 10 R243, R324). -/
def ownRangeOk (index sub : Nat) (r : Row) (v : Nat) : Bool :=
  let x : Int := match r.ty with
    | .i16 => toSigned 16 v
    | .i32 => toSigned 32 v
    | .i64 => toSigned 64 v
    | _ => v
  r.chk.ok x && (r.ty ≠ .bool || decide (v ≤ 1))
    && !(decide (0x2208 ≤ index ∧ index ≤ 0x220A ∧ sub = 3) && decide (2500 ≤ v ∧ v ≤ 7500))
    && !(decide (index = 0x2800 ∧ sub = 1) && !bitOf v 0)

/-! ## Conditions between objects (R328, cause 6) -/

/-- A condition and the objects it binds. -/
structure Binding where
  keys : List Nat
  ok : State → Bool

/-- A line of the simple sequence has one RED, one GREEN and one BLUE slot (03 R69, R71). -/
def simpleOk (s : State) : Bool :=
  let cs := (List.range (val Obj.SLOT_COUNT s)).map (fun i => bits (val Obj.SLOT_ORDER s) (2 * i + 1) (2 * i))
  [0, 1, 2].all (fun c => decide ((cs.filter (fun x => decide (x = c))).length = 1))

/-- The currents of an axis lie within I_fs: mA times mΩ is at most 200 mV (11 R282). -/
def currentsOk (a : Nat) (s : State) : Bool :=
  [val (Obj.RUN_CURRENT_BASE a) s, val (Obj.RUN_CURRENT_MAX a) s, val (Obj.HOLD_CURRENT a) s].all
    (fun i => decide (i * val (Obj.SENSE_RESISTANCE a) s ≤ 200000))

/-- A transport axis stays within 5,000,000 microsteps/s at the nominal speed (11 R310). -/
def transportOk (s : State) : Bool :=
  (setBits (val Obj.TRANSPORT_AXES s) 6).all (fun a =>
    decide ((sval 32 (Obj.PATH_SCALE a) s).natAbs * val Obj.TRANSPORT_SPEED_NOM s ≤ 5000000 * 1000000))

/-- REF_AXIS is no transport axis (11 R293). -/
def refAxisOk (s : State) : Bool := !bitOf (bits (val Obj.TRANSPORT_AXES s) 5 0) (val Obj.REF_AXIS s)

/-- The conditions of each axis. -/
def axisBindings (a : Nat) : List Binding := [
  ⟨[(Obj.RUN_CURRENT_BASE a).key, (Obj.RUN_CURRENT_MAX a).key, (Obj.HOLD_CURRENT a).key, (Obj.SENSE_RESISTANCE a).key],
    currentsOk a⟩,
  ⟨[(Obj.RUN_CURRENT_BASE a).key, (Obj.RUN_CURRENT_MAX a).key],
    fun s => decide (val (Obj.RUN_CURRENT_BASE a) s ≤ val (Obj.RUN_CURRENT_MAX a) s)⟩,
  ⟨[(Obj.LOAD_ANGLE_LOW a).key, (Obj.LOAD_ANGLE_HIGH a).key],
    fun s => decide (val (Obj.LOAD_ANGLE_LOW a) s < val (Obj.LOAD_ANGLE_HIGH a) s)⟩ ]

/-- A tile has at most 16 reference pixels: REF_LEAD + REF_TRAIL ≤ 16 (02 Table 2.7). -/
def portBinding (p : Nat) : Binding :=
  ⟨[(Obj.REF_LEAD p).key, (Obj.REF_TRAIL p).key],
    fun s => decide (val (Obj.REF_LEAD p) s + val (Obj.REF_TRAIL p) s ≤ 16)⟩

/-- The conditions that a write is checked against. -/
def bindings : List Binding := [
  ⟨[Obj.SLOT_ORDER.key, Obj.SLOT_COUNT.key], simpleOk⟩,
  ⟨[Obj.REG_MODE.key, Obj.REG_NOMINAL_RATE.key],
    fun s => decide (val Obj.REG_MODE s ≠ 1) || decide (val Obj.REG_NOMINAL_RATE s ≠ 0)⟩,
  ⟨[Obj.DRAM_CH0_CAPACITY.key, Obj.DRAM_CH1_CAPACITY.key],
    fun s => decide (val Obj.DRAM_CH1_CAPACITY s = 0 ∨ val Obj.DRAM_CH1_CAPACITY s = val Obj.DRAM_CH0_CAPACITY s)⟩,
  ⟨[Obj.WEIR_LOW.key, Obj.WEIR_HIGH.key, Obj.WEIR_RESUME.key],
    fun s => decide (val Obj.WEIR_LOW s < val Obj.WEIR_RESUME s) && decide (val Obj.WEIR_RESUME s < val Obj.WEIR_HIGH s)⟩,
  ⟨[Obj.TRANSPORT_AXES.key, Obj.REF_AXIS.key], refAxisOk⟩,
  ⟨Obj.TRANSPORT_SPEED_NOM.key :: (List.range 6).map (fun a => (Obj.PATH_SCALE a).key), transportOk⟩ ]
  ++ (List.range 6).flatMap axisBindings ++ (List.range 96).map portBinding

/-- The state meets every condition that binds the object. -/
def bindingsOk (key : Nat) (s : State) : Bool := bindings.all (fun b => !b.keys.contains key || b.ok s)

/-! ## Bulk objects -/

/-- The whole table of an object of fixed entries at its default, and the bytes of an entry (R330). -/
def tableDefault (index : Nat) : Option (Nat × List Byte) :=
  let words (n v : Nat) : List Byte := (List.replicate n (leBytes 2 v)).flatten
  if index = 0x4210 then some (2, words 1024 32768)
  else if index = 0x4211 then some (1, List.replicate 64 3)
  else if index = 0x4212 then some (4, List.replicate 1152 0)
  else if index = 0x4302 then
    some (2, ((List.range 288).map (fun _ => ((List.range 33).map (fun k => leBytes 2 (min (2048 * k) 65535))).flatten)).flatten)
  else if index = 0x4304 then some (4, (List.replicate 1664 (leBytes 4 chainDefault)).flatten)
  else if index = 0x4305 then some (2, words 288 16384)
  else if index = 0x4306 then some (2, words 570 16384)
  else if index = 0x4501 then some (2, List.replicate 576 0)
  else none

/-- What the check of a download's content gives. -/
inductive Content where
  | good
  | bad (code : Nat)
  | misuse
  deriving DecidableEq, Repr

/-- A list of defect entries meets R130. -/
def defectsOk (ws : List Nat) : Bool :=
  let rec rising : Option Nat → List Nat → Bool
    | _, [] => true
    | lo, w :: t =>
      let x := bits w 16 0
      (match lo with
        | some l => decide (l < x)
        | none => true) && decide (x < 78336) && decide (bits w 31 29 ≠ 0) && decide (bits w 28 27 ≠ 3) && rising (some x) t
  rising none ws

/-- Defect entries with a reserved bit set. -/
def defectsReserved (ws : List Nat) : Bool := ws.any (fun w => decide (bits w 26 17 ≠ 0))

/-- The content of a shading bank download (05 R119). -/
def bankContent (data : List Byte) : Content :=
  let n := fieldAt data 940608 4
  let defects := words32 (data.drop 940612)
  if data.length < 940612 ∨ 1024 < n ∨ data.length ≠ 940612 + 4 * n then .bad abortContent
  else if (words32 (data.take 940032)).any (fun w => decide (bits w 31 28 ≠ 0)) || defectsReserved defects then .misuse
  else if defectsOk defects then .good else .bad abortContent

/-- The entries that a table download carries. -/
def tableContent (index : Nat) (data : List Byte) : Content :=
  let gain (g : Nat) : Bool := decide (8192 ≤ g) && decide (g ≤ 32768)
  let ok := if index = 0x4211 then data.all (fun b => decide (b.toNat ≤ 3))
    else if index = 0x4304 then (words32 data).all (fun e => gain (entryGain e))
    else if index = 0x4305 then (words16 data).all gain
    else true
  if ok then .good else .bad abortContent

/-- The content of a download of at most the maximum length. -/
def contentOf (index : Nat) (data : List Byte) : Content :=
  let free (b : Bool) : Content := if b then .good else .misuse
  match tableDefault index with
  | some (n, _) => if data.length % n ≠ 0 then .bad abortLength else tableContent index data
  | none =>
    if index = 0x4100 ∨ index = 0x4101 then free ((words32 data).all (fun w => decide (timingReserved w = 0)))
    else if 0x4200 ≤ index ∧ index ≤ 0x4203 then free ((words32 data).all (fun w => decide (indReserved w = 0)))
    else if 0x4900 ≤ index ∧ index ≤ 0x4905 then free ((words64 data).all (fun w => decide (segReserved w = 0)))
    else if index = 0x4300 ∨ index = 0x4301 then bankContent data
    else if index = 0x4303 then
      if data.length % 4 ≠ 0 then .bad abortContent
      else if defectsReserved (words32 data) then .misuse
      else if defectsOk (words32 data) then .good else .bad abortContent
    else .good

/-- Stores the bytes of a bulk object: a table is filled up with its defaults, and the default is not listed. -/
def storeBulk (index sub : Nat) (data : List Byte) (s : State) : State :=
  let key := objKey index sub
  match tableDefault index with
  | some (_, d) =>
    let full := data ++ d.drop data.length
    if full = d then clearBulk key s else setBulk key full s
  | none => if data.isEmpty then clearBulk key s else setBulk key data s

/-- What follows a bulk object that has been replaced. A program downloaded into the selected empty bank starts at once, and
without the checks of 03 R69, which the spec makes of a selection alone (DESIGN CHOICE, log entry 167). -/
def afterBulk (index : Nat) (s : State) : State :=
  if index = 0x4304 then abandonPasses 9 s
  else if index = 0x4212 then
    { s with lamps := { s.lamps with monitor := s.lamps.monitor.map (fun c => { c with learned := 0, sum := Frac.zero }) } }
  else if (index = 0x4100 ∨ index = 0x4101) ∧ domainOn 12 s ∧ s.tim.words.isEmpty ∧ s.tim.active = index - 0x4100 + 1 then
    loadSelection s.tim.active s
  else s

/-- A download into the store of a running program or list is a misuse (R20, R294). -/
def storeRuns (index : Nat) (s : State) : Bool :=
  if index = 0x4100 ∨ index = 0x4101 then
    let n := index - 0x4100 + 1
    engineRuns s && (decide (s.tim.active = n) || decide (val Obj.PROGRAM_SELECT s = n))
  else if 0x4200 ≤ index ∧ index ≤ 0x4203 then decide ((engineOf (index - 0x4200) s).state = 1)
  else if 0x4900 ≤ index ∧ index ≤ 0x4905 then 
    decide ((axisOf (index - 0x4900) s).seg.state = .running) || decide ((axisOf (index - 0x4900) s).seg.state = .waiting)
  else false

/-! ## Effects of accepted values -/

/-- MSTOP has come to act, by a write of its enable or its level: as an assertion (11 R314). -/
def mstopWritten (was : Bool) (s : State) : State :=
  if !was && mstopActive s then
    let s := logEvent ⟨0x0905, noSource, []⟩ { s with mot := { s.mot with sticky := stick 4 s.mot.sticky } }
    if mcRuns s then mstopEffect s else s
  else if was && !mstopActive s && mcRuns s then axisNumbers.foldl (fun s a => captureUpdate a s) s
  else s

/-- A write of TONE_REF or FS_RANGE: the first of a value other than 0 is the port's reference point (02 R53), 0 begins a
learning, and FS_RANGE sets TONE_REF to 0 (02 R51). -/
def toneWritten (p key : Nat) (s : State) : State :=
  if key = (Obj.FS_RANGE p).key then learnPort p (setVal (Obj.TONE_REF p) 0 s)
  else
    let s := learnPort p s
    if val (Obj.TONE_REF p) s = 0 then s else modPort p (fun x => { x with suspect := none, released := 0 }) s

/-- What follows the accepted value of an object without a handler of its own; `old` is the state before. -/
def afterValue (key : Nat) (old s : State) : State :=
  if key = Obj.CMP_ENABLE.key then comparePower s
  else if key = Obj.HOLD_ENABLE.key then (if holding s && !holding old && domainOn 12 s then weirStop s else s)
  else if key = Obj.MSTOP_ENABLE.key then mstopWritten (mstopActive old) s
  else if key = Obj.MSTOP_LEVEL.key then
    let flip := decide (val Obj.MSTOP_LEVEL old ≠ val Obj.MSTOP_LEVEL s)
    mstopWritten (mstopActive old) (if flip then { s with mot := { s.mot with mstop := !s.mot.mstop } } else s)
  else match (List.range 96).find? (fun p => decide (key = (Obj.TONE_REF p).key ∨ key = (Obj.FS_RANGE p).key)) with
    | some p => toneWritten p key s
    | none =>
      match (List.range 6).find? (fun a => decide (key = (Obj.JOG_VELOCITY a).key)) with
      | some a => jogWritten a s
      | none =>
        match (List.range 8).find? (fun k => decide (key = (Obj.GROUP_SLEW k).key)) with
        | some k => slewWritten k s
        | none => s

/-- The handler of an RW object that has one, with a value of its type. -/
def rwHandler (index sub v : Nat) : Option (State → WriteOut) :=
  if index = 0x2100 ∧ sub = 8 then some (writeProgramSelect v)
  else if (index = 0x2110 ∨ index = 0x2111) ∧ sub = 5 then some (writeEncPosition (index - 0x2110) v)
  else if 0x2208 ≤ index ∧ index ≤ 0x220A ∧ sub = 1 then some (writeLevel (index - 0x2208) v)
  else if index = 0x2212 then some (writeIndLevel (sub - 1) v)
  else if 0x2218 ≤ index ∧ index ≤ 0x221B ∧ sub = 1 then some (writeEngineRun (index - 0x2218) v)
  else if index = 0x2500 ∧ sub = 1 then some (writeLeavenEnable v)
  else if index = 0x2600 ∧ sub = 0x0E then some (writeDefaultRef v)
  else if 0x2710 ≤ index ∧ index ≤ 0x2718 ∧ sub = 1 then some (writeRegionSize (index - 0x2710) v)
  else if 0x2A00 ≤ index ∧ index < 0x2A60 ∧ sub = 4 then some (writeAxisPosition ((index - 0x2A00) / 16) v)
  else if (index = 0x2C10 ∨ index = 0x2C11) ∧ sub = 1 then some (writeTwEnable (index - 0x2C10) v)
  else if (index = 0x2C10 ∨ index = 0x2C11) ∧ 2 ≤ sub ∧ sub ≤ 8 then some (writeTwField (index - 0x2C10) (sub - 2) v)
  else if index = 0x2E40 ∧ sub = 1 then some (writeGovEnable v)
  else if index = 0x2E40 ∧ sub = 0x0D then some (writeGovHalf v)
  else if 0x3100 ≤ index ∧ index ≤ 0x3107 ∧ sub = 3 then some (writeHostAssign (index - 0x3100) v)
  else if 0x3100 ≤ index ∧ index ≤ 0x3107 ∧ sub = 4 then some (writeGroupOutput (index - 0x3100) false v)
  else if 0x3100 ≤ index ∧ index ≤ 0x3107 ∧ sub = 5 then some (writeGroupOutput (index - 0x3100) true v)
  else none

/-! ## What sets hold (R339, Table 12.7) -/

/-- The writable objects that no set holds. -/
def notInSets (index sub : Nat) : Bool :=
  decide (index = 0x2000 ∧ sub = 2) || decide ((index = 0x2110 ∨ index = 0x2111) ∧ sub = 5)
    || (decide (0x2A00 ≤ index ∧ index < 0x2A60) && decide (sub = 3 ∨ sub = 4 ∨ sub = 0x0F))
    || decide (0x3100 ≤ index ∧ index ≤ 0x3107 ∧ sub = 3) || decide (index = 0x2210 ∧ sub = 3) || decide (index = 0x2212)
    || decide (index = 0x2900 ∧ sub = 0x0F) || decide (0x2740 ≤ index ∧ index ≤ 0x275F ∧ sub = 1)

/-- Whether a set holds an object of the given access class. -/
def classInSets (acc : Access) (index sub : Nat) : Bool :=
  if index = 0x1600 ∨ index = 0x1A00 ∨ index = 0x1C12 ∨ index = 0x1C13 then true
  else if index = 0x1C32 then decide (sub = 1)
  else if 0x2000 ≤ index ∧ index ≤ 0x3FFF then (acc = .rw || acc = .rwp) && !notInSets index sub
  else [0x4100, 0x4101, 0x4200, 0x4201, 0x4202, 0x4203, 0x4210, 0x4211, 0x4212, 0x4302, 0x4303, 0x4306, 0x4900, 0x4901,
    0x4902, 0x4903, 0x4904, 0x4905].contains index

/-- Whether a set holds the object. -/
def inSets (index sub : Nat) : Bool :=
  classInSets (((findRow index sub).map Row.acc).getD .ro) index sub

def keyInSets (key : Nat) : Bool := inSets (key / 256) (key % 256)

/-- The key of TW_TARGET_SCRATCH, which the two-wire unit holds. -/
def twScratchKey : Nat := objKey 0x2C00 7

/-- The values and byte strings that a set committed now would hold, defaults left out. -/
def snapshot (s : State) : Sparse × SparseBytes :=
  let strings := s.dict.bulk.filter (fun x => keyInSets x.1)
  (s.dict.held.filter (fun x => keyInSets x.1),
    if s.tw.scratch.all (fun b => decide (b = 0)) then strings else bytesSet twScratchKey s.tw.scratch strings)

end Sys2Proof.Machine
end

