-- ==== Sys2Proof/Machine/ConfigSets.lean ====
section
/-! DEFINITION. Configuration sets: applying, committing and reverting (12_control_dictionary R339 to R347). -/
namespace Sys2Proof.Machine

def setCfg (f : ConfigSets → ConfigSets) (s : State) : State := { s with cfg := f s.cfg }

/-! ## Applying a set (R345) -/

/-- Whether the object of an entry exists, is one that sets hold, and takes the value by its length and by its own range or
content. -/
def entryOk (e : Nat × List Byte) : Bool :=
  match findRow (e.1 / 256) (e.1 % 256) with
  | none => false
  | some r =>
    if !keyInSets e.1 then false
    else if r.ty.isBulk then
      (match r.ty with
        | .domain m => decide (e.2.length ≤ m)
        | t => decide (e.2.length = t.size)) && decide (contentOf (e.1 / 256) e.2 = .good)
    else decide (e.2.length = r.ty.size) && ownRangeOk (e.1 / 256) (e.1 % 256) r (leNat e.2)

/-- The keys of an index and a run of subindices. -/
def keysOf (index sub n : Nat) : List Nat := (List.range n).map (fun i => objKey index (sub + i))

/-! ### PDO mappings (R332, R336) -/

/-- Type and access of an object, the count at subindex 00 of R350 among them. -/
def objInfo (index sub : Nat) : Option (ObjType × Access) :=
  match findRow index sub with
  | some r => some (r.ty, r.acc)
  | none => if sub = 0 && hasCountSub index then some (.u8, .ro) else none

/-- A mapping entry may stand in the RxPDO, or in the TxPDO. -/
def mapEntryOk (rx : Bool) (e : Nat) : Bool :=
  let index := bits e 31 16
  let sub := bits e 15 8
  if index = 0 ∧ sub = 0 then true
  else if 0x4000 ≤ index ∧ index ≤ 0x5FFF then false
  else match objInfo index sub with
    | none => false
    | some (t, acc) =>
      let dir := if rx then acc = .rw || acc = .wo else acc = .rw || acc = .ro
      t.mappable && dir && decide (bits e 7 0 = t.mapBits)

/-- The first `n` entries of a mapping. -/
def mapEntries (index n : Nat) (s : State) : List Nat :=
  (List.range n).map (fun i => let k := objKey index (i + 1); sparseGet k (keyDefault k) s.dict.held)

/-- The code that refuses a mapping of `n` entries; 0 where none does. -/
def mapRefusal (rx : Bool) (n : Nat) (s : State) : Nat :=
  if 32 < n then abortMapSize
  else
    let es := mapEntries (if rx then 0x1600 else 0x1A00) n s
    if !es.all (mapEntryOk rx) then abortNotMappable
    else if 2048 < sumNats (es.map (fun e => bits e 7 0)) then abortMapSize else 0

/-- A mapping as it stands passes its checks. -/
def mapOk (rx : Bool) (s : State) : Bool :=
  let k := objKey (if rx then 0x1600 else 0x1A00) 0
  decide (mapRefusal rx (sparseGet k (keyDefault k) s.dict.held) s = 0)

/-- The conditions between objects that are checked once every entry of a set is written: those of writes, with timing
fields, layout, programs and mappings. -/
def setBindings : List Binding :=
  bindings ++ [
    ⟨[(Obj.TW_SCL_LOW 0).key, (Obj.TW_HD_DAT 0).key], fun s => decide (val (Obj.TW_HD_DAT 0) s < val (Obj.TW_SCL_LOW 0) s)⟩,
    ⟨[(Obj.TW_SCL_LOW 1).key, (Obj.TW_HD_DAT 1).key], fun s => decide (val (Obj.TW_HD_DAT 1) s < val (Obj.TW_SCL_LOW 1) s)⟩,
    ⟨(List.range 9).map (fun i => (Obj.REGION_SIZE i).key),
      fun s => (List.range 9).all (fun i => regionSizeOk i (val (Obj.REGION_SIZE i) s))
        && (layoutOf (requestedSizes s) (configuredCapacity s)).isSome⟩,
    ⟨[Obj.PROGRAM_SELECT.key], fun s =>
      let n := val Obj.PROGRAM_SELECT s
      decide (n = 0) || selectionEmpty n s || programOk (selectionWords n 0 s)⟩,
    ⟨keysOf 0x1600 0 33, mapOk true⟩, ⟨keysOf 0x1A00 0 33, mapOk false⟩ ]
  ++ (List.range 4).map (fun i => ⟨[(Obj.ENGINE_RUN i).key], fun s =>
      let ws := indWords i s
      decide (val (Obj.ENGINE_RUN i) s = 0) || (!ws.isEmpty && ws.all (indWordOk ws.length))⟩)

/-- An object that sets hold returns to its default. -/
def defaultKey (key : Nat) (s : State) : State :=
  if key = twScratchKey then { s with tw := { s.tw with scratch := List.replicate 128 0 } }
  else clearBulk key (setKey key (keyDefault key) s)

/-- Objects return to their defaults. -/
def defaultKeys (l : List Nat) (s : State) : State := l.foldl (fun s k => defaultKey k s) s

/-- The conditions of a set, checked in turn; how many objects took their default. -/
def checkBindings (s : State) : State × Nat :=
  setBindings.foldl (fun a b => if b.ok a.1 then a else (defaultKeys b.keys a.1, a.2 + b.keys.length)) (s, 0)

/-- An entry's value is stored, before any condition between objects is checked. -/
def storeEntry (s : State) (e : Nat × List Byte) : State :=
  match findRow (e.1 / 256) (e.1 % 256) with
  | none => s
  | some r =>
    if e.1 = twScratchKey then { s with tw := { s.tw with scratch := padTo 128 e.2 } }
    else if r.ty.isBulk then storeBulk (e.1 / 256) (e.1 % 256) e.2 s
    else setKey e.1 (leNat e.2) s

/-- The objects whose value differs between two states, of those that sets hold, in ascending order. -/
def changedKeys (old s : State) : List Nat :=
  let keys := (old.dict.held.filter (fun x => keyInSets x.1)).foldl (fun m x => sparseInsert x.1 x.2 m)
    (s.dict.held.filter (fun x => keyInSets x.1))
  (keys.map (fun x => x.1)).filter (fun k =>
    decide (sparseGet k (keyDefault k) old.dict.held ≠ sparseGet k (keyDefault k) s.dict.held))

/-- What a write of one object brings with it, once every entry is stored; `old` is the state before the set. The value is
written again by the object's own handler, from the value before; one that the handler refuses gives way to the default. A
write of FS_RANGE sets TONE_REF to 0 (02 R51), and a TONE_REF of the set is written after it. -/
def settleKey (old : State) (written : List Nat) (a : State × Nat) (key : Nat) : State × Nat :=
  let s := a.1
  let v := sparseGet key (keyDefault key) s.dict.held
  match rwHandler (key / 256) (key % 256) v with
  | some h =>
    match h (setKey key (sparseGet key (keyDefault key) old.dict.held) s) with
    | .ok t => (t, a.2)
    | .later t => (t, a.2)
    | _ => (setKey key (keyDefault key) s, a.2 + 1)
  | none =>
    if 0x3000 ≤ key / 256 ∧ key / 256 < 0x3060 ∧ key % 256 = 6 then
      let tone := Obj.TONE_REF (key / 256 - 0x3000)
      let t := afterValue key old s
      (if written.contains tone.key then setVal tone (val tone s) t else t, a.2)
    else (afterValue key old s, a.2)

/-- The entries that the objects take, and the keys of the others. -/
def sortEntries (l : List (Nat × List Byte)) : List (Nat × List Byte) × List Nat :=
  (l.filter entryOk, (l.filter (fun e => !entryOk e)).map (fun e => e.1))

/-- Applies a set (R345): each entry is written; an object whose entry is refused takes its default and is counted, and one
event is logged for the set. Objects without an entry keep what they hold, at boot their defaults. -/
def applySet (entries : List (Nat × List Byte)) (old : State) : State :=
  let (good, refused) := sortEntries entries
  let s := good.foldl storeEntry (defaultKeys (refused.filter keyInSets) old)
  let (s, n1) := checkBindings s
  let written := good.map (fun e => e.1)
  let keys := (changedKeys old s ++ written).foldl (fun m k => sparseInsert k 0 m) []
  let (s, n2) := (keys.map (fun x => x.1)).foldl (settleKey old written) (s, 0)
  let s := (good.filter (fun e => decide (e.1 / 256 = 0x4212 ∨ e.1 / 256 = 0x4100 ∨ e.1 / 256 = 0x4101))).foldl
    (fun s e => afterBulk (e.1 / 256) s) s
  let n := refused.length + n1 + n2
  if n = 0 then s
  else logEvent ⟨0x0A02, noSource, []⟩ (setCfg (fun c => { c with rejected := c.rejected + n, sticky := stick 4 c.sticky }) s)

/-! ## The values that a set holds (R339) -/

/-- An object takes its place in ascending order of the keys. -/
def placeObject (m : List (Nat × Row)) (x : Nat × Row) : List (Nat × Row) :=
  m.takeWhile (fun y => decide (y.1 < x.1)) ++ x :: m.dropWhile (fun y => decide (y.1 < x.1))

/-- The objects that sets hold, in ascending order. -/
def setObjects : List (Nat × Row) :=
  objTable.foldl (fun m r => (List.range (max 1 r.count)).foldl (fun m i => (List.range r.subs).foldl (fun m j =>
    let index := r.base + i * r.stride
    if classInSets r.acc index (r.sub + j) then placeObject m (objKey index (r.sub + j), r) else m) m) m) []

/-- The value last accepted of an object that sets hold, as a read returns it (R327). -/
def heldBytes (key : Nat) (r : Row) (s : State) : List Byte :=
  if key = twScratchKey then s.tw.scratch
  else if r.ty.isBulk then
    let data := bulkVal key (((tableDefault (key / 256)).map (fun t => t.2)).getD []) s
    match r.ty with
    | .str k => padTo k data
    | _ => data
  else
    let v := sparseGet key r.dflt s.dict.held
    typedBytes r.ty (if key = Obj.DEVICE_MAC.key ∧ v = Obj.DEVICE_MAC.dflt then s.otp.macBase else v)

/-- The entries that a set committed now would hold. -/
def setEntries (s : State) : List (Nat × List Byte) := setObjects.map (fun x => (x.1, heldBytes x.1 x.2 s))

/-! ## The bytes of a set (R340, Table 12.8) -/

def setMarker : Nat := 0x5E7C0F13
def wordValid : Nat := 0xFFFFFFFF

def entryBytesOf (e : Nat × List Byte) : List Byte :=
  leBytes 2 (e.1 / 256) ++ leBytes 1 (e.1 % 256) ++ [0] ++ leBytes 4 e.2.length ++ padTo (4 * ((e.2.length + 3) / 4)) e.2

/-- The set in its slot, up to its check word: the header before the state word, and the entries after it. -/
def ConfigSet.head (c : ConfigSet) : List Byte :=
  leBytes 4 c.marker ++ leBytes 4 c.version ++ leBytes 4 c.length ++ leBytes 4 c.count ++ leBytes 8 c.time
    ++ leBytes 4 c.firmware ++ padTo 16 (c.label.take 16)

def ConfigSet.tail (c : ConfigSet) : List Byte := c.entries.flatMap entryBytesOf

/-- The bytes of the set in its slot. -/
def ConfigSet.bytes (c : ConfigSet) : List Byte := c.head ++ leBytes 4 c.word ++ c.tail ++ leBytes 4 c.check

/-- The check word that the bytes ask for: it covers all of them but the state word and itself. -/
def ConfigSet.crc (c : ConfigSet) : Nat := crc32 (c.head ++ c.tail)

/-- The set has its marker, length and check word (R346). -/
def ConfigSet.good (c : ConfigSet) : Bool :=
  decide (c.marker = setMarker) && decide (c.length = 52 + c.tail.length) && decide (c.check = c.crc)

/-- The set is not revoked. -/
def ConfigSet.live (c : ConfigSet) : Bool := decide (c.word = wordValid)

/-! ## Slots (R340 to R342) -/

def cfgSlot (i : Nat) (s : State) : ConfigSlot := s.flash.config.getD i .empty

def setCfgSlot (i : Nat) (x : ConfigSlot) (s : State) : State := setFlash (fun f => { f with config := setAt f.config i x }) s

/-- The version of a slot, whether valid, revoked or bad; 0 where it is empty. -/
def ConfigSlot.version : ConfigSlot → Nat
  | .empty => 0
  | .set c => c.version

/-- The slot holds a set with a wrong marker, length or check word. -/
def ConfigSlot.bad : ConfigSlot → Bool
  | .empty => false
  | .set c => !c.good

/-- The highest version found in any slot. -/
def highestVersion (s : State) : Nat := maxNat (s.flash.config.map ConfigSlot.version)

/-- The valid sets with their slots. -/
def validSets (s : State) : List (Nat × ConfigSet) :=
  ((List.range 4).zip s.flash.config).filterMap (fun x => match x.2 with
    | .set c => if c.good && c.live then some (x.1, c) else none
    | .empty => none)

/-- The valid set of highest version below `limit`, if any. -/
def newestBelow (limit : Nat) (s : State) : Option (Nat × ConfigSet) :=
  (validSets s).foldl (fun m x => if limit ≤ x.2.version then m else match m with
    | some y => if y.2.version < x.2.version then some x else some y
    | none => some x) none

/-- The slot of the set in force. -/
def slotInForce (s : State) : Option Nat :=
  if s.cfg.active = 0 then none
  else ((List.range 4).zip s.flash.config).findSome? (fun x => match x.2 with
    | .set c => if c.good && decide (c.version = s.cfg.active) then some x.1 else none
    | .empty => none)

/-- The predecessor of the set in force. -/
def predecessor (s : State) : Option (Nat × ConfigSet) := if s.cfg.active = 0 then none else newestBelow s.cfg.active s

/-- Among slots with a set, one of lowest version. -/
def lowestSlot (l : List (Nat × ConfigSet)) : Option Nat :=
  (l.foldl (fun m x => match m with
    | some y => if x.2.version < y.2.version then some x else some y
    | none => some x) none).map (fun x => x.1)

/-- The slot that a commit writes (R342). -/
def cfgCommitSlot (s : State) : Nat :=
  let slots := (List.range 4).zip s.flash.config
  let inForce := slotInForce s
  let before := (predecessor s).map (fun x => x.1)
  let guarded (i : Nat) : Bool := decide (inForce = some i) || decide (before = some i)
  let revoked := slots.filterMap (fun x => match x.2 with
    | .set c => if c.good && !c.live && !guarded x.1 then some (x.1, c) else none
    | .empty => none)
  match slots.find? (fun x => decide (x.2 = .empty)) with
  | some x => x.1
  | none =>
    match slots.find? (fun x => x.2.bad) with
    | some x => x.1
    | none =>
      match lowestSlot revoked with
      | some i => i
      | none => (lowestSlot ((validSets s).filter (fun x => !guarded x.1))).getD 0

/-! ## Commits (R341, R342) -/

/-- The set that a commit writes: the values last accepted. -/
def newSet (s : State) : ConfigSet :=
  let entries := setEntries s
  let c : ConfigSet := { marker := setMarker, version := highestVersion s + 1, length := 0, count := entries.length,
                         time := s.now, firmware := s.boot.imageVersion,
                         label := padTo 16 (bulkVal (objKey 0x2011 4) [] s), word := wordValid, entries := entries, check := 0 }
  let c := { c with length := 52 + c.tail.length }
  { c with check := c.crc }

/-- What the slot holds while the set is written, or once its write has failed: a bad set of its version (R342, R347; log
entry 173). -/
def unwritten (c : ConfigSet) : ConfigSlot := .set { c with check := 0xFFFFFFFF - c.crc }

/-- CONFIG_COMMIT; the slot holds a bad set until the commit completes (R347). -/
def writeCommit (v : Bool) (s : State) : WriteOut :=
  if !v then .ok s
  else if s.cfg.commit.isSome || s.cfg.revert.isSome then .abort abortState s
  else
    let c := newSet s
    if 0xFFFFFFFF < c.version ∨ 1048576 < c.length then .abort abortContent s
    else
      let i := cfgCommitSlot s
      .ok (setCfg (fun x => { x with commit := some (c, i), wrote := false, commitResult := 1, commitVersion := c.version })
        (setCfgSlot i (unwritten c) s))

/-- The row CONFIG_COMMIT. -/
def execConfigCommit (via : Path) (s : State) : Host.Outcome State Fault Refusal := writeCommand via (writeCommit true) s

/-- COMMIT_COMPLETE: the new set is in force, or the slot stays bad. -/
def commitComplete (ok : Bool) (s : State) : State :=
  match s.cfg.commit with
  | none => s
  | some (c, i) =>
    if ok then
      setCfg (fun x => { x with commit := none, commitResult := 2, active := c.version, source := 1, modified := x.wrote, wrote := false })
        (setCfgSlot i (.set c) s)
    else
      logEvent ⟨0x0A01, i, []⟩ (flashFailed (setCfg (fun x => { x with
        commit := none, commitResult := 3, wrote := false, sticky := stick 3 x.sticky }) s))

/-- The row COMMIT_COMPLETE. -/
def execCommitComplete (ok : Bool) (s : State) : Host.Outcome State Fault Refusal := .next (commitComplete ok s)

/-- CONFIG_MODIFIED: a held value differs from the set in force, from the defaults where none is in force; or it stays set
(R341, R344; log entry 122). -/
def configModified (s : State) : Bool :=
  let differs (e : Nat × List Byte) : Bool :=
    match findRow (e.1 / 256) (e.1 % 256) with
    | some r => keyInSets e.1 && decide (heldBytes e.1 r s ≠ e.2)
    | none => false
  s.cfg.modified || match (slotInForce s).map (fun i => cfgSlot i s) with
    | some (.set c) => c.entries.any differs
    | _ => decide (snapshot s ≠ ([], []))

/-! ## Reverts and defaults (R343, R344) -/

/-- RWP writes are permitted: EtherCAT is in Init or Pre-Op and the device in STANDBY or FAULT (R325). -/
def rwpOpen (s : State) : Bool := (decide (s.ecat.al = 1) || decide (s.ecat.al = 2)) && atRest s

/-- CONFIG_REVERT: the state word of the set in force is programmed first (step 1 of R343). -/
def writeRevert (v : Bool) (s : State) : WriteOut :=
  if !rwpOpen s then .abort abortState s
  else if !v then .ok s
  else if s.cfg.commit.isSome || s.cfg.revert.isSome then .abort abortState s
  else match predecessor s with
    | none => .abort abortNoData s
    | some _ => .ok (setCfg (fun x => { x with revert := some s.cfg.active, revertResult := 1 }) s)

/-- The row CONFIG_REVERT. -/
def execConfigRevert (via : Path) (s : State) : Host.Outcome State Fault Refusal := writeCommand via (writeRevert true) s

/-- A set is applied and becomes the one in force. -/
def takeSet (c : ConfigSet) (s : State) : State :=
  setCfg (fun x => { x with active := c.version, source := 1, modified := false }) (applySet c.entries s)

/-- CONFIG_REVERT_COMPLETE: the state word of the set in force has been programmed, and its predecessor is applied and in
force (steps 2 and 3 of R343); or the program has failed, and nothing changes. -/
def revertComplete (ok : Bool) (s : State) : State :=
  match s.cfg.revert with
  | none => s
  | some v =>
    if ok then
      let t := setCfg (fun x => { x with revert := none, revertResult := 2 }) (setFlash (revokeIn v) s)
      match predecessor s with
      | some (_, c) => takeSet c t
      | none => t
    else flashFailed (setCfg (fun x => { x with revert := none, revertResult := 3 }) s)

/-- The row CONFIG_REVERT_COMPLETE. -/
def execConfigRevertComplete (ok : Bool) (s : State) : Host.Outcome State Fault Refusal := .next (revertComplete ok s)

/-- CONFIG_DEFAULTS: the defaults, which the state after reset holds, are applied as a set (R344). -/
def writeDefaults (v : Bool) (s : State) : WriteOut :=
  if !rwpOpen s then .abort abortState s
  else if !v then .ok s
  else .ok (noteWrite (setCfg (fun x => { x with modified := true }) (applySet (setEntries { State.reset with otp := s.otp }) s)))

/-- The row CONFIG_DEFAULTS. -/
def execConfigDefaults (via : Path) (s : State) : Host.Outcome State Fault Refusal := writeCommand via (writeDefaults true) s

/-! ## Restoring at boot (R346) -/

/-- The newest usable set is applied; bad slots are logged. -/
def restoreSet (s : State) : State :=
  let bad := ((List.range 4).zip s.flash.config).filterMap (fun x => if x.2.bad then some x.1 else none)
  let s := if bad.isEmpty then s else setCfg (fun c => { c with sticky := stick 2 c.sticky }) s
  let s := logEvents (bad.map (fun i => ⟨0x0A03, i, []⟩)) s
  match newestBelow (0xFFFFFFFF + 1) s with
  | some (_, c) => takeSet c s
  | none =>
    logEvent ⟨0x0A04, noSource, []⟩ (setCfg (fun c => { c with active := 0, source := 0, sticky := stick 5 c.sticky }) s)

/-! ## Status (Tables 12.12 and 12.13) -/

def configStatus (s : State) : Nat :=
  let c := s.cfg
  bitsOf [c.commit.isSome, c.revert.isSome, bitOf c.sticky 2, bitOf c.sticky 3, bitOf c.sticky 4, bitOf c.sticky 5]

/-- CONFIG_STATUS_CLEAR. -/
def writeConfigClear (v : Nat) (s : State) : WriteOut := .ok (setCfg (fun c => { c with sticky := unstick c.sticky v }) s)

/-- The row CONFIG_STATUS_CLEAR. -/
def execConfigStatusClear (via : Path) (v : BitVec 16) (s : State) : Host.Outcome State Fault Refusal :=
  writeCommand via (writeConfigClear v.toNat) s

/-- CONFIG_SLOT_s (Table 12.13). -/
def configSlotBytes (i : Nat) (s : State) : List Byte :=
  let flags := b2n (decide (slotInForce s = some i)) + 2 * b2n (decide ((predecessor s).map (fun x => x.1) = some i))
  match cfgSlot i s with
  | .empty => leBytes 32 0
  | .set c =>
    if !c.good then leBytes 32 3
    else leBytes 1 (if c.live then 1 else 2) ++ leBytes 1 flags ++ leBytes 2 0 ++ leBytes 4 c.version ++ leBytes 8 c.time
      ++ padTo 16 c.label

end Sys2Proof.Machine
end

