-- ==== Sys2Proof/Machine/Boot.lean ====
section
/-! DEFINITION. Boot and tile discovery (15_startup R379 to R388; 07_calibration R181). -/
namespace Sys2Proof.Machine

def setBoot (f : Boot → Boot) (s : State) : State := { s with boot := f s.boot }

/-! ## The rail sequence (R379, Table 15.2) -/

/-- Step 7 of Table 15.2: PD01 is on and drives the flash's balls, unless TESTMODE keeps every ball as in OFF (19 R456); PLL0
locks on REFCLK. -/
def starterBegins (s : State) : State :=
  let s := { s with pwr := { s.pwr with domains := 3, pllLocked := if s.pwr.refclkLost then 0 else 1 } }
  let s := { s with pins := { s.pins with qspiDriven := !s.boot.testMode } }
  setBoot (fun b => { b with phase := .starter }) s

/-- RAIL_GOOD: the next step begins; after step 6 PD01 is on and the Starter runs. -/
def railGood (s : State) : State :=
  match s.boot.phase with
  | .rails n =>
    if n < 6 then setBoot (fun b => { b with phase := .rails (n + 1) }) s
    else starterBegins s
  | _ => s

/-- The row RAIL_GOOD. -/
def execRailGood (s : State) : Host.Outcome State Fault Refusal := .next (railGood s)

/-- The monitors of the rails that a step starts (Tables 14.2 and 15.2). -/
def stepMonitors (n : Nat) : List Nat :=
  match n with
  | 1 => [1]
  | 3 => [2, 3, 4, 5]
  | 4 => [8]
  | 5 => [9, 18]
  | 6 => [6, 7]
  | _ => []

/-- RAIL_START_TIMEOUT: the rail of the present step is not good within 5 ms. -/
def railTimeout (m : Nat) (s : State) : State :=
  match s.boot.phase with
  | .rails n => if (stepMonitors n).contains m then resetRail m s else s
  | _ => s

/-- The row RAIL_START_TIMEOUT. -/
def execRailStartTimeout (monitor : Fin 20) (s : State) : Host.Outcome State Fault Refusal := .next (railTimeout monitor.val s)

/-! ## The Starter (R380 to R382) -/

/-- What IND0 is driven with (R376, R382). -/
def setInd0 (x : Ind0) (s : State) : State := { s with pins := { s.pins with ind0 := x } }

/-- An image boots: PLL1 to PLL6 lock (log entry 53), and the MP starts. -/
def bootImage (slot : Nat) (trial fellBack : Bool) (s : State) : State :=
  let s := setBoot (fun b => { b with
    phase := .booting 1, slot := slot, imageVersion := (slotImage slot s).version, trial := trial,
    status := setBit b.status 2 fellBack }) s
  setInd0 .level { s with pwr := { s.pwr with pllLocked := s.pwr.pllLocked ||| 0x7E#7 } }

/-- The Starter chooses the image by the boot-control record (R381); without one that is right it takes slot A, with the
trial flag clear. -/
def starterChecks (s : State) : State :=
  let r : BootRecord := (bootRecord s).getD ⟨0, 0, false, 0, true⟩
  let ok (n : Nat) : Bool := imageOk (slotImage n s) s.otp
  let s := setBoot (fun b => { b with status := bitsOf [ok 0, ok 1, false, (bootRecord s).isNone] }) s
  let other := 1 - r.slot
  if ok r.slot && (!r.trial || decide (r.count < 3)) then
    bootImage r.slot r.trial false (if r.trial then appendBoot r.slot true (r.count + 1) s else s)
  else if ok other then bootImage other false true s
  else setInd0 .blink1 (setBoot (fun b => { b with phase := .noImage }) s)

/-- The Starter can run: PLL0, which REFCLK feeds, is locked (Table 15.2). -/
def starterRuns (s : State) : Bool := s.pwr.pllLocked.getLsbD 0

/-- The row STARTER. With TESTMODE strapped high the Starter does not run (19 R456). -/
def execStarter (s : State) : Host.Outcome State Fault Refusal :=
  .next (if s.boot.phase = .starter && !s.boot.testMode && starterRuns s then starterChecks s else s)

/-- The row STARTER_RETRY: with no valid image the checks are repeated (R382). -/
def execStarterRetry (s : State) : Host.Outcome State Fault Refusal :=
  .next (if s.boot.phase = .noImage && starterRuns s then starterChecks s else s)

/-! ## Leaven records at boot (07 R181) -/

/-- The newest good record of a chain and range. -/
def newestRecord (ch r : Nat) (l : List LeavenRecord) : Option LeavenRecord :=
  (l.filter (fun x => decide (x.chain = ch ∧ x.range = r))).foldl (fun m x => match m with
    | some y => if y.sequence < x.sequence then some x else some y
    | none => some x) none

/-- A gain was accepted with a record: one of an own chain that is no offset-only pass, or one of a spare that is no spare
check, whose record is the one with the INL of the spare's sweeps (R165, R167, R179). -/
def recordHasGain (x : LeavenRecord) : Bool :=
  !x.tombstone && !bitOf x.flags 1 && (decide (x.chain < 96) || !bitOf x.flags 2)

/-- The entries of a record hold a gain other than 1.0, which a gain that was accepted before it has left there (Table 7.6);
reclamation keeps the newest record alone (16 R403). -/
def recordKeepsGain (x : LeavenRecord) : Bool := x.entries.any (fun e => decide (entryGain e ≠ 16384))

/-- The gain of a chain at a range has been accepted: by a record that no tombstone follows, or before the record `x` that is
restored (log entry 32). -/
def gainStored (x : LeavenRecord) (l : List LeavenRecord) : Bool :=
  let mine := l.filter (fun y => decide (y.chain = x.chain ∧ y.range = x.range))
  recordKeepsGain x || mine.any (fun y => recordHasGain y && mine.all (fun z => !z.tombstone || decide (z.sequence < y.sequence)))

/-- One record is restored of those stored: its entries, the chain's counts, and the range's bits (log entries 32, 69). -/
def restoreRecord (good : List LeavenRecord) (s : State) (x : LeavenRecord) : State :=
  let s := ((List.range 4).zip x.entries).foldl (fun s e => setChainEntry x.chain x.range e.1 e.2 s) s
  modChain x.chain (fun c =>
    let c := { c with
      ranges := setBit c.ranges x.range true,
      gains := if gainStored x good then setBit c.gains x.range true else c.gains }
    if c.accepted ≤ x.accepted then
      { c with accepted := x.accepted, acceptTime := x.time, temp := x.temp,
               inl := if bitOf x.flags 2 then x.inl else c.inl, nonlinear := bitOf x.flags 3 }
    else c) s

/-- The records whose check word is wrong. -/
def badRecords (s : State) : List LeavenRecord :=
  s.flash.leaven.flatMap (fun b => b.records.filter (fun r => !recordGood r))

/-- The records of the store are restored. -/
def restoreRecords (s : State) : State :=
  let good := storedRecords s
  let live := (List.range 104).flatMap (fun ch => (List.range 4).filterMap (fun r =>
    match newestRecord ch r good with
    | some x => if x.tombstone then none else some x
    | none => none))
  let s := live.foldl (restoreRecord good) s
  let s := (List.range 8).foldl (fun s k =>
    let mine := live.filter (fun x => decide (groupOfChain x.chain = k))
    match mine.foldl (fun (m : Option LeavenRecord) x => match m with
        | some y => if y.sequence < x.sequence then some x else some y
        | none => some x) none with
    | some x => modCal k (fun g => { g with tempCal := x.temp, restored := true }) s
    | none => s) s
  let bad := badRecords s
  let s := if bad.isEmpty then s else { s with lv := { s.lv with sticky := stick 6 s.lv.sticky } }
  logEvents (bad.map (fun x => ⟨0x0504, x.chain, []⟩)) s

/-! ## Tile discovery (R386 to R388) -/

/-- The four values of a record: PIXEL_COUNT, REF_LEAD, REF_TRAIL, LAMP_MON_INDEX. -/
def tileValues (p : Nat) (l : List Byte) : List (Ref × Nat) :=
  [(Obj.PIXEL_COUNT p, fieldAt l 14 2), (Obj.REF_LEAD p, fieldAt l 16 1), (Obj.REF_TRAIL p, fieldAt l 17 1),
   (Obj.LAMP_MON_INDEX p, fieldAt l 18 1)]

/-- Writes of discovery to one port: those that the objects take. -/
def applyTile (p : Nat) (l : List Byte) (s : State) : State :=
  (tileValues p l).foldl (fun s x =>
    match findRow (x.1.key / 256) (x.1.key % 256) with
    | some r => if ownRangeOk (x.1.key / 256) (x.1.key % 256) r x.2 then setVal x.1 x.2 s else s
    | none => s) s

/-- One port of a discovery that ends, with its result. -/
def discoverPort (apply : Bool) (s : State) (x : Nat × TileFound) : State :=
  let p := x.1
  let bit : BitVec 96 := 1#96 <<< p
  match x.2 with
  | .absent => s
  | .bad => setBoot (fun b => { b with bad := b.bad ||| bit }) s
  | .present l =>
    let s := if apply then applyTile p l s else s
    let differs := (tileValues p l).any (fun y => decide (val y.1 s ≠ y.2)) || decide (fieldAt l 12 2 ≠ 816)
    setBoot (fun b => { b with
      present := b.present ||| bit, identity := bytesSet p l b.identity,
      mismatch := if differs then b.mismatch ||| bit else b.mismatch }) s

/-- Set bits of a port mask. -/
def portCount (m : BitVec 96) : Nat := popcount m.toNat 96

/-- Every port has its result: the identities are stored, and values are applied if permitted (R387). -/
def discoveryEnds (s : State) : State :=
  let apply := flagVal Obj.TILE_AUTO_APPLY s && (s.boot.discoveryAtBoot || rwpOpen s)
  let s := setBoot (fun b => { b with present := 0, bad := 0, mismatch := 0, identity := [] }) s
  let s := s.tw.tiles.foldl (discoverPort apply) s
  let s := setBoot (fun b => { b with discovery := 2, discoveryAtBoot := false }) s
  if s.boot.bad = 0 ∧ s.boot.mismatch = 0 then s
  else logEvent ⟨0x0C01, noSource, leBytes 4 (portCount s.boot.bad) ++ leBytes 4 (portCount s.boot.mismatch)⟩ s

/-- DISCOVERY_DONE: the transactions that are still to come on the two buses, in order, and the end of the discovery once every
port has its result (17 R421). -/
def discoveryDone (answers : List (Fin 2 × List TwSeen)) (s : State) : State :=
  if s.boot.discovery ≠ 1 then s
  else
    let s := answers.foldl (fun s a => twTransaction a.1.val a.2 s) s
    if s.tw.tiles.length = 96 then discoveryEnds s else s

/-- The row DISCOVERY_DONE. -/
def execDiscoveryDone (answers : List (Fin 2 × List TwSeen)) (s : State) : Host.Outcome State Fault Refusal :=
  .next (discoveryDone answers s)

/-- TILE_DISCOVER. -/
def writeTileDiscover (v : Bool) (s : State) : WriteOut :=
  if s.boot.discovery = 1 then .abort abortState s
  else if v then .ok (discoveryBegin (setBoot (fun b => { b with discovery := 1, discoveryAtBoot := false }) s)) else .ok s

/-- The row TILE_DISCOVER. -/
def execTileDiscover (via : Path) (s : State) : Host.Outcome State Fault Refusal := writeCommand via (writeTileDiscover true) s

/-- TILE_IDENTITY: 96 records, 0 for a tile that is not present. -/
def tileIdentity (s : State) : List Byte :=
  (List.range 96).flatMap (fun p => (bytesGet p s.boot.identity).getD (List.replicate 64 0))

/-! ## The MP's boot actions (R384, R385, Table 15.3) -/

/-- Values in force from here on of the objects whose effect point is a reset (R215, R320, R356). -/
def holdReset (s : State) : State := { s with dict := { s.dict with atReset := s.dict.held } }

/-- RWP values of a restored set are in force at once. -/
def holdReady (s : State) : State :=
  { s with dict := { s.dict with atReady := s.dict.held, bulkAtReady := s.dict.bulk } }

/-- The channels that are configured present. -/
def presentChannels (s : State) : List Nat := [0, 1].filter (fun c => channelPresent c s)

/-- The SII image (R320), with the station alias in force. -/
def siiImage (s : State) : Sii :=
  { vendor := 0x0D79, product := 0x9612, revision := 0x00010000, serial := s.otp.serial % 2 ^ 32,
    sms := [⟨0x1000, 1024⟩, ⟨0x1400, 1024⟩, ⟨0x1800, 256⟩, ⟨0x1C00, 256⟩], stationAlias := val Obj.STATION_ALIAS s }

/-- What has happened before the MP could log it: REFCLK lost, and PLLs that lost lock (14 R364, R365; log entry 135). -/
def bootEvents (s : State) : State :=
  let now := pllConditions s
  let lost := (s.boot.unlocked.map (fun n => (⟨0x0B05, n, []⟩ : Event))).filter (fun e => !now.contains e)
  raiseConditions [0x0B05] now ((if bitOf s.pwr.railSticky 4 then [⟨0x0B04, noSource, []⟩] else []) ++ lost) s

/-- Orders 1 and 2, and the start of order 3. Numbers of log entries go on from the newest stored. -/
def bootBegin (s : State) : State :=
  let s := { s with ev := { s.ev with nextSeq := logNextStored s, previous := s.flash.filled } }
  let s := [3, 17, 19].foldl (fun s d => domainUp d s) s
  let s := holdReset (restoreSet s)
  let s := { s with
    ecat := { s.ecat with sii := some (siiImage s) },
    pins := { s.pins with ecPhyReset := true, ddrReset := [true, true] } }
  let s := bootEvents s
  let s := (presentChannels s).foldl (fun s c => domainUp (15 + c) s) s
  let s := restoreRecords s
  discoveryBegin (setBoot (fun b => { b with phase := .booting 3, trained := none, discovery := 1, discoveryAtBoot := true }) s)

/-- A fall-back from a trial: the booted slot is recorded (16 R414). -/
def recordFallBack (s : State) : State :=
  let trial := match bootRecord s with
    | some r => r.trial
    | none => false
  if bitOf s.boot.status 2 && trial then
    logEvent ⟨0x0C08, noSource, []⟩ (appendBoot s.boot.slot false 0 s)
  else s

/-- Order 4: the DRAM is in self-refresh and STANDBY is reached; a channel that has failed training, a section that has failed its
digest, or an unlock of PLL0 to PLL4 takes the device to FAULT at once (R383, R385, 14 R365). -/
def bootEnd (s : State) : State :=
  let s := recordFallBack (domainOff 16 (domainOff 15 s))
  let s := axesReady (holdReady s)
  let s := { s with modes := { s.modes with mode := .standby, changeTime := s.now } }
  let s := setBoot (fun b => { b with phase := .running, bootTime := (s.clk - b.startedAt) / 1000 }) s
  let (ok0, ok1) := s.boot.trained.getD (true, true)
  let failed := (presentChannels s).filter (fun c => if c = 0 then !ok0 else !ok1)
  let s := raise (⟨0x0C00, noSource, leBytes 1 s.boot.cause ++ leBytes 2 s.boot.detail⟩
    :: failed.map (fun c => ⟨0x0700, c, []⟩)) s
  if s.boot.sectionBad || s.boot.unlocked.any (fun n => decide (n ≤ 4)) then enterFault s else s

/-- BOOT_ACTIONS: from the MP's start, then once training and discovery have ended. -/
def bootActions (s : State) : State :=
  match s.boot.phase with
  | .booting 1 => inOneCycle bootBegin s
  | .booting 3 => if s.boot.trained.isSome && decide (s.boot.discovery = 2) then inOneCycle bootEnd s else s
  | _ => s

/-- The row BOOT_ACTIONS. -/
def execBootActions (s : State) : Host.Outcome State Fault Refusal := .next (bootActions s)

/-- DRAM_TRAINING_DONE: the results are kept in PD00, and the capacity is that of the present channels unless one has failed
(09 R215). -/
def trainingDone (ok0 ok1 : Bool) (s : State) : State :=
  if s.boot.phase ≠ .booting 3 || s.boot.trained.isSome then s
  else
    let two := channelPresent 1 s
    let good := ok0 && (!two || ok1)
    let cap := valReset Obj.DRAM_CH0_CAPACITY s + (if two then valReset Obj.DRAM_CH1_CAPACITY s else 0)
    { s with
      boot := { s.boot with trained := some (ok0, ok1) },
      cist := { s.cist with
        capacity := if good then cap * GB else 0, ready0 := ok0, ready1 := two && ok1,
        trainingFailed := s.cist.trainingFailed || !good } }

/-- The row DRAM_TRAINING_DONE. -/
def execDramTrainingDone (ok0 ok1 : Bool) (s : State) : Host.Outcome State Fault Refusal := .next (trainingDone ok0 ok1 s)

end Sys2Proof.Machine
end

