-- ==== Sys2Proof/Machine/Read.lean ====
section
/-! DEFINITION. What a read of each object returns (12_control_dictionary R325, R327, R330; 01_architecture R23;
13_object_index R350, R351): the values of status objects, by chapter, and the contents of byte strings. -/
namespace Sys2Proof.Machine

/-! ## Blocks whose domain is off (01 R23) -/

/-- The status objects of the index belong to a block whose domain is off, and read 0. The MP holds CISTERN_CAPACITY,
DRAM_STATUS, LAYOUT_PENDING and the region objects (09 R241, log entry 72). -/
def blockOff (index sub : Nat) (s : State) : Bool :=
  if (0x2100 ≤ index ∧ index ≤ 0x2111) ∨ (0x2200 ≤ index ∧ index ≤ 0x220A) ∨ index = 0x5200 then !domainOn 12 s
  else if 0x2300 ≤ index ∧ index ≤ 0x2400 then !domainOn 13 s
  else if (0x2500 ≤ index ∧ index ≤ 0x250F) ∨ index = 0x5500 then !domainOn 2 s
  else if (0x2600 ≤ index ∧ index ≤ 0x260B) ∨ index = 0x4600 then !domainOn 14 s
  else if index = 0x2700 then
    decide (sub ≠ 5 ∧ sub ≠ 6 ∧ sub ≠ 0x0F) && !domainOn 15 s && !domainOn 16 s
  else if index = 0x2720 ∨ (0x2740 ≤ index ∧ index ≤ 0x275F) then !domainOn 15 s && !domainOn 16 s
  else if 0x2810 ≤ index ∧ index ≤ 0x281F then !laneOn (index - 0x2810) s
  else if 0x2900 ≤ index ∧ index ≤ 0x2A5F then !domainOn 3 s
  else if 0x2C00 ≤ index ∧ index ≤ 0x2C20 then !domainOn 19 s
  else if 0x3000 ≤ index ∧ index ≤ 0x305F then !domainOn (4 + (index - 0x3000) / 12) s
  else if 0x3100 ≤ index ∧ index ≤ 0x3107 then !domainOn (4 + (index - 0x3100)) s
  else false

/-! ## Status values

Each function gives the number that an object of its index holds; none where the object is a held value. -/

/-- Tables 12.10 to 12.12. -/
def commValue (index sub : Nat) (s : State) : Option Nat :=
  if index = 0x1001 then some (errorRegister s.ev)
  else if index = 0x1018 ∧ sub = 4 then some (s.otp.serial % 2 ^ 32)
  else if index = 0x1C32 ∧ sub = 2 then some (readCount 32 s.ecat.cycleTime)
  else if index = 0x1C33 ∧ sub = 1 then some (val Obj.SYNC_MODE s)
  else if index = 0x2001 then
    match sub with
    | 1 => some s.ecat.al
    | 2 => some s.ecat.alCode
    | 6 => some (toRaw 64 s.ecat.timeStep)
    | 7 => some (readCount 32 s.ecat.opLost)
    | _ => none
  else if index = 0x2010 then
    match sub with
    | 1 => some s.cfg.active
    | 2 => some s.cfg.source
    | 3 => some (b2n (configModified s))
    | 4 => some (configStatus s)
    | 6 => some (readCount 32 s.cfg.rejected)
    | _ => none
  else if index = 0x2011 ∧ sub = 2 then some s.cfg.commitResult
  else if index = 0x2011 ∧ sub = 3 then some s.cfg.commitVersion
  else if index = 0x2012 ∧ sub = 2 then some s.cfg.revertResult
  else none

/-- Table 1.7. -/
def modeValue (sub : Nat) (s : State) : Option Nat :=
  match sub with
  | 1 => some s.modes.mode.code
  | 2 => some s.modes.request
  | 3 => some s.modes.status
  | 4 => some s.modes.changeTime
  | 5 => some s.modes.refusal
  | _ => none

/-- Table 3.4. PAGE_NUMBER shows the page of the image line last started, also while reference lines or lines of READY have
followed it (DESIGN CHOICE, log entry 181). -/
def timingValue (sub : Nat) (s : State) : Option Nat :=
  match sub with
  | 0x09 => some s.tim.active
  | 0x0D => some (readCount 32 s.tim.overruns)
  | 0x0E => some (timingStatus s)
  | 0x0F => some (lineRate s)
  | 0x15 => some s.tim.pageNumber
  | 0x17 => some (readCount 32 s.tim.pagesIgnored)
  | 0x19 => some (readCount 32 s.tim.webHalts)
  | 0x1A => some (readCount 32 s.tim.diagLines)
  | 0x1B => some (readCount 16 s.tim.lagMax)
  | 0x1C => some (readCount 32 s.tim.shortened)
  | _ => none

/-- Table 3.5. ENC_POSITION reads the value last accepted, also while it waits for PD12 (03 R476). -/
def encoderValue (e sub : Nat) (s : State) : Option Nat :=
  let x := encoderOf e s
  match sub with
  | 4 => some (toRaw 32 (encRate e s))
  | 5 => some (toRaw 64 (x.posWrite.getD x.position))
  | 6 => some (toRaw 64 x.indexPosition)
  | 7 => some x.indexTime
  | 8 => some (readCount 32 x.indexCount)
  | 9 => some (readCount 32 x.errors)
  | _ => none

/-- Tables 4.7 and 4.8. -/
def lampValue (index sub : Nat) (s : State) : Option Nat :=
  if index = 0x2200 then
    match sub with
    | 0x09 => some (lampStatus s)
    | 0x0A => some (readCount 32 s.lamps.latchCount)
    | 0x0C => some s.lamps.diagResult
    | 0x0D => some (readCount 32 s.lamps.openCount)
    | _ => none
  else if 0x2201 ≤ index ∧ index ≤ 0x2204 then
    if sub = 2 then some (readCount 32 (s.lamps.chainErrors.getD (index - 0x2201) 0)) else none
  else if 0x2208 ≤ index ∧ index ≤ 0x220A then
    let l := lampOf (index - 0x2208) s
    match sub with
    | 5 => some l.exposureActual
    | 6 => some l.subpulsesActual
    | 7 => some l.levelActual
    | 8 => some (dimTiles (index - 0x2208) s)
    | _ => none
  else if index = 0x2212 then some (indLevel (sub - 1) s)
  else
    let e := engineOf (index - 0x2218) s
    match sub with
    | 3 => some e.state
    | 4 => some e.pc
    | _ => none

/-- Tables 5.6 and 5.7. -/
def correctionValue (index sub : Nat) (s : State) : Option Nat :=
  let p := s.pipe
  if index = 0x2300 then
    match sub with
    | 0x07 => some p.active
    | 0x09 => some (shadingStatus s)
    | 0x0F => some (readCount 32 p.unresolved)
    | 0x10 => some (staggerDepth s)
    | 0x11 => some (readCount 32 p.staggerShort)
    | 0x12 => some (bankOf 0 s).state
    | 0x13 => some (bankOf 1 s).state
    | 0x14 => some (bankOf 0 s).time
    | 0x15 => some (bankOf 1 s).time
    | _ => none
  else
    match sub with
    | 0x02 => some p.capture.state.code
    | 0x03 => some p.capture.result
    | 0x10 => some (readCount 32 p.capture.count)
    | 0x11 => some (readCount 32 p.capture.fails)
    | 0x12 => some p.capture.lastTime
    | _ => none

/-- Table 6.4. -/
def registrationValue (sub : Nat) (s : State) : Option Nat :=
  let p := s.pipe
  match sub with
  | 0x05 => some (toRaw 64 (staggerCounts s))
  | 0x0C => some (regStatus s)
  | 0x0E => some (readCount 32 p.clampCount)
  | 0x0F => some (readCount 32 p.discontinuities)
  | 0x10 => some (readCount 32 p.singles)
  | 0x11 => some (outPixelsOf s)
  | 0x12 => some (outLineBytes s)
  | 0x14 => some p.measured
  | 0x15 => some p.measureResult
  | 0x17 => some p.phaseLast
  | _ => none

/-- Tables 7.7 and 7.8. -/
def leavenValue (index sub : Nat) (s : State) : Option Nat :=
  if index = 0x2500 then
    match sub with
    | 0x10 => some (leavenStatus s)
    | 0x17 => some (readCount 32 s.lv.acceptCount)
    | 0x18 => some (readCount 32 s.lv.rejectCount)
    | 0x19 => some (readCount 32 s.lv.abandonCount)
    | 0x1A => some (readCount 32 s.lv.storeFails)
    | _ => none
  else if index = 0x2501 then
    match sub with
    | 2 => some s.lv.regions.length
    | 3 => some (readCount 32 s.lv.dropped)
    | _ => none
  else
    let k := index - 0x2508
    match sub with
    | 1 => some (toRaw 16 (groupTemp k s))
    | 2 => some (toRaw 16 (calOf k s).tempCal)
    | 3 => some (calState k s)
    | 4 => some (calPort k s)
    | 5 => some (calOf k s).timeCal
    | 6 => some (groupUnrecorded k s)
    | _ => none

/-- Tables 8.9 and 8.10. -/
def compareValue (index sub : Nat) (s : State) : Option Nat :=
  let c := s.cmp
  if index = 0x2600 then
    match sub with
    | 0x14 => some (b2n c.half)
    | 0x15 => some (cmpStatus s)
    | 0x17 => some (readCount 32 c.bandsCompared)
    | 0x18 => some (readCount 32 c.bandsSkipped)
    | 0x19 => some (readCount 32 c.discardPage)
    | 0x1A => some (readCount 32 c.discardSpeed)
    | 0x1B => some (readCount 32 c.discardAlign)
    | 0x1C => some (readCount 32 c.defects)
    | 0x1D => some (readCount 32 c.blobsLost)
    | 0x1E => some (readCount 32 c.pagesCompared)
    | 0x1F => some (readCount 32 c.pagesNotCompared)
    | _ => none
  else if index = 0x2601 then
    match sub with
    | 3 => some (refFreeBytes s)
    | 5 => some c.assigns.length
    | 6 => some (c.upload.getD 0xFFFF)
    | 7 => some (uploadBytes s)
    | _ => none
  else if sub = 3 then some (readCount 32 (c.classCells.getD (index - 0x2608) 0))
  else none

/-- Tables 9.10 to 9.12. -/
def cisternValue (index sub : Nat) (s : State) : Option Nat :=
  let c := s.cist
  if index = 0x2700 then
    match sub with
    | 0x05 => some c.capacity
    | 0x06 => some (dramStatus s)
    | 0x09 => some (100 * c.scrubAddress / c.capacity)
    | 0x0A => some (readCount 32 c.corrected)
    | 0x0B => some (readCount 32 c.uncorrectable)
    | 0x0C => some c.lastAddress
    | 0x0E => some (readCount 32 c.scrubPasses)
    | 0x0F => some (b2n c.layoutPending)
    | 0x10 => some (readCount 32 c.dataLost)
    | _ => none
  else if 0x2710 ≤ index ∧ index ≤ 0x2718 then
    let i := index - 0x2710
    match sub with
    | 2 => some (regionBase i s)
    | 3 => some (regionSize i s)
    | 4 => some (c.highWater.getD i 0)
    | _ => none
  else if index = 0x2720 then if sub = 1 then some c.dmaStatus else none
  else
    let x := chanOf (index - 0x2740) s
    match sub with
    | 3 => some x.state.code
    | 4 => some x.current
    | 5 => some (readCount 32 x.doneCount)
    | 6 => some (readCount 32 x.badCount)
    | 7 => some x.lastError
    | 8 => some (readCount 32 x.notices)
    | _ => none

/-- Tables 10.8 to 10.10. DEVICE_MAC reads the value of the OTP until one is written. -/
def streamValue (index sub : Nat) (s : State) : Option Nat :=
  let h := s.host
  if index = 0x2800 then
    match sub with
    | 0x0B => some h.session
    | 0x0C => some h.dataLanes
    | 0x0D => some h.nextItem
    | 0x0E => some (streamStatus s)
    | 0x10 => some h.items.length
    | _ =>
      if objKey 0x2800 sub = Obj.DEVICE_MAC.key && decide (val Obj.DEVICE_MAC s = Obj.DEVICE_MAC.dflt)
      then some s.otp.macBase else none
  else if index = 0x2801 then
    match sub with
    | 0x03 => some (slotsTotal s)
    | 0x04 => some (slotsHeld s)
    | 0x05 => some (fillPercent s)
    | 0x06 => some (readCount 32 h.pagesDropped)
    | 0x07 => some (readCount 32 h.linesDropped)
    | 0x0C => some h.weir.code
    | 0x0D => some (readCount 32 h.overruns)
    | 0x0E => some (speedRequest s)
    | _ => none
  else if index = 0x2802 then
    match sub with
    | 0x06 => some (readCount 32 h.restarts)
    | 0x07 => some (readCount 32 h.unmatched)
    | 0x08 => some h.lastResult
    | 0x09 => some (toRaw 32 h.lastOffset)
    | 0x0A => some (toRaw 32 h.restart.epsilon)
    | _ => none
  else
    let n := index - 0x2810
    let l := laneOf n s
    match sub with
    | 1 => some (laneStatus n s)
    | 2 => some ((l.host.map (fun a => a.1)).getD 0)
    | 3 => some ((l.host.map (fun a => a.2.1)).getD 0)
    | 4 => some ((l.host.map (fun a => a.2.2)).getD 0)
    | 5 => some l.bytesSent
    | 6 => some l.creditLimit
    | 7 => some (readCount 32 l.pauseCount)
    | 8 => some (readCount 32 l.rxDropped)
    | _ => none

/-- AXIS_VELOCITY (11 R284). -/
def axisVelocity (a : Nat) (s : State) : Int :=
  let f := rateOfWord (axisOf a s).vw
  if (axisOf a s).forward then f else -f

/-- Tables 11.9 to 11.11. -/
def motionValue (index sub : Nat) (s : State) : Option Nat :=
  if index = 0x2900 then
    match sub with
    | 0x01 => some (motionStatus s)
    | 0x0A => some (toRaw 32 (transportSpeed s))
    | 0x0B => some s.pwr.gov.cap
    | 0x10 => some s.mot.gateSupply
    | _ => none
  else
    let a := (index - 0x2A00) / 16
    let x := axisOf a s
    match sub with
    | 0x04 => some (toRaw 32 x.pos)
    | 0x05 => some (toRaw 32 (axisVelocity a s))
    | 0x06 => some x.state.code
    | 0x07 => some (axisStatus a s)
    | 0x08 => some x.owner.code
    | 0x27 => some (toRaw 16 x.loadAngle)
    | 0x28 => some (roundDiv x.current 100).toNat
    | 0x31 => some (toRaw 32 x.mrefLatch)
    | 0x32 => some x.seg.state.code
    | 0x33 => some x.seg.pc
    | 0x34 => some x.seg.stopReason
    | 0x35 => some x.seg.notifyLast
    | 0x36 => some (readCount 32 x.seg.replans)
    | 0x37 => some (readCount 32 x.stallCount)
    | 0x38 => some (readCount 32 x.errorCount)
    | _ => none

/-- Tables 17.8 and 17.9. -/
def twoWireValue (index sub : Nat) (s : State) : Option Nat :=
  if index = 0x2C00 then if sub = 5 then some (twStatus s) else none
  else if index = 0x2C20 then some (toRaw 16 (s.tw.barTemp.getD (sub - 1) 0))
  else
    let b := busOf (index - 0x2C10) s
    match sub with
    | 0x0D => some b.state.code
    | 0x0E => some (readCount 32 b.arbLost)
    | 0x0F => some (readCount 32 b.nacks)
    | 0x10 => some (readCount 32 b.timeouts)
    | 0x11 => some (readCount 32 b.stuckCount)
    | 0x12 => some (readCount 32 b.targetCount)
    | _ => none

/-- Table 16.12. -/
def mailboxValue (index sub : Nat) (s : State) : Option Nat :=
  if index = 0x2D00 then
    match sub with
    | 2 => some (dirOf 1 s).ring.length
    | 5 => some (readCount 32 s.mbox.lost)
    | 6 => some (readCount 32 s.mbox.unknown)
    | 7 => some s.mbox.sticky
    | _ => none
  else
    let d := dirOf (index - 0x2D10) s
    match sub with
    | 2 => some (readCount 32 d.delivered)
    | 3 => some (readCount 32 d.timeouts)
    | 4 => some d.ring.length
    | 5 => some d.highWater
    | 6 => some (readCount 32 d.wakes)
    | 7 => some (receiverState (index - 0x2D10) s)
    | _ => none

/-- Tables 14.9 and 14.10. -/
def powerValue (index sub : Nat) (s : State) : Option Nat :=
  let p := s.pwr
  if index = 0x2E30 then
    match sub with
    | 2 => some (railStatus s)
    | 4 => some p.domains.toNat
    | 5 => some p.devicePower
    | 6 => some p.afeOut.toNat
    | _ => none
  else if index = 0x2E31 then
    match sub with
    | 1 => some (toRaw 16 (tjMax s).1)
    | 2 => some (tjMax s).2
    | 4 => some p.gradientMax
    | 5 => some (monStatus s)
    | _ => none
  else if index = 0x2E32 then some (toRaw 16 (p.temps.getD (sub - 1) 0))
  else if index = 0x2E33 then some (p.volts.getD (sub - 1) 0)
  else if index = 0x2E34 then some (p.procs.getD (sub - 1) 0)
  else
    match sub with
    | 0x0A => some p.gov.level
    | 0x0B => some (govStatus s)
    | 0x0E => some (readCount 32 (timeDeferred s))
    | _ => none

/-- Table 15.6. -/
def bootValue (index sub : Nat) (s : State) : Option Nat :=
  let b := s.boot
  if index = 0x2E50 then
    match sub with
    | 1 => some b.cause
    | 2 => some b.detail
    | 3 => some (readCount 32 b.count)
    | 5 => some b.slot
    | 6 => some b.imageVersion
    | 7 => some (b2n b.trial)
    | 8 => some b.status
    | 9 => some (readCount 32 b.bootTime)
    | _ => none
  else
    match sub with
    | 2 => some b.discovery
    | 7 => some (portCount b.present)
    | _ => none

/-- Tables 16.13 and 16.14. -/
def managementValue (index sub : Nat) (s : State) : Option Nat :=
  if index = 0x2E60 then
    match sub with
    | 1 => some (s.ev.nextSeq % 2 ^ 32)
    | 2 => some s.ev.waiting.length
    | 3 => some (readCount 32 s.ev.notStored)
    | _ => none
  else if index = 0x2E61 then
    match sub with
    | 1 => some (flashStatus s)
    | 3 => some s.flash.size
    | 4 => some (readCount 32 (maxNat s.flash.eraseCounts))
    | 6 => some (readCount 32 s.flash.patrolBad)
    | 7 => some (leavenFree s)
    | _ => none
  else if index = 0x2E62 then if sub = 2 then some (readCount 32 s.telem.sequence) else none
  else if index = 0x2E70 then
    match sub with
    | 3 => some s.upd.state.code
    | 4 => some s.upd.result
    | 5 => some s.upd.bytes
    | 7 => some (shownVersion 0 s)
    | 8 => some (shownVersion 1 s)
    | 9 => some (targetSlot s)
    | _ => none
  else
    match sub with
    | 2 => some s.otp.minSvn
    | 3 => some s.otp.serial
    | 4 => some s.otp.macBase
    | 5 => some s.otp.locks
    | _ => none

/-- Table 18.5. -/
def errorValue (sub : Nat) (s : State) : Option Nat :=
  match sub with
  | 0x01 => some (b2n s.ev.first.isSome)
  | 0x05 => some s.ev.overflow
  | 0x06 => some s.ev.classMap
  | 0x08 => some ((s.ev.first.map (fun e => e.sequence % 2 ^ 32)).getD 0)
  | 0x09 => some (readCount 32 s.ev.emcyLost)
  | 0x0B => some (readCount 32 s.ev.logged)
  | _ => none

/-- Tables 2.7 and 2.8. -/
def portValue (p sub : Nat) (s : State) : Option Nat :=
  let x := portOf p s
  match sub with
  | 0x0F => some (portStatus p s)
  | 0x11 => some (readCount 32 x.faultCount)
  | 0x12 => some x.faultFirstY
  | 0x13 => some (readCount 32 x.unmarked)
  | 0x14 => some x.toneLast
  | 0x15 => some (readCount 32 x.toneSkipped)
  | _ => none

def groupValue (k sub : Nat) (s : State) : Option Nat :=
  let g := groupOf k s
  match sub with
  | 1 => some g.spare.code
  | 2 => some (g.port.getD 0xFF)
  | 8 => some (readCount 32 g.handovers)
  | 9 => some (groupStatus k s)
  | _ => none

/-- The value of an object that is more than a held value; none for the others. -/
def statusValue (index sub : Nat) (s : State) : Option Nat :=
  if index < 0x2000 then commValue index sub s
  else if index = 0x2000 then modeValue sub s
  else if index ≤ 0x2012 then commValue index sub s
  else if index = 0x2100 then timingValue sub s
  else if index = 0x2104 then none
  else if index ≤ 0x2111 then encoderValue (index - 0x2110) sub s
  else if index = 0x2210 ∨ index = 0x2211 then none
  else if index ≤ 0x221B then lampValue index sub s
  else if index ≤ 0x2310 then correctionValue index sub s
  else if index = 0x2400 then registrationValue sub s
  else if index ≤ 0x250F then leavenValue index sub s
  else if index ≤ 0x260B then compareValue index sub s
  else if index ≤ 0x275F then cisternValue index sub s
  else if index ≤ 0x281F then streamValue index sub s
  else if index ≤ 0x2A5F then motionValue index sub s
  else if index ≤ 0x2C20 then twoWireValue index sub s
  else if index ≤ 0x2D17 then mailboxValue index sub s
  else if index ≤ 0x2E40 then powerValue index sub s
  else if index ≤ 0x2E51 then bootValue index sub s
  else if index ≤ 0x2E80 then managementValue index sub s
  else if index = 0x2F00 then errorValue sub s
  else if 0x3000 ≤ index ∧ index ≤ 0x305F then portValue (index - 0x3000) sub s
  else if 0x3100 ≤ index ∧ index ≤ 0x3107 then groupValue (index - 0x3100) sub s
  else none

/-- PORT_LINK: the levels of ECLINK0 and ECLINK1, which the device does not set (19 R455; log entry 73). -/
def readLinks (s : State) : Nat × State :=
  let (links, s) := takeFree 2 s
  (links, { s with pins := { s.pins with links := links } })

/-- Objects that free values enter: PORT_LINK and CISTERN_LOAD, and GROUP_STATUS (log entries 10, 73 and 150). -/
def freeValue (index sub : Nat) (s : State) : Option (Nat × State) :=
  if index = 0x2001 ∧ sub = 5 then some (readLinks s)
  else if index = 0x2700 ∧ sub = 0x0D then some (cisternLoad s)
  else if 0x3100 ≤ index ∧ index ≤ 0x3107 ∧ sub = 9 then some (groupStatus (index - 0x3100) s, { s with fresh := s.fresh + 1 })
  else none

/-- The number that a read of an object of fixed length returns. -/
def readNumber (index sub : Nat) (r : Row) (s : State) : Nat × State :=
  if r.acc = .ro && blockOff index sub s then (0, s)
  else match freeValue index sub s with
    | some x => x
    | none =>
      match statusValue index sub s with
      | some v => (v, s)
      | none => (sparseGet (objKey index sub) r.dflt s.dict.held, s)

/-! ## Byte strings -/

/-- A bank's content (Table 5.2); the identity where it holds none (05 R120). -/
def bankBytes (b : Nat) (s : State) : List Byte :=
  (bankOf b s).raw.getD ((List.replicate 235008 (leBytes 4 (1024 * 65536 + 16384))).flatten ++ List.replicate 580 0)

def entryBytes (e : Option LogEntry) : List Byte :=
  match e with
  | some x => x.bytes
  | none => []

/-- The content of a byte string in force, as a read returns it. -/
def readBytes (index sub : Nat) (s : State) : List Byte :=
  match index, sub with
  | 0x1008, _ => padTo 16 (asciiBytes "CJ9612")
  | 0x1009, _ => padTo 16 s.otp.hardware
  | 0x100A, _ => leBytes 16 (Config.softwareVersion s.boot.imageVersion).toNat
  | 0x2010, _ => configSlotBytes (sub - 0x11) s
  | 0x2011, _ => padTo 16 (bulkVal (objKey 0x2011 4) [] s)
  | 0x2C00, 2 => twResult s
  | 0x2C00, _ => s.tw.scratch
  | 0x2D00, _ => (dirOf 1 s).ring.headD []
  | 0x2E51, 4 => leBytes 12 s.boot.present.toNat
  | 0x2E51, 5 => leBytes 12 s.boot.bad.toNat
  | 0x2E51, _ => leBytes 12 s.boot.mismatch.toNat
  | 0x2E80, _ => s.otp.keyHash
  | 0x2F00, 2 => entryBytes s.ev.first
  | 0x2F00, 4 => entryBytes s.ev.firstFatal
  | 0x2F00, _ => entryBytes s.ev.previous
  | 0x4300, _ => bankBytes 0 s
  | 0x4301, _ => bankBytes 1 s
  | 0x4600, _ => refDirectory s
  | 0x5000, _ => s.telem.last
  | 0x5001, _ => s.telem.history.flatten
  | 0x5100, _ => tileIdentity s
  | 0x5200, _ => s.lamps.openMap.flatMap (fun m => leBytes 2 m)
  | 0x5500, _ => s.lv.chains.flatMap chainInfoBytes
  | 0x5F00, _ => (eventLog s).flatMap LogEntry.bytes
  | _, _ => bulkVal (objKey index sub) (((tableDefault index).map (fun t => t.2)).getD []) s

/-- The shading banks are reached only while PD13 is on, in READY, INLINE and SHEET (05 R120). -/
def bankReached (s : State) : Bool := domainOn 13 s && imaging s

def isBank (index : Nat) : Bool := decide (index = 0x4300) || decide (index = 0x4301)

/-! ## Reads (R328) -/

/-- The code that refuses an access to an object that does not exist. -/
def missingCode (index : Nat) : Nat := if indexExists index then abortNoSub else abortNoIndex

/-- The code that refuses a read by existence and access code, 0 where neither does (causes 1 and 2 of R328). -/
def accessOf (index sub : Nat) : Nat :=
  match findRow index sub with
  | none => if sub = 0 && hasCountSub index then 0 else missingCode index
  | some r => if r.acc = .wo then abortWriteOnly else 0

/-- What a read of an object gives: an abort code or the data, and the state after it. -/
def readObject (index sub : Nat) (s : State) : Nat × List Byte × State :=
  match findRow index sub with
  | none =>
    if sub = 0 && hasCountSub index then (0, leBytes 1 (highestSub index), s) else (missingCode index, [], s)
  | some r =>
    if r.acc = .wo then (abortWriteOnly, [], s)
    else if isBank index && !bankReached s then (abortState, [], s)
    else if r.ty.isBulk then
      let l := readBytes index sub s
      (0, if r.acc = .ro && blockOff index sub s then List.replicate l.length 0 else l, s)
    else
      let x := readNumber index sub r s
      (0, typedBytes r.ty x.1, x.2)

end Sys2Proof.Machine
end

