-- ==== Sys2Proof/Machine/DictWrite.lean ====
section
/-! DEFINITION. Dictionary writes (12_control_dictionary R324 to R328, R330, R336): the handler of each object, the order
of the checks of R328, downloads of shading banks (05 R120) and the acknowledgement of the first-error record (18 R441). -/
namespace Sys2Proof.Machine

/-! ## FIRST_ERROR_ACK (18 R441) -/

/-- The message of an accepted acknowledgement (18 R444); its event and source fields are free values (log entry 74). -/
def ackEmergency (s : State) : State :=
  if emergencySent s then
    let (event, s) := takeFree 16 s
    let (source, s) := takeFree 16 s
    fillMailbox { s with ev := queueEmergency 0 (.emergency 0 0 event source 2) s.ev }
  else s

/-- An accepted acknowledgement; a FATAL condition that still holds is raised again at its next evaluation. -/
def acknowledge (s : State) : State :=
  let ev := { s.ev with first := none, firstFatal := none, overflow := 0, classMap := 0 }
  ackEmergency { s with ev := ev, pwr := { s.pwr with raised := [] }, flash := { s.flash with filled := none } }

def writeFirstErrorAck (v : Nat) (s : State) : WriteOut :=
  match s.ev.first with
  | some e => if e.sequence % 2 ^ 32 = v then .ok (acknowledge s) else .abort abortRange s
  | none => .abort abortRange s

/-- The row FIRST_ERROR_ACK. -/
def execFirstErrorAck (via : Path) (v : BitVec 32) (s : State) : Host.Outcome State Fault Refusal :=
  writeCommand via (writeFirstErrorAck v.toNat) s

/-! ## Handlers of write-only objects -/

/-- Chapters 01 to 07. -/
def woImage (index sub v : Nat) : Option (State → WriteOut) :=
  let flag := decide (v ≠ 0)
  match index, sub with
  | 0x2100, 0x0A => some (writeTimingClear v)
  | 0x2100, 0x16 => some (writePageStartNow flag)
  | 0x2200, 0x0B => some (writeLampFaultClear flag)
  | 0x2300, 0x08 => some (writeBankSwitch flag)
  | 0x2300, 0x0A => some (writeShadingClear v)
  | 0x2310, 0x01 => some (writeRefCapture flag)
  | 0x2400, 0x0D => some (writeRegClear v)
  | 0x2400, 0x13 => some (writeStaggerMeasure flag)
  | 0x2500, 0x0D => some (writeCalRequest v)
  | 0x2500, 0x0F => some (writeRecordClear v)
  | 0x2500, 0x11 => some (writeLeavenClear v)
  | 0x2500, 0x16 => some (writePwRelearn flag)
  | _, _ => if 0x3000 ≤ index ∧ index ≤ 0x305F ∧ sub = 0x10 then some (writeFaultClear (index - 0x3000) flag) else none

/-- Chapters 08 to 11 and 17. -/
def woStream (index sub v : Nat) : Option (State → WriteOut) :=
  match index, sub with
  | 0x2600, 0x16 => some (writeCmpStatusClear v)
  | 0x2601, 0x01 => some (writeRefOpen v)
  | 0x2601, 0x02 => some (writeRefRelease v)
  | 0x2700, 0x07 => some (writeDramStatusClear v)
  | 0x2720, 0x02 => some (writeDmaStatusClear v)
  | 0x2800, 0x0F => some (writeStreamStatusClear v)
  | 0x2900, 0x02 => some (writeMotionClear v)
  | 0x2C00, 0x06 => some (writeTwClear v)
  | 0x2C10, 0x0C => some (writeTwControl 0 v)
  | 0x2C11, 0x0C => some (writeTwControl 1 v)
  | _, _ =>
    if 0x2740 ≤ index ∧ index ≤ 0x275F ∧ sub = 2 then some (writeDmaControl (index - 0x2740) v)
    else if 0x2A00 ≤ index ∧ index ≤ 0x2A5F ∧ sub = 2 then some (writeAxisCommand ((index - 0x2A00) / 16) v)
    else if 0x2A00 ≤ index ∧ index ≤ 0x2A5F ∧ sub = 0x39 then some (writeAxisClear ((index - 0x2A00) / 16) v)
    else none

/-- Chapters 12, 14 to 16 and 18. -/
def woManagement (index sub v : Nat) : Option (State → WriteOut) :=
  let flag := decide (v ≠ 0)
  match index, sub with
  | 0x2010, 0x05 => some (writeConfigClear v)
  | 0x2011, 0x01 => some (writeCommit flag)
  | 0x2012, 0x01 => some (writeRevert flag)
  | 0x2012, 0x03 => some (writeDefaults flag)
  | 0x2D00, 0x04 => some (writeMhRelease v)
  | 0x2D00, 0x08 => some (writeMboxClear v)
  | 0x2E30, 0x03 => some (writeRailClear v)
  | 0x2E31, 0x06 => some (writeMonClear v)
  | 0x2E40, 0x0C => some (writeGovClear v)
  | 0x2E50, 0x04 => some (writeSoftwareReset v)
  | 0x2E51, 0x01 => some (writeTileDiscover flag)
  | 0x2E60, 0x04 => some (writeLogClear flag)
  | 0x2E61, 0x02 => some (writeFlashClear v)
  | 0x2E70, 0x01 => some (writeUpdateCommand v)
  | 0x2F00, 0x03 => some (writeFirstErrorAck v)
  | _, _ => none

/-- The handler of an object that has one, with a value of its type. -/
def handlerOf (index sub v : Nat) : Option (State → WriteOut) :=
  if index = 0x2000 ∧ sub = 2 then some (writeMode v)
  else match rwHandler index sub v with
    | some h => some h
    | none =>
      match woImage index sub v with
      | some h => some h
      | none =>
        match woStream index sub v with
        | some h => some h
        | none => woManagement index sub v

/-! ## Values of fixed length -/

/-- A value that its own range refuses: a refusal by the state goes before (R328). -/
def outOfRange (h : State → WriteOut) (s : State) : WriteOut :=
  match h s with
  | .abort c t => if c = abortState then .abort c t else .abort abortRange s
  | _ => .abort abortRange s

/-- A write of a held value without a handler of its own. -/
def writeHeld (key v : Nat) (s : State) : WriteOut :=
  let t := setKey key v s
  if bindingsOk key t then .ok (afterValue key s t) else .abort abortContent s

/-- The checks of a value after those of the access, the length and the timing of RWP. -/
def writeNumber (index sub : Nat) (r : Row) (v : Nat) (s : State) : WriteOut :=
  let h := (handlerOf index sub v).getD (writeHeld (objKey index sub) v)
  if !ownRangeOk index sub r v then outOfRange h s
  else if decide (v &&& r.chk.reservedMask ≠ 0) then .misuse .reservedBits
  else h s

/-- The mapping objects (R336): written in Pre-Op, entries only while the count is 0; a count other than 0 checks them. -/
def writeMapping (index sub : Nat) (r : Row) (v : Nat) (s : State) : WriteOut :=
  let count := sparseGet (objKey index 0) (keyDefault (objKey index 0)) s.dict.held
  let pdo := decide (index = 0x1600) || decide (index = 0x1A00)
  let code := if sub = 0 && pdo && decide (v ≠ 0) then mapRefusal (decide (index = 0x1600)) v s else 0
  if s.ecat.al ≠ 2 then .abort abortState s
  else if sub ≠ 0 ∧ count ≠ 0 then .abort abortState s
  else if !ownRangeOk index sub r v then .abort abortRange s
  else if code ≠ 0 then .abort code s
  else .ok (setKey (objKey index sub) v s)

/-! ## Shading banks (05 R120) -/

/-- The host may write bank `b`: it is reached, inactive, and no capture runs. -/
def bankWritable (b : Nat) (s : State) : Bool :=
  bankReached s && decide (b ≠ s.pipe.active) && !captureBusy s

/-- Bytes of a download arrive at an offset of the bank, which is INCOMPLETE from then on. -/
def bankArrive (b offset : Nat) (data : List Byte) (s : State) : State :=
  let old := bankBytes b s
  modBank b (fun x => { x with state := 3, raw := some (old.take offset ++ data ++ old.drop (offset + data.length)) }) s

/-- The last bytes of a download have arrived: the whole content is checked. -/
def bankComplete (b : Nat) (data : List Byte) (s : State) : WriteOut :=
  match bankContent data with
  | .good => .ok (modBank b (fun x => { x with state := 2, time := s.now, raw := some data }) s)
  | .bad c => .abort c (bankArrive b 0 data s)
  | .misuse => .misuse .reservedBits

def writeBank (b : Nat) (data : List Byte) (s : State) : WriteOut :=
  if bankWritable b s then bankComplete b data s else .abort abortState s

/-! ## Byte strings -/

/-- A whole content of at most the maximum length. -/
def writeBytes (w : Waiting) (index sub : Nat) (data : List Byte) (s : State) : WriteOut :=
  match index, sub with
  | 0x2011, _ => .ok (if data.all (fun b => decide (b = 0)) then clearBulk (objKey 0x2011 4) s else setBulk (objKey 0x2011 4) data s)
  | 0x2501, _ => writePwRegion data s
  | 0x2601, _ => writePageAssign data s
  | 0x2C00, 1 => writeTwRequest data s
  | 0x2C00, _ => writeTwScratch data s
  | 0x2D00, _ => writeHmSend w data s
  | 0x2E70, _ => writeUpdateData s.upd.bytes data none s
  | 0x4300, _ => writeBank 0 data s
  | 0x4301, _ => writeBank 1 data s
  | _, _ =>
    match contentOf index data with
    | .bad c => .abort c s
    | .misuse => .misuse .reservedBits
    | .good => if storeRuns index s then .misuse .runningStore else .ok (afterBulk index (storeBulk index sub data s))

/-! ## Writes (R328) -/

/-- The length matches the type: a DOMAIN up to its maximum, every other type exactly (R324, R352). -/
def lengthOk (t : ObjType) (n : Nat) : Bool :=
  match t with
  | .domain m => decide (n ≤ m)
  | t => decide (n = t.size)

/-- A write of a length that does not match; one beyond the image slot ends an update (16 R413). -/
def badLength (index sub n : Nat) (s : State) : WriteOut :=
  if index = 0x2E70 ∧ sub = 2 then writeUpdateData n [] none s else .abort abortLength s

/-- The causes of R328 up to the timing of RWP; none where a write may go on to the checks of its value. -/
def accessRefusal (index sub n : Nat) (s : State) : Option WriteOut :=
  match findRow index sub with
  | none => some (.abort (if sub = 0 && hasCountSub index then abortReadOnly else missingCode index) s)
  | some r =>
    if r.acc = .ro then some (.abort abortReadOnly s)
    else if !lengthOk r.ty n then some (badLength index sub n s)
    else if r.acc = .rwp && !rwpOpen s then some (.abort abortState s)
    else none

/-- A dictionary write of a whole value, of an object as its access allows; `w` is who awaits its answer. -/
def writeValue (w : Waiting) (index sub : Nat) (data : List Byte) (s : State) : WriteOut :=
  match accessRefusal index sub data.length s, findRow index sub with
  | some o, _ => o
  | none, none => .abort (missingCode index) s
  | none, some r =>
    if r.ty.isBulk then writeBytes w index sub data s
    else if r.acc = .preOp then writeMapping index sub r (leNat data) s
    else writeNumber index sub r (leNat data) s

/-- A dictionary write of a whole value; one of an object that sets hold is noted for a commit that runs (R341). -/
def writeObject (w : Waiting) (index sub : Nat) (data : List Byte) (s : State) : WriteOut :=
  let o := writeValue w index sub data s
  if keyInSets (objKey index sub) then o.noted else o

/-- The row OBJECT_WRITE. -/
def execObjectWrite (via : Path) (index sub : Nat) (data : List Byte) (s : State) : Host.Outcome State Fault Refusal :=
  writeCommand via (writeObject (.write via) index sub data) s

/-- BULK_DOWNLOAD_COMPLETE: the whole content of a download, whose last segment is accepted. -/
def bulkComplete (via : Path) (index sub : Nat) (data : List Byte) (s : State) : WriteOut :=
  writeObject (.write via) index sub data s

/-- The row BULK_DOWNLOAD_COMPLETE. -/
def execBulkDownloadComplete (via : Path) (index sub : Nat) (data : List Byte) (s : State) :
    Host.Outcome State Fault Refusal := writeCommand via (bulkComplete via index sub data) s

end Sys2Proof.Machine
end

