-- ==== Sys2Proof/Machine/Tsp.lean ====
section
/-! DEFINITION. The requests of a TSP session (10_host_stream R274 to R277): CONTROL reads and writes of the dictionary,
whole or in segments, HOST_SCRATCH, and reference uploads. -/
namespace Sys2Proof.Machine

/-- The most data that one RESPONSE or CONTROL packet carries: LANE_MTU − 76 (R244, Table 10.5). -/
def responseRoom (s : State) : Nat := streamVal Obj.LANE_MTU s - 76

/-- A request is served: it passes R245 and no stored response has its id (R275). -/
def requestServed (f : Frame) (s : State) : Bool :=
  laneReceives f.lane.val s && frameInSession f s
    && (laneOf f.lane.val s).answers.all (fun a => decide (a.1 ≠ f.item.toNat))

/-- The answer of a CONTROL request. -/
def answerTsp (f : Frame) (code : Nat) (data : List Byte) (s : State) : State :=
  respond f 0x84 code data { s with dict := { s.dict with reply := some ⟨.tsp, code, data⟩ } }

/-- The outcome of a CONTROL write. -/
def WriteOut.tspOutcome (f : Frame) : WriteOut → Host.Outcome State Fault Refusal
  | .ok s => .next (answerTsp f 0 [] s)
  | .later s => .next s
  | .abort c s => .next (answerTsp f c [] s)
  | .misuse x => .fault x

/-- A CONTROL write: served, answered again, or dropped. -/
def controlWrite (f : Frame) (h : State → WriteOut) (s : State) : Host.Outcome State Fault Refusal :=
  if requestServed f s then (h (heard f s)).tspOutcome f else .next (request f (fun s => s) s)

/-! ## READ and WRITE -/

/-- READ: the whole object in one packet; one that does not fit is no valid operation (log entry 75). -/
def controlRead (f : Frame) (index sub : Nat) (s : State) : State :=
  let x := readObject index sub s
  if x.1 ≠ 0 then answerTsp f x.1 [] x.2.2
  else if responseRoom s < x.2.1.length then answerTsp f abortCommand [] s
  else answerTsp f 0 x.2.1 x.2.2

/-- The row READ. -/
def execRead (f : Frame) (index sub : Nat) (s : State) : Host.Outcome State Fault Refusal :=
  .next (request f (controlRead f index sub) s)

/-- The row WRITE. -/
def execWrite (f : Frame) (index sub : Nat) (data : List Byte) (s : State) : Host.Outcome State Fault Refusal :=
  controlWrite f (writeObject (.tsp f) index sub data) s

/-! ## READ_SEGMENT and WRITE_SEGMENT -/

def isDomain (index sub : Nat) : Bool :=
  match findRow index sub with
  | some r =>
    match r.ty with
    | .domain _ => true
    | _ => false
  | none => false

/-- The next part of a content at its start, and the offset after it. -/
def serveUpload (f : Frame) (index sub offset len : Nat) (content : List Byte) (s : State) : State :=
  let part := (content.drop offset).take (min len (responseRoom s))
  answerTsp f 0 part (modLane f.lane.val (fun l => { l with up := some (index, sub, content, offset + part.length) }) s)

/-- READ_SEGMENT: offset 0 takes the content in force; every other offset is the next byte. -/
def readSegmentOf (f : Frame) (index sub offset len : Nat) (s : State) : State :=
  if offset = 0 then
    let x := readObject index sub s
    if x.1 ≠ 0 then answerTsp f x.1 [] s
    else if !isDomain index sub then answerTsp f abortCommand [] s
    else serveUpload f index sub 0 len x.2.1 x.2.2
  else if accessOf index sub ≠ 0 then answerTsp f (accessOf index sub) [] s
  else if isBank index && !bankReached s then answerTsp f abortState [] s
  else if !isDomain index sub then answerTsp f abortCommand [] s
  else match (laneOf f.lane.val s).up with
    | some (i, b, content, next) =>
      if i = index ∧ b = sub ∧ next = offset then serveUpload f index sub offset len content s
      else answerTsp f abortToggle [] s
    | none => answerTsp f abortToggle [] s

/-- The row READ_SEGMENT. -/
def execReadSegment (f : Frame) (index sub offset len : Nat) (s : State) : Host.Outcome State Fault Refusal :=
  .next (request f (readSegmentOf f index sub offset len) s)

/-- The bytes that a write in segments holds, where `offset` is its next byte; offset 0 begins one. -/
def downloadSoFar (n index sub offset : Nat) (s : State) : Option (List Byte) :=
  if offset = 0 then some []
  else match (laneOf n s).down with
    | some (i, b, got) => if i = index ∧ b = sub ∧ got.length = offset then some got else none
    | none => none

def setDown (n : Nat) (d : Option (Nat × Nat × List Byte)) (s : State) : State := modLane n (fun l => { l with down := d }) s

/-- A segment of a bank's download: the bytes reach the bank as they arrive (05 R120). -/
def bankSegment (n b index offset : Nat) (got data : List Byte) (final : Bool) (s : State) : WriteOut :=
  if !bankWritable b s then .abort abortState (setDown n none s)
  else
    let t := bankArrive b offset data s
    if final then bankComplete b (got ++ data) (setDown n none t)
    else .ok (setDown n (some (index, 0, got ++ data)) t)

/-- WRITE_SEGMENT: the next bytes of a DOMAIN; FINAL completes the write. -/
def writeSegmentOf (f : Frame) (index sub offset : Nat) (data : List Byte) (final : Bool) (s : State) : WriteOut :=
  let n := f.lane.val
  if index = 0x2E70 ∧ sub = 2 then writeUpdateData offset data none s
  else if (findRow index sub).isSome && !isDomain index sub then
    match accessRefusal index sub 0 s with
    | some (.abort c t) => if c = abortReadOnly then .abort c t else .abort abortCommand s
    | _ => .abort abortCommand s
  else match accessRefusal index sub (offset + data.length) s with
    | some o => o
    | none =>
      match downloadSoFar n index sub offset s with
      | none => .abort abortToggle s
      | some got =>
        if isBank index then bankSegment n (index - 0x4300) index offset got data final s
        else if final then writeObject (.tsp f) index sub (got ++ data) (setDown n none s)
        else .ok (setDown n (some (index, sub, got ++ data)) s)

/-- The row WRITE_SEGMENT. -/
def execWriteSegment (f : Frame) (index sub offset : Nat) (data : List Byte) (final : Bool) (s : State) :
    Host.Outcome State Fault Refusal := controlWrite f (writeSegmentOf f index sub offset data final) s

/-! ## HOST_SCRATCH (R276, R277) -/

/-- The code that refuses a scratch packet whose read meets an uncorrectable error: the spec names none, so it is a free
value other than 0 (log entry 76). -/
def freeCode (s : State) : Nat × State :=
  let x := takeFree 32 s
  (1 + x.1 % 0xFFFFFFFF, x.2)

/-- The blocks that a span covers in part. -/
def partBlocks (a n : Nat) : List Nat :=
  let first := a / 64 * 64
  let last := (a + n) / 64 * 64
  let head := if a % 64 ≠ 0 ∧ n ≠ 0 then [first] else []
  if (a + n) % 64 ≠ 0 ∧ n ≠ 0 ∧ !head.contains last then head ++ [last] else head

/-- What the ECC check of one block gives, of the given check. -/
def eccInBlock (b : Nat) : Ecc → Ecc
  | .corrected x => if x / 64 * 64 = b then .corrected x else .clean
  | .uncorrectable x => if x / 64 * 64 = b then .uncorrectable x else .clean
  | .clean => .clean

/-- The blocks are read in turn; the first uncorrectable error, if any, ends it. -/
def readBlocks (e : Ecc) : List Nat → State → Bool × State
  | [], s => (true, s)
  | b :: t, s =>
    let x := eccRead b 64 (eccInBlock b e) s
    if x.1.isSome then (false, x.2) else readBlocks e t x.2

/-- SCRATCH_WRITE. -/
def scratchWriteOf (f : Frame) (offset : Nat) (data : List Byte) (e : Ecc) (s : State) : State :=
  let a := regionBase rScratch s + offset
  if !imaging s then respond f 0x85 abortState [] s
  else if !inScratch a data.length s then respond f 0x85 abortRange [] s
  else
    let x := readBlocks e (partBlocks a data.length) s
    if x.1 then respond f 0x85 0 [] (scratchWriteAt a data x.2)
    else
      let y := freeCode x.2
      respond f 0x85 y.1 [] y.2

/-- The row SCRATCH_WRITE. -/
def execScratchWrite (f : Frame) (offset : Nat) (data : List Byte) (e : Ecc) (s : State) :
    Host.Outcome State Fault Refusal := .next (request f (scratchWriteOf f offset data e) s)

/-- SCRATCH_READ. -/
def scratchReadOf (f : Frame) (offset len : Nat) (e : Ecc) (s : State) : State :=
  let a := regionBase rScratch s + offset
  if !imaging s then respond f 0x86 abortState [] s
  else if responseRoom s < len || !inScratch a len s then respond f 0x86 abortRange [] s
  else
    let x := eccRead a len e s
    if x.1.isSome then
      let y := freeCode x.2
      respond f 0x86 y.1 [] y.2
    else respond f 0x86 0 (scratchRead a len x.2) x.2

/-- The row SCRATCH_READ. -/
def execScratchRead (f : Frame) (offset len : Nat) (e : Ecc) (s : State) : Host.Outcome State Fault Refusal :=
  .next (request f (scratchReadOf f offset len e) s)

/-! ## REFERENCE -/

/-- REFERENCE: the next bytes of the open upload. -/
def referenceOf (f : Frame) (offset : Nat) (data : List Byte) (s : State) : State :=
  if !imaging s || s.cmp.upload.isNone then respond f 0x87 abortState [] s
  else if offset ≠ uploadBytes s then respond f 0x87 abortToggle [] s
  else respond f 0x87 0 [] (appendUpload data s).2

/-- The row REFERENCE. -/
def execReference (f : Frame) (offset : Nat) (data : List Byte) (s : State) : Host.Outcome State Fault Refusal :=
  .next (request f (referenceOf f offset data) s)

end Sys2Proof.Machine
end

