-- ==== Sys2Proof/Machine/Ecat.lean ====
section
/-! DEFINITION. The EtherCAT slave (12_control_dictionary R318 to R338): states and their checks, process data, SDO
transfers, the SDO information service and the mailbox. -/
namespace Sys2Proof.Machine

def setEcat (f : Ecat → Ecat) (s : State) : State := { s with ecat := f s.ecat }

/-- The slave answers as soon as PD19 is on (15 R385). -/
def slaveOn (s : State) : Bool := domainOn 19 s

/-- A refused change: the code, and the error indication (R322). -/
def refuseAl (code : Nat) (s : State) : State := setEcat (fun e => { e with alCode := code, alError := true }) s

/-- The slave leaves Op where it is in it: counted, and a loss of the session under R31 (R323). -/
def reachAl (al : Nat) (s : State) : State :=
  let left := inOp s && decide (al ≠ 8)
  let s := setEcat (fun e => { e with al := al, opLost := e.opLost + b2n left }) s
  if left then sessionLost s else s

/-- An accepted change clears the error indication (log entry 77). -/
def acceptAl (al : Nat) (s : State) : State := reachAl al (setEcat (fun e => { e with alError := false }) s)

/-! ## State changes (R322, Table 12.3) -/

/-- Init: the mailbox, with a transfer and the responses in it, is given up. -/
def requestInit (s : State) : State :=
  if !slaveOn s then s
  else acceptAl 1 (setEcat (fun e => { e with sdo := none, sm1 := none, responses := [], sm2Written := false }) s)

/-- The row AL_REQUEST_INIT. -/
def execAlRequestInit (s : State) : Host.Outcome State Fault Refusal := .next (requestInit s)

/-- SyncManagers of the master's registers from `i` on. -/
def setSyncManagers (i : Nat) (x y : SyncManager) (s : State) : State :=
  setEcat (fun e => { e with sms := setAt (setAt e.sms i x) (i + 1) y }) s

/-- The mailbox SyncManagers stand as Table 12.1 gives them. -/
def mailboxMatches (s : State) : Bool :=
  decide (s.ecat.sms[0]? = some ⟨0x1000, 1024⟩) && decide (s.ecat.sms[1]? = some ⟨0x1400, 1024⟩)

/-- The length that a SyncManager is programmed with. -/
def smLength (i : Nat) (s : State) : Nat := (s.ecat.sms.getD i ⟨0, 0⟩).length

/-- Pre-Op: before STANDBY is reached the request is not accepted (15 R385); the code is not stated and is a free value
(log entry 78). -/
def requestPreOp (sm0 sm1 : SyncManager) (s : State) : State :=
  if !slaveOn s then s
  else
    let s := setSyncManagers 0 sm0 sm1 s
    if !running s then
      let x := takeFree 16 s
      refuseAl x.1 x.2
    else if s.ecat.al = 1 ∧ !mailboxMatches s then refuseAl 0x0016 s
    else fillMailbox (acceptAl 2 s)

/-- The row AL_REQUEST_PRE_OP. -/
def execAlRequestPreOp (sms : SyncManager × SyncManager) (s : State) : Host.Outcome State Fault Refusal :=
  .next (requestPreOp sms.1 sms.2 s)

/-- The entries of the assigned PDO: none where none is assigned (R336). -/
def pdoEntries (rx : Bool) (s : State) : List Nat :=
  let assign := objKey (if rx then 0x1C12 else 0x1C13) 0
  let index := if rx then 0x1600 else 0x1A00
  if sparseGet assign (keyDefault assign) s.dict.held = 0 then []
  else mapEntries index (sparseGet (objKey index 0) (keyDefault (objKey index 0)) s.dict.held) s

def entryBits (e : Nat) : Nat := bits e 7 0

/-- Bytes of a PDO. -/
def pdoBytes (es : List Nat) : Nat := (sumNats (es.map entryBits) + 7) / 8

/-- The code that refuses Pre-Op to Safe-Op; 0 where none does. -/
def safeOpRefusal (sync0 : Option Nat) (s : State) : Nat :=
  if !mapOk true s || decide (smLength 2 s ≠ pdoBytes (pdoEntries true s)) then 0x001D
  else if !mapOk false s || decide (smLength 3 s ≠ pdoBytes (pdoEntries false s)) then 0x001E
  else if valReady Obj.SYNC_MODE s = 2 then
    match sync0 with
    | some c => if 125000 ≤ c ∧ c ≤ 1000000000 then 0 else 0x0030
    | none => 0x0030
  else 0

/-- The change to Safe-Op: the mappings take effect, and SM2 has not been written in it (R322, R336). -/
def enterSafeOp (sync0 : Option Nat) (s : State) : State :=
  let rx := pdoEntries true s
  let tx := pdoEntries false s
  acceptAl 4 (setEcat (fun e => { e with
    rxMap := rx, txMap := tx, sm2Written := false, lastOutputs := none, sync0 := sync0, lastSync := none }) s)

/-- The check of a change to Safe-Op, of the registers as the master has programmed them. -/
def changeSafeOp (sync0 : Option Nat) (s : State) : State :=
  match s.ecat.al with
  | 1 => refuseAl 0x0011 s
  | 2 =>
    let code := safeOpRefusal sync0 s
    if code ≠ 0 then refuseAl code s else enterSafeOp sync0 s
  | 4 => acceptAl 4 s
  | _ => acceptAl 4 (setEcat (fun e => { e with sm2Written := false, lastOutputs := none }) s)

/-- Safe-Op. The device has eight FMMUs. -/
def requestSafeOp (sm2 sm3 : SyncManager) (fmmus : List Fmmu) (sync0 : Option Nat) (s : State) : State :=
  if !slaveOn s then s
  else
    let s := setSyncManagers 2 sm2 sm3 s
    changeSafeOp sync0 (setEcat (fun e => { e with fmmus := (fmmus ++ List.replicate 8 (Fmmu.mk 0 0 0 false)).take 8 }) s)

/-- The row AL_REQUEST_SAFE_OP. -/
def execAlRequestSafeOp (sms : SyncManager × SyncManager) (fmmus : List Fmmu) (sync0 : Option Nat) (s : State) :
    Host.Outcome State Fault Refusal := .next (requestSafeOp sms.1 sms.2 fmmus sync0 s)

/-- What is placed ahead in the time base moves with a step of it, so that no duration changes (R338): the slots and
pulses of the line in progress and the counts that slot positions are interpolated from. -/
def shiftTimes (step : Int) (s : State) : State :=
  let ps (t : Nat) : Nat := (t + 1000 * step).toNat
  let ns (t : Nat) : Nat := (t + step).toNat
  let pulse (d : DuePulse) : DuePulse := { d with endTime := ps d.endTime }
  let line (l : LineRec) : LineRec := { l with startTime := ps l.startTime, pulsed := ps l.pulsed }
  let group (g : Group) : Group := { g with lastPulse := ps g.lastPulse }
  let enc (e : Encoder) : Encoder := { e with recent := e.recent.map (fun r => (r.1, ns r.2.1, r.2.2)) }
  { s with
    tim := { s.tim with
      slotStart := ps s.tim.slotStart, lines := s.tim.lines.map line, due := s.tim.due.map (fun l => l.map pulse), encoders := s.tim.encoders.map enc },
    fe := { s.fe with groups := s.fe.groups.map group } }

/-- The entry to Op: the time base steps to the distributed-clock system time, and a step of more than 1 µs is logged (R337). -/
def enterOp (dc : Nat) (s : State) : State :=
  let step : Int := (dc : Int) - s.now
  let s := shiftTimes step { s with now := dc }
  let s := acceptAl 8 (setEcat (fun e => { e with timeStep := step, lastOutputs := none }) s)
  if 1000 < step.natAbs then logEvent ⟨0x0A00, noSource, leBytes 8 (toRaw 64 step)⟩ s else s

/-- Op. -/
def requestOp (dc : Nat) (s : State) : State :=
  if !slaveOn s then s
  else match s.ecat.al with
    | 4 => if s.ecat.sm2Written then enterOp dc s else refuseAl 0x001D s
    | 8 => acceptAl 8 s
    | _ => refuseAl 0x0011 s

/-- The row AL_REQUEST_OP. -/
def execAlRequestOp (dc : BitVec 64) (s : State) : Host.Outcome State Fault Refusal := .next (requestOp dc.toNat s)

/-- Boot is not supported (R319). -/
def requestBoot (s : State) : State := if slaveOn s then refuseAl 0x0013 s else s

/-- The row AL_REQUEST_BOOT. -/
def execAlRequestBoot (s : State) : Host.Outcome State Fault Refusal := .next (requestBoot s)

/-- PDO_TIMEOUT (R323): the last outputs stay applied. -/
def pdoTimedOut (s : State) : State :=
  if inOp s then reachAl 4 (refuseAl 0x001B (setEcat (fun e => { e with sm2Written := false, lastOutputs := none }) s)) else s

/-- The row PDO_TIMEOUT. -/
def execPdoTimeout (s : State) : Host.Outcome State Fault Refusal := .next (pdoTimedOut s)

/-! ## Process data (R332 to R334) -/

/-- Inputs are updated in Safe-Op and Op (Table 12.2). -/
def inputsOn (s : State) : Bool := decide (s.ecat.al = 4) || decide (s.ecat.al = 8)

/-- The TxPDO from its entries, lowest bit first: the number and its bits so far, and the state after the reads. -/
def packInputs : List Nat → State → Nat × Nat × State
  | [], s => (0, 0, s)
  | e :: t, s =>
    let x := if bits e 31 16 = 0 then (0, [], s) else readObject (bits e 31 16) (bits e 15 8) s
    let rest := packInputs t x.2.2
    (leNat x.2.1 % 2 ^ entryBits e + 2 ^ entryBits e * rest.1, entryBits e + rest.2.1, rest.2.2)

/-- The inputs are sampled (R334). -/
def sampleInputs (s : State) : State :=
  if inputsOn s then
    let x := packInputs s.ecat.txMap s
    setEcat (fun e => { e with inputs := leBytes ((x.2.1 + 7) / 8) x.1 }) x.2.2
  else s

def syncMode (s : State) : Nat := valReady Obj.SYNC_MODE s

/-- CYCLE_TIME is measured between SM2 updates, or with DC SYNC0 between SYNC0 events. -/
def measureCycle (s : State) : State :=
  match s.ecat.lastSync with
  | some t => setEcat (fun e => { e with cycleTime := s.clk - t, lastSync := some s.clk }) s
  | none => setEcat (fun e => { e with lastSync := some s.clk }) s

/-- The row TXPDO_SAMPLE: in free run, every MP cycle. -/
def txpdoSample (s : State) : State := if syncMode s = 0 then sampleInputs s else s

def execTxpdoSample (s : State) : Host.Outcome State Fault Refusal := .next (txpdoSample s)

/-- SYNC0_TRIGGER: the triggers of the line timing engine, and with DC SYNC0 the sample of the inputs. -/
def sync0Event (s : State) : State :=
  let s := sync0Triggers s
  if decide (syncMode s = 2) && inputsOn s && s.ecat.sync0.isSome then sampleInputs (measureCycle s) else s

/-- The row SYNC0_TRIGGER. -/
def execSync0Trigger (s : State) : Host.Outcome State Fault Refusal := .next (sync0Event s)

/-- The values of the RxPDO entries, in order. -/
def unpackOutputs : List Nat → Nat → List Nat
  | [], _ => []
  | e :: t, v => v % 2 ^ entryBits e :: unpackOutputs t (v / 2 ^ entryBits e)

/-- The entries to write: those that differ from the last update applied, every one at the first (R333). -/
def changedOutputs (last : Option (List Nat)) (es vs : List Nat) : List (Nat × Nat) :=
  ((List.range es.length).zip (es.zip vs)).filterMap (fun x =>
    let same := match last with
      | some l => decide (l[x.1]? = some x.2.2)
      | none => false
    if same || decide (bits x.2.1 31 16 = 0) then none else some x.2)

/-- The entries are written one at a time; no abort can be returned. -/
def writeOutputs : List (Nat × Nat) → State → WriteOut
  | [], s => .ok s
  | (e, v) :: t, s =>
    if !served .pdo s then .ok s
    else match writeObject (.write .pdo) (bits e 31 16) (bits e 15 8) (leBytes ((entryBits e + 7) / 8) v) s with
      | .ok u => writeOutputs t u
      | .later u => writeOutputs t u
      | .abort _ u => writeOutputs t u
      | .misuse x => .misuse x

/-- An SM2 update in Op. -/
def applyOutputs (data : List Byte) (s : State) : WriteOut :=
  let vs := unpackOutputs s.ecat.rxMap (leNat data)
  let changed := changedOutputs s.ecat.lastOutputs s.ecat.rxMap vs
  writeOutputs changed (setEcat (fun e => { e with lastOutputs := some vs }) s)

/-- RXPDO_UPDATE: in Safe-Op the update is not applied; with SM2-synchronous mode it samples the inputs, before its
outputs are applied (log entry 79). -/
def rxpdoUpdate (data : List Byte) (s : State) : Host.Outcome State Fault Refusal :=
  if !inputsOn s || decide (data.length ≠ pdoBytes s.ecat.rxMap) then .next s
  else
    let s := setEcat (fun e => { e with sm2Written := true }) s
    let s := if syncMode s = 2 then s else measureCycle s
    let s := if syncMode s = 1 then sampleInputs s else s
    if inOp s then (applyOutputs data s).outcome .pdo else .next s

/-- The row RXPDO_UPDATE. -/
def execRxpdoUpdate (data : List Byte) (s : State) : Host.Outcome State Fault Refusal := rxpdoUpdate data s

/-! ## SDO transfers (R329) -/

/-- A response waits for the SM1 mailbox. -/
def postMail (m : MailIn) (s : State) : State := fillMailbox (setEcat (fun e => { e with responses := e.responses ++ [m] }) s)

/-- A transfer or request ends with an abort. -/
def abortSdo (index sub code : Nat) (s : State) : State :=
  postMail (.abort index sub code) (answerWrite .sdo code (setEcat (fun e => { e with sdo := none }) s))

/-- Index and subindex of a transfer. -/
def SdoTransfer.object : SdoTransfer → Nat × Nat
  | .down i b _ _ _ => (i, b)
  | .up i b _ _ _ => (i, b)

/-- A new initiate aborts an unfinished transfer. -/
def dropTransfer (s : State) : State :=
  match s.ecat.sdo with
  | some x => abortSdo x.object.1 x.object.2 abortTimeout s
  | none => s

/-- The outcome of an SDO write, with the message that answers an accepted one. -/
def WriteOut.sdoOutcome (index sub : Nat) (m : MailIn) : WriteOut → Host.Outcome State Fault Refusal
  | .ok s => .next (postMail m (answerWrite .sdo 0 (setEcat (fun e => { e with sdo := none }) s)))
  | .later s => .next (setEcat (fun e => { e with sdo := none }) s)
  | .abort c s => .next (abortSdo index sub c s)
  | .misuse f => .fault f

/-- Bytes of a segmented download arrive: a shading bank and UPDATE_DATA take them at once (05 R120, 16 R413). -/
def downArrive (index sub offset : Nat) (data : List Byte) (s : State) : WriteOut :=
  if isBank index then
    if bankWritable (index - 0x4300) s then .ok (bankArrive (index - 0x4300) offset data s) else .abort abortState s
  else if index = 0x2E70 ∧ sub = 2 then writeUpdateData s.upd.bytes data none s
  else .ok s

/-- A download is complete. -/
def downComplete (index sub : Nat) (data : List Byte) (s : State) : WriteOut :=
  if index = 0x2E70 ∧ sub = 2 then .ok s else writeObject .sdo index sub data s

/-- An initiate that carries less than the whole value begins a segmented download. -/
def beginDownload (index sub size : Nat) (data : List Byte) (s : State) : Host.Outcome State Fault Refusal :=
  match accessRefusal index sub size s with
  | some o => o.sdoOutcome index sub (.downloaded index sub)
  | none =>
    match downArrive index sub 0 data s with
    | .abort c t => .next (abortSdo index sub c t)
    | .misuse f => .fault f
    | o => .next (postMail (.downloaded index sub)
        (setEcat (fun e => { e with sdo := some (.down index sub size data false) }) (o.state s)))

/-- SDO_DOWNLOAD, where the mailbox is served. -/
def sdoDownload (index sub : Nat) (complete : Bool) (size : Nat) (data : List Byte) (s : State) :
    Host.Outcome State Fault Refusal :=
  let s := dropTransfer s
  if complete then .next (abortSdo index sub abortComplete s)
  else if data.length < size then beginDownload index sub size data s
  else if size < data.length then
    ((accessRefusal index sub size s).getD (.abort abortLength s)).sdoOutcome index sub (.downloaded index sub)
  else (writeObject .sdo index sub data s).sdoOutcome index sub (.downloaded index sub)

/-- The row SDO_DOWNLOAD. -/
def execSdoDownload (index sub : Nat) (complete : Bool) (size : Nat) (data : List Byte) (s : State) :
    Host.Outcome State Fault Refusal :=
  if served .sdo s then sdoDownload index sub complete size data s else .next s

/-- Data bytes of an initiate, and of a segment (R329; log entry 80). -/
def initiateRoom : Nat := 1008
def segmentRoom : Nat := 1015

/-- SDO_UPLOAD: the content in force at the initiate (R330). -/
def sdoUpload (index sub : Nat) (complete : Bool) (s : State) : State :=
  let s := dropTransfer s
  let x := readObject index sub s
  if complete then abortSdo index sub abortComplete s
  else if x.1 ≠ 0 then abortSdo index sub x.1 s
  else
    let data := x.2.1
    let whole := decide (data.length ≤ initiateRoom)
    let t := { x.2.2 with dict := { x.2.2.dict with reply := some ⟨.sdo, 0, data⟩ } }
    let transfer := if whole then none else some (.up index sub data initiateRoom false)
    postMail (.uploaded index sub data.length (data.take initiateRoom) whole) (setEcat (fun e => { e with sdo := transfer }) t)

/-- The row SDO_UPLOAD. -/
def execSdoUpload (index sub : Nat) (complete : Bool) (s : State) : Host.Outcome State Fault Refusal :=
  .next (if served .sdo s then sdoUpload index sub complete s else s)

/-- A segment of a download. -/
def downSegment (index sub size : Nat) (got : List Byte) (toggle last : Bool) (data : List Byte) (s : State) :
    Host.Outcome State Fault Refusal :=
  let all := got ++ data
  if size < all.length ∨ (last ∧ all.length ≠ size) then .next (abortSdo index sub abortLength s)
  else match downArrive index sub got.length data s with
    | .abort c t => .next (abortSdo index sub c t)
    | .misuse f => .fault f
    | o =>
      let t := o.state s
      if last then (downComplete index sub all t).sdoOutcome index sub (.segmentAck toggle)
      else .next (postMail (.segmentAck toggle)
        (setEcat (fun e => { e with sdo := some (.down index sub size all (!toggle)) }) t))

/-- A segment of an upload. -/
def upSegment (index sub : Nat) (data : List Byte) (offset : Nat) (toggle : Bool) (s : State) : State :=
  if isBank index && !bankReached s then abortSdo index sub abortState s
  else
    let part := (data.drop offset).take segmentRoom
    let next := offset + part.length
    let last := decide (data.length ≤ next)
    let transfer := if last then none else some (.up index sub data next (!toggle))
    postMail (.segment toggle last part) (setEcat (fun e => { e with sdo := transfer }) s)

/-- SDO_SEGMENT: out of sequence by its toggle bit, or part of no transfer, it is aborted. -/
def sdoSegment (toggle last : Bool) (data : List Byte) (s : State) : Host.Outcome State Fault Refusal :=
  match s.ecat.sdo with
  | none => .next (abortSdo 0 0 abortCommand s)
  | some (.down index sub size got expected) =>
    if toggle ≠ expected then .next (abortSdo index sub abortToggle s)
    else downSegment index sub size got toggle last data s
  | some (.up index sub content offset expected) =>
    .next (if toggle ≠ expected then abortSdo index sub abortToggle s else upSegment index sub content offset toggle s)

/-- The row SDO_SEGMENT. -/
def execSdoSegment (toggle last : Bool) (data : List Byte) (s : State) : Host.Outcome State Fault Refusal :=
  if served .sdo s then sdoSegment toggle last data s else .next s

/-- SDO_TIMEOUT. -/
def sdoTimedOut (s : State) : State := if served .sdo s then dropTransfer s else s

/-- The row SDO_TIMEOUT. -/
def execSdoTimeout (s : State) : Host.Outcome State Fault Refusal := .next (sdoTimedOut s)

/-! ## The SDO information service (R331) and the mailbox -/

/-- The entry of an object; the count at subindex 00 has no name in the manual (log entry 81). -/
def infoOf (index sub : Nat) : Option MailIn :=
  match findRow index sub with
  | some r => some (.info index sub r.ty.code r.acc r.ty.size r.name)
  | none => if sub = 0 && hasCountSub index then some (.info index 0 ObjType.u8.code .ro 1 "") else none

def sdoInformation (index sub : Nat) (s : State) : State :=
  match infoOf index sub with
  | some m => postMail m s
  | none => postMail (.abort index sub (missingCode index)) s

/-- The row SDO_INFORMATION. -/
def execSdoInformation (index sub : Nat) (s : State) : Host.Outcome State Fault Refusal :=
  .next (if served .sdo s then sdoInformation index sub s else s)

/-- The row SII_WRITE: ignored (R319). -/
def execSiiWrite (_address : Nat) (_data : List Byte) (s : State) : Host.Outcome State Fault Refusal := .next s

/-- MAILBOX_IN_READ: the master takes the message of the SM1 mailbox, and the next one is placed in it (18 R444). -/
def mailboxInRead (s : State) : State :=
  if mailboxOn s then fillMailbox (setEcat (fun e => { e with sm1 := none }) s) else s

/-- The row MAILBOX_IN_READ. -/
def execMailboxInRead (s : State) : Host.Outcome State Fault Refusal := .next (mailboxInRead s)

end Sys2Proof.Machine
end

