-- ==== Sys2Proof/Machine/Dispatch.lean ====
section
/-! DEFINITION. The meaning of each command, one arm per row of spec/opcode_table.json. -/
namespace Sys2Proof.Machine

def exec (i : Instr) (s : State) : Host.Outcome State Fault Refusal :=
  match i with
  | .modeRequestStandby via => Sys2Proof.Machine.execModeRequestStandby via s
  | .modeRequestReady via => Sys2Proof.Machine.execModeRequestReady via s
  | .modeRequestInline via => Sys2Proof.Machine.execModeRequestInline via s
  | .modeRequestSheet via => Sys2Proof.Machine.execModeRequestSheet via s
  | .modeRequestInvalid via code => Sys2Proof.Machine.execModeRequestInvalid via code s
  | .modeTransitionDone => Sys2Proof.Machine.execModeTransitionDone s
  | .objectWrite via index sub data => Sys2Proof.Machine.execObjectWrite via index sub data s
  | .hostAssign via k port => Sys2Proof.Machine.execHostAssign via k port s
  | .handover k => Sys2Proof.Machine.execHandover k s
  | .toneWindowEnd k amplitudes => Sys2Proof.Machine.execToneWindowEnd k amplitudes s
  | .faultClear via p => Sys2Proof.Machine.execFaultClear via p s
  | .groupOutputWrite via k vrst mv => Sys2Proof.Machine.execGroupOutputWrite via k vrst mv s
  | .settlingWindowClose k => Sys2Proof.Machine.execSettlingWindowClose k s
  | .nop => Sys2Proof.Machine.execNop s
  | .line => Sys2Proof.Machine.execLine s
  | .slot => Sys2Proof.Machine.execSlot s
  | .tone => Sys2Proof.Machine.execTone s
  | .loop => Sys2Proof.Machine.execLoop s
  | .jump => Sys2Proof.Machine.execJump s
  | .programSelect via v => Sys2Proof.Machine.execProgramSelect via v s
  | .slotEnd => Sys2Proof.Machine.execSlotEnd s
  | .startPulse k readings => Sys2Proof.Machine.execStartPulse k readings s
  | .lineHoldRelease => Sys2Proof.Machine.execLineHoldRelease s
  | .lineCommit => Sys2Proof.Machine.execLineCommit s
  | .lineTrigger => Sys2Proof.Machine.execLineTrigger s
  | .internalTrigger => Sys2Proof.Machine.execInternalTrigger s
  | .sync0Trigger => Sys2Proof.Machine.execSync0Trigger s
  | .ltrigEdge rising => Sys2Proof.Machine.execLtrigEdge rising s
  | .encCount e a b => Sys2Proof.Machine.execEncCount e a b s
  | .encIndex e level => Sys2Proof.Machine.execEncIndex e level s
  | .encPositionWrite via e v => Sys2Proof.Machine.execEncPositionWrite via e v s
  | .webHalt => Sys2Proof.Machine.execWebHalt s
  | .holdAssert => Sys2Proof.Machine.execHoldAssert s
  | .holdRelease => Sys2Proof.Machine.execHoldRelease s
  | .pageEdge sensor => Sys2Proof.Machine.execPageEdge sensor s
  | .pageStartNow via => Sys2Proof.Machine.execPageStartNow via s
  | .latch returned => Sys2Proof.Machine.execLatch returned s
  | .levelWrite via c v => Sys2Proof.Machine.execLevelWrite via c v s
  | .lampFaultClear via => Sys2Proof.Machine.execLampFaultClear via s
  | .engineRun via j v => Sys2Proof.Machine.execEngineRun via j v s
  | .engineTick j => Sys2Proof.Machine.execEngineTick j s
  | .indNop j => Sys2Proof.Machine.execIndNop j s
  | .set j => Sys2Proof.Machine.execSet j s
  | .ramp j => Sys2Proof.Machine.execRamp j s
  | .wait j => Sys2Proof.Machine.execWait j s
  | .indLoop j => Sys2Proof.Machine.execIndLoop j s
  | .indJump j => Sys2Proof.Machine.execIndJump j s
  | .rotate j => Sys2Proof.Machine.execRotate j s
  | .test j => Sys2Proof.Machine.execTest j s
  | .halt j => Sys2Proof.Machine.execHalt j s
  | .bulkDownloadComplete via index sub data => Sys2Proof.Machine.execBulkDownloadComplete via index sub data s
  | .bankSwitch via => Sys2Proof.Machine.execBankSwitch via s
  | .bankSwitchEffect => Sys2Proof.Machine.execBankSwitchEffect s
  | .refCapture via => Sys2Proof.Machine.execRefCapture via s
  | .captureBegin => Sys2Proof.Machine.execCaptureBegin s
  | .captureMoveDone => Sys2Proof.Machine.execCaptureMoveDone s
  | .captureMoveTimeout => Sys2Proof.Machine.execCaptureMoveTimeout s
  | .capturePhaseEnd => Sys2Proof.Machine.execCapturePhaseEnd s
  | .captureEvaluate => Sys2Proof.Machine.execCaptureEvaluate s
  | .staggerMeasure via => Sys2Proof.Machine.execStaggerMeasure via s
  | .staggerMeasureDone => Sys2Proof.Machine.execStaggerMeasureDone s
  | .calEvaluate => Sys2Proof.Machine.execCalEvaluate s
  | .calRequest via v => Sys2Proof.Machine.execCalRequest via v s
  | .spareCheck k sweep1 sweep2 => Sys2Proof.Machine.execSpareCheck k sweep1 sweep2 s
  | .passStart k => Sys2Proof.Machine.execPassStart k s
  | .calWindowClose k => Sys2Proof.Machine.execCalWindowClose k s
  | .sweepDone k sums => Sys2Proof.Machine.execSweepDone k sums s
  | .attemptJudge k => Sys2Proof.Machine.execAttemptJudge k s
  | .calWindowTimeout k => Sys2Proof.Machine.execCalWindowTimeout k s
  | .leavenDeferred k => Sys2Proof.Machine.execLeavenDeferred k s
  | .pwRegionAdd via data => Sys2Proof.Machine.execPwRegionAdd via data s
  | .pwRegionDone => Sys2Proof.Machine.execPwRegionDone s
  | .pwRelearn via => Sys2Proof.Machine.execPwRelearn via s
  | .recordClear via v => Sys2Proof.Machine.execRecordClear via v s
  | .recordStore ok => Sys2Proof.Machine.execRecordStore ok s
  | .leavenStatusClear via v => Sys2Proof.Machine.execLeavenStatusClear via v s
  | .bandCompare ecc => Sys2Proof.Machine.execBandCompare ecc s
  | .prefetchFetch => Sys2Proof.Machine.execPrefetchFetch s
  | .refOpen via v => Sys2Proof.Machine.execRefOpen via v s
  | .refRelease via v => Sys2Proof.Machine.execRefRelease via v s
  | .pageAssign via data => Sys2Proof.Machine.execPageAssign via data s
  | .defaultRefWrite via v => Sys2Proof.Machine.execDefaultRefWrite via v s
  | .cmpStatusClear via v => Sys2Proof.Machine.execCmpStatusClear via v s
  | .regionSizeWrite via j v => Sys2Proof.Machine.execRegionSizeWrite via j v s
  | .scrubStep ecc => Sys2Proof.Machine.execScrubStep ecc s
  | .dramStatusClear via v => Sys2Proof.Machine.execDramStatusClear via v s
  | .dmaStart via ch => Sys2Proof.Machine.execDmaStart via ch s
  | .dmaStop via ch => Sys2Proof.Machine.execDmaStop via ch s
  | .dmaKick via ch => Sys2Proof.Machine.execDmaKick via ch s
  | .descriptorFetch ch ecc => Sys2Proof.Machine.execDescriptorFetch ch ecc s
  | .descriptorDone ch ecc => Sys2Proof.Machine.execDescriptorDone ch ecc s
  | .dmaStatusClear via v => Sys2Proof.Machine.execDmaStatusClear via v s
  | .sessionOpen f mask expectedStream => Sys2Proof.Machine.execSessionOpen f mask expectedStream s
  | .sessionClose f => Sys2Proof.Machine.execSessionClose f s
  | .sessionTimeout => Sys2Proof.Machine.execSessionTimeout s
  | .credit f mask limits => Sys2Proof.Machine.execCredit f mask limits s
  | .read f index sub => Sys2Proof.Machine.execRead f index sub s
  | .write f index sub data => Sys2Proof.Machine.execWrite f index sub data s
  | .readSegment f index sub offset len => Sys2Proof.Machine.execReadSegment f index sub offset len s
  | .writeSegment f index sub offset data final => Sys2Proof.Machine.execWriteSegment f index sub offset data final s
  | .scratchWrite f offset data ecc => Sys2Proof.Machine.execScratchWrite f offset data ecc s
  | .scratchRead f offset len ecc => Sys2Proof.Machine.execScratchRead f offset len ecc s
  | .reference f offset data => Sys2Proof.Machine.execReference f offset data s
  | .arpRequest lane target => Sys2Proof.Machine.execArpRequest lane target s
  | .pauseFrame lane quanta => Sys2Proof.Machine.execPauseFrame lane quanta s
  | .pauseEnd lane => Sys2Proof.Machine.execPauseEnd lane s
  | .itemSend lane ecc => Sys2Proof.Machine.execItemSend lane ecc s
  | .statusSend => Sys2Proof.Machine.execStatusSend s
  | .laneDown lane => Sys2Proof.Machine.execLaneDown lane s
  | .streamEnd => Sys2Proof.Machine.execStreamEnd s
  | .streamStatusClear via v => Sys2Proof.Machine.execStreamStatusClear via v s
  | .weirEvaluate => Sys2Proof.Machine.execWeirEvaluate s
  | .restartBegin => Sys2Proof.Machine.execRestartBegin s
  | .backupTargetReached => Sys2Proof.Machine.execBackupTargetReached s
  | .restartDecision => Sys2Proof.Machine.execRestartDecision s
  | .restartAttemptFailed => Sys2Proof.Machine.execRestartAttemptFailed s
  | .moveAbs via a => Sys2Proof.Machine.execMoveAbs via a s
  | .moveRel via a => Sys2Proof.Machine.execMoveRel via a s
  | .velocity via a => Sys2Proof.Machine.execVelocity via a s
  | .stop via a => Sys2Proof.Machine.execStop via a s
  | .home via a => Sys2Proof.Machine.execHome via a s
  | .runList via a => Sys2Proof.Machine.execRunList via a s
  | .follow via a => Sys2Proof.Machine.execFollow via a s
  | .energise via a => Sys2Proof.Machine.execEnergise via a s
  | .deEnergise via a => Sys2Proof.Machine.execDeEnergise via a s
  | .clearError via a => Sys2Proof.Machine.execClearError via a s
  | .axisPositionWrite via a v => Sys2Proof.Machine.execAxisPositionWrite via a v s
  | .axisUpdate a => Sys2Proof.Machine.execAxisUpdate a s
  | .vdsOvercurrent a => Sys2Proof.Machine.execVdsOvercurrent a s
  | .gateUndervoltage => Sys2Proof.Machine.execGateUndervoltage s
  | .openCoil a => Sys2Proof.Machine.execOpenCoil a s
  | .loadEstimate a uA uB iA iB => Sys2Proof.Machine.execLoadEstimate a uA uB iA iB s
  | .stall a => Sys2Proof.Machine.execStall a s
  | .holdDelayExpire a => Sys2Proof.Machine.execHoldDelayExpire a s
  | .standstillOffExpire a => Sys2Proof.Machine.execStandstillOffExpire a s
  | .mrefEdge a active => Sys2Proof.Machine.execMrefEdge a active s
  | .homeTimeout a => Sys2Proof.Machine.execHomeTimeout a s
  | .segNop a => Sys2Proof.Machine.execSegNop a s
  | .move a => Sys2Proof.Machine.execMove a s
  | .speed a => Sys2Proof.Machine.execSpeed a s
  | .accel a => Sys2Proof.Machine.execAccel a s
  | .dwell a => Sys2Proof.Machine.execDwell a s
  | .dwellEnd a => Sys2Proof.Machine.execDwellEnd a s
  | .segWait a => Sys2Proof.Machine.execSegWait a s
  | .sync a => Sys2Proof.Machine.execSync a s
  | .segLoop a => Sys2Proof.Machine.execSegLoop a s
  | .segJump a => Sys2Proof.Machine.execSegJump a s
  | .notify a => Sys2Proof.Machine.execNotify a s
  | .segHalt a => Sys2Proof.Machine.execSegHalt a s
  | .xstepEdge e dirHigh => Sys2Proof.Machine.execXstepEdge e dirHigh s
  | .pacerUpdate => Sys2Proof.Machine.execPacerUpdate s
  | .mstopAssert => Sys2Proof.Machine.execMstopAssert s
  | .mstopRelease => Sys2Proof.Machine.execMstopRelease s
  | .mcWatchdog => Sys2Proof.Machine.execMcWatchdog s
  | .pcWatchdog => Sys2Proof.Machine.execPcWatchdog s
  | .motionStatusClear via v => Sys2Proof.Machine.execMotionStatusClear via v s
  | .axisStatusClear via a v => Sys2Proof.Machine.execAxisStatusClear via a v s
  | .alRequestInit => Sys2Proof.Machine.execAlRequestInit s
  | .alRequestPreOp sms => Sys2Proof.Machine.execAlRequestPreOp sms s
  | .alRequestSafeOp sms fmmus sync0 => Sys2Proof.Machine.execAlRequestSafeOp sms fmmus sync0 s
  | .alRequestOp dcTime => Sys2Proof.Machine.execAlRequestOp dcTime s
  | .alRequestBoot => Sys2Proof.Machine.execAlRequestBoot s
  | .pdoTimeout => Sys2Proof.Machine.execPdoTimeout s
  | .rxpdoUpdate data => Sys2Proof.Machine.execRxpdoUpdate data s
  | .sdoDownload index sub complete size data => Sys2Proof.Machine.execSdoDownload index sub complete size data s
  | .sdoUpload index sub complete => Sys2Proof.Machine.execSdoUpload index sub complete s
  | .sdoSegment toggle last data => Sys2Proof.Machine.execSdoSegment toggle last data s
  | .sdoTimeout => Sys2Proof.Machine.execSdoTimeout s
  | .sdoInformation index sub => Sys2Proof.Machine.execSdoInformation index sub s
  | .siiWrite address data => Sys2Proof.Machine.execSiiWrite address data s
  | .configCommit via => Sys2Proof.Machine.execConfigCommit via s
  | .commitComplete ok => Sys2Proof.Machine.execCommitComplete ok s
  | .configRevert via => Sys2Proof.Machine.execConfigRevert via s
  | .configDefaults via => Sys2Proof.Machine.execConfigDefaults via s
  | .configStatusClear via v => Sys2Proof.Machine.execConfigStatusClear via v s
  | .vinUndervoltage => Sys2Proof.Machine.execVinUndervoltage s
  | .voltMonitorSample mv => Sys2Proof.Machine.execVoltMonitorSample mv s
  | .afeRailRestore k => Sys2Proof.Machine.execAfeRailRestore k s
  | .buckCurrentLimit b => Sys2Proof.Machine.execBuckCurrentLimit b s
  | .tempMonitorSample centi => Sys2Proof.Machine.execTempMonitorSample centi s
  | .thermalShutdown monitor => Sys2Proof.Machine.execThermalShutdown monitor s
  | .processMonitorSample readings => Sys2Proof.Machine.execProcessMonitorSample readings s
  | .refclkLost => Sys2Proof.Machine.execRefclkLost s
  | .pllUnlock n => Sys2Proof.Machine.execPllUnlock n s
  | .pllRelock n => Sys2Proof.Machine.execPllRelock n s
  | .domainPowerUp d => Sys2Proof.Machine.execDomainPowerUp d s
  | .governorEvaluate milliwatts => Sys2Proof.Machine.execGovernorEvaluate milliwatts s
  | .govEnableWrite via v => Sys2Proof.Machine.execGovEnableWrite via v s
  | .govAllowHalfResWrite via v => Sys2Proof.Machine.execGovAllowHalfResWrite via v s
  | .railStatusClear via v => Sys2Proof.Machine.execRailStatusClear via v s
  | .monStatusClear via v => Sys2Proof.Machine.execMonStatusClear via v s
  | .govStatusClear via v => Sys2Proof.Machine.execGovStatusClear via v s
  | .powerOn xtalSel testMode => Sys2Proof.Machine.execPowerOn xtalSel testMode s
  | .resetPin low xtalSel testMode => Sys2Proof.Machine.execResetPin low xtalSel testMode s
  | .mpWatchdog => Sys2Proof.Machine.execMpWatchdog s
  | .softwareReset via => Sys2Proof.Machine.execSoftwareReset via s
  | .resetRestart xtalSel testMode => Sys2Proof.Machine.execResetRestart xtalSel testMode s
  | .railGood => Sys2Proof.Machine.execRailGood s
  | .railStartTimeout monitor => Sys2Proof.Machine.execRailStartTimeout monitor s
  | .starter => Sys2Proof.Machine.execStarter s
  | .starterRetry => Sys2Proof.Machine.execStarterRetry s
  | .bootActions => Sys2Proof.Machine.execBootActions s
  | .dramTrainingDone ok0 ok1 => Sys2Proof.Machine.execDramTrainingDone ok0 ok1 s
  | .tileDiscover via => Sys2Proof.Machine.execTileDiscover via s
  | .discoveryDone answers => Sys2Proof.Machine.execDiscoveryDone answers s
  | .mailboxSend d message => Sys2Proof.Machine.execMailboxSend d message s
  | .mailboxDeliver d => Sys2Proof.Machine.execMailboxDeliver d s
  | .mailboxTimeout d => Sys2Proof.Machine.execMailboxTimeout d s
  | .mailboxRelease d => Sys2Proof.Machine.execMailboxRelease d s
  | .pcRelease => Sys2Proof.Machine.execPcRelease s
  | .hmSend via message => Sys2Proof.Machine.execHmSend via message s
  | .mhRelease via v => Sys2Proof.Machine.execMhRelease via v s
  | .mboxStatusClear via v => Sys2Proof.Machine.execMboxStatusClear via v s
  | .logFlush ok => Sys2Proof.Machine.execLogFlush ok s
  | .logClear via => Sys2Proof.Machine.execLogClear via s
  | .leavenReclaim ok => Sys2Proof.Machine.execLeavenReclaim ok s
  | .flashPatrol => Sys2Proof.Machine.execFlashPatrol s
  | .flashStatusClear via v => Sys2Proof.Machine.execFlashStatusClear via v s
  | .telemetrySnapshot => Sys2Proof.Machine.execTelemetrySnapshot s
  | .updBegin via => Sys2Proof.Machine.execUpdBegin via s
  | .updateEraseDone ok => Sys2Proof.Machine.execUpdateEraseDone ok s
  | .updateData via offset data ok => Sys2Proof.Machine.execUpdateData via offset data ok s
  | .verify via => Sys2Proof.Machine.execVerify via s
  | .updateVerifyDone => Sys2Proof.Machine.execUpdateVerifyDone s
  | .activate via => Sys2Proof.Machine.execActivate via s
  | .confirm via => Sys2Proof.Machine.execConfirm via s
  | .revert via => Sys2Proof.Machine.execRevert via s
  | .updAbort via => Sys2Proof.Machine.execUpdAbort via s
  | .twRequest via data => Sys2Proof.Machine.execTwRequest via data s
  | .twTransaction b seen => Sys2Proof.Machine.execTwTransaction b seen s
  | .twStretchTimeout b seen => Sys2Proof.Machine.execTwStretchTimeout b seen s
  | .recover via b => Sys2Proof.Machine.execRecover via b s
  | .twBusTest b result => Sys2Proof.Machine.execTwBusTest b result s
  | .twEnableWrite via b v => Sys2Proof.Machine.execTwEnableWrite via b v s
  | .twTargetTransaction b address transfer => Sys2Proof.Machine.execTwTargetTransaction b address transfer s
  | .twWindowRefresh => Sys2Proof.Machine.execTwWindowRefresh s
  | .twSensorPoll b sensor seen => Sys2Proof.Machine.execTwSensorPoll b sensor seen s
  | .twStatusClear via v => Sys2Proof.Machine.execTwStatusClear via v s
  | .firstErrorAck via v => Sys2Proof.Machine.execFirstErrorAck via v s
  | .rxDropped f typ => Sys2Proof.Machine.execRxDropped f typ s
  | .blockLockGained lane => Sys2Proof.Machine.execBlockLockGained lane s
  | .txpdoSample => Sys2Proof.Machine.execTxpdoSample s
  | .configRevertComplete ok => Sys2Proof.Machine.execConfigRevertComplete ok s
  | .mailboxInRead => Sys2Proof.Machine.execMailboxInRead s

end Sys2Proof.Machine
end

