-- ==== Sys2Proof/Machine/TestAccess.lean ====
section
/-! DEFINITION. The test access port and the programming of the flash from outside (19_pins_package R457, R458), and what a
tick of an empty queue does (log entries 3, 115 and 172). -/
namespace Sys2Proof.Machine

def setTap (f : Tap → Tap) (s : State) : State := { s with tap := f s.tap }

/-- The state that follows a clock of TCK (IEEE 1149.1). -/
def TapState.next (x : TapState) (tms : Bool) : TapState :=
  match x, tms with
  | .testLogicReset, true => .testLogicReset
  | .testLogicReset, false => .runTestIdle
  | .runTestIdle, true => .selectDr
  | .runTestIdle, false => .runTestIdle
  | .selectDr, true => .selectIr
  | .selectDr, false => .captureDr
  | .captureDr, true => .exit1Dr
  | .captureDr, false => .shiftDr
  | .shiftDr, true => .exit1Dr
  | .shiftDr, false => .shiftDr
  | .exit1Dr, true => .updateDr
  | .exit1Dr, false => .pauseDr
  | .pauseDr, true => .exit2Dr
  | .pauseDr, false => .pauseDr
  | .exit2Dr, true => .updateDr
  | .exit2Dr, false => .shiftDr
  | .updateDr, true => .selectDr
  | .updateDr, false => .runTestIdle
  | .selectIr, true => .testLogicReset
  | .selectIr, false => .captureIr
  | .captureIr, true => .exit1Ir
  | .captureIr, false => .shiftIr
  | .shiftIr, true => .exit1Ir
  | .shiftIr, false => .shiftIr
  | .exit1Ir, true => .updateIr
  | .exit1Ir, false => .pauseIr
  | .pauseIr, true => .exit2Ir
  | .pauseIr, false => .pauseIr
  | .exit2Ir, true => .updateIr
  | .exit2Ir, false => .shiftIr
  | .updateIr, true => .selectDr
  | .updateIr, false => .runTestIdle

/-- The instruction of a code, its bit next to TDO first: all ones is BYPASS, all zeros EXTEST, and one of the two others, an
implementation's choice, SAMPLE/PRELOAD (log entry 172). -/
def tapInstrOf (code : List Bool) : TapInstr :=
  if code = [true, true] then .bypass
  else if code = [false, false] then .extest
  else if code = [Config.sampleLow, !Config.sampleLow] then .samplePreload
  else .bypass

/-- RESET_N is low, so that EXTEST drives balls (R457). -/
def resetLow (s : State) : Bool := decide (s.boot.phase = .pinHeld)

/-- The instruction as it acts: EXTEST acts as BYPASS unless RESET_N is low. -/
def tapActs (s : State) : TapInstr := if s.tap.instr = .extest && !resetLow s then .bypass else s.tap.instr

/-- The level that EXTEST drives on the ball of a cell; none where it drives none, as on every input. -/
def scanDrives (cell : Nat) (x : Signal) (s : State) : Option Bool :=
  if tapActs s = .extest && x.drives then s.tap.update[cell]? else none

/-- The cells from `n` on capture the levels of their balls: those that EXTEST drives, or those that the ball has as far as they are
known; the others are free values. -/
def captureCells : List Signal → Nat → State → List Bool × State
  | [], _, s => ([], s)
  | x :: t, n, s =>
    let (b, s) := match (scanDrives n x s).orElse (fun _ => ballLevel n x s) with
      | some b => (b, s)
      | none => let (v, s) := takeFree 1 s
        (decide (v = 1), s)
    let (l, s) := captureCells t (n + 1) s
    (b :: l, s)

/-- A shift stage takes TDI at its far end and gives the bit next to TDO. -/
def shiftIn (l : List Bool) (tdi : Bool) : List Bool := l.drop 1 ++ [tdi]

/-- Test-Logic-Reset selects BYPASS, as there is no IDCODE register (R457). -/
def tapReset (s : State) : State := setTap (fun t => { t with state := .testLogicReset, instr := .bypass, tdo := none }) s

/-- What a clock of TCK does in the state it finds, before the controller moves on. -/
def tapAct (tdi : Bool) (s : State) : State :=
  match s.tap.state with
  | .captureIr => setTap (fun t => { t with irShift := [true, false] }) s
  | .shiftIr => setTap (fun t => { t with irShift := shiftIn t.irShift tdi, tdo := t.irShift.head? }) s
  | .updateIr => setTap (fun t => { t with instr := tapInstrOf t.irShift }) s
  | .captureDr =>
    if tapActs s = .bypass then setTap (fun t => { t with bypass := false }) s
    else
      let (l, s) := captureCells scanSignals 0 s
      setTap (fun t => { t with chain := l }) s
  | .shiftDr =>
    if tapActs s = .bypass then setTap (fun t => { t with bypass := tdi, tdo := some t.bypass }) s
    else setTap (fun t => { t with chain := shiftIn t.chain tdi, tdo := t.chain.head? }) s
  | .updateDr => if tapActs s = .bypass then s else setTap (fun t => { t with update := t.chain }) s
  | _ => s

/-- The states in which TDO is driven. -/
def TapState.shifts (x : TapState) : Bool := decide (x = .shiftDr) || decide (x = .shiftIr)

/-- A clock of TCK. -/
def tapClock (tms tdi : Bool) (s : State) : State :=
  let t := setTap (fun t => { t with state := s.tap.state.next tms }) (tapAct tdi s)
  let t := if s.tap.state.shifts then t else setTap (fun x => { x with tdo := none }) t
  if t.tap.state = .testLogicReset then tapReset t else t

/-- The next input of the test access port, where it has its supply. -/
def tapTick (s : State) : State :=
  match s.bench.tap with
  | [] => s
  | x :: rest =>
    let s := { s with bench := { s.bench with tap := rest } }
    if s.boot.phase = .unpowered then s
    else match x with
      | .clock tms tdi => tapClock tms tdi s
      | .trst => tapReset s

/-- The flash is programmed from outside, with RESET_N low or VIN removed, while the QSPI balls are high impedance (R458). Until
then a programmer waits. -/
def programTick (s : State) : State :=
  match s.bench.program with
  | none => s
  | some f =>
    if (s.boot.phase = .unpowered ∨ resetLow s) ∧ !s.pins.qspiDriven then
      { s with flash := { f with
                 size := s.flash.size, config := (f.config ++ List.replicate 4 ConfigSlot.empty).take 4, sticky := s.flash.sticky, patrolBad := s.flash.patrolBad },
               bench := { s.bench with program := none } }
    else s

/-- The next change outside the device that no row brings takes place (log entry 172). -/
def outsideTick (s : State) : State :=
  match s.bench.acts with
  | [] => s
  | x :: rest =>
    let b := { s.bench with acts := rest }
    { s with bench := match x with
      | .load k vrst ua => { b with loads := setAt b.loads (2 * k + b2n vrst) ua }
      | .ball cell level =>
        let others := b.balls.filter (fun y => decide (y.1 ≠ cell))
        { b with balls := match level with
          | some v => (cell, v) :: others
          | none => others }
      | .chains returned => { b with chains := returned } }

/-- One nanosecond of the local oscillator on an empty queue (log entry 3), in which the chopper cycles go on and equipment
outside may act. -/
def tick (s : State) : State := idle (chopTick (programTick (tapTick (outsideTick s))))

end Sys2Proof.Machine
end

