-- ==== Sys2Proof/Safety.lean ====
section
/-! DEFINITION. What a step may come to, and the invariants of the state, in the terms the statements use. -/
namespace Sys2Proof.Machine

/-- The command completes in the state: it answers a next state. -/
def Completes (i : Instr) (s : State) : Prop := ∃ t, exec i s = .next t

/-- The command is a misuse of Table 18.6 in the state. -/
def Misuses (i : Instr) (s : State) : Prop := ∃ f, exec i s = .fault f

/-- The device has its parts: 96 ports, 8 groups, 2 encoders, 3 lamp colours, 4 pattern engines, 8 groups and 104 chains of
Leaven, 32 DMA channels, 16 lanes, 6 axes, 8 mailbox directions, 2 two-wire buses; 12 indicator sinks, 2 shading banks, 4
counters of the timing engine, 4 configuration slots, 12 process monitors, 2 lane PLLs, 16 bar sensors, 8 SyncManagers, 8
FMMUs and 16 loads outside. Between commands no event is held back. -/
def Shaped (s : State) : Bool :=
  decide (s.fe.ports.length = 96) && decide (s.fe.groups.length = 8) && decide (s.tim.encoders.length = 2)
    && decide (s.tim.due.length = 8) && decide (s.lamps.colours.length = 3) && decide (s.ind.engines.length = 4)
    && decide (s.lv.groups.length = 8) && decide (s.lv.chains.length = 104) && decide (s.cist.channels.length = 32)
    && decide (s.host.lanes.length = 16) && decide (s.mot.axes.length = 6) && decide (s.mbox.dirs.length = 8)
    && decide (s.tw.buses.length = 2) && decide (s.ind.levels.length = 12) && decide (s.pipe.banks.length = 2)
    && decide (s.tim.cnt.length = 4) && decide (s.flash.config.length = 4) && decide (s.pwr.procs.length = 12)
    && decide (s.pwr.laneLoss.length = 2) && decide (s.tw.barTemp.length = 16) && decide (s.tw.sensorFails.length = 16)
    && decide (s.ecat.sms.length = 8)
    && decide (s.ecat.fmmus.length = 8) && decide (s.pins.ddrReset.length = 2) && decide (s.bench.loads.length = 16) && s.ev.held.isNone

/-- A sparse store lists its keys in strictly rising order, from above `lo`. -/
def sparseFrom {α : Type} : Option Nat → List (Nat × α) → Bool
  | _, [] => true
  | lo, (k, _) :: t =>
    (match lo with
      | some l => decide (l < k)
      | none => true) && sparseFrom (some k) t

/-- The stores of the dictionary list their keys in strictly rising order. -/
def DictSorted (d : Dict) : Bool :=
  sparseFrom none d.held && sparseFrom none d.atReady && sparseFrom none d.atSession && sparseFrom none d.atReset
    && sparseFrom none d.atRun && sparseFrom none d.bulk && sparseFrom none d.bulkAtReady

/-- The stores are in their canonical form: the dictionary's keys rise strictly, and HOST_SCRATCH lists its addresses rising
and no byte that an unlisted one reads as. -/
def Canonical (s : State) : Prop :=
  DictSorted s.dict = true ∧ Memory.wf (scratchDefault s) s.cist.scratch = true

/-- A value of an object of fixed length that passes every check of R328 and has no rule of its own at its write. -/
def PlainWrite (index sub : Nat) (r : Row) (v : Nat) (s : State) : Prop :=
  findRow index sub = some r ∧ (r.acc = .rw ∨ r.acc = .rwp ∧ rwpOpen s = true) ∧ r.ty.isBulk = false ∧
  handlerOf index sub v = none ∧ ownRangeOk index sub r v = true ∧ v &&& r.chk.reservedMask = 0 ∧
  bindingsOk (objKey index sub) (setKey (objKey index sub) v s) = true

/-- The objects whose accepted value has a further effect at once: CMP_ENABLE, HOLD_ENABLE, MSTOP_ENABLE and MSTOP_LEVEL, the levels
and full scales of tone calibration, the jog velocities and the slews of the groups' outputs. -/
def hasEffect (key : Nat) : Bool :=
  decide (key = Obj.CMP_ENABLE.key) || decide (key = Obj.HOLD_ENABLE.key) || decide (key = Obj.MSTOP_ENABLE.key) || decide (key = Obj.MSTOP_LEVEL.key)
    || (List.range 96).any (fun p => decide (key = (Obj.TONE_REF p).key ∨ key = (Obj.FS_RANGE p).key))
    || (List.range 6).any (fun a => decide (key = (Obj.JOG_VELOCITY a).key))
    || (List.range 8).any (fun k => decide (key = (Obj.GROUP_SLEW k).key))

/-- `s` with an object holding a value, as an accepted write leaves it: the write is noted while a commit runs (12 R341). -/
def Written (index sub v : Nat) (s : State) : State :=
  if keyInSets (objKey index sub) then noteWrite (setKey (objKey index sub) v s) else setKey (objKey index sub) v s

/-- The events logged, and those gathered in a command to be logged at its end (18 R438); between commands none is gathered
(Shaped), so that this is the count of logged events. -/
def eventCount (s : State) : Nat := s.ev.logged + (s.ev.held.getD []).length

/-- What waits for the master in the mailbox, in the order it is read: the SM1 mailbox, emergencies, responses. -/
def mailQueue (s : State) : List MailIn := s.ecat.sm1.toList ++ s.ev.emergencies ++ s.ecat.responses

/-- The messages of `ms` join the mailbox behind what waited, and the SM1 mailbox is not empty. -/
def Mailed (ms : List MailIn) (s t : State) : Prop := mailQueue t = mailQueue s ++ ms ∧ t.ecat.sm1 ≠ none

/-- What the others put on a two-wire bus at a step in which they pull SDA low at most in its ninth bit (17 R425). -/
def quiet (low : Bool) : TwSeen := ⟨0xFF, low⟩

/-- Another controller that sends the byte x wins arbitration against one that sends y: the first bit in which they differ is its
0 (17 R425). -/
def wins (x y : Byte) : Prop :=
  ∃ j < 8, y.getLsbD j = true ∧ x.getLsbD j = false ∧ ∀ i < 8, j < i → x.getLsbD i = y.getLsbD i

/-- From s the device has entered OFF: the boot record names the cause, and every block is as State.reset has it but the
local count, the free counter, OTP, flash, the inputs' levels, the packets already sent, the queue and what equipment outside
waits to do (15 R377); a restart at step 3 samples the straps (19 R456; log entry 66); IND0 blinks at 4 Hz where no further restart is made (R376). The flash keeps its contents where neither a
revert nor an update runs. -/
def EnteredOff (phase : BootPhase) (cause detail : Nat) (s t : State) : Prop :=
  t.boot = { Boot.reset with
    phase := phase, cause := cause, detail := detail, count := t.boot.count, railResets := t.boot.railResets,
    startedAt := s.clk,
    xtalSel := if phase = .rails 3 then (benchLevel xtalCell s).getD s.boot.xtalSel else s.boot.xtalSel,
    testMode := if phase = .rails 3 then (benchLevel testModeCell s).getD s.boot.testMode else s.boot.testMode } ∧
  t.tim = { State.reset.tim with
    holdLevel := s.tim.holdLevel, ltrigLevel := s.tim.ltrigLevel, encoders := t.tim.encoders } ∧
  (Shaped s = true → t.tim.encoders.map (fun e => (e.a, e.b, e.z)) = s.tim.encoders.map (fun e => (e.a, e.b, e.z)) ∧
    t.mot.axes.map (fun x => x.mref) = s.mot.axes.map (fun x => x.mref)) ∧
  t.mot = { State.reset.mot with mstop := !mstopPin s, axes := t.mot.axes } ∧
  (s.cfg.revert = none → s.upd.state = .idle →
    t.flash = { s.flash with sticky := 0, patrolBad := 0, reclaimDeferred := false }) ∧
  t = { State.reset with
    clk := s.clk, fresh := t.fresh, flash := t.flash, otp := s.otp, pending := s.pending, boot := t.boot, tim := t.tim,
    mot := t.mot, lv := { State.reset.lv with groups := t.lv.groups },
    cist := { State.reset.cist with scratchFree := t.cist.scratchFree }, host := { State.reset.host with out := s.host.out },
    pins := { Pins.reset with ind0 := if phase = .lockedOut then .blink4 else .level }, bench := s.bench }

end Sys2Proof.Machine
end

