-- ==== Sys2Proof/WellFormed.lean ====
section
/-! DEFINITION. The commands whose operands fit the spec: indices and lengths in the width of their fields, one reading
per monitor, chain or port, and readings that the block can deliver. -/
namespace Sys2Proof

/-- An object index of 16 bits and a subindex of 8 bits (12_control_dictionary R320). -/
def objectOk (index sub : Nat) : Bool := decide (index < 0x10000) && decide (sub < 0x100)

/-- The length and offset of a TSP CONTROL or scratch packet: 32-bit and 16-bit fields (10_host_stream Table 10.6). -/
def spanOk (offset len : Nat) : Bool := decide (offset < 2 ^ 32) && decide (len < 2 ^ 16)

/-- The 17 levels of an injector sweep (07_calibration R160). -/
def sweepOk (sums : List Nat) : Bool := decide (sums.length = 17)

/-- The ports of group k (02_tile_front_end R35). -/
def ofGroup (k : Fin 8) (p : Fin 96) : Bool := decide (p.val / 12 = k.val)

/-- The operands of a command fit the fields and the readings that the spec gives it. -/
def Instr.wf : Instr → Bool
  | .modeRequestInvalid _ code => decide (code.toNat ∉ [1, 2, 3, 4])
  | .objectWrite _ index sub _ => objectOk index sub
  | .bulkDownloadComplete _ index sub _ => objectOk index sub
  | .toneWindowEnd k amplitudes => amplitudes.all (fun a => ofGroup k a.1)
  | .startPulse k readings => readings.all (fun r => ofGroup k r.port && decide (0 < r.pixels.length))
  | .latch returned => decide (returned.length = 4)
  | .spareCheck _ a b => sweepOk a && sweepOk b
  | .sweepDone _ sums => sweepOk sums
  | .credit _ _ limits => decide (limits.length = 16)
  | .read _ index sub => objectOk index sub
  | .write _ index sub _ => objectOk index sub
  | .readSegment _ index sub offset len => objectOk index sub && spanOk offset len
  | .writeSegment _ index sub offset data _ => objectOk index sub && spanOk offset data.length
  | .scratchWrite _ offset data _ => spanOk offset data.length
  | .scratchRead _ offset len _ => spanOk offset len
  | .reference _ offset data => spanOk offset data.length
  | .sdoDownload index sub _ size _ => objectOk index sub && decide (size < 2 ^ 32)
  | .sdoUpload index sub _ => objectOk index sub
  | .sdoInformation index sub => objectOk index sub
  | .voltMonitorSample mv => decide (mv.length = 20)
  | .tempMonitorSample centi => decide (centi.length = 24)
  | .processMonitorSample readings => decide (readings.length = 12)
  | .discoveryDone answers => answers.all (fun a => decide (a.2.length ≤ 69))
  | .twTransaction _ seen => decide (seen.length ≤ 69)
  | .twStretchTimeout _ seen => decide (seen.length ≤ 69)
  | .twSensorPoll _ _ seen => decide (seen.length ≤ 7)
  | .twBusTest _ result => decide (result.clocks.length ≤ 9)
  | .mailboxSend _ message => decide (message.length = 64)
  | _ => true

end Sys2Proof
end

