-- ==== Sys2Proof/Certificates/Slice0/Obligations.lean ====
section
/-! DEFINITION. The statements for the provers: what the commands do, by the rules of spec/, with their frames. -/
open Sys2Proof Sys2Proof.Machine

/-- A step of a state whose queue begins with `c` is `exec c` on the state with the rest of the queue. The rest is the model's choice (log entries 3, 115 and 172): on an empty queue outside equipment acts, the chopper cycles go on, and the time base and the local count rise by 1 ns. -/
def Obligations.StepRunsFrontCommand : Prop :=
  let calm (s : State) : Prop := ∀ a < 6, (axisOf a s).energised = false
  let idleBench (s : State) : Prop := s.bench.tap = [] ∧ s.bench.program = none ∧ s.bench.acts = []
  (∀ (c : Instr) (rest : List Instr) (s : State), s.pending = c :: rest → step s = exec c { s with pending := rest }) ∧
  (∀ s : State, s.pending = [] → idleBench s → calm s → step s = .next { s with now := s.now + 1, clk := s.clk + 1 }) ∧
  (∀ s : State, s.pending = [] → idleBench s → s.mot.axes.length = 6 →
      ∃ t, step s = .next t ∧
        (∀ a < 6, (axisOf a s).energised = false → axisOf a t = axisOf a s) ∧
        (∀ a < 6, (axisOf a s).energised = true → ∃ i j : Int, axisOf a t = { axisOf a s with
          chopA := chopStep a (phaseTargets a s).1 i s (axisOf a s).chopA,
          chopB := chopStep a (phaseTargets a s).2 j s (axisOf a s).chopB }) ∧
        t = { s with now := s.now + 1, clk := s.clk + 1, fresh := t.fresh, mot := { s.mot with axes := t.mot.axes } }) ∧
  (∀ (tdi : Bool) (rest : List TapInput) (s : State), s.pending = [] → s.bench.tap = .clock false tdi :: rest →
      s.bench.program = none → s.bench.acts = [] → calm s →
      s.boot.phase ≠ .unpowered → s.tap.state = .shiftDr → s.tap.instr = .bypass →
      step s = .next { s with now := s.now + 1, clk := s.clk + 1, bench := { s.bench with tap := rest },
                              tap := { s.tap with bypass := tdi, tdo := some s.tap.bypass } }) ∧
  (∀ (f : Flash) (s : State), s.pending = [] → s.bench.tap = [] → s.bench.program = some f → s.bench.acts = [] → calm s →
      s.boot.phase = .pinHeld → s.pins.qspiDriven = false →
      ∃ t, step s = .next t ∧ t.flash.slotA = f.slotA ∧ t.flash.slotB = f.slotB ∧
        t.flash.leaven = f.leaven ∧ t.flash.log = f.log ∧ t.flash.bootRecords = f.bootRecords ∧
        (f.config.length = 4 → t.flash.config = f.config) ∧
        t = { s with now := s.now + 1, clk := s.clk + 1, bench := { s.bench with program := none }, flash := t.flash }) ∧
  (∀ (f : Flash) (s : State), s.pending = [] → s.bench.tap = [] → s.bench.program = some f → s.bench.acts = [] → calm s →
      s.boot.phase ≠ .pinHeld → s.boot.phase ≠ .unpowered →
      step s = .next { s with now := s.now + 1, clk := s.clk + 1 }) ∧
  (∀ (x : Outside) (rest : List Outside) (s : State), s.pending = [] → s.bench.tap = [] → s.bench.program = none →
      s.bench.acts = x :: rest → calm s →
      ∃ b, step s = .next { s with now := s.now + 1, clk := s.clk + 1, bench := b } ∧ b.acts = rest ∧ b.tap = [] ∧
        b.program = none ∧ b.readBacks = s.bench.readBacks ∧
        match x with
        | .load k vrst ua => b.loads = setAt s.bench.loads (2 * k + b2n vrst) ua ∧ b.balls = s.bench.balls ∧ b.chains = s.bench.chains
        | .ball cell level => b.loads = s.bench.loads ∧ b.chains = s.bench.chains ∧
            ∀ t : State, t.bench = b → benchLevel cell t = level ∧ ∀ j ≠ cell, benchLevel j t = benchLevel j s
        | .chains r => b.loads = s.bench.loads ∧ b.balls = s.bench.balls ∧ b.chains = r) ∧
  (∀ (tms tdi : Bool) (s : State), s.pending = [] → s.bench.tap = [.clock tms tdi] → s.bench.program = none → s.bench.acts = [] →
      calm s → s.boot.phase ≠ .unpowered → s.tap.state = .captureDr → s.tap.instr ≠ .bypass →
      (s.tap.instr = .extest → s.boot.phase = .pinHeld) →
      ∃ t, step s = .next t ∧ t.tap.chain.length = scanSignals.length ∧
        t = { s with now := s.now + 1, clk := s.clk + 1, fresh := t.fresh, tap := t.tap, bench := { s.bench with tap := [] } } ∧
        ∀ (n : Nat) (x : Signal) (b : Bool), scanSignals[n]? = some x →
          (s.tap.instr = .extest → x.drives = false ∨ s.tap.update.length ≤ n) → ballLevel n x s = some b →
          t.tap.chain.getD n false = b)

/-- R25 (last sentence), R27 and R28 as equations; and Table 1.9 and R25: a request whose conditions hold starts its transition; the conclusion is the accepted request, with its frame. -/
def Obligations.ModeRequestStartsTransition : Prop :=
  (∀ (via : Path) (s : State), served via s = true → s.modes.trans = none →
      (s.modes.mode = .standby → exec (.modeRequestStandby via) s =
        .next (answerWrite via 0 { s with modes := { s.modes with request := 1, status := 0 } })) ∧
      (s.modes.mode = .ready → exec (.modeRequestReady via) s =
        .next (answerWrite via 0 { s with modes := { s.modes with request := 2, status := 0 } })) ∧
      (s.modes.mode = .inline → exec (.modeRequestInline via) s =
        .next (answerWrite via 0 { s with modes := { s.modes with request := 3, status := 0 } })) ∧
      (s.modes.mode = .sheet → exec (.modeRequestSheet via) s =
        .next (answerWrite via 0 { s with modes := { s.modes with request := 4, status := 0 } }))) ∧
  (∀ (via : Path) (code : BitVec 8) (s : State), served via s = true → s.modes.trans.isSome = true →
      ∀ c ∈ [Instr.modeRequestStandby via, .modeRequestReady via, .modeRequestInline via, .modeRequestSheet via,
          .modeRequestInvalid via code],
        exec c s = .next (answerWrite via 0x08000022 { s with modes := { s.modes with refusal := 0x10 } })) ∧
  (∀ (via : Path) (code : BitVec 8) (s : State), served via s = true → s.modes.trans = none →
      code.toNat ∉ [1, 2, 3, 4] →
      exec (.modeRequestInvalid via code) s =
        .next (answerWrite via 0x06090030 { s with modes := { s.modes with refusal := 0x11, status := 0x11 } })) ∧
  (∀ (via : Path) (s : State), served via s = true → s.modes.trans = none → s.modes.mode = .standby →
      (s.ecat.al = 8 ∨ s.host.session ≠ 0) →
      ∃ t, exec (.modeRequestReady via) s = .next (answerWrite via 0 t) ∧
        t.modes = { s.modes with request := 2, status := 1, trans := some ⟨.ready, false, false⟩ } ∧
        t.dict = { s.dict with atReady := s.dict.held, bulkAtReady := s.dict.bulk } ∧
        t = { s with modes := t.modes, dict := t.dict, pwr := { s.pwr with powering := t.pwr.powering } }) ∧
  (∀ (via : Path) (s : State), served via s = true → s.modes.trans = none → s.modes.mode = .ready →
      (s.ecat.al = 8 ∨ s.host.session ≠ 0) → selectionEmpty (val Obj.PROGRAM_SELECT s) s = false →
      (∃ t, exec (.modeRequestInline via) s = .next (answerWrite via 0 t) ∧
        t.modes = { s.modes with request := 3, status := 1, trans := some ⟨.inline, false, false⟩ } ∧
        t.otp = s.otp ∧ t.flash = s.flash ∧ t.pwr = s.pwr ∧ t.tw = s.tw ∧ t.dict.held = s.dict.held ∧
        t.now = s.now ∧ t.clk = s.clk) ∧
      ((transportAxes s).isEmpty = false →
        ∃ t, exec (.modeRequestSheet via) s = .next (answerWrite via 0 t) ∧
          t.modes = { s.modes with request := 4, status := 1, trans := some ⟨.sheet, false, false⟩ } ∧
          t.otp = s.otp ∧ t.flash = s.flash ∧ t.pwr = s.pwr ∧ t.tw = s.tw ∧ t.dict.held = s.dict.held ∧
          t.now = s.now ∧ t.clk = s.clk)) ∧
  (∀ (via : Path) (s : State), served via s = true → s.modes.trans = none → s.modes.mode = .ready →
      ∃ t, exec (.modeRequestStandby via) s = .next (answerWrite via 0 t) ∧
        t.modes = { s.modes with request := 1, status := 1, trans := some ⟨.standby, false, false⟩ } ∧
        t.tim.words = [] ∧ t.tim.armed = false ∧
        t.otp = s.otp ∧ t.flash = s.flash ∧ t.pwr = s.pwr ∧ t.tw = s.tw ∧ t.dict.held = s.dict.held ∧
        t.now = s.now ∧ t.clk = s.clk) ∧
  (∀ (via : Path) (s : State), served via s = true → s.modes.trans = none →
      (s.modes.mode = .inline ∨ s.modes.mode = .sheet) →
      ∃ t, exec (.modeRequestReady via) s = .next (answerWrite via 0 t) ∧
        t.modes = { s.modes with request := 2, status := 1, trans := some ⟨.ready, false, false⟩ } ∧
        (s.modes.mode = .inline → t.tim.armed = false) ∧
        t.otp = s.otp ∧ t.flash = s.flash ∧ t.pwr = s.pwr ∧ t.tw = s.tw ∧ t.dict.held = s.dict.held ∧
        t.now = s.now ∧ t.clk = s.clk) ∧
  (∀ (via : Path) (s : State), served via s = true → s.modes.trans = none → s.modes.mode = .fault → s.ev.first = none →
      causeActive s = false → sectionOk 2 s = true →
      ∃ t, exec (.modeRequestStandby via) s = .next (answerWrite via 0 t) ∧
        t.modes = { s.modes with request := 1, status := 1, trans := some ⟨.standby, false, false⟩ } ∧
        t.otp = s.otp ∧ t.flash = s.flash ∧ t.pwr = s.pwr ∧ t.tw = s.tw ∧ t.dict = s.dict ∧ t.tim = s.tim ∧
        t.now = s.now ∧ t.clk = s.clk) ∧
  (∀ (via : Path) (s : State), served via s = true → s.modes.trans = none →
      let refused (c : Instr) (m : Mode) (code : Nat) : Prop :=
        exec c s = .next (answerWrite via 0 { s with modes := { s.modes with request := m.code, refusal := code, status := code } })
      let nextOf (m : Mode) : List Mode := match m with
        | .standby => [.ready] | .ready => [.standby, .inline, .sheet] | .inline => [.ready] | .sheet => [.ready] | _ => []
      let all : List (Instr × Mode) := [(.modeRequestStandby via, .standby), (.modeRequestReady via, .ready),
        (.modeRequestInline via, .inline), (.modeRequestSheet via, .sheet)]
      (s.modes.mode ≠ .fault → ∀ x ∈ all, x.2 ≠ s.modes.mode → x.2 ∉ nextOf s.modes.mode → refused x.1 x.2 0x11) ∧
      (s.modes.mode ≠ .fault → hasSession s = false → ∀ x ∈ all, x.2 ≠ .standby → x.2 ∈ nextOf s.modes.mode →
        (s.modes.mode = .standby ∨ s.modes.mode = .ready) → refused x.1 x.2 0x12) ∧
      (s.modes.mode = .ready → hasSession s = true → selectionEmpty (val Obj.PROGRAM_SELECT s) s = true →
        refused (.modeRequestInline via) .inline 0x13 ∧ refused (.modeRequestSheet via) .sheet 0x13) ∧
      (s.modes.mode = .ready → hasSession s = true → (transportAxes s).isEmpty = true → refused (.modeRequestSheet via) .sheet 0x13) ∧
      (s.modes.mode = .fault → s.ev.first.isSome = true → ∀ x ∈ all, refused x.1 x.2 0x14) ∧
      (s.modes.mode = .fault → s.ev.first = none → causeActive s = true → ∀ x ∈ all, refused x.1 x.2 0x15) ∧
      (s.modes.mode = .fault → s.ev.first = none → causeActive s = false → ∀ x ∈ all, x.2 ≠ .standby → refused x.1 x.2 0x11))

/-- R25, R31: the completion of a transition, for each of Table 1.9, with what it leaves unchanged. -/
def Obligations.ModeTransitionCompletes : Prop :=
  (∀ s : State, s.modes.trans = none → exec .modeTransitionDone s = .next s) ∧
  (∀ (s : State) (r : Transition), s.modes.trans = some r →
      (s.modes.mode, r.target) ∈ [(.standby, .ready), (.ready, .standby), (.ready, .inline), (.ready, .sheet),
        (.inline, .ready), (.sheet, .ready), (.fault, .standby), (.standby, .standby)] →
      (r.thenStandby = true → r.target = .ready) → transitionReady r s = true →
      ∃ t, exec .modeTransitionDone s = .next t ∧
        t.modes = (if r.thenStandby then
            { s.modes with mode := .ready, changeTime := s.now, trans := some ⟨.standby, false, r.abandoned⟩, status := 1 }
          else
            { s.modes with mode := r.target, changeTime := s.now, trans := none, status := if r.abandoned then 2 else 0 }) ∧
        t.otp = s.otp ∧ t.flash = s.flash ∧ t.tw = s.tw ∧ t.now = s.now ∧ t.clk = s.clk)

/-- R24 and R25 over all commands: MODE_STATE changes by Table 1.9 alone, and one transition runs at a time. -/
def Obligations.ModeChangesByTable : Prop :=
  let rows : List (Mode × Mode) := [(.standby, .ready), (.ready, .standby), (.ready, .inline), (.ready, .sheet), (.inline, .ready),
    (.sheet, .ready), (.fault, .standby)]
  let fits (s : State) : Prop := ∀ r, s.modes.trans = some r →
    ((s.modes.mode, r.target) ∈ rows ∨ (s.modes.mode = .standby ∧ r.target = .standby)) ∧ (r.thenStandby = true → r.target = .ready)
  ∀ (c : Instr) (s t : State), fits s → exec c s = .next t →
    fits t ∧ (t.modes.mode = s.modes.mode ∨ (s.modes.mode, t.modes.mode) ∈ rows ∨ t.modes.mode = .off ∨
      (t.modes.mode = .fault ∧ (s.modes.mode ≠ .off ∨ c = .bootActions)) ∨
      (s.modes.mode = .off ∧ t.modes.mode = .standby ∧ c = .bootActions))

/-- R56 (the write that starts a clearing), R58 (the write and the line start at which it takes effect) and R59 (the close of a window), with their frames. -/
def Obligations.PortClearingAndGroupOutputs : Prop :=
  (∀ (via : Path) (p : Fin 96) (s : State), served via s = true → Shaped s = true →
      ((portOf p s).latched = true → (portOf p s).clearing = none →
        ∃ t, exec (.faultClear via p) s = .next (answerWrite via 0 t) ∧
          portOf p t = { portOf p s with clearing := some 0 } ∧ (∀ q, q ≠ p.val → portOf q t = portOf q s) ∧
          t = { s with fe := { s.fe with ports := t.fe.ports } }) ∧
      ((portOf p s).latched = false → exec (.faultClear via p) s = .next (answerWrite via 0 s))) ∧
  (∀ (via : Path) (k : Fin 8) (mv : BitVec 16) (s : State), served via s = true → Shaped s = true →
      mv.toNat % 10 = 0 →
      (500 ≤ mv.toNat → mv.toNat ≤ 3000 →
        ∃ t, exec (.groupOutputWrite via k false mv) s = .next (answerWrite via 0 t) ∧
          val (Obj.GROUP_VBIAS k) t = mv.toNat ∧
          groupOf k t = (if domainOn (4 + k) s then
            { groupOf k s with vbias := { (groupOf k s).vbias with waiting := some mv.toNat } } else groupOf k s) ∧
          (∀ j, j ≠ k.val → groupOf j t = groupOf j s) ∧
          (∀ r : Ref, r.key ≠ (Obj.GROUP_VBIAS k).key → val r t = val r s) ∧
          t = { s with dict := { s.dict with held := t.dict.held }, fe := { s.fe with groups := t.fe.groups },
                       cfg := (noteWrite s).cfg }) ∧
      (300 ≤ mv.toNat → mv.toNat ≤ 2500 →
        ∃ t, exec (.groupOutputWrite via k true mv) s = .next (answerWrite via 0 t) ∧
          val (Obj.GROUP_VRST k) t = mv.toNat ∧
          groupOf k t = (if domainOn (4 + k) s then
            { groupOf k s with vrst := { (groupOf k s).vrst with waiting := some mv.toNat } } else groupOf k s) ∧
          (∀ j, j ≠ k.val → groupOf j t = groupOf j s) ∧
          (∀ r : Ref, r.key ≠ (Obj.GROUP_VRST k).key → val r t = val r s) ∧
          t = { s with dict := { s.dict with held := t.dict.held }, fe := { s.fe with groups := t.fe.groups },
                       cfg := (noteWrite s).cfg })) ∧
  (∀ (via : Path) (k : Fin 8) (vrst : Bool) (mv : BitVec 16) (s : State), served via s = true →
      (mv.toNat % 10 ≠ 0 ∨ mv.toNat < (if vrst then 300 else 500) ∨ (if vrst then 2500 else 3000) < mv.toNat) →
      exec (.groupOutputWrite via k vrst mv) s = .next (answerWrite via 0x06090030 s)) ∧
  (∀ (k : Fin 8) (s : State), Shaped s = true →
      ∃ t, exec (.settlingWindowClose k) s = .next t ∧
        (groupOf k t).settle = (if (groupOf k s).settle = some 0 then none else (groupOf k s).settle) ∧
        groupOf k t = { groupOf k s with settle := (groupOf k t).settle } ∧
        (∀ j, j ≠ k.val → groupOf j t = groupOf j s) ∧ t = { s with fe := { s.fe with groups := t.fe.groups } })

/-- R47 with R43 and R45: the write is taken at once, the spare moves at the slot boundary. -/
def Obligations.HandoverAtSlotBoundary : Prop :=
  (∀ (via : Path) (k : Fin 8) (v : BitVec 8) (s : State), served via s = true → v.toNat ≠ 0xFF → v.toNat / 12 ≠ k.val →
      exec (.hostAssign via k v) s = .next (answerWrite via 0x06090030 s)) ∧
  (∀ (via : Path) (k : Fin 8) (v : BitVec 8) (s : State), served via s = true → Shaped s = true → v.toNat / 12 = k.val →
      v.toNat ≠ hostAssign k s → (groupOf k s).spare = .idle → (calOf k s).pass = none → (calOf k s).spareCheck = false →
      ∃ t, exec (.hostAssign via k v) s = .next (answerWrite via 0 t) ∧ val (Obj.HOST_ASSIGN k) t = v.toNat ∧
        groupOf k t = { groupOf k s with assignDue := some (v.toNat, true) } ∧
        (∀ j, j ≠ k.val → groupOf j t = groupOf j s) ∧
        (∀ r : Ref, r.key ≠ (Obj.HOST_ASSIGN k).key → val r t = val r s) ∧
        t = { s with dict := { s.dict with held := t.dict.held }, fe := { s.fe with groups := t.fe.groups } }) ∧
  (∀ (k : Fin 8) (p : Nat) (s : State), Shaped s = true → p / 12 = k.val → (groupOf k s).windowOpen = none →
      (groupOf k s).returnDue = false → (groupOf k s).assignDue = some (p, true) → groupLive k s = true →
      (calOf k s).pass = none →
      ∃ t, exec (.handover k) s = .next t ∧
        groupOf k t = { groupOf k s with spare := .host, port := some p, assignDue := none,
                                         handovers := (groupOf k s).handovers + 1 } ∧
        onSpare p t = true ∧ chainOfPort p t = 96 + k.val ∧ portOf p t = { portOf p s with level := none } ∧
        (∀ j, j ≠ k.val → groupOf j t = groupOf j s) ∧ (∀ q, q ≠ p → portOf q t = portOf q s) ∧
        t = { s with fe := t.fe }) ∧
  (∀ (k : Fin 8) (p : Nat) (s : State), Shaped s = true → p / 12 = k.val → (groupOf k s).windowOpen = none →
      (groupOf k s).returnDue = true → (groupOf k s).spare = .host → (groupOf k s).port = some p → groupLive k s = true →
      (calOf k s).pass = none →
      ∃ t, exec (.handover k) s = .next t ∧
        groupOf k t = { groupOf k s with spare := .idle, port := none, returnDue := false } ∧
        chainOfPort p t = p ∧ portOf p t = { portOf p s with level := none } ∧
        (∀ j, j ≠ k.val → groupOf j t = groupOf j s) ∧ (∀ q, q ≠ p → portOf q t = portOf q s) ∧
        calOf k t = { calOf k s with seedTried := false } ∧ t = { s with fe := t.fe, lv := { s.lv with groups := t.lv.groups } }) ∧
  (∀ (k : Fin 8) (s : State), Shaped s = true → (groupLive k s = false ∨ (groupOf k s).windowOpen ≠ none) →
      (calOf k s).pass = none →
      ∃ t, exec (.handover k) s = .next t ∧ (∀ j, groupOf j t = groupOf j s) ∧ t.fe = s.fe ∧
        calOf k t = { calOf k s with seedTried := (calOf k s).seedTried && decide ((groupOf k s).spare ≠ .idle) } ∧
        (∀ j, j ≠ k.val → calOf j t = calOf j s) ∧ t = { s with lv := { s.lv with groups := t.lv.groups } })

/-- R49, R50, R53 (a passing window) and R55, for every port that a window concerns, with the frame of the row. -/
def Obligations.ToneWindowJudgesPorts : Prop :=
  (∀ (k : Fin 8) (amps : List (Fin 96 × Nat)) (line : LineId) (s : State), Shaped s = true →
      (groupOf k s).windowOpen = some line → s.tim.due.getD k [] = [] → (groupOf k s).window < 400000 →
      (calOf k s).pass = none →
      ∃ t, exec (.toneWindowEnd k amps) s = .next t ∧
        (∀ p, portOf p t = if p ∈ tonePorts k s then { portOf p s with toneSkipped := (portOf p s).toneSkipped + 1 }
          else portOf p s) ∧
        groupOf k t = { groupOf k s with windowOpen := none } ∧ (∀ j, j ≠ k.val → groupOf j t = groupOf j s) ∧
        t = { s with fe := t.fe }) ∧
  (∀ (k : Fin 8) (amps : List (Fin 96 × Nat)) (line : LineId) (p : Fin 96) (a : Nat) (s : State), Shaped s = true →
      (groupOf k s).windowOpen = some line → s.tim.due.getD k [] = [] → 400000 ≤ (groupOf k s).window →
      (calOf k s).pass = none → p.val ∈ tonePorts k s → onSpare p s = false → (portOf p s).learning = none →
      (portOf p s).latched = false → val (Obj.TONE_REF p) s ≠ 0 → amps.find? (fun x => decide (x.1.val = p.val)) = some (p, a) →
      ∃ t, exec (.toneWindowEnd k amps) s = .next t ∧ (portOf p t).toneLast = a ∧
        (val (Obj.TONE_LIMIT_HIGH p) s * val (Obj.TONE_REF p) s < 100 * a →
          (portOf p t).latched = true ∧ (portOf p t).cause = 4 ∧ (portOf p t).faultCount = (portOf p s).faultCount + 1 ∧
            (portOf p t).faultFirstY = ((portOf p s).suspect.getD line).y.getD (2 ^ 64 - 1)) ∧
        (100 * a < val (Obj.TONE_LIMIT_LOW p) s * val (Obj.TONE_REF p) s →
          100 * a ≤ val (Obj.TONE_LIMIT_HIGH p) s * val (Obj.TONE_REF p) s →
          (portOf p t).latched = true ∧ (portOf p t).cause = 8 ∧ (portOf p t).faultCount = (portOf p s).faultCount + 1 ∧
            (portOf p t).faultFirstY = ((portOf p s).suspect.getD line).y.getD (2 ^ 64 - 1)) ∧
        (100 * a ≤ val (Obj.TONE_LIMIT_HIGH p) s * val (Obj.TONE_REF p) s →
          val (Obj.TONE_LIMIT_LOW p) s * val (Obj.TONE_REF p) s ≤ 100 * a →
          (portOf p t).latched = false ∧ (portOf p t).suspect = none) ∧
        groupOf k t = { groupOf k s with windowOpen := none } ∧ (∀ j, j ≠ k.val → groupOf j t = groupOf j s) ∧
        (∀ q, q / 12 ≠ k.val → portOf q t = portOf q s) ∧
        (∀ r : Ref, (∀ q, q ∈ tonePorts k s → (portOf q s).learning.isSome → r.key ≠ (Obj.TONE_REF q).key) → val r t = val r s) ∧
        t.tim.lines.map (fun l => { l with invalid := 0 }) = s.tim.lines.map (fun l => { l with invalid := 0 }) ∧
        t = { s with dict := { s.dict with held := t.dict.held }, ecat := t.ecat, ev := t.ev, mbox := t.mbox, fe := t.fe,
                     tim := { s.tim with lines := t.tim.lines } })

/-- Table 3.1, R63, R64 and R68 for the instructions, with their frames; and R69 and R70 for the write of PROGRAM_SELECT. -/
def Obligations.TimingProgramInstructions : Prop :=
  (∀ s : State, currentOp s = some .nop →
      exec .nop s = .next { s with tim := { s.tim with
        pc := if s.tim.pc + 1 < s.tim.words.length then s.tim.pc + 1 else 0 } }) ∧
  (∀ (s : State) (c t n : Nat), currentOp s = some (.loop c t n) → c < s.tim.cnt.length →
      ∃ u, exec .loop s = .next u ∧
        u.tim.cnt.getD c 0 = (if s.tim.cnt.getD c 0 = 0 then n else s.tim.cnt.getD c 0) - 1 ∧
        (∀ d, d ≠ c → u.tim.cnt.getD d 0 = s.tim.cnt.getD d 0) ∧
        u.tim.pc = (if u.tim.cnt.getD c 0 ≠ 0 then t else if s.tim.pc + 1 < s.tim.words.length then s.tim.pc + 1 else 0) ∧
        u = { s with tim := { s.tim with cnt := u.tim.cnt, pc := u.tim.pc } }) ∧
  (∀ (s : State) (t : Nat), currentOp s = some (.jump t) →
      exec .jump s = .next { s with tim := { s.tim with pc := t } }) ∧
  (∀ s : State, currentOp s = some .line → exec .nop s = .next s ∧ exec .loop s = .next s ∧ exec .jump s = .next s) ∧
  (∀ (via : Path) (v : BitVec 8) (s : State), served via s = true →
    (2 < v.toNat → exec (.programSelect via v) s = .next (answerWrite via 0x06090030 s)) ∧
    (v.toNat ≤ 2 → selectionEmpty v.toNat s = true → capturing s = true →
      exec (.programSelect via v) s = .next (answerWrite via 0x08000022 s)) ∧
    (v.toNat ≤ 2 → v.toNat ≠ 0 → selectionEmpty v.toNat s = false → programOk (bankWords (v.toNat - 1) s) = false →
      exec (.programSelect via v) s = .next (answerWrite via 0x08000020 s)) ∧
    (v.toNat ≤ 2 → s.tim.words ≠ [] →
        (selectionEmpty v.toNat s = true ∧ capturing s = false ∨
          selectionEmpty v.toNat s = false ∧ (v.toNat = 0 ∨ programOk (bankWords (v.toNat - 1) s) = true)) →
      ∃ t, exec (.programSelect via v) s = .next (answerWrite via 0 t) ∧ val Obj.PROGRAM_SELECT t = v.toNat ∧
        (∀ r : Ref, r.key ≠ Obj.PROGRAM_SELECT.key → val r t = val r s) ∧ t.tim = s.tim ∧
        t = { s with dict := { s.dict with held := t.dict.held }, cfg := (noteWrite s).cfg })) ∧
  (∀ (s : State) (c w : Nat), currentOp s = some (.slot c w) → s.tim.lineActive = true →
      ∃ t, exec .slot s = .next t ∧
        (∃ p : PlacedSlot, t.tim.placed = s.tim.placed ++ [p] ∧ p.colour = Colour.ofCode c ∧ p.width = w ∧ p.toneMask = 0) ∧
        (∀ l, s.tim.lines.getLast? = some l → ∃ x : SlotRec,
          t.tim.lines.getLast? = some { l with slots := l.slots ++ [x] } ∧ x.colour = Colour.ofCode c ∧ x.width = w ∧
            x.startTime = placedEnd s ∧ x.endTime = placedEnd s + 2500 * w) ∧
        placedEnd t = placedEnd s + 2500 * w ∧
        (∀ k < s.tim.due.length, ∃ d : DuePulse, t.tim.due.getD k [] = s.tim.due.getD k [] ++ [d] ∧
          d.endTime = placedEnd s + 2500 * w ∧ d.colour = Colour.ofCode c ∧ d.tone = none) ∧
        t.tim.pc = nextPc s ∧
        t.tim.lines.length = s.tim.lines.length ∧
        t = { s with tim := { s.tim with placed := t.tim.placed, due := t.tim.due, lines := t.tim.lines, pc := t.tim.pc },
                     lamps := t.lamps }) ∧
  (∀ (s : State) (m l k : Nat) (ds : List DuePulse) (d : DuePulse), currentOp s = some (.tone m l) →
      k < s.tim.due.length → s.tim.due.getD k [] = ds ++ [d] →
      ∃ t, exec .tone s = .next t ∧
        t.tim.due.getD k [] = ds ++ [if bitOf m k then { d with tone := some l } else d] ∧ t.tim.pc = nextPc s ∧
        t = { s with tim := { s.tim with placed := t.tim.placed, due := t.tim.due, pc := t.tim.pc } })

/-- R74 with R72, R70 and R4: what becomes of a trigger, and what LINE does, each with its frame. -/
def Obligations.TriggersBeginPendOrOverrun : Prop :=
  (∀ (p : Int) (rest : List (Option Int)) (s : State), s.tim.inFlight = some p :: rest → inPhase s = false →
      mayStart s = true → engineRuns s = true → s.tim.atLine = true → s.tim.lineActive = false → s.tim.pending = none →
      (val Obj.PROGRAM_SELECT s = s.tim.active ∨ opAt (selectionWords (val Obj.PROGRAM_SELECT s) 0 s) 0 = .line) →
      ∃ t, exec .lineTrigger s = .next t ∧ t.tim.active = val Obj.PROGRAM_SELECT s ∧
        (val Obj.PROGRAM_SELECT s ≠ s.tim.active → t.tim.cnt = [0, 0, 0, 0] ∧
          t.tim.words = selectionWords (val Obj.PROGRAM_SELECT s) 0 s ∧ t.tim.pc = if 1 < t.tim.words.length then 1 else 0) ∧
        t.tim.inFlight = rest ∧ t.tim.lineActive = true ∧ t.tim.atLine = false ∧
        t.tim.nextSerial = s.tim.nextSerial + 1 ∧ t.tim.overruns = s.tim.overruns ∧ t.tim.slotStart = 1000 * s.now ∧
        (∃ l, t.tim.lines.getLast? = some l ∧ t.tim.lines.length = s.tim.lines.length + 1 ∧ l.trigPos = p ∧
          l.startTime = 1000 * s.now ∧
          l.id = ⟨s.tim.nextSerial, if capturing s then some s.tim.nextY else none⟩) ∧
        t.tim.nextY = (if capturing s then s.tim.nextY + 1 else s.tim.nextY) ∧
        t = { s with ecat := t.ecat, ev := t.ev, pwr := t.pwr, mbox := t.mbox, fe := t.fe, tim := t.tim, lamps := t.lamps,
                     lv := t.lv, cmp := t.cmp, host := t.host, pipe := t.pipe }) ∧
  (∀ (p : Int) (s : State), currentOp s = some .line → s.tim.pending = some p → (s.tim.lineActive = true → s.tim.placed = []) →
      inPhase s = false → mayStart s = true → s.pipe.capture.state = .idle →
      (val Obj.PROGRAM_SELECT s = s.tim.active ∨ opAt (selectionWords (val Obj.PROGRAM_SELECT s) 0 s) 0 = .line) →
      let start := if s.tim.lineActive then s.tim.slotStart else 1000 * s.now
      ∃ t, exec .line s = .next t ∧ t.tim.pending = none ∧ t.tim.lineActive = true ∧ t.tim.atLine = false ∧
        t.tim.active = val Obj.PROGRAM_SELECT s ∧ t.tim.nextSerial = s.tim.nextSerial + 1 ∧ t.tim.slotStart = start ∧
        (val Obj.PROGRAM_SELECT s ≠ s.tim.active → t.tim.cnt = [0, 0, 0, 0] ∧
          t.tim.words = selectionWords (val Obj.PROGRAM_SELECT s) 0 s ∧ t.tim.pc = if 1 < t.tim.words.length then 1 else 0) ∧
        (∃ l, t.tim.lines.getLast? = some l ∧ t.tim.lines.length = s.tim.lines.length + 1 ∧ l.trigPos = p ∧ l.startTime = start ∧
          l.id = ⟨s.tim.nextSerial, if capturing s then some s.tim.nextY else none⟩) ∧
        t = { s with ecat := t.ecat, ev := t.ev, pwr := t.pwr, mbox := t.mbox, fe := t.fe, tim := t.tim, lamps := t.lamps,
                     lv := t.lv, cmp := t.cmp, host := t.host, pipe := t.pipe }) ∧
  (∀ s : State, currentOp s = some .line → s.tim.lineActive = true → s.tim.placed ≠ [] →
      ∃ t, exec .line s = .next t ∧ t.tim.atLine = true ∧ t.tim.pc = nextPc s ∧ t.tim.pending = s.tim.pending ∧
        t = { s with tim := { s.tim with atLine := true, pc := t.tim.pc, due := t.tim.due } }) ∧
  (∀ s : State, engineRuns s = true → s.tim.lineActive = true → s.tim.pending = none → mayStart s = true →
      inPhase s = false →
      (∀ (p : Int) (rest : List (Option Int)), s.tim.inFlight = some p :: rest →
        exec .lineTrigger s = .next { s with tim := { s.tim with inFlight := rest, pending := some p, pendingDiag := s.tim.diagPending } }) ∧
      (valReady Obj.TRIG_SOURCE s = 1 → exec .internalTrigger s =
        .next { s with tim := { s.tim with pending := some (pathPosition s), pendingDiag := s.tim.diagPending } }) ∧
      (valReady Obj.TRIG_SOURCE s = 2 → s.ecat.al = 8 → s.ecat.sync0.isSome = true → syncMode s ≠ 2 →
        exec .sync0Trigger s = .next { s with tim := { s.tim with
          pending := some (pathPosition s), pendingDiag := s.tim.diagPending,
          inFlight := s.tim.inFlight ++ List.replicate (val Obj.SYNC0_LINES s - 1) none } })) ∧
  (∀ s : State, engineRuns s = true → mayStart s = true → inPhase s = false → s.tim.pending.isSome = true →
      valReady Obj.TRIG_SOURCE s = 1 →
      ∃ t, exec .internalTrigger s = .next t ∧
        t.tim = { s.tim with overruns := s.tim.overruns + 1, sticky := stick 3 s.tim.sticky } ∧
        eventCount t = eventCount s + (if bitOf s.tim.sticky 3 then 0 else 1) ∧
        t = { s with tim := t.tim, ecat := t.ecat, ev := t.ev, mbox := t.mbox }) ∧
  (∀ (rising : Bool) (s : State), domainOn 12 s = true → s.tim.ltrigLevel = !rising → inPhase s = false →
      exec (.ltrigEdge rising) s = .next { s with tim := { s.tim with
        ltrigLevel := rising,
        inFlight := if valReady Obj.TRIG_SOURCE s = 3 ∧ valReady Obj.LTRIG_EDGE s = (if rising then 0 else 1)
          then s.tim.inFlight ++ [some (pathPosition s)] else s.tim.inFlight } }) ∧
  (∀ s : State, currentOp s = some .line → s.tim.lineActive = false → s.tim.pending = none →
      exec .line s = .next { s with tim := { s.tim with atLine := true, pc := nextPc s } })

/-- R78, whole. -/
def Obligations.IndexEdgesLatch : Prop :=
  ∀ (e : Fin 2) (s : State), Shaped s = true → domainOn 12 s = true →
    let only (t : State) : Prop := (∀ j, j ≠ e.val → encoderOf j t = encoderOf j s) ∧
      t = { s with tim := { s.tim with encoders := t.tim.encoders } }
    ((encoderOf e s).z = false → ∃ t, exec (.encIndex e true) s = .next t ∧ only t ∧
      encoderOf e t = { encoderOf e s with z := true, indexPosition := (encoderOf e s).position, indexTime := s.now,
                                           indexCount := (encoderOf e s).indexCount + 1 }) ∧
    ((encoderOf e s).z = true → ∃ t, exec (.encIndex e true) s = .next t ∧ only t ∧ encoderOf e t = encoderOf e s) ∧
    (∃ t, exec (.encIndex e false) s = .next t ∧ only t ∧ encoderOf e t = { encoderOf e s with z := false })

/-- R76 and R77 for a count and an error, R73 for the trigger point, R476 for an encoder whose domain is off, whose levels are kept (the model's reading, log entry 52). -/
def Obligations.EncodersCountAndLatch : Prop :=
  (∀ (e : Fin 2) (a b : Bool) (s : State), Shaped s = true → domainOn 12 s = true →
      ((encoderOf e s).a ≠ a ∧ (encoderOf e s).b = b ∨ (encoderOf e s).a = a ∧ (encoderOf e s).b ≠ b) →
      ∃ t, exec (.encCount e a b) s = .next t ∧ (encoderOf e t).a = a ∧ (encoderOf e t).b = b ∧
        -- A leads B where the two levels differ after a change of A or agree after a change of B
        (encoderOf e t).position = (encoderOf e s).position
          + (if (encoderOf e s).a ≠ a ↔ a ≠ b then 1 else -1) * (if flagVal (Obj.ENC_INVERT e) s then -1 else 1) ∧
        (encoderOf e t).errors = (encoderOf e s).errors ∧ (∀ j, j ≠ e.val → encoderOf j t = encoderOf j s) ∧
        (let fast := decide (∃ c ∈ (encoderOf e s).lastCount, s.clk < c + 25)
         let rises := decide (e.val = posEncoder s ∧ s.tim.highest < (encoderOf e t).position)
         let reached := decide (e.val = posEncoder s ∧ valReady Obj.TRIG_SOURCE s = 0 ∧ s.tim.nextPoint ≤ (encoderOf e t).position)
         t.tim.sticky = (if fast then stick 7 s.tim.sticky else s.tim.sticky) ∧
         eventCount t = eventCount s + b2n (fast && !bitOf s.tim.sticky 7) + b2n (rises && s.tim.webHalt) ∧
         t.tim.webHalt = (s.tim.webHalt && !rises) ∧
         t.tim.highest = (if rises then (encoderOf e t).position else s.tim.highest) ∧
         t.tim.inFlight = s.tim.inFlight
           ++ (if reached ∧ engineRuns s = true ∧ inPhase s = false then [some (encoderOf e t).position] else []) ∧
         (reached = false → t.tim.nextPoint = s.tim.nextPoint) ∧
         (reached = true → 0 < val Obj.LINE_DIVIDER s →
           (encoderOf e t).position < t.tim.nextPoint ∧ t.tim.nextPoint ≤ (encoderOf e t).position + val Obj.LINE_DIVIDER s ∧
           (t.tim.nextPoint - s.tim.nextPoint) % (val Obj.LINE_DIVIDER s : Int) = 0)) ∧
        t = { s with ecat := t.ecat, ev := t.ev, mbox := t.mbox,
                     tim := { s.tim with encoders := t.tim.encoders, sticky := t.tim.sticky, webHalt := t.tim.webHalt,
                                         highest := t.tim.highest, roseAt := t.tim.roseAt, inFlight := t.tim.inFlight,
                                         nextPoint := t.tim.nextPoint } }) ∧
  (∀ (e : Fin 2) (a b : Bool) (s : State), Shaped s = true → domainOn 12 s = true → (encoderOf e s).a ≠ a →
      (encoderOf e s).b ≠ b →
      ∃ t, exec (.encCount e a b) s = .next t ∧
        encoderOf e t = { encoderOf e s with a := a, b := b, errors := (encoderOf e s).errors + 1 } ∧
        t.tim.sticky = stick 6 s.tim.sticky ∧ eventCount t = eventCount s + (if bitOf s.tim.sticky 6 then 0 else 1) ∧
        (∀ j, j ≠ e.val → encoderOf j t = encoderOf j s) ∧
        t = { s with tim := { s.tim with encoders := t.tim.encoders, sticky := t.tim.sticky },
                     ecat := t.ecat, ev := t.ev, mbox := t.mbox }) ∧
  (∀ (via : Path) (e : Fin 2) (v : BitVec 64) (s : State), served via s = true → Shaped s = true →
      ∃ t, exec (.encPositionWrite via e v) s = .next (answerWrite via 0 t) ∧
        (domainOn 12 s = true → (encoderOf e t).position = v.toInt ∧ (encoderOf e t).posWrite = none ∧
          t = { s with tim := t.tim, ecat := t.ecat, ev := t.ev, mbox := t.mbox }) ∧
        (domainOn 12 s = false → encoderOf e t = { encoderOf e s with posWrite := some v.toInt } ∧
          t = { s with tim := { s.tim with encoders := t.tim.encoders } }) ∧
        (∀ j, j ≠ e.val → encoderOf j t = encoderOf j s)) ∧
  (∀ (e : Fin 2) (s : State), Shaped s = true → domainOn 12 s = false →
      (∀ a b : Bool, ∃ t, exec (.encCount e a b) s = .next t ∧ encoderOf e t = { encoderOf e s with a := a, b := b } ∧
        (∀ j, j ≠ e.val → encoderOf j t = encoderOf j s) ∧ t = { s with tim := { s.tim with encoders := t.tim.encoders } }) ∧
      (∀ z : Bool, ∃ t, exec (.encIndex e z) s = .next t ∧ encoderOf e t = { encoderOf e s with z := z } ∧
        (∀ j, j ≠ e.val → encoderOf j t = encoderOf j s) ∧ t = { s with tim := { s.tim with encoders := t.tim.encoders } }))

/-- R80, R81, R83 and R84, with their frames. -/
def Obligations.HaltsHoldsAndPageStarts : Prop :=
  (∀ s : State, (s.modes.mode = .inline ∨ s.modes.mode = .sheet ∧ standstillCommanded s = false) → s.tim.webHalt = false →
      ∃ t, exec .webHalt s = .next t ∧ t.tim = { s.tim with webHalt := true, webHalts := s.tim.webHalts + 1 } ∧
        eventCount t = eventCount s + 1 ∧ t = { s with tim := t.tim, ecat := t.ecat, ev := t.ev, mbox := t.mbox }) ∧
  (∀ s : State, (s.modes.mode = .sheet ∧ standstillCommanded s = true ∨ capturing s = false) → exec .webHalt s = .next s) ∧
  (∀ s : State, s.modes.mode ≠ .sheet → s.tim.holdLevel = false →
      ∃ t, exec .holdAssert s = .next t ∧ t.tim = { s.tim with holdLevel := true } ∧
        eventCount t = eventCount s + (if flagVal Obj.HOLD_ENABLE s && domainOn 12 s then 1 else 0) ∧
        t = { s with tim := t.tim, ecat := t.ecat, ev := t.ev, mbox := t.mbox }) ∧
  (∀ s : State, exec .holdRelease s = .next { s with tim := { s.tim with holdLevel := false } }) ∧
  (∀ s : State, s.modes.mode = .inline → s.host.stopped = false → val Obj.PAGE_SOURCE s = 1 → captureRuns s = false →
      ((s.tim.pagePending.length < 4 ∧ ∀ q, s.tim.pagePrevious = some q →
          q + (val Obj.PAGE_LOCKOUT s : Int) * val Obj.LINE_DIVIDER s ≤ pathPosition s + val Obj.PAGE_OFFSET s) →
        exec (.pageEdge .psync) s = .next { s with tim := { s.tim with
          pagePending := s.tim.pagePending ++ [pathPosition s + val Obj.PAGE_OFFSET s],
          pagePrevious := some (pathPosition s + val Obj.PAGE_OFFSET s) } }) ∧
      ((4 ≤ s.tim.pagePending.length ∨ (∃ q, s.tim.pagePrevious = some q ∧
          pathPosition s + val Obj.PAGE_OFFSET s < q + (val Obj.PAGE_LOCKOUT s : Int) * val Obj.LINE_DIVIDER s)) →
        ∃ t, exec (.pageEdge .psync) s = .next t ∧
          t.tim = { s.tim with pagesIgnored := s.tim.pagesIgnored + 1, sticky := stick 8 s.tim.sticky } ∧
          eventCount t = eventCount s + (if bitOf s.tim.sticky 8 then 0 else 1) ∧
          t = { s with tim := t.tim, ecat := t.ecat, ev := t.ev, mbox := t.mbox }) ∧
      exec (.pageEdge .pmark) s = .next s) ∧
  (∀ (via : Path) (s : State), served via s = true →
      exec (.pageStartNow via) s = .next (answerWrite via 0
        (if capturing s = true ∧ val Obj.PAGE_SOURCE s = 3 then { s with tim := { s.tim with pageNow := true } } else s)))

/-- R63 and R67 for the end of a slot, R64 for the start pulse, p = max(e, p before + R + W), and R65 for a window that must be shortened, with their frames. The readout time rounded down to whole ps and LAG_MAX rounded down to ns are the model's choice (log entry 158). -/
def Obligations.SlotsEndAndPulsesBegin : Prop :=
  (∀ (sl : PlacedSlot) (rest : List PlacedSlot) (s : State), s.tim.lineActive = true → s.tim.placed = sl :: rest →
      (rest ≠ [] ∨ s.tim.atLine = false) →
      ∃ t, exec .slotEnd s = .next t ∧ t.tim.placed = rest ∧ t.tim.slotStart = s.tim.slotStart + 2500 * sl.width ∧
        t.tim.slotPos = pathPosition s ∧ t.tim.lineActive = true ∧
        (∀ l x, s.tim.lines.getLast? = some l → l.slots[l.slots.length - (rest.length + 1)]? = some x → rest.length < l.slots.length →
          ∃ m y, t.tim.lines.getLast? = some m ∧ m.slots[l.slots.length - (rest.length + 1)]? = some y ∧
            y.endTime = t.tim.slotStart ∧ y.startPos = s.tim.slotPos ∧ y.endPos = pathPosition s ∧ y.startTime = x.startTime) ∧
        t = { s with tim := { s.tim with lines := t.tim.lines, placed := t.tim.placed, slotStart := t.tim.slotStart,
                                         slotPos := t.tim.slotPos }, lamps := t.lamps, cmp := t.cmp }) ∧
  (∀ (sl : PlacedSlot) (s : State), s.tim.lineActive = true → s.tim.placed = [sl] → s.tim.atLine = true → s.tim.pending = none →
      ∃ t, exec .slotEnd s = .next t ∧ t.tim.placed = [] ∧ t.tim.slotStart = s.tim.slotStart + 2500 * sl.width ∧
        t.tim.lineActive = false ∧ t.tim.atLine = true ∧ t.tim.lines.length = s.tim.lines.length ∧
        t = { s with tim := { s.tim with lines := t.tim.lines, placed := [], slotStart := t.tim.slotStart,
                                         slotPos := t.tim.slotPos, lineActive := false },
                     lamps := t.lamps, cmp := t.cmp, fe := { s.fe with groups := t.fe.groups } }) ∧
  (∀ (k : Fin 8) (d : DuePulse) (rest : List DuePulse) (rs : List Reading) (s : State), Shaped s = true →
      domainOn 12 s = true → s.tim.due.getD k [] = d :: rest → (groupOf k s).windowOpen = none → (calOf k s).pass = none →
      let g := groupOf k s
      let p := max d.endTime (g.lastPulse + g.lastReadout + g.window)
      ∃ t, exec (.startPulse k rs) s = .next t ∧
        (groupOf k t).lastPulse = p ∧ (groupOf k t).lastReadout = readoutPs k s ∧ (groupOf k t).window = 2500 * d.tone.getD 0 ∧
        (groupOf k t).windowOpen.isSome = d.tone.isSome ∧
        t.tim.lagMax = max s.tim.lagMax ((p - d.endTime) / 1000) ∧ t.tim.due.getD k [] = rest ∧
        t.tim.shortened = s.tim.shortened ∧
        (∀ j, j ≠ k.val → groupOf j t = groupOf j s ∧ t.tim.due.getD j [] = s.tim.due.getD j []) ∧
        (∀ q, q / 12 ≠ k.val → portOf q t = portOf q s) ∧
        t = { s with dict := t.dict, ecat := t.ecat, ev := t.ev, mbox := t.mbox, fe := t.fe, tim := t.tim, lamps := t.lamps }) ∧
  (∀ (k : Fin 8) (d : DuePulse) (rest : List DuePulse) (rs : List Reading) (line : LineId) (s : State), Shaped s = true →
      domainOn 12 s = true → s.tim.due.getD k [] = d :: rest → (groupOf k s).windowOpen = some line → (calOf k s).pass = none →
      let g := groupOf k s
      let read := g.lastPulse + g.lastReadout
      let latest := d.endTime + 1000 * val Obj.START_GUARD s
      let w := if read + g.window ≤ latest then g.window else if latest < read + 400000 then 0 else latest - read
      ∃ t, exec (.startPulse k rs) s = .next t ∧ (groupOf k t).lastPulse = max d.endTime (read + w) ∧
        t.tim.shortened = s.tim.shortened + (if read + g.window ≤ latest then 0 else 1) ∧
        t.tim.lagMax = max s.tim.lagMax (((groupOf k t).lastPulse - d.endTime) / 1000) ∧ t.tim.due.getD k [] = rest ∧
        (∀ j, j ≠ k.val → groupOf j t = groupOf j s ∧ t.tim.due.getD j [] = s.tim.due.getD j [])) ∧
  (∀ (k : Fin 8) (rs : List Reading) (s : State), s.ev.held = none → s.tim.due.getD k [] = [] → (calOf k s).pass = none →
      exec (.startPulse k rs) s = .next s)

/-- R91, R92, R94 and R95 for one latch, R95 (the write that starts a fade) and R93 (the write that clears), with their frames. -/
def Obligations.LatchCycleLatchesLevels : Prop :=
  (∀ (returned : List (List (BitVec 208))) (s : State), Shaped s = true → domainOn 12 s = true →
      ∃ t, exec (.latch returned) s = .next t ∧ t.lamps.latchCount = s.lamps.latchCount + 1 ∧
        (∀ c < 3,
          ((lampOf c s).fade = none → (lampOf c t).levelActual = (lampOf c s).levelActual) ∧
          (∀ l0 since ms, (lampOf c s).fade = some (l0, since, ms) →
            (ms * 1000000 ≤ s.clk - since → (lampOf c t).levelActual = val (Obj.LEVEL c) s ∧ (lampOf c t).fade = none) ∧
            (s.clk - since < ms * 1000000 →
              (lampOf c t).levelActual = ((Frac.ofNat l0).add
                (Frac.mk' (((val (Obj.LEVEL c) s : Int) - l0) * (s.clk - since : Nat)) (ms * 1000000))).round.toNat ∧
              (lampOf c t).fade = (lampOf c s).fade))) ∧
        (∀ g < 64, ∀ ch < 16,
          (t.lamps.latched.getD g []).getD ch 0 = lampWord ((List.range 3).map (fun c => (lampOf c t).levelActual)) s g ch) ∧
        (∀ n < s.lamps.chainErrors.length, n < 4 → t.lamps.chainErrors.getD n 0 = s.lamps.chainErrors.getD n 0
          + (if chainMatches (returned.getD n []) n s then 0 else 1)) ∧
        (∀ n < 4, chainMatches (returned.getD n []) n s = false →
          bitOf t.lamps.sticky 4 = true ∧
          (∀ j < 16, t.lamps.openMap.getD (16 * n + j) 0 = s.lamps.openMap.getD (16 * n + j) 0)) ∧
        t = { s with lamps := t.lamps, fe := { s.fe with groups := t.fe.groups },
                     tim := { s.tim with lines := t.tim.lines }, ecat := t.ecat, ev := t.ev, mbox := t.mbox }) ∧
  (∀ (returned : List (List (BitVec 208))) (s : State), domainOn 12 s = false → exec (.latch returned) s = .next s) ∧
  (∀ (via : Path) (c : Fin 3) (v : BitVec 16) (s : State), served via s = true → Shaped s = true →
      (v.toNat ≤ 4095 → domainOn 12 s = true → imaging s = true →
        ∃ t, exec (.levelWrite via c v) s = .next (answerWrite via 0 t) ∧ val (Obj.LEVEL c) t = v.toNat ∧
          lampOf c t = { lampOf c s with fade := some ((lampOf c s).levelActual, s.clk, val (Obj.FADE_TIME c) s) } ∧
          (∀ j, j ≠ c.val → lampOf j t = lampOf j s) ∧
          (∀ r : Ref, r.key ≠ (Obj.LEVEL c).key → val r t = val r s) ∧
          t = { s with dict := { s.dict with held := t.dict.held }, lamps := { s.lamps with colours := t.lamps.colours },
                       cfg := (noteWrite s).cfg }) ∧
      (4095 < v.toNat → exec (.levelWrite via c v) s = .next (answerWrite via 0x06090030 s))) ∧
  (∀ (via : Path) (s : State), served via s = true →
      exec (.lampFaultClear via) s = .next (answerWrite via 0
        { s with lamps := { s.lamps with openMap := List.replicate 64 0, sticky := 0 } }))

/-- Table 4.6, instruction by instruction, and R106 to R108 for the accepted writes of ENGINE_RUN and for a tick; only sinks that the engine owns are affected. Going on at word 0 after the last word and one level of a RAMP at each tick (log entry 34), and ownership taken at the engine's own tick (log entry 96), are the model's readings. -/
def Obligations.IndicatorEngines : Prop :=
  (∀ (i : Fin 4) (s : State), Shaped s = true →
    (indCurrent i s = some .nop → exec (.indNop i) s = .next (modEngine i (fun e => { e with pc := indNext i s }) s)) ∧
    (∀ m l, indCurrent i s = some (.set m l) → s.ind.levels.length = 12 →
      ∃ t, exec (.set i) s = .next t ∧
        (∀ k < 12, indLevel k t = if bitOf m k ∧ sinkOwner k s = i.val then l else indLevel k s) ∧
        engineOf i t = { engineOf i s with pc := indNext i s } ∧
        (∀ j, j ≠ i.val → engineOf j t = engineOf j s) ∧ t = { s with ind := { t.ind with owner := s.ind.owner } }) ∧
    (∀ m g d, indCurrent i s = some (.ramp m g d) →
      exec (.ramp i) s = .next (modEngine i (fun e => { e with ramp := some ⟨m, g, d, 0, s.ind.levels⟩ }) s)) ∧
    (∀ n, indCurrent i s = some (.wait n) →
      exec (.wait i) s = .next (modEngine i (fun e => { e with waiting := n }) s)) ∧
    (∀ c t n, indCurrent i s = some (.loop c t n) →
      let v := (if (engineOf i s).cnt.getD c 0 = 0 then n else (engineOf i s).cnt.getD c 0) - 1
      exec (.indLoop i) s = .next (modEngine i (fun e => { e with
        cnt := setAt e.cnt c v, pc := if v = 0 then indNext i s else t }) s)) ∧
    (∀ t, indCurrent i s = some (.jump t) → exec (.indJump i) s = .next (modEngine i (fun e => { e with pc := t }) s)) ∧
    (∀ m rev, indCurrent i s = some (.rotate m rev) → s.ind.levels.length = 12 →
      ∃ t, exec (.rotate i) s = .next t ∧
        (ownedSinks i m s).map (fun k => indLevel k t) = rotated ((ownedSinks i m s).map (fun k => indLevel k s)) rev ∧
        (∀ k, k ∉ ownedSinks i m s → indLevel k t = indLevel k s) ∧
        engineOf i t = { engineOf i s with pc := indNext i s } ∧
        (∀ j, j ≠ i.val → engineOf j t = engineOf j s) ∧ t = { s with ind := { t.ind with owner := s.ind.owner } }) ∧
    (∀ c t, indCurrent i s = some (.test c t) →
      exec (.test i) s = .next (modEngine i (fun e => { e with
        pc := if indCondition c s then t else indNext i s }) s)) ∧
    (indCurrent i s = some .halt → exec (.halt i) s = .next (modEngine i (fun e => { e with state := 2 }) s))) ∧
  (∀ (via : Path) (i : Fin 4) (s : State), served via s = true → Shaped s = true →
      (indWords i s ≠ [] → (∀ w ∈ indWords i s, indWordOk (indWords i s).length w = true) → (engineOf i s).state ≠ 1 →
        ∃ t, exec (.engineRun via i 1#8) s = .next (answerWrite via 0 t) ∧ val (Obj.ENGINE_RUN i) t = 1 ∧
          engineOf i t = { engineOf i s with state := 1, fresh := true } ∧
          (∀ j, j ≠ i.val → engineOf j t = engineOf j s) ∧
          t = { s with dict := { s.dict with held := t.dict.held }, ind := { s.ind with engines := t.ind.engines }, cfg := (noteWrite s).cfg }) ∧
      (∃ t, exec (.engineRun via i 0#8) s = .next (answerWrite via 0 t) ∧ val (Obj.ENGINE_RUN i) t = 0 ∧
        engineOf i t = { engineOf i s with state := 0, fresh := false } ∧
        (∀ j, j ≠ i.val → engineOf j t = engineOf j s) ∧
        t = { s with dict := { s.dict with held := t.dict.held }, ind := { s.ind with engines := t.ind.engines }, cfg := (noteWrite s).cfg })) ∧
  (∀ (i : Fin 4) (s : State), s.modes.mode ≠ .off →
      ((engineOf i s).state ≠ 1 → exec (.engineTick i) s =
        .next { s with ind := { s.ind with owner := val Obj.IND_OWNER s } }) ∧
      ((engineOf i s).state = 1 → (engineOf i s).fresh = false → (engineOf i s).ramp = none → 2 ≤ (engineOf i s).waiting →
        exec (.engineTick i) s = .next (modEngine i (fun e => { e with waiting := e.waiting - 1 })
          { s with ind := { s.ind with owner := val Obj.IND_OWNER s } }))) ∧
  (∀ (i : Fin 4) (s : State), s.modes.mode ≠ .off → Shaped s = true → s.ind.levels.length = 12 → (engineOf i s).state = 1 →
      let s' := { s with ind := { s.ind with owner := val Obj.IND_OWNER s } }
      -- one instruction, as its row carries it out
      let one : State → State := fun u =>
        match indCurrent i u with
        | none => u
        | some op =>
          let row : Instr := match op with
            | .nop => .indNop i | .set _ _ => .set i | .ramp _ _ _ => .ramp i | .wait _ => .wait i | .loop _ _ _ => .indLoop i
            | .jump _ => .indJump i | .rotate _ _ => .rotate i | .test _ _ => .test i | .halt => .halt i | .reserved => .indNop i
          match exec row u with
          | .next v => v
          | _ => u
      let run (u : State) : State := (List.range 64).foldl (fun v _ => one v) u
      ((engineOf i s).fresh = true → exec (.engineTick i) s = .next (run (modEngine i (fun e => { e with
          fresh := false, pc := 0, cnt := [0, 0, 0, 0], waiting := 0, ramp := none }) s'))) ∧
      ((engineOf i s).fresh = false → (engineOf i s).ramp = none →
        ((engineOf i s).waiting = 0 → exec (.engineTick i) s = .next (run s')) ∧
        ((engineOf i s).waiting = 1 →
          exec (.engineTick i) s = .next (run (modEngine i (fun e => { e with waiting := 0, pc := indNext i s }) s')))) ∧
      (∀ r, (engineOf i s).fresh = false → (engineOf i s).waiting = 0 → (engineOf i s).ramp = some r →
        let lit : State := { s' with ind := { s'.ind with levels := (List.range 12).map (fun k =>
          if bitOf r.mask k ∧ sinkOwner k s' = i.val then
            ((Frac.ofNat (r.from0.getD k 0)).add
              (Frac.mk' (((r.target : Int) - (r.from0.getD k 0 : Nat)) * (r.done + 1 : Nat)) r.ticks)).round.toNat
          else indLevel k s) } }
        (r.done + 1 < r.ticks →
          exec (.engineTick i) s = .next (modEngine i (fun e => { e with ramp := some { r with done := r.done + 1 } }) lit)) ∧
        (r.done + 1 = r.ticks →
          exec (.engineTick i) s = .next (run (modEngine i (fun e => { e with ramp := none, pc := indNext i s }) lit)))))

/-- R109, whole. -/
def Obligations.EngineRunRefusesPrograms : Prop :=
  (∀ (via : Path) (i : Fin 4) (s : State), served via s = true →
      (indWords i s = [] ∨ (∃ w ∈ indWords i s,
          (∃ m g, indOp w = .ramp m g 0) ∨ indOp w = .wait 0 ∨ (∃ c t, indOp w = .loop c t 0) ∨ indOp w = .reserved ∨
          (∃ c t n, indOp w = .loop c t n ∧ (indWords i s).length ≤ t) ∨
          (∃ t, indOp w = .jump t ∧ (indWords i s).length ≤ t) ∨
          (∃ c t, indOp w = .test c t ∧ (11 < c ∨ (indWords i s).length ≤ t)))) →
      ∃ code, code ≠ 0 ∧ exec (.engineRun via i 1#8) s = .next (answerWrite via code s)) ∧
  (∀ s : State, (domainOn 12 s = false → indCondition 6 s = false ∧ indCondition 7 s = false) ∧
      ((∀ p < 96, domainOn (4 + p / 12) s = true → (portOf p s).latched = false) → indCondition 5 s = false))

/-- R121 for BANK_SWITCH and its effect, R119 and R120 for the end of a bank download, with their frames. -/
def Obligations.BanksSwitchAndAreDownloaded : Prop :=
  (∀ (via : Path) (s : State), served via s = true →
      ((imaging s = false ∨ s.pipe.switchPending = true ∨ captureBusy s = true ∨ (bankOf (1 - s.pipe.active) s).state = 3) →
        exec (.bankSwitch via) s = .next (answerWrite via 0x08000022 s)) ∧
      (imaging s = true → s.pipe.switchPending = false → captureBusy s = false → (bankOf (1 - s.pipe.active) s).state ≠ 3 →
        (s.modes.mode = .ready → ∃ t, exec (.bankSwitch via) s = .next (answerWrite via 0 t) ∧
          t.pipe = { s.pipe with active := 1 - s.pipe.active, lastFailed := false } ∧
          bytesGet (objKey 0x4501 0) t.dict.bulk = none ∧
          (∀ k, k ≠ objKey 0x4501 0 → bytesGet k t.dict.bulk = bytesGet k s.dict.bulk) ∧
          t = { s with dict := { s.dict with bulk := t.dict.bulk }, pipe := t.pipe }) ∧
        (s.modes.mode ≠ .ready → exec (.bankSwitch via) s =
          .next (answerWrite via 0 { s with pipe := { s.pipe with switchPending := true } })))) ∧
  (∀ (l : LineRec) (rest : List LineRec) (s : State), s.pipe.switchPending = true → capturing s = true →
      s.tim.lines = l :: rest →
      (l.settling = true → exec .bankSwitchEffect s = .next s) ∧
      (l.settling = false → ∃ t, exec .bankSwitchEffect s = .next t ∧
        t.pipe = { s.pipe with active := 1 - s.pipe.active, switchPending := false, lastFailed := false } ∧
        bytesGet (objKey 0x4501 0) t.dict.bulk = none ∧
        t = { s with dict := { s.dict with bulk := t.dict.bulk }, pipe := t.pipe })) ∧
  (∀ s : State, s.pipe.switchPending = false → exec .bankSwitchEffect s = .next s) ∧
  (∀ (via : Path) (b : Fin 2) (data : List Byte) (s : State), served via s = true → s.pipe.banks.length = 2 →
      data.length ≤ 944708 →
      ((bankReached s = false ∨ b.val = s.pipe.active ∨ captureBusy s = true) →
        exec (.bulkDownloadComplete via (0x4300 + b.val) 0 data) s = .next (answerWrite via 0x08000022 s)) ∧
      (bankReached s = true → b.val ≠ s.pipe.active → captureBusy s = false →
        (bankContent data = .good → exec (.bulkDownloadComplete via (0x4300 + b.val) 0 data) s = .next (answerWrite via 0
          { s with pipe := { s.pipe with banks := s.pipe.banks.set b.val ⟨2, s.now, some data⟩ } })) ∧
        (∀ code, bankContent data = .bad code →
          ∃ t, exec (.bulkDownloadComplete via (0x4300 + b.val) 0 data) s = .next (answerWrite via code t) ∧
            (bankOf b t).state = 3 ∧ (∀ j, j ≠ b.val → bankOf j t = bankOf j s) ∧
            t = { s with pipe := { s.pipe with banks := t.pipe.banks } })))

/-- R123, R124 and R127 for the request and the steps of a capture, with R4 and R156 for a capture in READY. -/
def Obligations.CaptureSteps : Prop :=
  (∀ (via : Path) (s : State), served via s = true →
      ((imaging s = false ∨ captureBusy s = true ∨ s.pipe.switchPending = true ∨ bankDownloading s = true) →
        exec (.refCapture via) s = .next (answerWrite via 0x08000022 s)) ∧
      (imaging s = true → captureBusy s = false → s.pipe.switchPending = false → bankDownloading s = false →
        (s.modes.mode ≠ .ready → exec (.refCapture via) s = .next (answerWrite via 0 { s with pipe := { s.pipe with
          capture := { s.pipe.capture with state := .waiting, since := s.tim.nextSerial } } })) ∧
        (s.modes.mode = .ready → ∃ t, exec (.refCapture via) s = .next (answerWrite via 0 t) ∧
          t.pipe.capture.state = (if (stripAxis s).isSome then .movingIn else .black) ∧
          (∀ a, stripAxis s = some a → t.pipe.capture.move = some (a, sval 32 Obj.REF_POS_IN s)) ∧
          t.tim.nextY = 0 ∧ t.dict = { s.dict with atRun := s.dict.held } ∧ t.pipe.banks = s.pipe.banks ∧
          t.pipe.active = s.pipe.active ∧
          t = { s with dict := t.dict, ecat := t.ecat, ev := t.ev, mbox := t.mbox, tim := t.tim, lamps := t.lamps,
                       pipe := t.pipe, host := { s.host with refDropped := none }, mot := t.mot }))) ∧
  (∀ s : State, (captureDue s = true →
        ∃ t, exec .captureBegin s = .next t ∧ t.pipe.capture.state = (if (stripAxis s).isSome then .movingIn else .black) ∧
          t.tim.pending = none ∧ t.tim.inFlight = [] ∧ t.pipe.banks = s.pipe.banks ∧ t.pipe.measure = none ∧
          t = { s with ecat := t.ecat, ev := t.ev, mbox := t.mbox, tim := t.tim, lamps := t.lamps, pipe := t.pipe,
                       host := t.host, mot := t.mot }) ∧
      (captureDue s = false → exec .captureBegin s = .next s)) ∧
  (∀ (a : Nat) (target : Int) (s : State), s.pipe.capture.move = some (a, target) →
      (s.pipe.capture.state = .movingIn → stripArrived a target s = true →
        exec .captureMoveDone s = .next { s with
          tim := { s.tim with pending := none, inFlight := [] }, lamps := { s.lamps with settleNext := true },
          pipe := { s.pipe with capture := { s.pipe.capture with
            state := .black, attempt := 1, pass := 1, begun := 0, used := 0, marked := 0,
            phases := List.replicate 4 ⟨0, []⟩ } } }) ∧
      (s.pipe.capture.state = .movingOut → stripArrived a target s = true →
        ∃ t, exec .captureMoveDone s = .next t ∧ t.pipe.capture.state = .idle ∧ t.pipe.capture.lastTime = s.now ∧
          t.pipe.capture.fails = s.pipe.capture.fails + (if s.pipe.capture.result = 1 then 0 else 1) ∧
          t.pipe.lastFailed = decide (s.pipe.capture.result ≠ 1) ∧ t.pipe.stage6 = [] ∧ t.pipe.banks = s.pipe.banks ∧
          t = { s with ecat := t.ecat, ev := t.ev, mbox := t.mbox, tim := t.tim, pipe := t.pipe, cmp := t.cmp,
                       cist := t.cist, host := t.host }) ∧
      (stripArrived a target s = false → exec .captureMoveDone s = .next s) ∧
      ((s.pipe.capture.state = .movingIn ∨ s.pipe.capture.state = .movingOut) →
        ∃ t, exec .captureMoveTimeout s = .next t ∧ t.pipe.capture.state = .idle ∧ t.pipe.capture.result = 4 ∧
          t.pipe.capture.fails = s.pipe.capture.fails + 1 ∧ t.pipe.lastFailed = true ∧ bitOf t.pipe.sticky 5 = true ∧
          t.pipe.banks = s.pipe.banks ∧ t.pipe.active = s.pipe.active ∧
          t = { s with ecat := t.ecat, ev := t.ev, mbox := t.mbox, tim := t.tim, pipe := t.pipe, cmp := t.cmp,
                       cist := t.cist, host := t.host, mot := t.mot })) ∧
  (∀ s : State, phaseTarget s ≤ s.pipe.capture.begun → s.tim.lineActive = false →
      (s.tim.pending = none →
        (s.pipe.capture.state = .black → exec .capturePhaseEnd s = .next { s with
          lamps := { s.lamps with settleNext := true },
          pipe := { s.pipe with capture := { s.pipe.capture with state := .white, begun := 0, used := 0 } } }) ∧
        (s.pipe.capture.state = .white → s.pipe.capture.pass = 1 → exec .capturePhaseEnd s = .next { s with
          lamps := { s.lamps with settleNext := true },
          pipe := { s.pipe with capture := { s.pipe.capture with state := .black, pass := 2, begun := 0, used := 0 } } })) ∧
      (s.pipe.capture.state = .white → s.pipe.capture.pass ≠ 1 → exec .capturePhaseEnd s = .next { s with
        tim := { s.tim with pending := none, inFlight := [] },
        pipe := { s.pipe with capture := { s.pipe.capture with state := .evaluating } } })) ∧
  (∀ s : State, s.pipe.capture.begun < phaseTarget s → exec .capturePhaseEnd s = .next s)

/-- R126 for the evaluation of an attempt, with R121, R124 step 6 and R127. One lost item and one uncorrectable error for an attempt whose sums are lost are the model's reading (log entries 15 and 178). -/
def Obligations.CaptureIsEvaluated : Prop :=
  ∀ s : State,
    ((s.pipe.capture.state ≠ .evaluating ∨ ∃ l ∈ s.tim.lines, l.refPhase ≠ none) → exec .captureEvaluate s = .next s) ∧
    (s.pipe.capture.state = .evaluating → (∀ l ∈ s.tim.lines, l.refPhase = none) → s.pipe.banks.length = 2 →
        s.pipe.active < 2 →
      let r := attemptResult (verdicts s) s
      let u := noteLostSums s
      (poisonedIn (regionBase rSums s) (regionSize rSums s) s = [] → u = s) ∧
      (poisonedIn (regionBase rSums s) (regionSize rSums s) s ≠ [] → r = 3 ∧ u.cist.dataLost = s.cist.dataLost + 1 ∧
        u.cist.uncorrectable = s.cist.uncorrectable + 1 ∧ eventCount u = eventCount s + 1 ∧
        u = { s with cist := { s.cist with dataLost := u.cist.dataLost, uncorrectable := u.cist.uncorrectable,
                                           lastAddress := u.cist.lastAddress, sticky := u.cist.sticky, poisoned := u.cist.poisoned },
                     ecat := u.ecat, ev := u.ev, mbox := u.mbox }) ∧
      (r = 1 → ∃ t, exec .captureEvaluate s = .next t ∧
        bankOf (1 - s.pipe.active) t = ⟨1, s.now, some (capturedBank (verdicts s) s)⟩ ∧
        bankOf s.pipe.active t = bankOf s.pipe.active s ∧
        t.pipe.capture.result = 1 ∧ t.pipe.capture.count = s.pipe.capture.count + 1 ∧
        t.pipe.capture.fails = s.pipe.capture.fails ∧
        t.pipe.active = (if s.modes.mode = .ready then 1 - s.pipe.active else s.pipe.active) ∧
        (s.modes.mode ≠ .ready → t.pipe.switchPending = true) ∧
        t.pipe.capture.state = (if (stripAxis s).isSome then .movingOut else .idle) ∧
        t = { s with dict := { s.dict with bulk := t.dict.bulk }, ecat := t.ecat, ev := t.ev, mbox := t.mbox, tim := t.tim,
                     pipe := t.pipe, cmp := t.cmp, cist := t.cist, host := t.host, mot := t.mot }) ∧
      (r ≠ 1 → s.pipe.capture.attempt ≤ val Obj.REF_RETRIES s → exec .captureEvaluate s = .next { u with
        tim := { s.tim with pending := none, inFlight := [] }, lamps := { s.lamps with settleNext := true },
        pipe := { s.pipe with capture := { s.pipe.capture with
          state := .black, attempt := s.pipe.capture.attempt + 1, pass := 1, begun := 0, used := 0, marked := 0,
          phases := List.replicate 4 ⟨0, []⟩ } } }) ∧
      (r ≠ 1 → val Obj.REF_RETRIES s < s.pipe.capture.attempt → ∃ t, exec .captureEvaluate s = .next t ∧
        t.pipe.capture.result = r ∧ t.pipe.banks = s.pipe.banks ∧ t.pipe.active = s.pipe.active ∧
        t.pipe.switchPending = s.pipe.switchPending ∧
        t.pipe.capture.state = (if (stripAxis s).isSome then .movingOut else .idle) ∧
        t = { s with ecat := t.ecat, ev := t.ev, mbox := t.mbox, tim := t.tim, pipe := t.pipe, cmp := t.cmp,
                     cist := t.cist, host := t.host, mot := t.mot }))

/-- R16, R116, R134 and R146 for the hold and commit of a line, R150 for the measurement, with their frames. -/
def Obligations.LinesLeaveHoldAndCommit : Prop :=
  (∀ (l : LineRec) (rest : List LineRec) (s : State), domainOn 12 s = true → s.tim.lines = l :: rest →
      ((lineIsRead l s = false ∨ holdOver s = false) → exec .lineHoldRelease s = .next s) ∧
      (lineIsRead l s = true → holdOver s = true → ∃ t, exec .lineHoldRelease s = .next t ∧ t.tim = { s.tim with lines := rest } ∧
        (l.id.y = none → t.pipe.stage6 = s.pipe.stage6) ∧
        (∀ y, l.id.y = some y → ∃ x, t.pipe.stage6.getLast? = some x ∧ x.id = l.id ∧ x.page = l.page ∧
          x.invalid = l.invalid ∧ x.settling = l.settling ∧ x.reference = l.refPhase.isSome ∧ x.dropped = l.dropped) ∧
        t = { s with dict := { s.dict with bulk := t.dict.bulk }, fe := t.fe, tim := t.tim, pipe := t.pipe, lv := t.lv,
                     cist := t.cist })) ∧
  (∀ s : State, (domainOn 12 s = false ∨ s.tim.lines = []) → exec .lineHoldRelease s = .next s) ∧
  (∀ (l : Stage6Line) (s : State), domainOn 13 s = true → nextToCommit false s = some l →
      ∃ t, exec .lineCommit s = .next t ∧ t.pipe.nextCommit = l.id.serial + 1 ∧
        (l.reference = true → t.cmp = s.cmp ∧
          t.pipe.stage6 = s.pipe.stage6.filter (fun x => decide (x.id.serial ≠ l.id.serial))) ∧
        (l.reference = false → s.host.restart.phase = .none → s.pipe.pair = none → formImage l 0 s = none →
          t = { s with pipe := { s.pipe with nextCommit := l.id.serial + 1, missed := some (l.page, l.leadIn) } }) ∧
        t = { s with ecat := t.ecat, ev := t.ev, mbox := t.mbox, tim := t.tim, pipe := t.pipe, cmp := t.cmp,
                     cist := t.cist, host := t.host }) ∧
  (∀ s : State, (domainOn 13 s = false ∨ nextToCommit false s = none) → exec .lineCommit s = .next s) ∧
  (∀ (via : Path) (s : State), served via s = true →
      exec (.staggerMeasure via) s = .next (if capturing s = true ∧ s.pipe.measure = none
        then answerWrite via 0 { s with pipe := { s.pipe with
          measure := some (val Obj.STAGGER_MEASURE_LINES s, []), measureResult := 1 } }
        else answerWrite via 0x08000022 s)) ∧
  (∀ (rows : List MeasureRow) (s : State), s.pipe.measure = some (0, rows) →
      ∃ t, exec .staggerMeasureDone s = .next t ∧
        (t.pipe.measureResult = 2 ∨ t.pipe.measureResult = 3 ∧ t.pipe.measured = s.pipe.measured) ∧
        t = { s with pipe := { s.pipe with measure := none, measureResult := t.pipe.measureResult,
                                           measured := t.pipe.measured } }) ∧
  (∀ s : State, (s.pipe.measure = none ∨ ∃ n rows, s.pipe.measure = some (n + 1, rows)) →
      exec .staggerMeasureDone s = .next s)

/-- R169 to R173 and R167 for the row commands that make a calibration due and begin a pass, with their frames. -/
def Obligations.CalibrationsBecomeDueAndStart : Prop :=
  (∀ (via : Path) (v : BitVec 8) (s : State), served via s = true → Shaped s = true →
      ∃ t, exec (.calRequest via v) s = .next (answerWrite via 0 t) ∧
        (∀ k < 8, calOf k t = if v.getLsbD k then
            (if (calOf k s).running then { calOf k s with again := true } else { calOf k s with due := true })
          else calOf k s) ∧
        t = { s with lv := { s.lv with groups := t.lv.groups } }) ∧
  (∀ s : State, leavenRuns s = false → s.modes.mode ≠ .standby → exec .calEvaluate s = .next s) ∧
  (∀ s : State, Shaped s = true → s.modes.mode = .standby → flagVal Obj.LEAVEN_ENABLE s = true →
      ∃ t, exec .calEvaluate s = .next t ∧
        (∀ k < 8, calOf k t = 
            let arises := (tempDue k s && !(calOf k s).tempTrig) || (ageDue k s && !(calOf k s).ageTrig)
            let trig := { calOf k s with tempTrig := tempDue k s, ageTrig := ageDue k s }
            if (calOf k s).running then { trig with again := (calOf k s).again || arises }
            else { trig with due := (calOf k s).due || tempDue k s || ageDue k s }) ∧
        t = { s with lv := { s.lv with groups := t.lv.groups } }) ∧
  (∀ s : State, Shaped s = true → leavenRuns s = true →
      ∃ t, exec .calEvaluate s = .next t ∧
        (∀ k < 8, domainOn (4 + k) s = true → (tempDue k s || ageDue k s) = true → (calOf k s).checkAgain = false → calPorts k s ≠ [] →
          (calOf k t).due = true ∨ (calOf k t).running = true) ∧
        t = { s with fe := { s.fe with groups := t.fe.groups }, lv := { s.lv with groups := t.lv.groups } }) ∧
  (∀ (k : Fin 8) (p : Nat) (s : State), Shaped s = true → leavenRuns s = true → groupLive k s = true →
      backgroundDeferred s = false → (calOf k s).pass = none → (calOf k s).spareCheck = false →
      (calOf k s).checkAgain = false →
      (seedPort k s = none → (calOf k s).running = true → nextPort k s = some p →
        ∃ t, exec (.passStart k) s = .next t ∧
          calOf k t = { calOf k s with pass := some (newPass p (fullAllowed p k s) false s),
                                       ports := p :: (calOf k s).ports.filter (fun q => decide (q ≠ p)) } ∧
          (∀ j, j ≠ k.val → calOf j t = calOf j s) ∧ t = { s with lv := { s.lv with groups := t.lv.groups } }) ∧
      (seedPort k s = some p → (calOf k s).running = true ∨ groupMayRun s = true →
        ∃ t, exec (.passStart k) s = .next t ∧
          calOf k t = { calOf k s with pass := some (newPass p false true s), seedTried := true } ∧
          (∀ j, j ≠ k.val → calOf j t = calOf j s) ∧ t = { s with lv := { s.lv with groups := t.lv.groups } })) ∧
  (∀ (k : Fin 8) (s : State), (leavenRuns s = false ∨ backgroundDeferred s = true ∨ (calOf k s).pass ≠ none) →
      exec (.passStart k) s = .next s) ∧
  (∀ (k : Fin 8) (s : State), Shaped s = true →
      ((calOf k s).deferredSince ≠ none → (calOf k s).deferredLogged = false →
        ∃ t, exec (.leavenDeferred k) s = .next t ∧ calOf k t = { calOf k s with deferredLogged := true } ∧
          eventCount t = eventCount s + 1 ∧
          t = { s with lv := { s.lv with groups := t.lv.groups }, ecat := t.ecat, ev := t.ev, mbox := t.mbox }) ∧
      ((calOf k s).deferredLogged = true → exec (.leavenDeferred k) s = .next s))

/-- R159, R162, R164 to R166 and row 6 of Table 7.4, with their frames. A spare check that passes shows its range without a gain (log entry 32) and clears NONLINEAR (log entry 105): both are the model's readings. -/
def Obligations.WindowsSweepsAndJudgements : Prop :=
  (∀ (k : Fin 8) (p : Pass) (w : CalWindow) (s : State), Shaped s = true → (calOf k s).pass = some p → p.window = some w →
      (w.lines < val Obj.CAL_WINDOW_LINES s → exec (.calWindowClose k) s = .next s) ∧
      (val Obj.CAL_WINDOW_LINES s ≤ w.lines → ∃ t p', exec (.calWindowClose k) s = .next t ∧ (calOf k t).pass = some p' ∧
        (p.step = .windowsA → p.closedA = [] → p' = { p with
          closedA := [w], window := some { openWindow w.chain w.lamp s with first := 0 } }) ∧
        (∀ a, p.step = .windowsA → p.closedA = [a] → p'.closedA = [a, w] ∧ p'.window = none ∧
          (p'.step = .handover ↔ p.full = true ∧ offsetsAgree a w (measured a w) s = true ∧
            ∀ c < 3, (lampOver a w c).lt (Frac.ofNat (val Obj.CAL_MON_MIN s)) = false) ∧
          (p'.step ≠ .handover → p'.step = .judge)) ∧
        (∀ b, p.step = .windowsB → p.closedB = [b] → p' = { p with
          closedB := [b, w], window := none, step := if p.seed then .handover else .judge }) ∧
        t = { s with fe := { s.fe with groups := t.fe.groups },
                     lv := { s.lv with groups := t.lv.groups, chains := t.lv.chains } }) ∧
      (passJudged p = false → ∃ t, exec (.calWindowTimeout k) s = .next t ∧ (calOf k t).pass = none ∧
        t.lv.abandonCount = s.lv.abandonCount + 1 ∧ bitOf t.lv.sticky 4 = true ∧ eventCount t = eventCount s + 1 ∧
        t = { s with fe := { s.fe with groups := t.fe.groups }, lv := t.lv, pwr := { s.pwr with gov := t.pwr.gov },
                     ecat := t.ecat, ev := t.ev, mbox := t.mbox })) ∧
  (∀ (k : Fin 8) (p : Pass) (sums : List Nat) (s : State), Shaped s = true → (calOf k s).pass = some p →
      p.step = .windowsB → p.seed = false → p.sweeps.length < 2 → (groupOf k s).port = some p.port →
      ∃ t, exec (.sweepDone k sums) s = .next t ∧
        (calOf k t).pass = some { p with sweeps := p.sweeps ++ [sweepInl sums] } ∧
        t = { s with lv := { s.lv with groups := t.lv.groups } }) ∧
  (∀ (k : Fin 8) (p : Pass) (s : State), Shaped s = true → (calOf k s).pass = some p → p.step = .judge →
      (p.full = true → p.closedB.length = 2 → p.sweeps.length = 2) →
      let r := (judgeAttempt p k s).1
      let accepted := r = .accepted ∨ r = .acceptedOffsetOnly ∨ r = .seeded
      ∃ t, exec (.attemptJudge k) s = .next t ∧
        (accepted → t.lv.acceptCount = s.lv.acceptCount + 1 ∧ t.lv.rejectCount = s.lv.rejectCount ∧
          t.dict = (writeAccepted p k r (judgeAttempt p k s).2 s).dict) ∧
        (¬ accepted → t.dict = s.dict ∧ t.lv.acceptCount = s.lv.acceptCount ∧ t.lv.toStore = s.lv.toStore ∧
          t.lv.rejectCount = s.lv.rejectCount + (if p.seed = false ∧ p.attempt ≤ val Obj.CAL_RETRIES s then 0 else 1) ∧
          (p.attempt > val Obj.CAL_RETRIES s → bitOf t.lv.sticky 3 = true ∧ eventCount t = eventCount s + 1)) ∧
        t = { s with dict := { s.dict with bulk := t.dict.bulk }, fe := { s.fe with groups := t.fe.groups }, lv := t.lv,
                     pwr := { s.pwr with gov := t.pwr.gov }, ecat := t.ecat, ev := t.ev, mbox := t.mbox }) ∧
  (∀ (k : Fin 8) (sums1 sums2 : List Nat) (s : State), Shaped s = true → (calOf k s).spareCheck = true →
      ∃ t, exec (.spareCheck k sums1 sums2) s = .next t ∧ (calOf k t).spareCheck = false ∧ (groupOf k t).spare = .idle ∧
        (chainOf (96 + k) t).inl = inl16 [sweepInl sums1, sweepInl sums2] ∧
        (chainOf (96 + k) t).gains = (chainOf (96 + k) s).gains ∧
        (inlOk (sweepInl sums1) (sweepInl sums2) s = true →
          (chainOf (96 + k) t).ranges =
            setBit (chainOf (96 + k) s).ranges (portRange ((calOf k s).ports.headD (12 * k)) s) true ∧
          (chainOf (96 + k) t).nonlinear = false ∧ (chainOf (96 + k) t).accepted = (chainOf (96 + k) s).accepted + 1 ∧
          t.lv.toStore.length = s.lv.toStore.length + 1) ∧
        (inlOk (sweepInl sums1) (sweepInl sums2) s = false → (chainOf (96 + k) t).ranges = (chainOf (96 + k) s).ranges ∧
          (chainOf (96 + k) t).nonlinear = true ∧ (chainOf (96 + k) t).rejected = (chainOf (96 + k) s).rejected + 1 ∧
          t.lv.toStore = s.lv.toStore ∧ eventCount t = eventCount s + 1) ∧
        t = { s with fe := { s.fe with groups := t.fe.groups }, lv := t.lv, ecat := t.ecat, ev := t.ev, mbox := t.mbox }) ∧
  (∀ (k : Fin 8) (s : State), (calOf k s).pass = none →
      exec (.calWindowClose k) s = .next s ∧ exec (.calWindowTimeout k) s = .next s ∧
      exec (.sweepDone k []) s = .next s ∧ exec (.attemptJudge k) s = .next s)

/-- R175, R177, R178, R180, R182 and R183 for the rows named, with their frames. That RECORD_STORE with ok clear is the failure after the retry (log entry 142), and what a failing erase comes to (log entry 136), are the model's readings. -/
def Obligations.PaperWhiteAndRecords : Prop :=
  (∀ (via : Path) (data : List Byte) (s : State), served via s = true →
      (data.length ≠ 16 → exec (.pwRegionAdd via data) s = .next (answerWrite via 0x06070010 s)) ∧
      (data.length = 16 → fieldAt data 14 2 = 0 →
        let count := fieldAt data 8 4
        let first := fieldAt data 12 1
        let last := fieldAt data 13 1
        ((count < 128 ∨ 1048576 < count ∨ 95 < first ∨ 95 < last ∨ last < first) →
          exec (.pwRegionAdd via data) s = .next (answerWrite via 0x08000020 s)) ∧
        (128 ≤ count → count ≤ 1048576 → first ≤ last → last ≤ 95 →
          (s.lv.regions.length < 32 → (capturing s = false ∨ lineReadBy (fieldAt data 0 4) (fieldAt data 4 4) s = false) → exec (.pwRegionAdd via data) s = .next (answerWrite via 0
            { s with lv := { s.lv with
              regions := s.lv.regions ++ [⟨fieldAt data 0 4, fieldAt data 4 4, count, first, last, [], [], []⟩] } })) ∧
          ((32 ≤ s.lv.regions.length ∨ capturing s = true ∧ lineReadBy (fieldAt data 0 4) (fieldAt data 4 4) s = true) →
            exec (.pwRegionAdd via data) s = .next (answerWrite via 0
              { s with lv := { s.lv with dropped := s.lv.dropped + 1, sticky := stick 8 s.lv.sticky } }))))) ∧
  (∀ (i : Nat) (s : State), s.lv.regions.findIdx? (fun r => lineReadBy r.page (r.first + r.count - 1) s) = some i →
      ∃ t, exec .pwRegionDone s = .next t ∧ t.lv = { s.lv with regions := s.lv.regions.eraseIdx i } ∧
        (∀ key, key ≠ objKey 0x4501 0 → key ≠ objKey 0x4305 0 → bytesGet key t.dict.bulk = bytesGet key s.dict.bulk) ∧
        t = { s with lv := t.lv, dict := { s.dict with bulk := t.dict.bulk } }) ∧
  (∀ (via : Path) (s : State), served via s = true →
      ∃ t, exec (.pwRelearn via) s = .next (answerWrite via 0 t) ∧ (∀ p < 96, ∀ c < 3, pwRef p c t = 0) ∧
        (∀ key, key ≠ objKey 0x4501 0 → bytesGet key t.dict.bulk = bytesGet key s.dict.bulk) ∧
        t = { s with dict := { s.dict with bulk := t.dict.bulk } }) ∧
  (∀ (via : Path) (v : BitVec 16) (s : State), served via s = true → Shaped s = true → bits v.toNat 15 12 = 0 →
      (103 < bits v.toNat 7 0 → exec (.recordClear via v) s = .next (answerWrite via 0x06090030 s)) ∧
      (bits v.toNat 7 0 ≤ 103 → passOn (bits v.toNat 7 0) s = true →
        exec (.recordClear via v) s = .next (answerWrite via 0x08000022 s)) ∧
      (bits v.toNat 7 0 ≤ 103 → passOn (bits v.toNat 7 0) s = false →
        ∃ t, exec (.recordClear via v) s = .next (answerWrite via 0 t) ∧
          (∀ r < 4, chainRecorded (bits v.toNat 7 0) r t = (chainRecorded (bits v.toNat 7 0) r s && !v.getLsbD (8 + r))) ∧
          (∀ r < 4, bitOf (chainOf (bits v.toNat 7 0) t).ranges r = (bitOf (chainOf (bits v.toNat 7 0) s).ranges r && !v.getLsbD (8 + r))) ∧
          (∀ ch, ch ≠ bits v.toNat 7 0 → chainOf ch t = chainOf ch s) ∧
          t.lv.toStore.length = s.lv.toStore.length + (setBits (bits v.toNat 11 8) 4).length ∧
          t = { s with dict := { s.dict with bulk := t.dict.bulk },
                       lv := { s.lv with chains := t.lv.chains, toStore := t.lv.toStore } })) ∧
  (∀ (r : LeavenRecord) (rest : List LeavenRecord) (ok : Bool) (s : State), s.lv.toStore = r :: rest → mpRuns s = true →
      s.ev.held = none →
      -- a record that needs a reclamation whose erase fails is stored while a block is free (log entry 136)
      let stored := ok && (leavenHasRoom s || decide (2 < leavenFree s) || s.bench.readBacks.headD true || decide (leavenFree s ≠ 0))
      ∃ t, exec (.recordStore ok) s = .next t ∧
        t.lv = (if stored then { s.lv with toStore := rest }
          else { s.lv with toStore := rest, storeFails := s.lv.storeFails + 1, sticky := stick 5 s.lv.sticky }) ∧
        (stored = false → eventCount t = eventCount s + 1 ∧ bitOf t.flash.sticky 4 = true) ∧
        (stored = true → ∃ b ∈ t.flash.leaven.getLast?, 
          let n := maxNat (b.records.dropLast.map (fun x => x.sequence + 1) ++
            (t.flash.leaven.dropLast.flatMap (fun c => c.records)).map (fun x => x.sequence + 1))
          b.records.getLast? = some (sealRecord { r with sequence := n })) ∧
        t = { s with lv := t.lv, flash := t.flash, ecat := t.ecat, ev := t.ev, mbox := t.mbox,
                     bench := { s.bench with readBacks := t.bench.readBacks } }) ∧
  (∀ (via : Path) (v : BitVec 16) (s : State), served via s = true →
      exec (.leavenStatusClear via v) s = .next (answerWrite via 0
        { s with lv := { s.lv with sticky := unstick s.lv.sticky v.toNat } }))

/-- R193, R195, R206 and R209 for a due band and for a window ahead, with their frames. -/
def Obligations.BandsAreComparedWaitOrAreSkipped : Prop :=
  (∀ (b : CmpBand) (rest : List CmpBand) (p : CmpPage) (id : Nat) (r : RefImage) (s : State), domainOn 14 s = true →
      s.cmp.queue = b :: rest → cmpPageOf b.page s = some p → p.failed = false → p.ref = some id → refOf id s = some r →
      let rows := b.rows.filter (fun x => !bitOf x.flags 0 || decide (val Obj.CMP_SETTLING_MODE s = 1))
      let span := windowSpan (refHead r.bytes) b p.centreY
      (r.state = 2 → poisonedIn (r.base + span.1) span.2 s = [] →
        poisonedIn (regionBase rCompare s + b.place) (117504 * b.rows.length) s = [] →
        ∃ t, exec (.bandCompare .clean) s = .next t ∧ t.cmp.bandsCompared = s.cmp.bandsCompared + 1 ∧
          t.cmp.bandsSkipped = s.cmp.bandsSkipped ∧ (∀ x ∈ t.cmp.queue, x ∈ rest) ∧
          t.cmp.lastOffset = (alignBand (sampleUnit p.half) (val Obj.ALIGN_MIN_PIXELS s) (val Obj.ALIGN_CONTRAST s) rows r
            (refHead r.bytes) p.centreX p.centreY).1 ∧
          t.cmp.refs = s.cmp.refs ∧ t.cmp.assigns = s.cmp.assigns ∧
          t = { s with cmp := t.cmp, cist := t.cist, host := t.host, ecat := t.ecat, ev := t.ev, mbox := t.mbox }) ∧
      (r.state = 1 → s.cmp.queue.length < val Obj.CMP_QUEUE_BANDS s →
        exec (.bandCompare .clean) s = .next s ∧ bitOf (cmpStatus s) 3 = true)) ∧
  (∀ (e : Ecc) (b : CmpBand) (rest : List CmpBand) (p : CmpPage) (s : State), domainOn 14 s = true → s.ev.held = none →
      s.cmp.queue = b :: rest → cmpPageOf b.page s = some p →
      (let ref := p.ref.bind (fun id => refOf id s)
       p.failed = true ∨ ref = none ∨ ∃ r, ref = some r ∧ (r.state ≠ 1 ∧ r.state ≠ 2 ∨
         r.state = 1 ∧ val Obj.CMP_QUEUE_BANDS s ≤ s.cmp.queue.length)) →
      ∃ t, exec (.bandCompare e) s = .next t ∧ t.cmp.bandsSkipped = s.cmp.bandsSkipped + 1 ∧
        t.cmp.bandsCompared = s.cmp.bandsCompared ∧ bitOf t.cmp.sticky 4 = true ∧ (∀ x ∈ t.cmp.queue, x ∈ rest) ∧
        (p.blobs = [] → eventCount t = eventCount s + (if bitOf s.cmp.sticky 4 then 0 else 1)) ∧
        t = { s with cmp := t.cmp, cist := t.cist, host := t.host, ecat := t.ecat, ev := t.ev, mbox := t.mbox }) ∧
  (∀ (e : Ecc) (s : State), (domainOn 14 s = false ∨ s.cmp.queue = []) → exec (.bandCompare e) s = .next s) ∧
  (∀ s : State, ∃ t, exec .prefetchFetch s = .next t ∧
      t = { s with cmp := { s.cmp with prefetch := t.cmp.prefetch } } ∧
      (val Obj.PREFETCH_BANDS s ≤ s.cmp.prefetch.length → t = s) ∧
      (∃ ws, t.cmp.prefetch = s.cmp.prefetch ++ ws ∧ ws.length ≤ 1))

/-- R190 to R193 and R212 for the rows named, with their frames. -/
def Obligations.ReferencesAndAssignments : Prop :=
  (∀ (via : Path) (v : BitVec 16) (s : State), served via s = true →
      (v.toNat ≤ 255 → refState v.toNat s = 0 → s.cmp.upload = none → imaging s = true →
        exec (.refOpen via v) s = .next (answerWrite via 0 { s with cmp := { s.cmp with
          upload := some v.toNat, refs := s.cmp.refs ++ [⟨v.toNat, 1, 0, 0, []⟩] } })) ∧
      (v.toNat ≠ 0xFFFF → (imaging s = false ∨ s.cmp.upload ≠ none) →
        exec (.refOpen via v) s = .next (answerWrite via 0x08000022 s)) ∧
      (v.toNat ≤ 255 → refState v.toNat s ≠ 0 → exec (.refOpen via v) s = .next (answerWrite via 0x08000022 s)) ∧
      (v.toNat = 0xFFFF → s.cmp.upload = none → exec (.refOpen via v) s = .next (answerWrite via 0 s)) ∧
      (∀ id, v.toNat = 0xFFFF → s.cmp.upload = some id → (∀ p ∈ s.cmp.pages, p.ref ≠ some id) →
        exec (.refOpen via v) s = .next (answerWrite via 0 { s with cmp := { s.cmp with
          upload := none, refs := s.cmp.refs.filter (fun r => decide (r.id ≠ id)) } }))) ∧
  (∀ (via : Path) (v : BitVec 16) (s : State), served via s = true → v.toNat ≤ 255 →
      ((refState v.toNat s = 1 ∨ refInUse v.toNat s = true ∨ ∃ a ∈ s.cmp.assigns, a.id = v.toNat) →
        exec (.refRelease via v) s = .next (answerWrite via 0x08000022 s)) ∧
      (refState v.toNat s ≠ 1 → refInUse v.toNat s = false → (∀ a ∈ s.cmp.assigns, a.id ≠ v.toNat) →
        exec (.refRelease via v) s = .next (if val Obj.DEFAULT_REF s = v.toNat then answerWrite via 0x08000020 s
          else answerWrite via 0 { s with cmp := { s.cmp with
            refs := s.cmp.refs.filter (fun r => decide (r.id ≠ v.toNat)) } }))) ∧
  (∀ (via : Path) (data : List Byte) (s : State), served via s = true → data.length = 12 →
      let page := fieldAt data 0 4
      let id := fieldAt data 4 2
      let dx := toSigned 16 (fieldAt data 6 2)
      let dy := toSigned 16 (fieldAt data 8 2)
      ((4096 ≤ s.cmp.assigns.length ∨ refState id s = 0 ∨ refState id s = 3) →
        exec (.pageAssign via data) s = .next (answerWrite via 0x08000022 s)) ∧
      (s.cmp.assigns.length < 4096 → refState id s = 1 ∨ refState id s = 2 → fieldAt data 10 2 = 0 →
        -64 ≤ dx → dx ≤ 64 → -64 ≤ dy → dy ≤ 64 →
        (∀ a, s.cmp.assigns.getLast? = some a → pageFollows page a.page = false →
          exec (.pageAssign via data) s = .next (answerWrite via 0x08000020 s)) ∧
        ((∀ a, s.cmp.assigns.getLast? = some a → pageFollows page a.page = true) → s.cmp.active = false →
          exec (.pageAssign via data) s = .next (answerWrite via 0
            { s with cmp := { s.cmp with assigns := s.cmp.assigns ++ [⟨page, id, dx, dy⟩] } })))) ∧
  (∀ (via : Path) (v : BitVec 16) (s : State), served via s = true →
      (255 < v.toNat → v.toNat ≠ 0xFFFF → exec (.defaultRefWrite via v) s = .next (answerWrite via 0x06090030 s)) ∧
      (v.toNat ≤ 255 → refState v.toNat s = 0 ∨ refState v.toNat s = 3 →
        exec (.defaultRefWrite via v) s = .next (answerWrite via 0x08000022 s)) ∧
      ((v.toNat = 0xFFFF ∨ v.toNat ≤ 255 ∧ (refState v.toNat s = 1 ∨ refState v.toNat s = 2)) →
        ∃ t, exec (.defaultRefWrite via v) s = .next (answerWrite via 0 t) ∧ val Obj.DEFAULT_REF t = v.toNat ∧
          (∀ r : Ref, r.key ≠ Obj.DEFAULT_REF.key → val r t = val r s) ∧
          t = { s with dict := { s.dict with held := t.dict.held }, cfg := (noteWrite s).cfg })) ∧
  (∀ (via : Path) (v : BitVec 16) (s : State), served via s = true →
      exec (.cmpStatusClear via v) s = .next (answerWrite via 0
        { s with cmp := { s.cmp with sticky := unstick s.cmp.sticky v.toNat } }))

/-- R218, R225, R226, R228, R229 and R241 for the rows named, with their frames. -/
def Obligations.CisternLayoutAndMemoryErrors : Prop :=
  (∀ (via : Path) (i : Fin 9) (v : BitVec 64) (s : State), served via s = true →
      (regionSizeOk i v.toNat = false → exec (.regionSizeWrite via i v) s = .next (answerWrite via 0x06090030 s)) ∧
      (regionSizeOk i v.toNat = true → layoutOf (setAt (requestedSizes s) i v.toNat) (configuredCapacity s) = none →
        exec (.regionSizeWrite via i v) s = .next (answerWrite via 0x08000020 s)) ∧
      (regionSizeOk i v.toNat = true → layoutOf (setAt (requestedSizes s) i v.toNat) (configuredCapacity s) ≠ none →
        ∃ t, exec (.regionSizeWrite via i v) s = .next (answerWrite via 0 t) ∧ val (Obj.REGION_SIZE i) t = v.toNat ∧
          (∀ r : Ref, r.key ≠ (Obj.REGION_SIZE i).key → val r t = val r s) ∧
          t = { s with dict := { s.dict with held := t.dict.held }, cist := { s.cist with layoutPending := true }, cfg := (noteWrite s).cfg })) ∧
  (∀ (e : Ecc) (s : State), (domainOn 15 s = true ∨ domainOn 16 s = true) → backgroundDeferred s = false →
      s.cist.capacity ≠ 0 →
      ∃ t, exec (.scrubStep e) s = .next t ∧
        t.cist.scrubAddress = (if s.cist.scrubAddress + 64 < s.cist.capacity then s.cist.scrubAddress + 64 else 0) ∧
        t.cist.scrubPasses = (if s.cist.scrubAddress + 64 < s.cist.capacity then s.cist.scrubPasses
          else s.cist.scrubPasses + 1) ∧
        (isPoisoned s.cist.scrubAddress s = false → poisonedIn s.cist.scrubAddress 64 s = [] →
          (e = .clean → t.cist.corrected = s.cist.corrected ∧ t.cist.uncorrectable = s.cist.uncorrectable ∧
            eventCount t = eventCount s) ∧
          (∀ a, e = .corrected a → t.cist.corrected = s.cist.corrected + 1 ∧ t.cist.lastAddress = a ∧
            bitOf t.cist.sticky 5 = true ∧ t.cist.poisoned = s.cist.poisoned) ∧
          (∀ a, e = .uncorrectable a → t.cist.uncorrectable = s.cist.uncorrectable + 1 ∧ t.cist.lastAddress = a ∧
            bitOf t.cist.sticky 6 = true ∧ a / 64 * 64 ∈ t.cist.poisoned ∧ eventCount t = eventCount s + 1)) ∧
        t = { s with cist := { s.cist with
                scrubAddress := t.cist.scrubAddress, scrubPasses := t.cist.scrubPasses, corrected := t.cist.corrected,
                uncorrectable := t.cist.uncorrectable, lastAddress := t.cist.lastAddress, sticky := t.cist.sticky,
                poisoned := t.cist.poisoned, correctedAt := t.cist.correctedAt },
                     ecat := t.ecat, ev := t.ev, mbox := t.mbox }) ∧
  (∀ (e : Ecc) (s : State), (domainOn 15 s = false ∧ domainOn 16 s = false ∨ backgroundDeferred s = true) →
      exec (.scrubStep e) s = .next s) ∧
  (∀ (via : Path) (v : BitVec 16) (s : State), served via s = true →
      exec (.dramStatusClear via v) s = .next (answerWrite via 0 { s with cist := { s.cist with
        sticky := unstick s.cist.sticky v.toNat, trainingFailed := s.cist.trainingFailed && !bitOf v.toNat 8 } }))

/-- R230, R234, R238 and R241 for the control of a channel, with its frame. A KICK outside WAITING accepted without effect (log entry 110) and the progress of a stopped transfer (log entry 22, a free value) are the model's readings. -/
def Obligations.DmaControlStartsStopsAndKicks : Prop :=
  (∀ (via : Path) (ch : Fin 32) (s : State), served via s = true → ch.val < 16 →
      exec (.dmaStart via ch) s = .next (answerWrite via 0x08000022 s) ∧
      exec (.dmaStop via ch) s = .next (answerWrite via 0x08000022 s) ∧
      exec (.dmaKick via ch) s = .next (answerWrite via 0x08000022 s)) ∧
  (∀ (via : Path) (ch : Fin 32) (s : State), served via s = true → Shaped s = true → 16 ≤ ch.val →
      let c := chanOf ch s
      let a := val (Obj.DMA_CH_START ch) s
      ((c.state = .running ∨ c.state = .waiting ∨ imaging s = false) →
        exec (.dmaStart via ch) s = .next (answerWrite via 0x08000022 s)) ∧
      (c.state = .idle ∨ c.state = .stopped → imaging s = true → (a % 32 ≠ 0 ∨ inScratch a 32 s = false) →
        exec (.dmaStart via ch) s = .next (answerWrite via 0x08000020 s)) ∧
      (c.state = .idle ∨ c.state = .stopped → imaging s = true → a % 32 = 0 → inScratch a 32 s = true →
        ∃ t, exec (.dmaStart via ch) s = .next (answerWrite via 0 t) ∧
          chanOf ch t = { c with state := .running, current := a, fetching := true, desc := none } ∧
          (∀ j, j ≠ ch.val → chanOf j t = chanOf j s) ∧
          t = { s with cist := { s.cist with channels := t.cist.channels } }) ∧
      (c.state = .waiting → ∃ t, exec (.dmaKick via ch) s = .next (answerWrite via 0 t) ∧
          chanOf ch t = { c with state := .running, fetching := true } ∧ (∀ j, j ≠ ch.val → chanOf j t = chanOf j s) ∧
          t = { s with cist := { s.cist with channels := t.cist.channels } }) ∧
      (c.state ≠ .waiting → exec (.dmaKick via ch) s = .next (answerWrite via 0 s)) ∧
      (c.state = .idle ∨ c.state = .stopped → exec (.dmaStop via ch) s = .next (answerWrite via 0 s)) ∧
      (c.state = .waiting → ∃ t, exec (.dmaStop via ch) s = .next (answerWrite via 0 t) ∧
          chanOf ch t = { c with state := .stopped, fetching := false, desc := none } ∧
          (∀ j, j ≠ ch.val → chanOf j t = chanOf j s) ∧
          t = { s with cist := { s.cist with channels := t.cist.channels } }) ∧
      (∀ d, c.state = .running → c.desc = some d → d.bad = true →
        ∃ t, exec (.dmaStop via ch) s = .next (answerWrite via 0 t) ∧
          chanOf ch t = { c with state := .stopped, fetching := false, desc := none } ∧
          (∀ j, j ≠ ch.val → chanOf j t = chanOf j s) ∧
          t = { s with cist := { s.cist with channels := t.cist.channels } }) ∧
      (∀ d, c.state = .running → c.desc = some d → d.bad = false → inScratch (c.current + 16) 16 s = true →
        cisternOn c.current s = true → Memory.wf (scratchDefault s) s.cist.scratch = true →
        ∃ t, exec (.dmaStop via ch) s = .next (answerWrite via 0 t) ∧
          chanOf ch t = { c with state := .stopped, fetching := false, desc := none, badCount := (chanOf ch t).badCount,
                                 lastError := (chanOf ch t).lastError } ∧
          leNat (scratchRead (c.current + 20) 4 t) ≤ d.count ∧
          ((chanOf ch t).badCount = c.badCount → (chanOf ch t).lastError = c.lastError ∧
            scratchRead (c.current + 16) 16 t
              = backBytes (heldDescriptor c.current t) (leNat (scratchRead (c.current + 20) 4 t)) 0 true) ∧
          ((chanOf ch t).badCount ≠ c.badCount → (chanOf ch t).badCount = c.badCount + 1 ∧ bitOf t.cist.dmaStatus ch = true ∧
            scratchRead (c.current + 16) 16 t
              = backBytes (heldDescriptor c.current t) (leNat (scratchRead (c.current + 20) 4 t)) 2 false) ∧
          (sourceFault d .clean (spanOf d.srcBits d.count) s = none → d.dstAddr ≠ uploadPort →
            destFault d (spanOf d.dstBits d.count) s = none → (chanOf ch t).badCount = c.badCount) ∧
          ((∀ j < spanOf d.dstBits d.count + 64, dmaAddress d.dstAddr d.dstWrap d.dstInc j < c.current ∨
              c.current + 32 ≤ dmaAddress d.dstAddr d.dstWrap d.dstInc j) →
            backBytes (heldDescriptor c.current t) 0 0 true = backBytes (heldDescriptor c.current s) 0 0 true) ∧
          (∀ j, j ≠ ch.val → chanOf j t = chanOf j s) ∧
          t = { s with cist := t.cist, fresh := t.fresh, cmp := t.cmp, host := t.host, ecat := t.ecat, ev := t.ev,
                       mbox := t.mbox })) ∧
  (∀ (via : Path) (v : BitVec 32) (s : State), served via s = true →
      exec (.dmaStatusClear via v) s = .next (answerWrite via 0
        { s with cist := { s.cist with dmaStatus := unstick s.cist.dmaStatus v.toNat } }))

/-- R231, R234 to R238 for a fetch and for the end of a descriptor, with their frames. -/
def Obligations.DescriptorsAreFetchedAndMoved : Prop :=
  (∀ (ch : Fin 32) (e : Ecc) (s : State), (chanOf ch s).fetching = false →
      exec (.descriptorFetch ch e) s = .next s) ∧
  (∀ (ch : Fin 32) (s : State), Shaped s = true → (chanOf ch s).fetching = true →
      let c := chanOf ch s
      let d := Descriptor.ofBytes (scratchRead c.current 32 s)
      (inScratch c.current 32 s = true → cisternOn c.current s = true → poisonedIn c.current 32 s = [] →
        ∃ t, exec (.descriptorFetch ch .clean) s = .next t ∧
          chanOf ch t = { c with fetching := false, state := if d.own then .running else .waiting,
                                 desc := if d.own then some d else none } ∧
          (∀ j, j ≠ ch.val → chanOf j t = chanOf j s) ∧
          t = { s with cist := { s.cist with channels := t.cist.channels } }) ∧
      (inScratch c.current 32 s = false →
        ∃ t, exec (.descriptorFetch ch .clean) s = .next t ∧
          chanOf ch t = { c with state := .stopped, fetching := false, desc := none,
                                 lastError := c.current % 2 ^ 40 + 2 * 2 ^ 40 } ∧
          bitOf t.cist.dmaStatus ch = true ∧ eventCount t = eventCount s + 1 ∧
          (∀ j, j ≠ ch.val → chanOf j t = chanOf j s) ∧
          t = { s with cist := { s.cist with channels := t.cist.channels, dmaStatus := t.cist.dmaStatus },
                       ecat := t.ecat, ev := t.ev, mbox := t.mbox })) ∧
  (∀ (ch : Fin 32) (e : Ecc) (s : State), ((chanOf ch s).state ≠ .running ∨ (chanOf ch s).desc = none) →
      exec (.descriptorDone ch e) s = .next s) ∧
  (∀ (ch : Fin 32) (d : Descriptor) (s : State), Shaped s = true → (chanOf ch s).state = .running →
      (chanOf ch s).desc = some d → inScratch ((chanOf ch s).current + 16) 16 s = true →
      cisternOn (chanOf ch s).current s = true → Memory.wf (scratchDefault s) s.cist.scratch = true →
      let c := chanOf ch s
      let out := packElements d.dstBits ((sourceElements d d.count s).map (convertElement d.srcBits d.dstBits))
      (d.bad = false → sourceFault d .clean (spanOf d.srcBits d.count) s = none → d.dstAddr ≠ uploadPort →
        destFault d (spanOf d.dstBits d.count) s = none →
        ∃ t, exec (.descriptorDone ch .clean) s = .next t ∧
          scratchRead (c.current + 16) 16 t = backBytes (heldDescriptor c.current t) d.count 1 false ∧
          ((∀ j < out.length, dmaAddress d.dstAddr d.dstWrap d.dstInc j < c.current ∨
              c.current + 32 ≤ dmaAddress d.dstAddr d.dstWrap d.dstInc j) →
            backBytes (heldDescriptor c.current t) 0 0 true = backBytes (heldDescriptor c.current s) 0 0 true) ∧
          chanOf ch t = { c with
            state := if (heldDescriptor c.current t).last then .idle else .running, desc := none, doneCount := c.doneCount + 1,
            current := if (heldDescriptor c.current t).last then c.current else (heldDescriptor c.current t).nextAddr,
            fetching := c.fetching || !(heldDescriptor c.current t).last,
            notices := if d.notify then c.notices + 1 else c.notices } ∧
          (∀ j, j ≠ ch.val → chanOf j t = chanOf j s) ∧
          (d.dstInc = true → d.dstWrap = 0 →
            (d.dstAddr + out.length ≤ c.current + 16 ∨ c.current + 32 ≤ d.dstAddr) → scratchRead d.dstAddr out.length t = out) ∧
          (∀ a, (a < c.current + 16 ∨ c.current + 32 ≤ a) →
            (∀ j < out.length, a ≠ dmaAddress d.dstAddr d.dstWrap d.dstInc j) →
            cellGet (scratchDefault t) a t.cist.scratch = cellGet (scratchDefault s) a s.cist.scratch) ∧
          (∀ r, r ≠ rScratch → t.cist.highWater.getD r 0 = s.cist.highWater.getD r 0) ∧
          t = { s with cist := { s.cist with
                         channels := t.cist.channels, scratch := t.cist.scratch, poisoned := t.cist.poisoned,
                         highWater := t.cist.highWater },
                       host := t.host, ecat := t.ecat, ev := t.ev, mbox := t.mbox }) ∧
      (d.bad = true →
        ∃ t, exec (.descriptorDone ch .clean) s = .next t ∧
          scratchRead (c.current + 16) 16 t = backBytes (heldDescriptor c.current s) 0 3 false ∧ (chanOf ch t).badCount = c.badCount + 1 ∧
          (chanOf ch t).doneCount = c.doneCount ∧ bitOf t.cist.dmaStatus ch = true ∧
          (d.badNext = true → (chanOf ch t).state = .stopped) ∧
          (∀ j, j ≠ ch.val → chanOf j t = chanOf j s) ∧
          (∀ a, (a < c.current + 16 ∨ c.current + 32 ≤ a) →
            cellGet (scratchDefault t) a t.cist.scratch = cellGet (scratchDefault s) a s.cist.scratch) ∧
          (∀ r, r ≠ rScratch → t.cist.highWater.getD r 0 = s.cist.highWater.getD r 0) ∧
          t = { s with cist := { s.cist with
                         channels := t.cist.channels, scratch := t.cist.scratch, poisoned := t.cist.poisoned,
                         dmaStatus := t.cist.dmaStatus, highWater := t.cist.highWater },
                       host := t.host, ecat := t.ecat, ev := t.ev, mbox := t.mbox }))

/-- R245, R249, R253, R254, R256 and R31 for the opening and the end of a session, ARP and dropped frames. -/
def Obligations.SessionsOpenAndEnd : Prop :=
  let frame (l : Nat) (x : Sent) (s : State) : State := if (laneOf l s).pausedUntil = none
    then { s with host := { s.host with out := x :: s.host.out } }
    else modLane l (fun r => { r with delayed := r.delayed ++ [x] }) s
  (∀ (f : Frame) (mask : BitVec 16) (x : BitVec 8) (s : State), laneReceives f.lane s = true →
      (frameAddressed f s = true → f.lane = 0 → f.session ≠ 0 → s.host.session = 0 →
        (x.toNat = streamVal Obj.STREAM_ID s → lanesGranted mask.toNat s ≠ 0 →
          ∃ (t : State) (p : Packet), exec (.sessionOpen f mask x) s = .next t ∧ t.host.session = f.session.toNat ∧
            t.host.dataLanes = lanesGranted mask.toNat s ∧
            t.host.items.map (·.number) = List.range s.host.items.length ∧
            t.host.items.map (·.kind) = s.host.items.map (·.kind) ∧ t.host.nextItem = s.host.items.length ∧
            (∀ l ∈ t.host.lanes, l.creditLimit = 0 ∧ l.bytesSent = 0) ∧
            t.host.out = (if (laneOf 0 s).pausedUntil = none then .tsp p :: s.host.out else s.host.out) ∧
            (s.host.lanes.length = 16 → (laneOf 0 t).delayed =
              (if (laneOf 0 s).pausedUntil = none then (laneOf 0 s).delayed else (laneOf 0 s).delayed ++ [.tsp p])) ∧
            p.typ = 9 ∧ p.lane = 0 ∧ p.session = f.session.toNat ∧
            p.payload = ackPayload 0 t ∧ t.host.slots = s.host.slots ∧
            t = { s with dict := { s.dict with atSession := s.dict.held }, host := t.host }) ∧
        (x.toNat ≠ streamVal Obj.STREAM_ID s →
          ∃ p, exec (.sessionOpen f mask x) s = .next (frame 0 (.tsp p) s) ∧
            p.typ = 9 ∧ p.payload = ackPayload 2 s) ∧
        (x.toNat = streamVal Obj.STREAM_ID s → lanesGranted mask.toNat s = 0 →
          ∃ p, exec (.sessionOpen f mask x) s = .next (frame 0 (.tsp p) s) ∧
            p.typ = 9 ∧ p.payload = ackPayload 3 s)) ∧
      (frameAddressed f s = true → f.lane = 0 → f.session ≠ 0 → s.host.session ≠ 0 → s.host.session ≠ f.session.toNat →
        ∃ p, exec (.sessionOpen f mask x) s = .next (frame 0 (.tsp p) s) ∧
          p.typ = 9 ∧ p.payload = ackPayload 1 s) ∧
      ((frameAddressed f s = false ∨ f.lane ≠ 0 ∨ f.session = 0) →
        exec (.sessionOpen f mask x) s = .next (modLane f.lane (fun l => { l with rxDropped := l.rxDropped + 1 })
          { s with host := { s.host with sticky := stick 9 s.host.sticky } }))) ∧
  (∀ (f : Frame) (s : State), laneReceives f.lane s = true → frameInSession f s = true →
      s.modes.mode ∉ [.ready, .inline, .sheet] → s.modes.trans = none →
      ∃ t, exec (.sessionClose f) s = .next t ∧ t.host.session = 0 ∧ t.host.dataLanes = 0 ∧
        (∀ l ∈ t.host.lanes, l.creditLimit = 0 ∧ l.host = none) ∧
        t = { s with host := { s.host with
          session := 0, dataLanes := 0, heardAt := s.clk, lanes := t.host.lanes } }) ∧
  (∀ s : State, s.host.session ≠ 0 → s.modes.mode ∉ [.ready, .inline, .sheet] → s.modes.trans = none →
      ∃ t, exec .sessionTimeout s = .next t ∧ t.host.session = 0 ∧ eventCount t = eventCount s + 1 ∧
        (∀ l ∈ t.host.lanes, l.creditLimit = 0 ∧ l.host = none) ∧
        t = { s with host := { s.host with session := 0, dataLanes := 0, lanes := t.host.lanes },
                     ecat := t.ecat, ev := t.ev, mbox := t.mbox }) ∧
  (∀ (f : Frame) (s : State), laneReceives f.lane s = true → frameInSession f s = true → s.ecat.al ≠ 8 →
      s.modes.mode = .inline → s.modes.trans = none →
      exec (.sessionClose f) s = .next (startTransition ⟨.ready, true, false⟩ (clearSession (heard f s)))) ∧
  (∀ s : State, s.host.session = 0 → exec .sessionTimeout s = .next s) ∧
  (∀ (f : Frame) (typ : BitVec 8) (s : State), laneReceives f.lane s = true →
      (frameAddressed f s = false ∨ hostTyp typ.toNat = false ∨ typ ≠ 0x81 ∧ f.session.toNat ≠ s.host.session) →
      exec (.rxDropped f typ) s = .next (modLane f.lane (fun l => { l with rxDropped := l.rxDropped + 1 })
        { s with host := { s.host with sticky := stick 9 s.host.sticky } })) ∧
  (∀ (n : Fin 16) (a : BitVec 32) (s : State), laneReceives n s = true →
      (a.toNat = (streamVal Obj.DEVICE_IP s + n) % 2 ^ 32 → exec (.arpRequest n a) s =
        .next (frame n (.arp n a.toNat) s)) ∧
      (a.toNat ≠ (streamVal Obj.DEVICE_IP s + n) % 2 ^ 32 → exec (.arpRequest n a) s = .next s))

/-- R246, R256, R257, R260 and R278 for the rows named, with their frames. -/
def Obligations.CreditPauseAndLink : Prop :=
  (∀ (f : Frame) (mask : BitVec 16) (limits : List (BitVec 64)) (s : State), Shaped s = true →
      laneReceives f.lane s = true →
      (frameInSession f s = true →
        ∃ t, exec (.credit f mask limits) s = .next t ∧
          (∀ n < 16, laneOf n t = { laneOf n s with
            host := if n = f.lane then some (frameSource f) else (laneOf n s).host,
            creditLimit := if bitOf mask.toNat n = true ∧ bitOf s.host.dataLanes n = true
              then max (laneOf n s).creditLimit (limits.getD n 0).toNat else (laneOf n s).creditLimit }) ∧
          t = { s with host := { s.host with lanes := t.host.lanes, heardAt := s.clk } }) ∧
      (frameInSession f s = false →
        exec (.credit f mask limits) s = .next (modLane f.lane (fun l => { l with rxDropped := l.rxDropped + 1 })
          { s with host := { s.host with sticky := stick 9 s.host.sticky } }))) ∧
  (∀ (n : Fin 16) (q : BitVec 16) (s : State), Shaped s = true → laneReceives n s = true →
      ∃ t, exec (.pauseFrame n q) s = .next t ∧
        laneOf n t = { laneOf n s with
          pauseCount := (laneOf n s).pauseCount + 1,
          pausedUntil := if bitOf (val Obj.PAUSE_HONOUR s) n = false then (laneOf n s).pausedUntil
            else if q = 0 then none else some (s.clk + ceilDiv (512 * q.toNat) 10),
          delayed := if bitOf (val Obj.PAUSE_HONOUR s) n = true ∧ q = 0 then [] else (laneOf n s).delayed } ∧
        (∀ j, j ≠ n.val → laneOf j t = laneOf j s) ∧ t = { s with host := { s.host with
          lanes := t.host.lanes,
          out := if bitOf (val Obj.PAUSE_HONOUR s) n = true ∧ q = 0 then (laneOf n s).delayed.reverse ++ s.host.out
            else s.host.out } }) ∧
  (∀ (n : Fin 16) (s : State), Shaped s = true →
      (∃ t, exec (.pauseEnd n) s = .next t ∧ laneOf n t = { laneOf n s with pausedUntil := none, delayed := [] } ∧
        (∀ j, j ≠ n.val → laneOf j t = laneOf j s) ∧ t = { s with host := { s.host with
          lanes := t.host.lanes, out := (laneOf n s).delayed.reverse ++ s.host.out } }) ∧
      (laneOn n s = true → laneEnabled n s = true → s.pwr.pllLocked.getLsbD (5 + n.val / 8) = true →
        ∃ t, exec (.blockLockGained n) s = .next t ∧ laneOf n t = { laneOf n s with blockLock := true } ∧
          (∀ j, j ≠ n.val → laneOf j t = laneOf j s) ∧ t = { s with host := { s.host with lanes := t.host.lanes } }) ∧
      (∃ t, exec (.laneDown n) s = .next t ∧ laneOf n t = { laneOf n s with blockLock := false } ∧
        (∀ j, j ≠ n.val → laneOf j t = laneOf j s) ∧
        eventCount t = (if (laneOf n s).blockLock = true ∧ laneWaits n s = true then eventCount s + 1 else eventCount s) ∧
        t = { s with host := { s.host with lanes := t.host.lanes }, ecat := t.ecat, ev := t.ev, mbox := t.mbox })) ∧
  (∀ (dest : Nat × Nat × Nat) (s : State), s.host.session ≠ 0 → (laneOf 0 s).host = some dest →
      ∃ p, exec .statusSend s = .next (if (laneOf 0 s).pausedUntil = none
          then { s with host := { s.host with out := .tsp p :: s.host.out } }
          else modLane 0 (fun r => { r with delayed := r.delayed ++ [.tsp p] }) s) ∧
        p.typ = 7 ∧ p.lane = 0 ∧ p.payload = statusPayload s ∧ p.dstMac = dest.1 ∧ p.dstIp = dest.2.1 ∧
        p.dstPort = dest.2.2) ∧
  (∀ s : State, s.host.session = 0 → exec .statusSend s = .next s) ∧
  (∀ (via : Path) (v : BitVec 16) (s : State), served via s = true →
      exec (.streamStatusClear via v) s = .next (answerWrite via 0
        { s with host := { s.host with sticky := unstick s.host.sticky v.toNat } }))

/-- R244, R247, R250, R257, R265 and R266 for the sending of one item and of the stream end. -/
def Obligations.ItemsAreSent : Prop :=
  (∀ (n : Fin 16) (e : Ecc) (s : State), (nextOnLane n s = none ∨ ∃ i, nextOnLane n s = some i ∧ mayBegin n i s = false) →
      exec (.itemSend n e) s = .next s) ∧
  (∀ (n : Fin 16) (e : Ecc) (i : Item) (s : State), nextOnLane n s = some i → mayBegin n i s = true →
      ∃ t, exec (.itemSend n e) s = .next t ∧
        t.host.items = s.host.items.filter (fun x => decide (x.number ≠ i.number)) ∧ t.host.lastSent = i.number ∧
        t.host.nextItem = s.host.nextItem ∧
        t = { s with host := t.host, fresh := t.fresh, cist := t.cist, ecat := t.ecat, ev := t.ev, mbox := t.mbox }) ∧
  (∀ (n : Fin 16) (i : Item) (s : State), Shaped s = true → nextOnLane n s = some i → mayBegin n i s = true →
      s.cist.poisoned = [] → 0 < packetBytes s →
      ∃ (t : State) (ps : List Packet), exec (.itemSend n .clean) s = .next t ∧
        t.host.out = (ps.map Sent.tsp).reverse ++ s.host.out ∧
        ps.flatMap (·.payload) = itemBytes i s ∧
        (∀ p ∈ ps, p.lane = n ∧ p.typ = i.kind.typ ∧ p.item = i.number ∧ p.itemBytes = (itemBytes i s).length ∧
          p.payload.length ≤ packetBytes s ∧ some (p.dstMac, p.dstIp, p.dstPort) = (laneOf n s).host) ∧
        (∃ p, ps.head? = some p ∧ bitOf p.flags 0 = true ∧ p.offset = 0) ∧
        (∃ p, ps.getLast? = some p ∧ bitOf p.flags 1 = true) ∧
        laneOf n t = { laneOf n s with bytesSent := (laneOf n s).bytesSent + (itemBytes i s).length } ∧
        (∀ j, j ≠ n.val → laneOf j t = laneOf j s) ∧
        t = { s with host := { s.host with
          out := t.host.out, items := t.host.items, lastSent := i.number, lanes := t.host.lanes, slots := t.host.slots } }) ∧
  (∀ (n : Fin 16) (u a : Nat) (l : LineSlot) (i : Item) (s : State), Shaped s = true → nextOnLane n s = some i →
      mayBegin n i s = true → i.kind = .line u → slotOf u s = some l → 32 ≤ packetBytes s →
      poisonedIn (slotAddress l.spill l.place s) (itemSize i s) s = [] →
      ∃ (t : State) (p : Packet), exec (.itemSend n (.uncorrectable a)) s = .next t ∧ t.host.out = .tsp p :: s.host.out ∧ p.typ = 4 ∧
        p.item = i.number ∧ p.payload = gapRecord 4 1 l.page l.y l.y 1 ∧ t.cist.dataLost = s.cist.dataLost + 1) ∧
  (∀ s : State, (s.host.endDue = none ∨ s.host.session = 0 ∨ (laneOf 0 s).host = none ∨ (laneOf 0 s).pausedUntil ≠ none ∨
      (laneOf 0 s).blockLock = false ∨ laneOn 0 s = false) → exec .streamEnd s = .next s) ∧
  (∀ (k time : Nat) (s : State), Shaped s = true → s.host.endDue = some (k, time) → s.host.session ≠ 0 →
      (laneOf 0 s).host.isSome = true → (laneOf 0 s).pausedUntil = none → (laneOf 0 s).blockLock = true → laneOn 0 s = true →
      32 ≤ packetBytes s →
      ∃ (t : State) (p : Packet), exec .streamEnd s = .next t ∧ t.host.out = .tsp p :: s.host.out ∧ p.typ = 6 ∧ p.lane = 0 ∧
        p.item = s.host.nextItem ∧ p.payload = streamEndRecord k s.host.lastSent time ∧
        t.host.nextItem = s.host.nextItem + 1 ∧ t.host.endDue = none ∧ (∀ j, j ≠ 0 → laneOf j t = laneOf j s) ∧
        t = { s with host := { s.host with
          out := t.host.out, nextItem := t.host.nextItem, endDue := none, lanes := t.host.lanes } })

/-- R274 to R277 with the checks of R324 and R328: each request, its answer and its frame. -/
def Obligations.TspRequests : Prop :=
  let answered (f : Frame) (typ code : Nat) (data : List Byte) (s t : State) : Prop :=
    ∃ p, (if (laneOf f.lane s).pausedUntil = none then t.host.out = .tsp p :: s.host.out
        else t.host.out = s.host.out ∧ (laneOf f.lane t).delayed = (laneOf f.lane s).delayed ++ [.tsp p]) ∧ p.typ = 8 ∧ p.lane = f.lane ∧ p.item = f.item.toNat ∧
      p.payload = responsePayload code typ data ∧ (laneOf f.lane t).answers.head? = some (f.item.toNat, p)
  (∀ (f : Frame) (s : State), Shaped s = true → requestServed f s = true →
    let u := heard f s
    (∀ index sub : Nat, let x := readObject index sub u
      ∃ t, exec (.read f index sub) s = .next t ∧
        (x.1 ≠ 0 → answered f 0x84 x.1 [] s t) ∧
        (x.1 = 0 → x.2.1.length ≤ responseRoom s → answered f 0x84 0 x.2.1 s t) ∧
        (x.1 = 0 → responseRoom s < x.2.1.length → answered f 0x84 0x05040001 [] s t) ∧
        t = { s with fresh := t.fresh, pins := { s.pins with links := t.pins.links }, dict := { s.dict with reply := t.dict.reply }, host := t.host }) ∧
    (∀ (index sub : Nat) (data : List Byte) (r : Row),
      (findRow index sub = some r → r.acc = .ro →
        ∃ t, exec (.write f index sub data) s = .next t ∧ answered f 0x84 0x06010002 [] s t ∧
          t = { s with dict := { s.dict with reply := t.dict.reply }, host := t.host }) ∧
      (PlainWrite index sub r (leNat data) u → hasEffect (objKey index sub) = false → data.length = r.ty.size →
        ∃ t, exec (.write f index sub data) s = .next t ∧ answered f 0x84 0 [] s t ∧
          sparseGet (objKey index sub) (keyDefault (objKey index sub)) t.dict.held = leNat data ∧
          (∀ k d, k ≠ objKey index sub → sparseGet k d t.dict.held = sparseGet k d s.dict.held) ∧
          t = { s with dict := { s.dict with reply := t.dict.reply, held := t.dict.held }, host := t.host,
                       cfg := if keyInSets (objKey index sub) then (noteWrite s).cfg else s.cfg })) ∧
    (∀ index sub offset len : Nat, let x := readObject index sub u
      (x.1 = 0 → isDomain index sub = true →
        ∃ t, exec (.readSegment f index sub 0 len) s = .next t ∧
          answered f 0x84 0 (x.2.1.take (min len (responseRoom s))) s t ∧
          t = { s with fresh := t.fresh, pins := { s.pins with links := t.pins.links }, dict := { s.dict with reply := t.dict.reply }, host := t.host }) ∧
      (0 < offset → isBank index = false → (laneOf f.lane s).up = none →
        ∃ t, exec (.readSegment f index sub offset len) s = .next t ∧
          answered f 0x84 (if accessOf index sub ≠ 0 then accessOf index sub
            else if isDomain index sub = true then 0x05030000 else 0x05040001) [] s t ∧
          t = { s with dict := { s.dict with reply := t.dict.reply }, host := t.host })) ∧
    (∀ (index sub offset : Nat) (data : List Byte) (final : Bool), isDomain index sub = true → isBank index = false →
      index ≠ 0x2E70 → accessRefusal index sub (offset + data.length) u = none →
      (downloadSoFar f.lane index sub offset u = none →
        ∃ t, exec (.writeSegment f index sub offset data final) s = .next t ∧ answered f 0x84 0x05030000 [] s t ∧
          t = { s with dict := { s.dict with reply := t.dict.reply }, host := t.host }) ∧
      (∀ got, downloadSoFar f.lane index sub offset u = some got →
        ∃ t, exec (.writeSegment f index sub offset data false) s = .next t ∧ answered f 0x84 0 [] s t ∧
          (laneOf f.lane t).down = some (index, sub, got ++ data) ∧
          t = { s with dict := { s.dict with reply := t.dict.reply }, host := t.host })) ∧
    (∀ (offset : Nat) (data : List Byte), let a := regionBase rScratch s + offset
      (imaging s = true → inScratch a data.length s = true → s.cist.poisoned = [] →
        Memory.wf (scratchDefault s) s.cist.scratch = true →
        ∃ t, exec (.scratchWrite f offset data .clean) s = .next t ∧ answered f 0x85 0 [] s t ∧
          scratchRead a data.length t = data ∧
          (∀ b, (b < a ∨ a + data.length ≤ b) →
            cellGet (scratchDefault t) b t.cist.scratch = cellGet (scratchDefault s) b s.cist.scratch) ∧
          t = { s with cist := { s.cist with
                         scratch := t.cist.scratch,
                         highWater := if data = [] then s.cist.highWater
                           else modifyAt (fun n => max n (offset + data.length)) rScratch s.cist.highWater },
                       host := t.host }) ∧
      (imaging s = true → inScratch a data.length s = false →
        ∃ t, exec (.scratchWrite f offset data .clean) s = .next t ∧ answered f 0x85 0x06090030 [] s t ∧
          t = { s with host := t.host }) ∧
      (imaging s = false →
        ∃ t, exec (.scratchWrite f offset data .clean) s = .next t ∧ answered f 0x85 0x08000022 [] s t ∧
          t = { s with host := t.host })) ∧
    (∀ offset len : Nat, let a := regionBase rScratch s + offset
      (imaging s = true → inScratch a len s = true → len ≤ responseRoom s → s.cist.poisoned = [] →
        ∃ t, exec (.scratchRead f offset len .clean) s = .next t ∧ answered f 0x86 0 (scratchRead a len s) s t ∧
          t = { s with host := t.host }) ∧
      (imaging s = true → inScratch a len s = false →
        ∃ t, exec (.scratchRead f offset len .clean) s = .next t ∧ answered f 0x86 0x06090030 [] s t ∧
          t = { s with host := t.host })) ∧
    (∀ (offset : Nat) (data : List Byte),
      (imaging s = false →
        ∃ t, exec (.reference f offset data) s = .next t ∧ answered f 0x87 0x08000022 [] s t ∧ t = { s with host := t.host }) ∧
      (imaging s = true → s.cmp.upload.isSome = true → offset ≠ uploadBytes s →
        ∃ t, exec (.reference f offset data) s = .next t ∧ answered f 0x87 0x05030000 [] s t ∧ t = { s with host := t.host }) ∧
      (imaging s = true → s.cmp.upload.isSome = true → offset = uploadBytes s →
        ∃ t, exec (.reference f offset data) s = .next t ∧ answered f 0x87 0 [] s t ∧
          t.cmp = (appendUpload data u).2.cmp ∧
          t = { s with host := t.host, cmp := t.cmp, cist := t.cist, ecat := t.ecat, ev := t.ev, mbox := t.mbox }))) ∧
  (∀ (f : Frame) (a : Nat × Packet) (index sub : Nat) (s : State), Shaped s = true → laneReceives f.lane s = true →
      frameInSession f s = true →
      (laneOf f.lane s).answers.find? (fun x => decide (x.1 = f.item.toNat)) = some a →
      ∃ (t : State) (p : Packet), exec (.read f index sub) s = .next t ∧
        (if (laneOf f.lane s).pausedUntil = none then t.host.out = .tsp p :: s.host.out
          else t.host.out = s.host.out ∧ (laneOf f.lane t).delayed = (laneOf f.lane s).delayed ++ [.tsp p]) ∧ p.payload = a.2.payload ∧
        t = { s with host := t.host } ∧ (laneOf f.lane t).answers = (laneOf f.lane s).answers)

/-- R267, R268 and R270 to R273 for the rows of the Weir and the restart, with their frames. The model's readings in it are log entries 28, 46 and 113. -/
def Obligations.WeirStopsAndRestarts : Prop :=
  (∀ s : State, s.modes.mode ≠ .sheet → exec .weirEvaluate s = .next s ∧ exec .restartBegin s = .next s) ∧
  (∀ s : State, s.modes.mode = .sheet → s.host.stopped = false → (s.host.restart.phase = .none ∨ s.host.restart.phase = .formed) →
      val Obj.WEIR_LOW s < val Obj.WEIR_HIGH s →
      let low : Int := val Obj.WEIR_LOW s
      let high : Int := val Obj.WEIR_HIGH s
      let f := Frac.mk' (100 * slotsHeld s) (slotsTotal s)
      let nominal := Frac.ofNat (val Obj.TRANSPORT_SPEED_NOM s)
      let least := Frac.mk' (val Obj.WEIR_MIN_SPEED s) 100
      (100 * slotsHeld s ≤ val Obj.WEIR_LOW s * slotsTotal s → 0 < slotsTotal s →
        exec .weirEvaluate s = .next { s with host := { s.host with request := nominal, weir := .fullSpeed } }) ∧
      (val Obj.WEIR_LOW s * slotsTotal s < 100 * slotsHeld s → 100 * slotsHeld s < val Obj.WEIR_HIGH s * slotsTotal s →
        exec .weirEvaluate s = .next { s with host := { s.host with
          weir := .slowing,
          request := nominal.mul (Frac.one.sub ((Frac.one.sub least).mul
            ((f.sub (Frac.ofInt low)).div (Frac.ofInt (high - low))))) } }) ∧
      (val Obj.WEIR_HIGH s * slotsTotal s ≤ 100 * slotsHeld s →
        exec .weirEvaluate s = .next { s with
          host := { s.host with stopped := true, weir := .stopping, request := Frac.zero, restart := Restart.reset },
          mot := { s.mot with transport := { s.mot.transport with standstill := true, moveWaits := false } } })) ∧
  (∀ s : State, s.modes.mode = .sheet → s.modes.trans = none → s.host.stopped = true → groupStands s = true → holding s = false →
      captureRuns s = false →
      (s.host.restart.phase = .none → s.host.weir = .stopped →
        100 * slotsHeld s ≤ val Obj.WEIR_RESUME s * slotsTotal s →
        ∃ t, exec .restartBegin s = .next t ∧ t.host.restart.phase = .backup ∧ t.host.restart.attempts = 1 ∧
          t.host.restart.lines = [] ∧ t.host.weir = .restarting ∧
          (∀ l, s.host.overlap.head? = some l → t.host.restart.yc = l.y ∧ t.host.restart.page = l.page ∧
            t.host.restart.pageLine = l.pageLine) ∧
          t = { s with host := { s.host with weir := .restarting, restart := t.host.restart },
                       mot := { s.mot with transport := t.mot.transport } }) ∧
      (s.host.restart.phase = .again →
        ∃ t, exec .restartBegin s = .next t ∧
          t.host.restart = { s.host.restart with phase := .backup, attempts := s.host.restart.attempts + 1, lines := [] } ∧
          t = { s with host := { s.host with restart := t.host.restart },
                       mot := { s.mot with transport := t.mot.transport } })) ∧
  (∀ s : State, s.host.restart.phase ≠ .backup → exec .backupTargetReached s = .next s) ∧
  (∀ s : State, s.host.restart.phase = .backup → s.modes.trans = none → s.mot.transport.moveWaits = false → s.mot.transport.move = .none →
      groupStands s = true →
      ∃ t, exec .backupTargetReached s = .next t ∧ t.tim.armed = true ∧ t.pipe.stage6 = [] ∧ t.pipe.afterBreak = true ∧
        t.host.restart.lines = [] ∧ t.host.restart.phase = (if matchPossible s = true then .speculative else .unmatched) ∧
        t.host.unmatched = (if matchPossible s = true then s.host.unmatched else s.host.unmatched + 1) ∧
        t.host.nextItem = (if matchPossible s = true then s.host.nextItem else s.host.nextItem + 1) ∧
        t = { s with tim := t.tim, pipe := t.pipe, host := t.host, cist := t.cist, ecat := t.ecat, ev := t.ev,
                     mbox := t.mbox }) ∧
  (∀ s : State, (s.host.restart.phase ≠ .speculative ∨
        s.host.restart.lines.length ≤ (decideMatch s).j0 + val Obj.RESTART_SEARCH s + 63) →
      exec .restartDecision s = .next s) ∧
  (∀ (k q : Nat) (s : State), s.host.restart.phase = .speculative →
      (decideMatch s).j0 + val Obj.RESTART_SEARCH s + 63 < s.host.restart.lines.length →
      k = (decideMatch s).u.floor.toNat →
      q = (((decideMatch s).u.sub (Frac.ofInt (decideMatch s).u.floor)).mul (Frac.ofNat 64)).round.toNat → q < 64 →
      (∀ l ∈ s.host.restart.lines, speculativeLost l s = false) →
      ∃ (t : State) (ls : List LineSlot) (v : State) (b : List Byte), exec .restartDecision s = .next t ∧
        (let w := ls.foldl (fun x l => commitSpeculative l x) v
         t = { w with ecat := t.ecat, ev := t.ev, mbox := t.mbox }) ∧
        (∀ l ∈ ls, bitOf l.flags 5 = true ∧ bitOf l.flags 3 = false) ∧
        ls.length ≤ s.host.restart.lines.length - 3 - k ∧ (∃ place, v.host.items = s.host.items ++ [⟨s.host.nextItem, .restart b, place⟩]) ∧
        v.host.nextItem = s.host.nextItem + 1 ∧ v.host.stopped = s.host.stopped ∧ v.host.restarts = s.host.restarts + 1 ∧
        v.host.lastResult = (decideMatch s).result ∧
        v.host.restart = { s.host.restart with
          phase := .formed, lines := [], phiQ := q, m := s.host.restart.lines.length - 3 - k + 1,
          skip := k + 3 - s.host.restart.lines.length,
          epsilon := -(roundDiv (256 * (val Obj.LINE_DIVIDER s : Int) * (128 - q)) 64) } ∧
        v = { s with host := v.host, cist := { s.cist with highWater := v.cist.highWater, poisoned := v.cist.poisoned },
                     ev := { s.ev with held := some [] } }) ∧
  (∀ s : State, (s.host.restart.phase ≠ .speculative ∨ s.host.restart.lines.length < slotsIn rSpeculative s) →
      exec .restartAttemptFailed s = .next s) ∧
  (∀ s : State, s.host.restart.phase = .speculative → slotsIn rSpeculative s ≤ s.host.restart.lines.length →
      ∃ t, exec .restartAttemptFailed s = .next t ∧ t.host.restart.lines = [] ∧
        (s.host.restart.attempts ≤ val Obj.RESTART_RETRIES s →
          t.host.restart.phase = .again ∧ t.tim.armed = false ∧ t.mot.transport.standstill = true) ∧
        (val Obj.RESTART_RETRIES s < s.host.restart.attempts →
          t.host.restart.phase = .unmatched ∧ t.host.unmatched = s.host.unmatched + 1 ∧
          bitOf t.host.sticky 7 = true ∧ t.host.restart.epsilon = 0) ∧
        t = { s with tim := t.tim, pipe := t.pipe, mot := { s.mot with transport := t.mot.transport }, host := t.host,
                     cist := t.cist, ecat := t.ecat, ev := t.ev, mbox := t.mbox })

/-- R289, R291, R292, R296 and R317: the refusals of axis commands, AXIS_POSITION and the sticky bits, with their frames. -/
def Obligations.AxisCommandsAreRefused : Prop :=
  (∀ (via : Path) (a : Fin 6) (s : State), served via s = true →
      let x := axisOf a s
      let refused (c : Instr) : Prop := exec c s = .next (answerWrite via 0x08000022 s)
      ((axisEnabled a s = false ∨ s.modes.mode = .fault ∨ x.owner = .pacer ∨ x.owner = .capture) →
        ∀ c ∈ [Instr.moveAbs via a, .moveRel via a, .velocity via a, .stop via a, .home via a, .runList via a, .follow via a,
          .energise via a, .deEnergise via a, .clearError via a], refused c) ∧
      ((mstopActive s = true ∨ x.state = .error) →
        ∀ c ∈ [Instr.moveAbs via a, .moveRel via a, .velocity via a, .stop via a, .home via a, .runList via a, .follow via a,
          .energise via a, .deEnergise via a], refused c) ∧
      ((x.owner = .list ∨ x.owner = .follow) →
        ∀ c ∈ [Instr.moveAbs via a, .moveRel via a, .velocity via a, .home via a, .runList via a, .follow via a,
          .energise via a, .deEnergise via a, .clearError via a], refused c) ∧
      (x.moving = true → ∀ c ∈ [Instr.home via a, .runList via a, .follow via a, .deEnergise via a], refused c) ∧
      (x.emergency = true → ∀ c ∈ [Instr.moveAbs via a, .moveRel via a, .velocity via a, .stop via a], refused c) ∧
      (commandRefused a .runList s = false → segListOk a s = false →
        exec (.runList via a) s = .next (answerWrite via 0x08000020 s))) ∧
  (∀ (via : Path) (a : Fin 6) (v : BitVec 32) (s : State), served via s = true → Shaped s = true →
      ((axisOf a s).owner ≠ .host ∨ (axisOf a s).moving = true →
        exec (.axisPositionWrite via a v) s = .next (answerWrite via 0x08000022 s)) ∧
      ((axisOf a s).owner = .host → (axisOf a s).moving = false →
        ∃ t, exec (.axisPositionWrite via a v) s = .next (answerWrite via 0 t) ∧
          axisOf a t = { axisOf a s with pos := v.toInt, referenced := true } ∧
          (∀ j, j ≠ a.val → axisOf j t = axisOf j s) ∧ t = { s with mot := { s.mot with axes := t.mot.axes } })) ∧
  (∀ (via : Path) (v : BitVec 16) (a : Fin 6) (s : State), served via s = true → Shaped s = true →
      exec (.motionStatusClear via v) s = .next (answerWrite via 0
        { s with mot := { s.mot with sticky := unstick s.mot.sticky v.toNat } }) ∧
      (∃ t, exec (.axisStatusClear via a v) s = .next (answerWrite via 0 t) ∧
        axisOf a t = { axisOf a s with sticky := unstick (axisOf a s).sticky v.toNat } ∧
        (∀ j, j ≠ a.val → axisOf j t = axisOf j s) ∧ t = { s with mot := { s.mot with axes := t.mot.axes } }))

/-- R290, R294, R300, R306 to R309: the accepted commands of Table 11.6, with their frames. The base of MOVE_REL while VELOCITY or HOME runs (log entry 114) and the current of an axis energised by a command (log entry 37) are the model's readings. -/
def Obligations.AxisCommandsAct : Prop :=
  (∀ (via : Path) (a : Fin 6) (s : State), served via s = true → Shaped s = true → axisEnabled a s = true →
      s.modes.mode ≠ .fault → (axisOf a s).owner = .host →
      let x := axisOf a s
      let only (t : State) : Prop := (∀ j, j ≠ a.val → axisOf j t = axisOf j s) ∧
        t = { s with mot := { s.mot with axes := t.mot.axes } }
      let moves (c : Instr) (task : AxisTask) (target : Option Int) (goal : AxisGoal) : Prop :=
        ∃ t, exec c s = .next (answerWrite via 0 t) ∧ only t ∧ (axisOf a t).goal = some goal ∧ (axisOf a t).task = task ∧
          (axisOf a t).target = target ∧ (axisOf a t).state = .moving ∧ (axisOf a t).pos = x.pos ∧
          (axisOf a t).referenced = x.referenced ∧ (axisOf a t).owner = .host ∧
          (x.state = .off ∨ x.state = .parked → (axisOf a t).energised = true)
      let speed := val (Obj.MOVE_SPEED a) s
      let accel := val (Obj.MOVE_ACCEL a) s
      let shape := val (Obj.RAMP_SHAPE a) s
      (∃ t, exec (.clearError via a) s = .next (answerWrite via 0 t) ∧ only t ∧
        axisOf a t = { x with sticky := 0, state := if x.state = .error then .off else x.state }) ∧
      (mstopActive s = false → x.state ≠ .error → x.state ≠ .disabled → x.emergency = false → x.stopRamp = false →
        (let dest := sval 32 (Obj.AXIS_TARGET a) s
         moves (.moveAbs via a) .move (some dest) (.moveTo dest speed accel shape)) ∧
        (let dest := wrap32 ((if x.moving = true then x.target.getD x.pos else x.pos) + sval 32 (Obj.AXIS_TARGET a) s)
         moves (.moveRel via a) .move (some dest) (.moveTo dest speed accel shape)) ∧
        moves (.velocity via a) .velocity none (.run (Frac.ofInt (sval 32 (Obj.JOG_VELOCITY a) s)) accel shape) ∧
        (x.state = .off → ∃ t, exec (.energise via a) s = .next (answerWrite via 0 t) ∧ only t ∧
          axisOf a t = { x with state := .holding, energised := true, stillSince := some s.clk, holdDelayOver := false,
                                currentTarget := 100 * val (Obj.HOLD_CURRENT a) s }) ∧
        (x.state = .parked → ∃ t, exec (.energise via a) s = .next (answerWrite via 0 t) ∧ only t ∧
          (axisOf a t).state = .holding ∧ (axisOf a t).energised = true ∧ (axisOf a t).referenced = x.referenced ∧
          (axisOf a t).fade = some (0, 100 * val (Obj.HOLD_CURRENT a) s, 100 * val (Obj.PARK_FADE a) s, 0)) ∧
        (x.state = .holding → x.parkAfterFade = false → exec (.energise via a) s = .next (answerWrite via 0 s)) ∧
        (x.moving = true → x.link = none → x.seg.live = false → groupAxes a s = [a.val] →
          ∃ t, exec (.stop via a) s = .next (answerWrite via 0 t) ∧ only t ∧
            axisOf a t = { x with goal := some (.halt accel shape), target := none, state := .stopping, stopRamp := true,
                                  task := .none }) ∧
        (x.moving = false →
          (let v := sval 32 (Obj.HOME_VELOCITY a) s
           if x.mref = true then moves (.home via a) (.home 1 s.clk) none (.run (Frac.ofInt (-v)) accel shape)
           else moves (.home via a) (.home 2 s.clk) none (.run (Frac.ofInt v) accel shape)) ∧
          (segListOk a s = true → ∃ t, exec (.runList via a) s = .next (answerWrite via 0 t) ∧ only t ∧
            (axisOf a t).owner = .list ∧ (axisOf a t).seg = { SegList.reset with
              state := .running, words := segWords a s, budget := 16, speed := speed, accel := accel, shape := shape,
              notifyLast := x.seg.notifyLast, replans := x.seg.replans }) ∧
          (∃ t, exec (.follow via a) s = .next (answerWrite via 0 t) ∧ only t ∧ (axisOf a t).owner = .follow ∧
            (axisOf a t).followTarget = x.pos ∧ (axisOf a t).followEdge = none ∧ (axisOf a t).pos = x.pos) ∧
          (x.state = .holding → x.parkAfterFade = false → val (Obj.RETAIN_MODE a) s = 0 →
            ∃ t, exec (.deEnergise via a) s = .next (answerWrite via 0 t) ∧ only t ∧ (axisOf a t).state = .off ∧
              (axisOf a t).energised = false ∧ (axisOf a t).referenced = false ∧ (axisOf a t).current = 0 ∧
              (axisOf a t).pos = x.pos) ∧
          (x.state = .holding → x.parkAfterFade = false → val (Obj.RETAIN_MODE a) s ≠ 0 → parkPosition x.pos = x.pos →
            ∃ t, exec (.deEnergise via a) s = .next (answerWrite via 0 t) ∧ only t ∧ (axisOf a t).parkAfterFade = true ∧
              (axisOf a t).fade = some (x.current, 0, 100 * val (Obj.PARK_FADE a) s, 0)))))

/-- R283, R284, R304, R306 and R316 for one update period, with its frame. -/
def Obligations.AxisUpdateMoves : Prop :=
  (∀ (a : Fin 6) (s : State), ∃ t, exec (.axisUpdate a) s = .next t ∧
      t = { s with pwr := { s.pwr with gov := t.pwr.gov }, mbox := t.mbox,
                   mot := { s.mot with axes := t.mot.axes, transport := t.mot.transport, sticky := t.mot.sticky } }) ∧
  (∀ (a : Fin 6) (s : State), mcRuns s = false → ∃ t, exec (.axisUpdate a) s = .next t ∧
      t = { s with pwr := { s.pwr with gov := t.pwr.gov } }) ∧
  (∀ (a : Fin 6) (v : Frac) (s : State), Shaped s = true → mcRuns s = true → s.mot.transport.owns = false →
      (axisOf a s).owner = .host → (axisOf a s).state = .moving → (axisOf a s).link = none →
      (∀ b < 6, (axisOf b s).link = none) → (axisOf a s).goal = none → (axisOf a s).blending = none →
      (axisOf a s).profile.parts = [⟨[.hold v], none⟩] → (axisOf a s).captureNext = none → (axisOf a s).seg.live = false →
      (axisOf a s).fade = none → decide (0 ≤ v.num) = (axisOf a s).forward →
      let x := axisOf a s
      let n : Int := ((x.acc + 1000 * x.vw) / 2 ^ 48 : Nat)
      ∃ t, exec (.axisUpdate a) s = .next t ∧ (axisOf a t).acc = (x.acc + 1000 * x.vw) % 2 ^ 48 ∧
        (axisOf a t).pos = wrap32 (if x.forward = true then x.pos + n else x.pos - n) ∧
        (axisOf a t).vw = velocityWord v ∧ (axisOf a t).state = .moving ∧ (axisOf a t).forward = x.forward ∧
        (∀ j, j ≠ a.val → axisOf j t = axisOf j s)) ∧
  (∀ (a : Fin 6) (s : State), Shaped s = true → mcRuns s = true → s.mot.transport.owns = false →
      (axisOf a s).owner = .host → (axisOf a s).moving = false → (axisOf a s).link = none →
      (axisOf a s).captureNext = none → (axisOf a s).seg.live = false → (axisOf a s).energised = false →
      ∃ t, exec (.axisUpdate a) s = .next t ∧ t = { s with pwr := { s.pwr with gov := t.pwr.gov } })

/-- R281, R301, R302, R303, R305, R308 and R316: protection, load, stall and watchdogs, with their frames. The first LOAD_ESTIMATE that only notes currents (log entry 51) and the chopper tick and dead time in ns (log entry 115) are the model's choices. -/
def Obligations.MotionProtectionAndStall : Prop :=
  (∀ (a : Fin 6) (target i : Int) (c : ChopCycle) (s : State),
      let t := chopStep a target i s c
      let off := 100 * val (Obj.CHOP_OFF_TIME a) s
      let blanked := c.age + 1 < val (Obj.CHOP_BLANK a) s
      -- a target of the other sign takes effect at the next on-phase
      let goal := if target.sign = c.dir then target else c.goal
      (target = 0 → t.dir = 0 ∧ t.high = (false, false)) ∧
      (target ≠ 0 → c.dir = 0 → t.dir = target.sign ∧ t.goal = target ∧ t.on = true ∧ t.age = 0) ∧
      (target ≠ 0 → c.dir ≠ 0 → c.on = true → t.goal = goal ∧
        (¬ blanked → goal.natAbs ≤ i.natAbs → t.on = false ∧ t.age = 0 ∧ t.dir = c.dir) ∧
        (64 * off ≤ c.age + 1 → t.on = false ∧ t.age = 0 ∧ t.dir = c.dir) ∧
        ((blanked ∨ i.natAbs < goal.natAbs) → c.age + 1 < 64 * off → t.on = true ∧ t.age = c.age + 1 ∧ t.dir = c.dir)) ∧
      (target ≠ 0 → c.dir ≠ 0 → c.on = false →
        (off ≤ c.age + 1 → t.on = true ∧ t.age = 0 ∧ t.dir = target.sign ∧ t.goal = target) ∧
        (c.age + 1 < off → t.on = false ∧ t.age = c.age + 1 ∧ t.dir = c.dir)) ∧
      (t.on = true → t.high = (decide (t.dir = 1), decide (t.dir = -1))) ∧
      (t.on = false → t.dir ≠ 0 → 100 * t.age < val (Obj.CHOP_FAST_FRACTION a) s * off →
        t.high = (decide (t.dir = -1), decide (t.dir = 1))) ∧
      (t.on = false → val (Obj.CHOP_FAST_FRACTION a) s * off ≤ 100 * t.age → t.high = (false, false)) ∧
      t.since.1 = (if t.high.1 = c.high.1 then c.since.1 + 1 else 0) ∧
      t.since.2 = (if t.high.2 = c.high.2 then c.since.2 + 1 else 0)) ∧
  (∀ (a : Fin 6) (s : State),
      ((axisOf a s).energised = false → ∀ g ∈ axisGates a s, g = (false, false)) ∧
      (∀ g ∈ axisGates a s, g ≠ (true, true)) ∧
      ((axisOf a s).energised = true →
        let gates (high : Bool) (since : Nat) : Bool × Bool :=
          if since < valReady (Obj.DEAD_TIME a) s then (false, false) else (high, !high)
        let x := (axisOf a s).chopA
        let y := (axisOf a s).chopB
        axisGates a s = [gates x.high.1 x.since.1, gates x.high.2 x.since.2, gates y.high.1 y.since.1, gates y.high.2 y.since.2])) ∧
  (∀ (a : Fin 6) (s : State), Shaped s = true → domainOn 3 s = true → (axisOf a s).energised = true →
      let failed (bit : Nat) (t : State) : Prop :=
        (axisOf a t).state = .error ∧ (axisOf a t).energised = false ∧ (axisOf a t).current = 0 ∧ (axisOf a t).vw = 0 ∧
          (axisOf a t).referenced = false ∧ (axisOf a t).sticky = stick bit (axisOf a s).sticky ∧
          (axisOf a t).errorCount = (axisOf a s).errorCount + 1 ∧ (axisOf a t).pos = (axisOf a s).pos ∧
          bitOf t.mot.sticky 5 = true ∧ eventCount t = eventCount s + 1 ∧
          ((axisOf a s).seg.live = false → groupAxes a s = [a.val] → ∀ j, j ≠ a.val → axisOf j t = axisOf j s) ∧
          t = { s with mot := { s.mot with axes := t.mot.axes, sticky := t.mot.sticky },
                       ecat := t.ecat, ev := t.ev, mbox := t.mbox }
      (∃ t, exec (.vdsOvercurrent a) s = .next t ∧ failed 9 t) ∧
      ((axisSpeed a s).lt (Frac.ofNat (val (Obj.LOAD_MIN_SPEED a) s)) = true →
        val (Obj.RUN_CURRENT_BASE a) s * valReady (Obj.SENSE_RESISTANCE a) s * 4096 ≤ 4 * (phaseTargets a s).1.natAbs * 200000 ∨
          val (Obj.RUN_CURRENT_BASE a) s * valReady (Obj.SENSE_RESISTANCE a) s * 4096 ≤ 4 * (phaseTargets a s).2.natAbs * 200000 →
        ∃ t, exec (.openCoil a) s = .next t ∧ failed 10 t)) ∧
  (∀ (a : Fin 6) (s : State), (domainOn 3 s = false ∨ (axisOf a s).energised = false) →
      exec (.vdsOvercurrent a) s = .next s ∧ exec (.openCoil a) s = .next s) ∧
  (∀ s : State, Shaped s = true → domainOn 3 s = true → s.mot.gateUv = false →
      ∃ t, exec .gateUndervoltage s = .next t ∧ t.mot.gateUv = true ∧ eventCount t = eventCount s + 1 ∧
        (∀ a < 6, axisEnabled a s = true → (axisOf a t).state = .error ∧ (axisOf a t).energised = false ∧
          (axisOf a t).referenced = false ∧ bitOf (axisOf a t).sticky 11 = true) ∧
        t = { s with mot := { s.mot with axes := t.mot.axes, sticky := t.mot.sticky, gateUv := true },
                     ecat := t.ecat, ev := t.ev, mbox := t.mbox }) ∧
  (∀ (a : Fin 6) (uA uB iA iB : Int) (s : State), Shaped s = true → mcRuns s = true →
      let x := axisOf a s
      let runs := (x.state = .moving ∨ x.state = .stopping) ∧ (Frac.ofNat (val (Obj.LOAD_MIN_SPEED a) s)).le (axisSpeed a s) = true
      let only (t : State) : Prop := (∀ j, j ≠ a.val → axisOf j t = axisOf j s) ∧
        t = { s with fresh := t.fresh, mot := { s.mot with axes := t.mot.axes } }
      (¬ runs → ∃ t, exec (.loadEstimate a uA uB iA iB) s = .next t ∧ only t ∧
        axisOf a t = { x with loadValid := false, lastCurrents := none, stallSince := none }) ∧
      (runs → x.lastCurrents = none → ∃ t, exec (.loadEstimate a uA uB iA iB) s = .next t ∧ only t ∧
        axisOf a t = { x with lastCurrents := some (iA, iB) }) ∧
      (∀ jA jB eA eB : Int, runs → x.lastCurrents = some (jA, jB) →
        eA = 1000 * uA - val (Obj.COIL_RESISTANCE a) s * iA - 10 * val (Obj.COIL_INDUCTANCE a) s * (iA - jA) →
        eB = 1000 * uB - val (Obj.COIL_RESISTANCE a) s * iB - 10 * val (Obj.COIL_INDUCTANCE a) s * (iB - jB) →
        ∃ t, exec (.loadEstimate a uA uB iA iB) s = .next t ∧ only t ∧ (axisOf a t).loadValid = true ∧
          (axisOf a t).lastCurrents = some (iA, iB) ∧
          (¬ (iA = 0 ∧ iB = 0) → ¬ (eA = 0 ∧ eB = 0) → (axisOf a t).loadAngle = wrapAngle (900 +
            (if x.forward = true then 1 else -1) * angleOf (iB * eB + iA * eA) (iA * eB - iB * eA))))) ∧
  (∀ (a : Fin 6) (s : State), Shaped s = true → mcRuns s = true → (axisOf a s).stallSince ≠ none →
      let x := axisOf a s
      (val (Obj.STALL_ACTION a) s = 0 → ∃ t, exec (.stall a) s = .next t ∧
        axisOf a t = { x with sticky := stick 8 x.sticky, referenced := false, stallCount := x.stallCount + 1, stallSince := none } ∧
        eventCount t = eventCount s + 1 ∧ (∀ j, j ≠ a.val → axisOf j t = axisOf j s) ∧
        t = { s with mot := { s.mot with axes := t.mot.axes }, ecat := t.ecat, ev := t.ev, mbox := t.mbox }) ∧
      (val (Obj.STALL_ACTION a) s = 1 → x.owner = .host → x.moving = true → x.link = none → x.emergency = false →
        groupAxes a s = [a.val] →
        ∃ t, exec (.stall a) s = .next t ∧
          axisOf a t = { x with sticky := stick 8 x.sticky, referenced := false, stallCount := x.stallCount + 1,
                                stallSince := none, goal := some .emergency, target := none, state := .stopping,
                                emergency := true, stopRamp := false, errorAtStop := true } ∧
          eventCount t = eventCount s + 1 ∧ (∀ j, j ≠ a.val → axisOf j t = axisOf j s) ∧
          t = { s with mot := { s.mot with axes := t.mot.axes }, ecat := t.ecat, ev := t.ev, mbox := t.mbox }) ∧
      (val (Obj.STALL_ACTION a) s = 2 → ∃ t, exec (.stall a) s = .next t ∧ bitOf (axisOf a t).sticky 8 = true ∧
          (axisOf a t).referenced = false ∧ (axisOf a t).stallCount = x.stallCount + 1 ∧ (axisOf a t).stallSince = none ∧
          eventCount t = eventCount s + 1 ∧
          (∀ b < 6, axisEnabled b s = true → (axisOf b s).moving = true → (axisOf b s).owner = .host → (axisOf b s).link = none →
            (axisOf b t).emergency = true ∧ (axisOf b t).state = .stopping ∧ (b = a.val → (axisOf b t).errorAtStop = true)) ∧
          (∀ b < 6, (axisOf b t).pos = (axisOf b s).pos ∧ (axisOf b t).energised = (axisOf b s).energised) ∧
          t = { s with mot := t.mot, host := t.host, tim := t.tim, pipe := t.pipe, ecat := t.ecat, ev := t.ev, mbox := t.mbox })) ∧
  (∀ (a : Fin 6) (s : State), (axisOf a s).stallSince = none → exec (.stall a) s = .next s) ∧
  (∀ s : State, Shaped s = true → running s = true → domainOn 3 s = true → s.mot.mcHeld = false →
      ∃ t, exec .mcWatchdog s = .next (raise [⟨0x0C03, 2, []⟩] t) ∧ t.mot.mcHeld = true ∧
        (∀ a < 6, (axisOf a t).vw = 0 ∧ (axisOf a t).pos = (axisOf a s).pos ∧
          ((axisOf a s).energised = true → val (Obj.RETAIN_MODE a) s = 2 → (axisOf a t).state = .holding ∧
            (axisOf a t).energised = true ∧ (axisOf a t).current = 100 * val (Obj.HOLD_CURRENT a) s) ∧
          ((axisOf a s).energised = true → val (Obj.RETAIN_MODE a) s ≠ 2 → (axisOf a t).energised = false ∧
            (axisOf a t).state = if (axisOf a s).state = .moving ∨ (axisOf a s).state = .stopping then .error else .off) ∧
          ((axisOf a s).energised = false → (axisOf a t).state = (axisOf a s).state)) ∧
        t = { s with mot := t.mot, mbox := t.mbox }) ∧
  (∀ s : State, (s.mot.mcHeld = true ∨ domainOn 3 s = false) → exec .mcWatchdog s = .next s) ∧
  (∀ s : State, running s = true → domainOn 2 s = true → s.mot.pcHeld = false →
      ∃ t, exec .pcWatchdog s = .next (raise [⟨0x0C03, 1, []⟩] t) ∧
        t = { s with mot := { s.mot with pcHeld := true }, mbox := t.mbox }) ∧
  (∀ s : State, (s.mot.pcHeld = true ∨ domainOn 2 s = false) → exec .pcWatchdog s = .next s)

/-- R294 to R299: the instructions of a segment list, with their frames. -/
def Obligations.SegmentListInstructions : Prop :=
  (∀ (a : Fin 6) (op : SegOp) (s : State), Shaped s = true → segCurrent a s = some op →
      let l := (axisOf a s).seg
      let only (t : State) : Prop := (∀ j, j ≠ a.val → axisOf j t = axisOf j s) ∧
        t = { s with mot := { s.mot with axes := t.mot.axes } }
      let list (c : Instr) (l' : SegList) : Prop :=
        ∃ t, exec c s = .next t ∧ only t ∧ axisOf a t = { axisOf a s with seg := l' }
      let next : SegList := { l with pc := l.pc + 1, state := .running, budget := l.budget - 1 }
      (op = .nop → list (.segNop a) next) ∧
      (∀ v, op = .speed v → list (.speed a) { next with speed := v }) ∧
      (∀ sh v, op = .accel sh v → list (.accel a) { next with accel := v, shape := sh }) ∧
      (∀ w, op = .jump w → list (.segJump a) { next with pc := w }) ∧
      (∀ c w n, op = .loop c w n →
        let left := (if l.cnt.getD c 0 = 0 then n else l.cnt.getD c 0) - 1
        list (.segLoop a) { next with cnt := setAt l.cnt c left, pc := if left = 0 then l.pc + 1 else w }) ∧
      (∀ us, op = .dwell us → l.dwellUntil = none → listAtRest a s = true →
        list (.dwell a) { l with state := .waiting, barrier := true, dwellUntil := some (s.clk + 1000 * us) }) ∧
      (∀ us, op = .dwell us → l.dwellUntil = none → listAtRest a s = false →
        list (.dwell a) { l with state := .waiting, barrier := true }) ∧
      (∀ c, op = .wait c → segCondition a c s = true → list (.segWait a) { next with barrier := true }) ∧
      (∀ c, op = .wait c → segCondition a c s = false → list (.segWait a) { l with state := .waiting, barrier := true }) ∧
      (∀ mask tag, op = .sync mask tag →
        ((setBits mask 6).all (fun b => decide (standsAt b s = some (.sync mask tag)) && listAtRest b s && mayPass (mask, some tag) b s) = false →
          list (.sync a) { l with state := .waiting, barrier := true, blocked := l.blocked || l.barred.contains (mask, some tag) }) ∧
        ((setBits mask 6).all (fun b => decide (standsAt b s = some (.sync mask tag)) && listAtRest b s && mayPass (mask, some tag) b s) = true →
          ∃ t, exec (.sync a) s = .next t ∧
            (∀ b < 6, axisOf b t = if bitOf mask b = true then { axisOf b s with seg := { (axisOf b s).seg with
                pc := (axisOf b s).seg.pc + 1, state := .running, barrier := true,
                budget := (axisOf b s).seg.budget - 1 } } else axisOf b s) ∧
            t = { s with mot := { s.mot with axes := t.mot.axes } })) ∧
      (∀ code, op = .notify code →
        (l.moves = [] → ∃ t, exec (.notify a) s = .next t ∧ (axisOf a t).seg = { next with notifyLast := code } ∧
          (∀ j, j ≠ a.val → axisOf j t = axisOf j s) ∧
          t = { s with mot := { s.mot with axes := t.mot.axes }, mbox := t.mbox }) ∧
        (∀ m ms, l.moves = ms ++ [m] →
          list (.notify a) { next with moves := ms ++ [{ m with notify := m.notify ++ [code] }] })) ∧
      (op = .halt → listAtRest a s = true → ∃ t, exec (.segHalt a) s = .next t ∧ only t ∧
        axisOf a t = { axisOf a s with owner := .host, seg := { l with state := .halted, barrier := false } }) ∧
      (op = .halt → listAtRest a s = false → list (.segHalt a) { l with state := .waiting, barrier := true }) ∧
      (∀ abs v, op = .move abs 0 v →
        (l.moves.length < 8 → ∃ t, exec (.move a) s = .next t ∧
          (axisOf a t).seg.moves = l.moves ++ [⟨if abs = true then v else wrap32 (listPosition a s + v), 0, a, l.speed,
            l.accel, l.shape, l.barrier, []⟩] ∧
          (axisOf a t).seg.pc = l.pc + 1 ∧ (axisOf a t).pos = (axisOf a s).pos ∧
          ((∀ m ∈ l.moves, m.mask = 0) → ∀ j, j ≠ a.val → axisOf j t = axisOf j s) ∧
          t = { s with mot := { s.mot with axes := t.mot.axes } }) ∧
        (8 ≤ l.moves.length → list (.move a) { l with state := .waiting })) ∧
      (∀ (abs : Bool) (mask : Nat) (v : Int) (f : Nat → Bool × Int), op = .move abs mask v → mask ≠ 0 → mask < 64 →
        (∀ b ∈ setBits mask 6, standsAt b s = some (.move (f b).1 mask (f b).2) ∧ (axisOf b s).seg.moves.length < 8 ∧
          mayPass (mask, none) b s = true) →
        let dest (b : Nat) : Int := wrap32 (if (f b).1 = true then (f b).2 else listPosition b s + (f b).2)
        let way (b : Nat) : Nat := (wrap32 (dest b - listPosition b s)).natAbs
        ∃ (t : State) (lead : Nat), exec (.move a) s = .next t ∧ lead ∈ setBits mask 6 ∧
          (∀ b ∈ setBits mask 6, way b ≤ way lead ∧ (way b = way lead → lead ≤ b) ∧
            ∃ m, (axisOf b t).seg.moves = (axisOf b s).seg.moves ++ [m] ∧ m.mask = mask ∧ m.leader = lead ∧
              m.target = dest b ∧ (axisOf b t).seg.pc = (axisOf b s).seg.pc + 1) ∧
          (∀ b < 6, (axisOf b t).pos = (axisOf b s).pos) ∧ t = { s with mot := { s.mot with axes := t.mot.axes } })) ∧
  (∀ (a : Fin 6) (s : State), segCurrent a s = none →
      ∀ c ∈ [Instr.segNop a, .move a, .speed a, .accel a, .dwell a, .segWait a, .sync a, .segLoop a, .segJump a, .notify a,
        .segHalt a], exec c s = .next s) ∧
  (∀ (a : Fin 6) (s : State), Shaped s = true →
      ((axisOf a s).seg.dwellUntil ≠ none → (axisOf a s).seg.live = true → (axisOf a s).seg.blocked = false → mcRuns s = true →
        ∃ t, exec (.dwellEnd a) s = .next t ∧
          axisOf a t = { axisOf a s with seg := { (axisOf a s).seg with
            dwellUntil := none, pc := (axisOf a s).seg.pc + 1, state := .running, budget := (axisOf a s).seg.budget - 1 } } ∧
          (∀ j, j ≠ a.val → axisOf j t = axisOf j s) ∧ t = { s with mot := { s.mot with axes := t.mot.axes } }) ∧
      ((axisOf a s).seg.dwellUntil = none → exec (.dwellEnd a) s = .next s))

/-- R300, R306, R309, R311, R312 and R314 for the rows named, with their frames. -/
def Obligations.StandstillHomeFollowPacerAndMstop : Prop :=
  (∀ (a : Fin 6) (s : State), Shaped s = true → mcRuns s = true →
      let x := axisOf a s
      let only (t : State) : Prop := (∀ j, j ≠ a.val → axisOf j t = axisOf j s) ∧
        t = { s with mot := { s.mot with axes := t.mot.axes } }
      (x.state = .holding → x.fade = none →
        ∃ t, exec (.holdDelayExpire a) s = .next t ∧ only t ∧ axisOf a t = { x with holdDelayOver := true }) ∧
      (x.state ≠ .holding → exec (.holdDelayExpire a) s = .next s ∧ exec (.standstillOffExpire a) s = .next s) ∧
      (x.state = .holding → x.parkAfterFade = false → x.owner ≠ .pacer → val (Obj.STANDSTILL_OFF a) s ≠ 0 →
        val (Obj.RETAIN_MODE a) s = 0 →
        ∃ t, exec (.standstillOffExpire a) s = .next t ∧ only t ∧ (axisOf a t).state = .off ∧
          (axisOf a t).referenced = false ∧ (axisOf a t).energised = false ∧ (axisOf a t).pos = x.pos) ∧
      ((x.owner = .pacer ∨ val (Obj.STANDSTILL_OFF a) s = 0 ∨ val (Obj.RETAIN_MODE a) s = 2) →
        exec (.standstillOffExpire a) s = .next s) ∧
      (∀ active, (∃ t, exec (.mrefEdge a active) s = .next t ∧ only t ∧ (axisOf a t).mref = active ∧
          (axisOf a t).mrefLatch = x.pos ∧ (axisOf a t).pos = x.pos ∧
          (∀ since, x.task = .home 2 since → active = true →
            (axisOf a t).homeLatch = x.pos ∧ (axisOf a t).task = .home 3 since ∧
            (axisOf a t).goal = some (.halt (val (Obj.MOVE_ACCEL a) s) (val (Obj.RAMP_SHAPE a) s))) ∧
          ((∀ n since, x.task ≠ .home n since) → axisOf a t = { x with mref := active, mrefLatch := x.pos }))) ∧
      (∀ n since, x.task = .home n since →
        ∃ t, exec (.homeTimeout a) s = .next t ∧ (axisOf a t).task = .none ∧ bitOf (axisOf a t).sticky 12 = true ∧
          eventCount t = eventCount s + 1 ∧
          t = { s with mot := { s.mot with axes := t.mot.axes }, ecat := t.ecat, ev := t.ev, mbox := t.mbox }) ∧
      ((∀ n since, x.task ≠ .home n since) → exec (.homeTimeout a) s = .next s)) ∧
  (∀ (e : Fin 2) (high : Bool) (s : State), Shaped s = true →
      (mcRuns s = false → exec (.xstepEdge e high) s = .next s) ∧
      (mcRuns s = true → ∃ t, exec (.xstepEdge e high) s = .next t ∧
        (∀ a < 6, (axisOf a s).owner = .follow → val (Obj.STEP_SOURCE a) s = e →
          (axisOf a t).followTarget = wrap32 ((axisOf a s).followTarget +
            (if high = true then (val (Obj.EXT_STEP_SIZE a) s : Int) else -(val (Obj.EXT_STEP_SIZE a) s : Int))) ∧
          (axisOf a t).followEdge = some (s.clk, high) ∧ (axisOf a t).pos = (axisOf a s).pos) ∧
        (∀ a < 6, ((axisOf a s).owner ≠ .follow ∨ val (Obj.STEP_SOURCE a) s ≠ e) → axisOf a t = axisOf a s) ∧
        t = { s with mot := { s.mot with axes := t.mot.axes } })) ∧
  (∀ s : State, (s.mot.transport.owns = false ∨ s.modes.mode ≠ .sheet ∨ s.modes.trans.isSome = true ∨ s.mot.transport.emergency = true) →
      exec .pacerUpdate s = .next s) ∧
  (∀ s : State, s.mot.transport.owns = true → s.modes.mode = .sheet → s.modes.trans = none → s.mot.transport.emergency = false → mcRuns s = true →
      s.mot.transport.moveWaits = false → s.mot.transport.move = .none → s.host.restart.phase ≠ .backup →
      standstillCommanded s = false → groupReady s = true → mstopActive s = false →
      let v := s.host.request.min (Frac.mk' (val Obj.TRANSPORT_SPEED_NOM s * s.pwr.gov.cap) 100)
      let shape := val Obj.TRANSPORT_RAMP_SHAPE s
      let accel := 1000 * val Obj.TRANSPORT_ACCEL s
      (v.eq s.mot.transport.targetV = true → exec .pacerUpdate s = .next s) ∧
      (v.eq s.mot.transport.targetV = false →
        exec .pacerUpdate s = .next { s with mot := { s.mot with transport := { s.mot.transport with
          targetV := v, goal := some (if v.isZero = true then .halt accel shape else .run v accel shape) } } })) ∧
  (∀ s : State, (domainOn 3 s = false ∨ s.mot.mstop = true) → exec .mstopAssert s = .next s) ∧
  (∀ s : State, domainOn 3 s = true → s.mot.mstop = false → flagVal Obj.MSTOP_ENABLE s = false →
      exec .mstopAssert s = .next { s with mot := { s.mot with mstop := true } }) ∧
  (∀ s : State, Shaped s = true → domainOn 3 s = true → s.mot.mstop = false → flagVal Obj.MSTOP_ENABLE s = true →
      ∃ t, exec .mstopAssert s = .next t ∧ t.mot.mstop = true ∧ bitOf t.mot.sticky 4 = true ∧
        eventCount t = eventCount s + 1 ∧
        (mcRuns s = true → ∀ a < 6, axisEnabled a s = true → (axisOf a s).moving = true → (axisOf a s).owner = .host →
          (axisOf a s).link = none → (axisOf a t).emergency = true ∧ (axisOf a t).state = .stopping) ∧
        (mcRuns s = true → ∀ a < 6, (axisOf a s).seg.live = true → (axisOf a t).seg.live = false ∧
          (axisOf a t).seg.stopReason = 3) ∧
        (∀ a < 6, (axisOf a t).pos = (axisOf a s).pos ∧ (axisOf a t).energised = (axisOf a s).energised) ∧
        t = { s with mot := t.mot, host := t.host, tim := t.tim, pipe := t.pipe, ecat := t.ecat, ev := t.ev, mbox := t.mbox }) ∧
  (∀ s : State, domainOn 3 s = true → (∀ a < 6, (axisOf a s).captureNext = none) →
      exec .mstopRelease s = .next { s with mot := { s.mot with mstop := false } })

/-- R319, R322, R323, R336 to R338 and 15 R385: the changes of the EtherCAT state, with their frames. The clearing of the error indication (log entry 77), the free code before STANDBY (78) and the responses dropped at Init (119) are the model's choices. -/
def Obligations.EthercatStateChanges : Prop :=
  (∀ (x y : SyncManager) (fs : List Fmmu) (z : Option Nat) (d : BitVec 64) (s : State), domainOn 19 s = false →
      ∀ c ∈ [Instr.alRequestInit, .alRequestPreOp (x, y), .alRequestSafeOp (x, y) fs z, .alRequestOp d, .alRequestBoot],
        exec c s = .next s) ∧
  (∀ s : State, domainOn 19 s = true →
    let refused (c : Instr) (code : Nat) : Prop :=
      exec c s = .next { s with ecat := { s.ecat with alCode := code, alError := true } }
    let left := if s.ecat.al = 8 then s.ecat.opLost + 1 else s.ecat.opLost
    refused .alRequestBoot 0x0013 ∧
    (s.ecat.al ≠ 8 → exec .alRequestInit s = .next { s with ecat := { s.ecat with
      al := 1, alError := false, sdo := none, sm1 := none, responses := [], sm2Written := false } }) ∧
    (s.ecat.al = 8 → s.modes.mode ≠ .off → exec .alRequestInit s = .next (sessionLost { s with ecat := { s.ecat with
      al := 1, alError := false, sdo := none, sm1 := none, responses := [], sm2Written := false, opLost := left } })) ∧
    (∀ sm0 sm1 : SyncManager, Shaped s = true →
      let sms := setAt (setAt s.ecat.sms 0 sm0) 1 sm1
      (running s = false → ∃ t, exec (.alRequestPreOp (sm0, sm1)) s = .next t ∧ t.ecat.al = s.ecat.al ∧ t.ecat.alError = true ∧
        t = { s with fresh := t.fresh, ecat := { s.ecat with alCode := t.ecat.alCode, alError := true, sms := sms } }) ∧
      (s.ecat.al ≠ 1 → s.ecat.al ≠ 8 → running s = true →
        ∃ t, exec (.alRequestPreOp (sm0, sm1)) s = .next t ∧ t.ecat.al = 2 ∧ t.ecat.alError = false ∧
          t.ecat.opLost = s.ecat.opLost ∧ mailQueue t = mailQueue s ∧ (mailQueue s ≠ [] → t.ecat.sm1 ≠ none) ∧
          t = { s with ecat := { s.ecat with
                         al := 2, alError := false, sms := sms, sm1 := t.ecat.sm1, responses := t.ecat.responses },
                       ev := { s.ev with emergencies := t.ev.emergencies } }) ∧
      (s.ecat.al = 8 → running s = true → s.modes.mode ≠ .off →
        exec (.alRequestPreOp (sm0, sm1)) s = .next (fillMailbox (sessionLost { s with ecat := { s.ecat with
          al := 2, alError := false, sms := sms, opLost := left } }))) ∧
      (s.ecat.al = 1 → running s = true →
        ((sm0 ≠ ⟨0x1000, 1024⟩ ∨ sm1 ≠ ⟨0x1400, 1024⟩) → exec (.alRequestPreOp (sm0, sm1)) s = .next { s with
          ecat := { s.ecat with alCode := 0x0016, alError := true, sms := sms } }) ∧
        (sm0 = ⟨0x1000, 1024⟩ → sm1 = ⟨0x1400, 1024⟩ →
          ∃ t, exec (.alRequestPreOp (sm0, sm1)) s = .next t ∧ t.ecat.al = 2 ∧ t.ecat.alError = false ∧
            mailQueue t = mailQueue s ∧
            t = { s with ecat := { s.ecat with
                           al := 2, alError := false, sms := sms, sm1 := t.ecat.sm1, responses := t.ecat.responses },
                         ev := { s.ev with emergencies := t.ev.emergencies } }))) ∧
    (∀ (sm2 sm3 : SyncManager) (fs : List Fmmu) (sync0 : Option Nat), Shaped s = true → fs.length = 8 →
      let regs : Ecat := { s.ecat with sms := setAt (setAt s.ecat.sms 2 sm2) 3 sm3, fmmus := fs }
      let no (code : Nat) : Prop := exec (.alRequestSafeOp (sm2, sm3) fs sync0) s = .next { s with
        ecat := { regs with alCode := code, alError := true } }
      (s.ecat.al = 1 → no 0x0011) ∧
      (s.ecat.al = 4 → exec (.alRequestSafeOp (sm2, sm3) fs sync0) s = .next { s with ecat := { regs with alError := false } }) ∧
      (s.ecat.al = 8 → s.modes.mode ≠ .off → exec (.alRequestSafeOp (sm2, sm3) fs sync0) s = .next (sessionLost { s with
        ecat := { regs with al := 4, alError := false, sm2Written := false, lastOutputs := none, opLost := left } })) ∧
      (s.ecat.al = 2 →
        ((mapOk true s = false ∨ sm2.length ≠ pdoBytes (pdoEntries true s)) → no 0x001D) ∧
        (mapOk true s = true → sm2.length = pdoBytes (pdoEntries true s) →
          (mapOk false s = false ∨ sm3.length ≠ pdoBytes (pdoEntries false s)) → no 0x001E) ∧
        (mapOk true s = true → sm2.length = pdoBytes (pdoEntries true s) → mapOk false s = true →
          sm3.length = pdoBytes (pdoEntries false s) →
          (valReady Obj.SYNC_MODE s = 2 → (∀ c, sync0 = some c → c < 125000 ∨ 1000000000 < c) → no 0x0030) ∧
          ((valReady Obj.SYNC_MODE s = 2 → ∃ c, sync0 = some c ∧ 125000 ≤ c ∧ c ≤ 1000000000) →
            exec (.alRequestSafeOp (sm2, sm3) fs sync0) s = .next { s with ecat := { regs with
              al := 4, alError := false, rxMap := pdoEntries true s, txMap := pdoEntries false s, sm2Written := false,
              lastOutputs := none, sync0 := sync0, lastSync := none } })))) ∧
    (∀ d : BitVec 64,
      (s.ecat.al = 1 ∨ s.ecat.al = 2 → refused (.alRequestOp d) 0x0011) ∧
      (s.ecat.al = 8 → exec (.alRequestOp d) s = .next { s with ecat := { s.ecat with alError := false } }) ∧
      (s.ecat.al = 4 → s.ecat.sm2Written = false → refused (.alRequestOp d) 0x001D) ∧
      (s.ecat.al = 4 → s.ecat.sm2Written = true →
        ∃ t, exec (.alRequestOp d) s = .next t ∧ t.ecat.al = 8 ∧ t.now = d.toNat ∧ t.clk = s.clk ∧
          t.ecat.timeStep = (d.toNat : Int) - s.now ∧ t.ecat.lastOutputs = none ∧ t.ecat.opLost = s.ecat.opLost ∧
          eventCount t = (if 1000 < ((d.toNat : Int) - s.now).natAbs then eventCount s + 1 else eventCount s) ∧
          t = { s with now := t.now, ecat := t.ecat, ev := t.ev, mbox := t.mbox, tim := t.tim, fe := t.fe })) ∧
    (s.ecat.al = 8 → s.modes.mode ≠ .off → exec .pdoTimeout s = .next (sessionLost { s with ecat := { s.ecat with
      al := 4, alCode := 0x001B, alError := true, sm2Written := false, lastOutputs := none, opLost := left } })) ∧
    (s.ecat.al ≠ 8 → exec .pdoTimeout s = .next s)) ∧
  (∀ s : State, hasSession s = true → sessionLost s = s)

/-- R319, R333, R334 and 18 R444 for the rows named, with their frames. Emergencies before responses is the model's reading (log entry 8), as is an update of another length (log entry 79). -/
def Obligations.ProcessDataAndMailbox : Prop :=
  (∀ (data : List Byte) (s : State), (s.ecat.al = 1 ∨ s.ecat.al = 2 ∨ data.length ≠ pdoBytes s.ecat.rxMap) →
      exec (.rxpdoUpdate data) s = .next s) ∧
  (∀ (data : List Byte) (s : State), data.length = pdoBytes s.ecat.rxMap →
      (s.ecat.al = 4 → ∃ t, exec (.rxpdoUpdate data) s = .next t ∧ t.ecat.sm2Written = true ∧
        t.ecat.lastOutputs = s.ecat.lastOutputs ∧ t = { s with fresh := t.fresh, ecat := t.ecat, pins := { s.pins with links := t.pins.links } }) ∧
      (s.ecat.al = 8 → s.modes.mode ≠ .off →
        let vs := unpackOutputs s.ecat.rxMap (leNat data)
        let changed := changedOutputs s.ecat.lastOutputs s.ecat.rxMap vs
        (changed = [] → ∃ t, exec (.rxpdoUpdate data) s = .next t ∧ t.ecat.lastOutputs = some vs ∧
          t = { s with fresh := t.fresh, ecat := t.ecat, pins := { s.pins with links := t.pins.links } }) ∧
        (∀ (e v : Nat) (r : Row), changed = [(e, v)] → hasEffect (objKey (bits e 31 16) (bits e 15 8)) = false →
          r.acc = .rw → entryBits e = 8 * r.ty.size →
          (∀ u : State, u.dict = s.dict → PlainWrite (bits e 31 16) (bits e 15 8) r v u) →
          ∃ t, exec (.rxpdoUpdate data) s = .next t ∧ t.ecat.lastOutputs = some vs ∧
            t.dict = { s.dict with
              held := (setKey (objKey (bits e 31 16) (bits e 15 8)) v s).dict.held } ∧
            t = { s with fresh := t.fresh, ecat := t.ecat, dict := t.dict, pins := { s.pins with links := t.pins.links },
                         cfg := if keyInSets (objKey (bits e 31 16) (bits e 15 8)) then (noteWrite s).cfg else s.cfg }))) ∧
  (∀ s : State, (valReady Obj.SYNC_MODE s ≠ 0 ∨ s.ecat.al = 1 ∨ s.ecat.al = 2) → exec .txpdoSample s = .next s) ∧
  (∀ s : State, valReady Obj.SYNC_MODE s = 0 → s.ecat.al = 4 ∨ s.ecat.al = 8 →
      ∃ t, exec .txpdoSample s = .next t ∧ t.ecat.inputs.length = (sumNats (s.ecat.txMap.map entryBits) + 7) / 8 ∧
        t = { s with fresh := t.fresh, ecat := { s.ecat with inputs := t.ecat.inputs }, pins := { s.pins with links := t.pins.links } } ∧
        (∀ e, s.ecat.txMap = [e] → bits e 31 16 ≠ 0 →
          t.ecat.inputs = leBytes ((entryBits e + 7) / 8)
            (leNat (readObject (bits e 31 16) (bits e 15 8) s).2.1 % 2 ^ entryBits e))) ∧
  (∀ (data : List Byte) (s : State), data.length = pdoBytes s.ecat.rxMap → s.ecat.al = 4 → syncMode s = 1 →
      ∃ t, exec (.rxpdoUpdate data) s = .next t ∧ t.ecat.sm2Written = true ∧ t.ecat.lastSync = some s.clk ∧
        (∀ x, s.ecat.lastSync = some x → t.ecat.cycleTime = s.clk - x) ∧
        t.ecat.inputs.length = (sumNats (s.ecat.txMap.map entryBits) + 7) / 8 ∧
        (∀ e, s.ecat.txMap = [e] → bits e 31 16 ≠ 0 → t.ecat.inputs = leBytes ((entryBits e + 7) / 8)
            (leNat (readObject (bits e 31 16) (bits e 15 8) { s with ecat := { s.ecat with
              sm2Written := true, lastSync := some s.clk, cycleTime := t.ecat.cycleTime } }).2.1 % 2 ^ entryBits e))) ∧
  (∀ s : State, syncMode s = 2 → valReady Obj.TRIG_SOURCE s ≠ 2 → s.ecat.al = 4 ∨ s.ecat.al = 8 → s.ecat.sync0.isSome = true →
      ∃ t, exec .sync0Trigger s = .next t ∧ t.ecat.lastSync = some s.clk ∧
        (∀ x, s.ecat.lastSync = some x → t.ecat.cycleTime = s.clk - x) ∧
        t.ecat.inputs.length = (sumNats (s.ecat.txMap.map entryBits) + 7) / 8 ∧
        t = { s with fresh := t.fresh, ecat := t.ecat, pins := { s.pins with links := t.pins.links } }) ∧
  (∀ (a : Nat) (l : List Byte) (s : State), exec (.siiWrite a l) s = .next s) ∧
  (∀ s : State, (s.ecat.al = 2 ∨ s.ecat.al = 4 ∨ s.ecat.al = 8) →
      ∃ t, exec .mailboxInRead s = .next t ∧ mailQueue t = s.ev.emergencies ++ s.ecat.responses ∧
        (mailQueue t ≠ [] → t.ecat.sm1 ≠ none) ∧
        t = { s with ecat := { s.ecat with sm1 := t.ecat.sm1, responses := t.ecat.responses },
                     ev := { s.ev with emergencies := t.ev.emergencies } }) ∧
  (∀ s : State, s.ecat.al = 1 → exec .mailboxInRead s = .next s)

/-- R324, R325, R327 and R328: a dictionary write of a held value, its refusals in order, and the misuse of reserved bits, where the stop is the model's choice (log entry 87). -/
def Obligations.DictionaryWritesAndTheirRefusals : Prop :=
  (∀ (via : Path) (index sub : Nat) (data : List Byte) (s : State), served via s = false →
      exec (.objectWrite via index sub data) s = .next s) ∧
  (∀ (via : Path) (index sub : Nat) (data : List Byte) (s : State), served via s = true →
      let refused (code : Nat) : Prop := exec (.objectWrite via index sub data) s = .next (answerWrite via code s)
      (findRow index sub = none → hasCountSub index = false → indexExists index = false → refused 0x06020000) ∧
      (findRow index sub = none → indexExists index = true → sub ≠ 0 → refused 0x06090011) ∧
      (∀ r, findRow index sub = some r →
        (r.acc = .ro → refused 0x06010002) ∧
        (r.acc = .rw ∨ r.acc = .rwp → r.ty.isBulk = false → data.length ≠ r.ty.size → refused 0x06070010) ∧
        (r.acc = .rwp → r.ty.isBulk = false → data.length = r.ty.size → rwpOpen s = false → refused 0x08000022) ∧
        (r.acc = .rw ∨ r.acc = .rwp ∧ rwpOpen s = true → r.ty.isBulk = false → data.length = r.ty.size →
          handlerOf index sub (leNat data) = none →
          (ownRangeOk index sub r (leNat data) = false → refused 0x06090030) ∧
          (ownRangeOk index sub r (leNat data) = true → leNat data &&& r.chk.reservedMask ≠ 0 →
            exec (.objectWrite via index sub data) s = .fault .reservedBits) ∧
          (ownRangeOk index sub r (leNat data) = true → leNat data &&& r.chk.reservedMask = 0 →
            bindingsOk (objKey index sub) (setKey (objKey index sub) (leNat data) s) = false → refused 0x08000020)) ∧
        (PlainWrite index sub r (leNat data) s → data.length = r.ty.size →
          exec (.objectWrite via index sub data) s = .next (answerWrite via 0
            (let t := afterValue (objKey index sub) s (setKey (objKey index sub) (leNat data) s)
             if keyInSets (objKey index sub) then noteWrite t else t)) ∧
          (hasEffect (objKey index sub) = false →
            ∃ t, exec (.objectWrite via index sub data) s = .next (answerWrite via 0 t) ∧
              sparseGet (objKey index sub) (keyDefault (objKey index sub)) t.dict.held = leNat data ∧
              (∀ k d, k ≠ objKey index sub → sparseGet k d t.dict.held = sparseGet k d s.dict.held) ∧
              t = { s with dict := { s.dict with held := t.dict.held },
                           cfg := if keyInSets (objKey index sub) then (noteWrite s).cfg else s.cfg }))))

/-- R319, R324, R328 to R331: SDO transfers and the information service, with their frames, and the states and operands on which each row completes. The answer of at most 1,008 bytes (log entry 80) and the code without a transfer (log entry 118) are the model's choices. -/
def Obligations.SdoTransfers : Prop :=
  (∀ (index sub size : Nat) (b c : Bool) (data : List Byte) (s : State), served .sdo s = false →
      ∀ i ∈ [Instr.sdoDownload index sub b size data, .sdoUpload index sub b, .sdoSegment b c data, .sdoTimeout,
        .sdoInformation index sub], exec i s = .next s) ∧
  (∀ s : State, served .sdo s = true →
    let answers (i : Instr) (x : Option SdoTransfer) (ms : List MailIn) (u : State) : Prop :=
      ∃ t, exec i s = .next t ∧ Mailed ms s t ∧ t.ecat.sdo = x ∧
        t = { u with dict := { u.dict with reply := t.dict.reply },
                     ecat := { s.ecat with sdo := x, sm1 := t.ecat.sm1, responses := t.ecat.responses },
                     ev := { s.ev with emergencies := t.ev.emergencies } }
    (s.ecat.sdo = none → ∀ (index sub : Nat) (data : List Byte),
      answers (.sdoDownload index sub true data.length data) none [.abort index sub 0x06010004] s ∧
      (∀ size, size < data.length → accessRefusal index sub size s = none →
        answers (.sdoDownload index sub false size data) none [.abort index sub 0x06070010] s) ∧
      (∀ r, findRow index sub = some r → r.acc = .ro →
        answers (.sdoDownload index sub false data.length data) none [.abort index sub 0x06010002] s) ∧
      (∀ r, PlainWrite index sub r (leNat data) s → hasEffect (objKey index sub) = false → data.length = r.ty.size →
        answers (.sdoDownload index sub false data.length data) none [.downloaded index sub]
          (Written index sub (leNat data) s)) ∧
      (∀ size, data.length < size → accessRefusal index sub size s = none → isBank index = false → index ≠ 0x2E70 →
        answers (.sdoDownload index sub false size data) (some (.down index sub size data false)) [.downloaded index sub] s) ∧
      answers (.sdoUpload index sub true) none [.abort index sub 0x06010004] s ∧
      (let x := readObject index sub s
       (x.1 ≠ 0 → answers (.sdoUpload index sub false) none [.abort index sub x.1] s) ∧
       (x.1 = 0 → x.2.1.length ≤ 1008 → answers (.sdoUpload index sub false) none
          [.uploaded index sub x.2.1.length x.2.1 true] x.2.2) ∧
       (x.1 = 0 → 1008 < x.2.1.length → answers (.sdoUpload index sub false) (some (.up index sub x.2.1 1008 false))
          [.uploaded index sub x.2.1.length (x.2.1.take 1008) false] x.2.2) ∧
       x.2.2 = { s with fresh := x.2.2.fresh, pins := { s.pins with links := x.2.2.pins.links } }) ∧
      (∀ toggle last, answers (.sdoSegment toggle last data) none [.abort 0 0 0x05040001] s) ∧ exec .sdoTimeout s = .next s ∧
      (∀ r, findRow index sub = some r →
        answers (.sdoInformation index sub) none [.info index sub r.ty.code r.acc r.ty.size r.name] s)) ∧
    (∀ (index sub : Nat) (content : List Byte) (offset : Nat) (toggle last : Bool) (data : List Byte),
      s.ecat.sdo = some (.up index sub content offset toggle) →
      answers .sdoTimeout none [.abort index sub 0x05040000] s ∧
      answers (.sdoSegment (!toggle) last data) none [.abort index sub 0x05030000] s ∧
      (isBank index = false → offset + 1015 < content.length →
        answers (.sdoSegment toggle last data) (some (.up index sub content (offset + 1015) (!toggle)))
          [.segment toggle false ((content.drop offset).take 1015)] s) ∧
      (isBank index = false → content.length ≤ offset + 1015 →
        answers (.sdoSegment toggle last data) none [.segment toggle true (content.drop offset)] s) ∧
      (∀ i b, answers (.sdoUpload i b true) none [.abort index sub 0x05040000, .abort i b 0x06010004] s)) ∧
    (∀ (index sub size : Nat) (got data : List Byte) (toggle : Bool), s.ecat.sdo = some (.down index sub size got toggle) →
      isBank index = false → index ≠ 0x2E70 →
      answers .sdoTimeout none [.abort index sub 0x05040000] s ∧
      (∀ last, answers (.sdoSegment (!toggle) last data) none [.abort index sub 0x05030000] s) ∧
      (got.length + data.length ≤ size →
        answers (.sdoSegment toggle false data) (some (.down index sub size (got ++ data) (!toggle))) [.segmentAck toggle] s) ∧
      (∀ r, PlainWrite index sub r (leNat (got ++ data)) s → hasEffect (objKey index sub) = false →
        got.length + data.length = size → size = r.ty.size →
        answers (.sdoSegment toggle true data) none [.segmentAck toggle]
          (Written index sub (leNat (got ++ data)) s)) ∧
      (size < got.length + data.length →
        answers (.sdoSegment toggle false data) none [.abort index sub 0x06070010] s))) ∧
  (∀ (index sub : Nat) (data : List Byte) (r : Row) (s : State), served .sdo s = true → s.ecat.sdo = none →
      PlainWrite index sub r (leNat data) s → hasEffect (objKey index sub) = false → data.length = r.ty.size →
      ∃ t, exec (.sdoDownload index sub false data.length data) s = .next t ∧ t.ecat.sdo = none ∧
        t.dict.held = (setKey (objKey index sub) (leNat data) s).dict.held ∧ t.dict.reply.map (fun r => r.abort) = some 0) ∧
  (∀ (index sub : Nat) (s : State), served .sdo s = true → s.ecat.sdo = none → (readObject index sub s).1 = 0 →
      ∃ t, exec (.sdoUpload index sub false) s = .next t ∧
        t.dict.reply.map (fun r => (r.abort, r.data)) = some (0, (readObject index sub s).2.1) ∧
        (t.ecat.sdo = none ↔ (readObject index sub s).2.1.length ≤ 1008) ∧ t.dict.held = s.dict.held) ∧
  (∀ (index sub : Nat) (content data : List Byte) (offset : Nat) (toggle last : Bool) (s : State), served .sdo s = true →
      isBank index = false → s.ecat.sdo = some (.up index sub content offset toggle) →
      ∃ t, exec (.sdoSegment toggle last data) s = .next t ∧
        t.ecat.sdo = (if content.length ≤ offset + 1015 then none
          else some (.up index sub content (offset + 1015) (!toggle))) ∧ t.dict = s.dict) ∧
  (∀ (index sub size : Nat) (got data : List Byte) (toggle : Bool) (s : State), served .sdo s = true →
      isBank index = false → index ≠ 0x2E70 → s.ecat.sdo = some (.down index sub size got toggle) →
      got.length + data.length ≤ size →
      ∃ t, exec (.sdoSegment toggle false data) s = .next t ∧
        t.ecat.sdo = some (.down index sub size (got ++ data) (!toggle)) ∧ t.dict = s.dict) ∧
  (∀ (x : SdoTransfer) (s : State), served .sdo s = true → s.ecat.sdo = some x →
      ∃ t, exec .sdoTimeout s = .next t ∧ t.ecat.sdo = none ∧ t.dict.held = s.dict.held ∧
        t.dict.reply.map (fun r => r.abort) = some 0x05040000) ∧
  (∀ (index sub : Nat) (r : Row) (s : State), served .sdo s = true → findRow index sub = some r →
      ∃ t, exec (.sdoInformation index sub) s = .next t ∧
        mailQueue t = mailQueue s ++ [.info index sub r.ty.code r.acc r.ty.size r.name] ∧ t.dict = s.dict)

/-- R339 and R341 to R348: configuration sets, with what each command leaves alone. The bad slot while a commit runs (log entry 173), the moment of COMMIT_VERSION (123), the order of a revert (124) and what CONFIG_MODIFIED counts (122) are the model's readings. -/
def Obligations.ConfigurationSets : Prop :=
  (∀ (via : Path) (s : State), served via s = true →
      ((s.cfg.commit ≠ none ∨ s.cfg.revert ≠ none) → exec (.configCommit via) s = .next (answerWrite via 0x08000022 s)) ∧
      (s.cfg.commit = none → s.cfg.revert = none →
        ((0xFFFFFFFF ≤ highestVersion s ∨ 1048576 < (newSet s).length) →
          exec (.configCommit via) s = .next (answerWrite via 0x08000020 s)) ∧
        (highestVersion s < 0xFFFFFFFF → (newSet s).length ≤ 1048576 → s.flash.config.length = 4 →
          ∃ t c i, exec (.configCommit via) s = .next (answerWrite via 0 t) ∧ c.version = highestVersion s + 1 ∧
            c.entries = setEntries s ∧ c.count = c.entries.length ∧ c.good = true ∧ c.live = true ∧ c.time = s.now ∧
            c.firmware = s.boot.imageVersion ∧
            i < 4 ∧ slotInForce s ≠ some i ∧ (∀ x, predecessor s = some x → x.1 ≠ i) ∧
            (let empty (j : Nat) : Prop := cfgSlot j s = .empty
             let bad (j : Nat) : Prop := (cfgSlot j s).bad = true
             let free (j : Nat) : Prop := slotInForce s ≠ some j ∧ ∀ x, predecessor s = some x → x.1 ≠ j
             let revoked (j v : Nat) : Prop := ∃ x, cfgSlot j s = .set x ∧ x.good = true ∧ x.live = false ∧ x.version = v ∧ free j
             let valid (j v : Nat) : Prop := ∃ x, cfgSlot j s = .set x ∧ x.good = true ∧ x.live = true ∧ x.version = v ∧ free j
             ((∃ j < 4, empty j) → empty i) ∧
             ((∀ j < 4, ¬ empty j) → (∃ j < 4, bad j) → bad i) ∧
             ((∀ j < 4, ¬ empty j ∧ ¬ bad j) → (∃ j < 4, ∃ v, revoked j v) →
               ∃ v, revoked i v ∧ ∀ j < 4, ∀ w, revoked j w → v ≤ w) ∧
             ((∀ j < 4, ¬ empty j ∧ ¬ bad j ∧ ∀ v, ¬ revoked j v) →
               ∃ v, valid i v ∧ ∀ j < 4, ∀ w, valid j w → v ≤ w)) ∧
            t.cfg = { s.cfg with commit := some (c, i), wrote := false, commitResult := 1, commitVersion := c.version } ∧
            (cfgSlot i t).bad = true ∧ (cfgSlot i t).version = c.version ∧ (∀ j < 4, j ≠ i → cfgSlot j t = cfgSlot j s) ∧
            t = { s with cfg := t.cfg, flash := { s.flash with config := t.flash.config } }))) ∧
  (∀ (c : ConfigSet) (i : Nat) (s : State), s.cfg.commit = some (c, i) → i < 4 → s.flash.config.length = 4 →
      (∃ t, exec (.commitComplete true) s = .next t ∧ cfgSlot i t = .set c ∧ (∀ j < 4, j ≠ i → cfgSlot j t = cfgSlot j s) ∧
        t.cfg = { s.cfg with commit := none, commitResult := 2, active := c.version, source := 1, modified := s.cfg.wrote, wrote := false } ∧
        t = { s with cfg := t.cfg, flash := { s.flash with config := t.flash.config } }) ∧
      (∃ t, exec (.commitComplete false) s = .next t ∧ t.flash.config = s.flash.config ∧
        t.cfg = { s.cfg with commit := none, commitResult := 3, wrote := false, sticky := stick 3 s.cfg.sticky } ∧
        eventCount t = eventCount s + 1 ∧
        t = { s with cfg := t.cfg, flash := { s.flash with sticky := t.flash.sticky }, ecat := t.ecat, ev := t.ev,
                     mbox := t.mbox })) ∧
  (∀ (ok : Bool) (s : State), s.cfg.commit = none → exec (.commitComplete ok) s = .next s) ∧
  (∀ (via : Path) (s : State), served via s = true →
      (rwpOpen s = false → exec (.configRevert via) s = .next (answerWrite via 0x08000022 s) ∧
        exec (.configDefaults via) s = .next (answerWrite via 0x08000022 s)) ∧
      (rwpOpen s = true → s.cfg.commit = none → s.cfg.revert = none → predecessor s = none →
        exec (.configRevert via) s = .next (answerWrite via 0x08000024 s)) ∧
      (∀ x, rwpOpen s = true → s.cfg.commit = none → s.cfg.revert = none → predecessor s = some x →
        exec (.configRevert via) s = .next (answerWrite via 0
          { s with cfg := { s.cfg with revert := some s.cfg.active, revertResult := 1 } })) ∧
      (rwpOpen s = true →
        ∃ t, exec (.configDefaults via) s = .next (answerWrite via 0 t) ∧ t.cfg.modified = true ∧
          t.cfg.active = s.cfg.active ∧ t.cfg.revert = s.cfg.revert ∧ t.flash = s.flash ∧ t.otp = s.otp ∧ t.upd = s.upd ∧
          t.boot = s.boot ∧ t.now = s.now ∧ t.clk = s.clk ∧ t.modes.mode = s.modes.mode)) ∧
  (∀ (v : Nat) (s : State), s.cfg.revert = some v →
      (∃ t, exec (.configRevertComplete true) s = .next t ∧ t.cfg.revert = none ∧ t.cfg.revertResult = 2 ∧
        (∀ (j : Nat) (c : ConfigSet), cfgSlot j s = .set c →
          cfgSlot j t = .set (if c.version = v then { c with word := 0 } else c)) ∧
        t.flash = { s.flash with config := t.flash.config } ∧
        (∀ x, predecessor s = some x → t.cfg.active = x.2.version ∧ t.cfg.source = 1 ∧ t.cfg.modified = false ∧
          (∀ e ∈ x.2.entries, ∀ r, findRow (e.1 / 256) (e.1 % 256) = some r → entryOk e = true → r.ty.isBulk = false →
            rwHandler (e.1 / 256) (e.1 % 256) (leNat e.2) = none → e.1 ∉ setBindings.flatMap Binding.keys →
            x.2.entries.filter (fun y => decide (y.1 = e.1)) = [e] → e.1 / 256 < 0x3000 →
            sparseGet e.1 (keyDefault e.1) t.dict.held = leNat e.2)) ∧
        (predecessor s = none → t = { s with cfg := t.cfg, flash := t.flash }) ∧
        t.otp = s.otp ∧ t.upd = s.upd ∧ t.boot = s.boot ∧ t.now = s.now ∧ t.clk = s.clk ∧ t.modes.mode = s.modes.mode) ∧
      (∃ t, exec (.configRevertComplete false) s = .next t ∧
        t.cfg = { s.cfg with revert := none, revertResult := 3 } ∧ t.flash.config = s.flash.config ∧
        t = { s with cfg := t.cfg, flash := { s.flash with sticky := t.flash.sticky } })) ∧
  (∀ (ok : Bool) (s : State), s.cfg.revert = none → exec (.configRevertComplete ok) s = .next s) ∧
  (∀ (via : Path) (v : BitVec 16) (s : State), served via s = true →
      exec (.configStatusClear via v) s = .next (answerWrite via 0
        { s with cfg := { s.cfg with sticky := unstick s.cfg.sticky v.toNat } }))

/-- R354, R356, R358, R359: the rows of the supply and the rails, with their frames. -/
def Obligations.RailsAndVoltageMonitors : Prop :=
  (∀ s : State, (s.boot.phase = .unpowered → exec .vinUndervoltage s = .next s) ∧
      (s.boot.phase ≠ .unpowered → ∃ t, exec .vinUndervoltage s = .next t ∧ EnteredOff .unpowered 0 0 s t)) ∧
  (∀ s : State, (railsUp s = false ↔ s.boot.phase ∈ [.unpowered, .pinHeld, .waitRestart, .lockedOut]) ∧
    ((∀ n, s.boot.phase ≠ .rails n) → offMonitors s = [1, 2, 3, 4, 5, 8]) ∧
    (∀ n m, s.boot.phase = .rails n → (m ∈ offMonitors s ↔ (m = 1 ∧ 1 < n) ∨ (m ∈ [2, 3, 4, 5] ∧ 3 < n) ∨ (m = 8 ∧ 4 < n)))) ∧
  (∀ (mv : List Nat) (s : State), railsUp s = false → exec (.voltMonitorSample mv) s = .next s) ∧
  (∀ (mv : List Nat) (s : State), mv.length = 20 → railsUp s = true →
    let r := { s with pwr := { s.pwr with volts := mv } }
    let inWindow := ∀ n ∈ offMonitors s, (voltWindow n).1 ≤ mv.getD n 0 ∧ mv.getD n 0 ≤ (voltWindow n).2
    let dead (k : Nat) : Prop := domainOn (4 + k) s = true ∧ (mv.getD (10 + k) 0 < 1710 ∨ 1890 < mv.getD (10 + k) 0)
    (mv.getD 0 0 < 5200 → ∃ t, exec (.voltMonitorSample mv) s = .next t ∧ EnteredOff .unpowered 0 0 r t) ∧
    (5200 ≤ mv.getD 0 0 →
      (∀ n ∈ offMonitors s, (mv.getD n 0 < (voltWindow n).1 ∨ (voltWindow n).2 < mv.getD n 0) →
        (∀ m ∈ offMonitors s, m < n → (voltWindow m).1 ≤ mv.getD m 0 ∧ mv.getD m 0 ≤ (voltWindow m).2) →
        ∃ t, exec (.voltMonitorSample mv) s = .next t ∧
          EnteredOff (if 2 ≤ (s.boot.railResets.filter (fun x => decide (s.clk < x + 10000000000))).length
            then .lockedOut else .waitRestart) 2 n r t ∧ t.boot.count = s.boot.count + 1) ∧
      (inWindow → running s = false → exec (.voltMonitorSample mv) s = .next r) ∧
      (inWindow → running s = true → railConditions r = [] → pllConditions s = [] → (∀ k < 8, ¬ dead k) → 7500 ≤ mv.getD 19 0 →
        ∃ t, exec (.voltMonitorSample mv) s = .next t ∧ t.modes = s.modes ∧
          t.pwr = { s.pwr with volts := mv, vinHigh := decide (42000 < mv.getD 0 0), raised := t.pwr.raised,
                               railSticky := if 42000 < mv.getD 0 0 then stick 2 s.pwr.railSticky else s.pwr.railSticky } ∧
          eventCount t = (if 42000 < mv.getD 0 0 ∧ s.pwr.vinHigh = false then eventCount s + 1 else eventCount s) ∧
          t = { s with pwr := t.pwr, ecat := t.ecat, ev := t.ev, mbox := t.mbox,
                       mot := { s.mot with gateSupply := mv.getD 19 0, gateUv := false } }) ∧
      (inWindow → running s = true →
        (∃ e ∈ railConditions r, 65536 * e.code + e.source ∉ s.pwr.raised) →
        ∃ t, exec (.voltMonitorSample mv) s = .next t ∧ t.modes.mode = .fault ∧ t.pwr.volts = mv ∧ t.dict = s.dict ∧
          t.cfg = s.cfg ∧ t.boot = s.boot ∧ t.flash = s.flash ∧ t.upd = s.upd ∧ t.otp = s.otp ∧ t.now = s.now ∧
          t.clk = s.clk) ∧
      (∀ k < 8, inWindow → running s = true → dead k →
        ∃ t, exec (.voltMonitorSample mv) s = .next t ∧ t.pwr.afeOut.getLsbD k = true ∧ t.pwr.afeReturning.getLsbD k = false ∧
          bitOf t.pwr.railSticky 3 = true ∧ (s.pwr.afeOut.getLsbD k = false → eventCount s < eventCount t) ∧
          t.dict = s.dict ∧ t.cfg = s.cfg ∧ t.boot = s.boot ∧ t.flash = s.flash ∧ t.otp = s.otp ∧ t.now = s.now ∧
          t.clk = s.clk))) ∧
  (∀ (k : Fin 8) (s : State),
    (s.pwr.afeOut.getLsbD k = true → (1710 ≤ s.pwr.volts.getD (10 + k.val) 0 ∧ s.pwr.volts.getD (10 + k.val) 0 ≤ 1890) →
      exec (.afeRailRestore k) s = .next { s with pwr := { s.pwr with afeReturning := s.pwr.afeReturning ||| (1#8 <<< k.val) } }) ∧
    ((s.pwr.afeOut.getLsbD k = false ∨ s.pwr.volts.getD (10 + k.val) 0 < 1710 ∨ 1890 < s.pwr.volts.getD (10 + k.val) 0) →
      exec (.afeRailRestore k) s = .next s)) ∧
  (∀ (b : Fin 4) (s : State),
    (railsUp s = false → running s = false → exec (.buckCurrentLimit b) s = .next s) ∧
    ((b = 0 ∨ b = 2) → (railsUp s = false ∨ (if b = 0 then 2 else 8) ∉ offMonitors s) → exec (.buckCurrentLimit b) s = .next s) ∧
    (railsUp s = true → (b = 0 ∨ b = 2) → (if b = 0 then 2 else 8) ∈ offMonitors s →
      ∃ (t : State) (phase : BootPhase), exec (.buckCurrentLimit b) s = .next t ∧
        EnteredOff phase 2 (if b = 0 then 2 else 8) s t ∧ (phase = .lockedOut ∨ phase = .waitRestart)) ∧
    ((b = 1 ∨ b = 3) → running s = false → exec (.buckCurrentLimit b) s = .next s) ∧
    (running s = true → (b = 1 ∨ b = 3) →
      ∃ t, exec (.buckCurrentLimit b) s = .next t ∧ t.modes.mode = .fault ∧ eventCount s < eventCount t ∧
        t.dict = s.dict ∧ t.cfg = s.cfg ∧ t.boot = s.boot ∧ t.flash = s.flash ∧ t.upd = s.upd ∧ t.otp = s.otp ∧
        t.now = s.now ∧ t.clk = s.clk)) ∧
  (∀ (via : Path) (v : BitVec 16) (s : State), served via s = true →
      exec (.railStatusClear via v) s = .next (answerWrite via 0
        { s with pwr := { s.pwr with railSticky := unstick s.pwr.railSticky v.toNat } }))

/-- R367 to R370: the rows of the monitors, with their frames. -/
def Obligations.TemperatureAndProcessMonitors : Prop :=
  (∀ (l : List Int) (s : State), running s = false → exec (.tempMonitorSample l) s = .next s) ∧
  (∀ (l : List Int) (s : State), l.length = 24 → running s = true →
    let r := { s with pwr := { s.pwr with temps := l } }
    let diff (i : Nat) : Nat := (l.getD (neighbours.getD i (0, 0)).1 0 - l.getD (neighbours.getD i (0, 0)).2 0).natAbs
    let warm := (List.range 31).filter (fun i => decide (2000 < diff i))
    ((∀ i < 31, diff i ≤ 2500) → (∀ x ∈ l, x < sval 16 Obj.TJ_LIMIT s) → 0 < sval 16 Obj.TJ_LIMIT s →
      ∃ t, exec (.tempMonitorSample l) s = .next t ∧
        t.pwr = { s.pwr with
          temps := l, gradientWarn := warm, gradientMax := t.pwr.gradientMax, raised := t.pwr.raised,
          monSticky := if warm = [] then s.pwr.monSticky else stick 1 s.pwr.monSticky } ∧
        s.pwr.gradientMax ≤ t.pwr.gradientMax ∧ (∀ i < 31, diff i ≤ t.pwr.gradientMax) ∧
        (t.pwr.gradientMax = s.pwr.gradientMax ∨ ∃ i < 31, t.pwr.gradientMax = diff i) ∧
        eventCount t = eventCount s + (warm.filter (fun i => !s.pwr.gradientWarn.contains i)).length ∧
        t = { s with pwr := t.pwr, ecat := t.ecat, ev := t.ev, mbox := t.mbox }) ∧
    ((∃ e ∈ thermalConditions r, 65536 * e.code + e.source ∉ s.pwr.raised) →
      ∃ t, exec (.tempMonitorSample l) s = .next t ∧ t.modes.mode = .fault ∧ t.pwr.temps = l ∧ t.dict = s.dict ∧
        t.cfg = s.cfg ∧ t.boot = s.boot ∧ t.flash = s.flash ∧ t.upd = s.upd ∧ t.otp = s.otp ∧ t.now = s.now ∧
        t.clk = s.clk)) ∧
  (∀ (m : Fin 24) (s : State),
    (railsUp s = true → 21 ≤ m.val →
      ∃ t, exec (.thermalShutdown m) s = .next t ∧ EnteredOff .waitRestart 3 m s t ∧ t.boot.count = s.boot.count + 1 ∧
        t.boot.railResets = s.boot.railResets) ∧
    ((railsUp s = false ∨ m.val < 21) → exec (.thermalShutdown m) s = .next s)) ∧
  (∀ (l : List Nat) (s : State), running s = false → exec (.processMonitorSample l) s = .next s) ∧
  (∀ (l : List Nat) (s : State), running s = true → s.pwr.procs.length = 12 →
    let slow (i : Nat) : Bool := domainOn (processSite i).1 s && processSlow i (l.getD i 0) s && !s.pwr.slowLogged.contains i
    let news := (List.range 12).filter slow
    ∃ t, exec (.processMonitorSample l) s = .next t ∧
      (∀ i < 12, t.pwr.procs.getD i 0 = if domainOn (processSite i).1 s = true then l.getD i 0 else s.pwr.procs.getD i 0) ∧
      t.pwr = { s.pwr with
        procs := t.pwr.procs, slowLogged := s.pwr.slowLogged ++ news,
        monSticky := if news = [] then s.pwr.monSticky else stick 2 s.pwr.monSticky } ∧
      eventCount t = eventCount s + news.length ∧
      t = { s with pwr := t.pwr, ecat := t.ecat, ev := t.ev, mbox := t.mbox }) ∧
  (∀ (via : Path) (v : BitVec 16) (s : State), served via s = true →
      exec (.monStatusClear via v) s = .next (answerWrite via 0
        { s with pwr := { s.pwr with monSticky := unstick s.pwr.monSticky v.toNat } }))

/-- R361, R363 to R365 and 15 R383: the rows of the clocks and DOMAIN_POWER_UP, with their frames. The wait of an event for the boot actions is the model's reading (log entry 135). -/
def Obligations.ClocksAndDomains : Prop :=
  (∀ s : State, (refclkChecked s = false ∨ s.pwr.refclkLost = true) → exec .refclkLost s = .next s) ∧
  (∀ s : State, refclkChecked s = true → running s = false → s.pwr.refclkLost = false →
      let lost := (List.range 5).filter (fun n => s.pwr.pllLocked.getLsbD n)
      let new := (List.range 5).filter (fun n => !s.pwr.raised.contains (65536 * 0x0B05 + n))
      ∃ t, exec .refclkLost s = .next t ∧
        eventCount t = eventCount s + (if s.boot.phase = .booting 3 then 1 + new.length else 0) ∧
        t = { s with pwr := { s.pwr with refclkLost := true, raised := t.pwr.raised,
                                         railSticky := if lost = [] then stick 4 s.pwr.railSticky else stick 5 (stick 4 s.pwr.railSticky),
                                         pllLocked := s.pwr.pllLocked &&& 0x60#7 },
                     boot := { s.boot with unlocked := s.boot.unlocked ++ lost },
                     ecat := t.ecat, ev := t.ev, mbox := t.mbox }) ∧
  (∀ s : State, refclkChecked s = true → running s = true → s.pwr.refclkLost = false → (∃ n < 5, 65536 * 0x0B05 + n ∉ s.pwr.raised) →
      ∃ t, exec .refclkLost s = .next t ∧ t.pwr.refclkLost = true ∧ t.pwr.pllLocked = (s.pwr.pllLocked &&& 0x60#7) ∧
        bitOf t.pwr.railSticky 4 = true ∧ ((∃ n < 5, s.pwr.pllLocked.getLsbD n = true) → bitOf t.pwr.railSticky 5 = true) ∧
        t.modes.mode = .fault ∧ eventCount s < eventCount t ∧
        t.dict = s.dict ∧ t.cfg = s.cfg ∧ t.boot = s.boot ∧ t.flash = s.flash ∧ t.upd = s.upd ∧ t.otp = s.otp ∧
        t.now = s.now ∧ t.clk = s.clk) ∧
  (∀ (n : Fin 7) (s : State),
      ((railsGood s = false ∨ running s = false ∧ s.pwr.pllLocked.getLsbD n = false) → exec (.pllUnlock n) s = .next s) ∧
      (railsGood s = true → running s = false → s.pwr.pllLocked.getLsbD n = true →
        ∃ t, exec (.pllUnlock n) s = .next t ∧ t.boot = { s.boot with unlocked := s.boot.unlocked ++ [n.val] } ∧
          t.pwr.pllLocked = (s.pwr.pllLocked &&& ~~~(1#7 <<< n.val)) ∧ t.pwr.railSticky = stick 5 s.pwr.railSticky ∧
          (s.boot.phase ≠ .booting 3 → eventCount t = eventCount s) ∧ (s.boot.phase = .booting 3 → 5 ≤ n.val → eventCount t = eventCount s + 1) ∧
          (s.boot.phase = .booting 3 → n.val ≤ 4 → 65536 * 0x0B05 + n.val ∉ s.pwr.raised → eventCount s < eventCount t) ∧
          t = { s with pwr := { s.pwr with pllLocked := t.pwr.pllLocked, railSticky := t.pwr.railSticky, raised := t.pwr.raised,
                                           laneLoss := t.pwr.laneLoss },
                       boot := t.boot, host := { s.host with lanes := t.host.lanes }, ecat := t.ecat, ev := t.ev, mbox := t.mbox }) ∧
      (railsGood s = false → exec (.pllRelock n) s = .next s) ∧
      (railsGood s = true → running s = false → s.boot.phase ≠ .booting 3 →
        (n.val ≤ 4 ∨ s.pwr.laneLoss.getD (n.val - 5) none = none) → exec (.pllRelock n) s = .next { s with pwr := { s.pwr with
          pllLocked := s.pwr.pllLocked ||| (1#7 <<< n.val), refclkLost := s.pwr.refclkLost && decide (4 < n.val) } })) ∧
  (∀ (n : Fin 7) (s : State), railsGood s = true → running s = true → n.val ≤ 4 → 65536 * 0x0B05 + n.val ∉ s.pwr.raised →
      ∃ t, exec (.pllUnlock n) s = .next t ∧ t.pwr.pllLocked.getLsbD n = false ∧ bitOf t.pwr.railSticky 5 = true ∧
        t.modes.mode = .fault ∧ eventCount s < eventCount t ∧ t.dict = s.dict ∧ t.cfg = s.cfg ∧ t.boot = s.boot ∧
        t.flash = s.flash ∧ t.upd = s.upd ∧ t.otp = s.otp ∧ t.now = s.now ∧ t.clk = s.clk) ∧
  (∀ (n : Fin 7) (s : State), railsGood s = true → running s = true → Shaped s = true → 5 ≤ n.val → s.pwr.pllLocked.getLsbD n = true →
      s.pwr.laneLoss.length = 2 →
      ∃ t, exec (.pllUnlock n) s = .next t ∧ t.pwr.pllLocked.getLsbD n = false ∧
        (∀ l < 16, laneOf l t = if l / 8 = n.val - 5 then { laneOf l s with blockLock := false } else laneOf l s) ∧
        t.pwr.laneLoss.getD (n.val - 5) none =
          some (s.clk, ((List.range 8).map (fun i => 8 * (n.val - 5) + i)).filter (fun l => (laneOf l s).blockLock)) ∧
        eventCount s < eventCount t ∧
        t = { s with pwr := { s.pwr with pllLocked := t.pwr.pllLocked, laneLoss := t.pwr.laneLoss,
                                         railSticky := stick 5 s.pwr.railSticky },
                     host := { s.host with lanes := t.host.lanes }, ecat := t.ecat, ev := t.ev, mbox := t.mbox }) ∧
  (∀ (n : Fin 7) (at' : Nat) (lanes : List Nat) (s : State), railsGood s = true → Shaped s = true → 5 ≤ n.val →
      s.pwr.laneLoss.length = 2 → s.pwr.laneLoss.getD (n.val - 5) none = some (at', lanes) →
      ∃ t, exec (.pllRelock n) s = .next t ∧ t.pwr.pllLocked.getLsbD n = true ∧ t.pwr.laneLoss.getD (n.val - 5) none = none ∧
        (∀ l < 16, laneOf l t = if s.clk ≤ at' + 1000000 ∧ l ∈ lanes ∧ laneOn l s = true ∧ laneEnabled l s = true
          then { laneOf l s with blockLock := true } else laneOf l s) ∧
        t = { s with pwr := { s.pwr with pllLocked := t.pwr.pllLocked, laneLoss := t.pwr.laneLoss },
                     host := { s.host with lanes := t.host.lanes } }) ∧
  (∀ (n : Fin 7) (s : State), railsGood s = true → 5 ≤ n.val → s.pwr.laneLoss.getD (n.val - 5) none = none →
      exec (.pllRelock n) s = .next { s with pwr := { s.pwr with pllLocked := s.pwr.pllLocked ||| (1#7 <<< n.val) } }) ∧
  (∀ (n : Fin 7) (s : State), railsGood s = true → (running s = true ∨ s.boot.phase = .booting 3) → n.val ≤ 4 →
      (∀ m < 5, m = n.val ∨ s.pwr.pllLocked.getLsbD m = true ∨ 65536 * 0x0B05 + m ∈ s.pwr.raised) →
      ∃ t, exec (.pllRelock n) s = .next t ∧ t.pwr.pllLocked.getLsbD n = true ∧ 65536 * 0x0B05 + n.val ∉ t.pwr.raised ∧
        t = { s with pwr := { s.pwr with pllLocked := t.pwr.pllLocked, raised := t.pwr.raised, refclkLost := false } }) ∧
  (∀ (d : Fin 20) (s : State), (running s = false ∨ poweringUp d s = false ∨ powersNext d s = false) →
      exec (.domainPowerUp d) s = .next s) ∧
  (∀ (d : Fin 20) (s : State), running s = true → poweringUp d s = true → powersNext d s = true →
      ∃ t, exec (.domainPowerUp d) s = .next t ∧
        t.dict = s.dict ∧ t.cfg = s.cfg ∧ t.flash = s.flash ∧ t.upd = s.upd ∧ t.otp = s.otp ∧ t.now = s.now ∧
        t.clk = s.clk ∧
        (d.val ∈ [1, 13, 14, 15, 16, 17, 18] → t = { s with pwr := { s.pwr with
          domains := s.pwr.domains ||| (1#20 <<< d.val), powering := s.pwr.powering &&& ~~~(1#20 <<< d.val) } }) ∧
        (d.val ∈ [0, 4, 5, 6, 7, 8, 9, 10, 11, 12, 19] → t.pwr = { s.pwr with
          domains := s.pwr.domains ||| (1#20 <<< d.val), powering := s.pwr.powering &&& ~~~(1#20 <<< d.val) } ∧
          t.modes = s.modes ∧ t.ev = s.ev) ∧
        (d = 2 → sectionOk 1 s = true → t = { s with
          pwr := { s.pwr with domains := s.pwr.domains ||| 4#20, powering := s.pwr.powering &&& ~~~4#20 },
          mot := { s.mot with pcHeld := false } }) ∧
        (d = 2 → sectionOk 1 s = false → t.mot.pcHeld = true ∧ t.boot = { s.boot with sectionBad := true } ∧ t.modes.mode = .fault ∧
          eventCount s < eventCount t) ∧
        (d = 3 → sectionOk 2 s = false → t.mot.mcHeld = true ∧ t.boot = { s.boot with sectionBad := true } ∧ t.modes.mode = .fault ∧
          eventCount s < eventCount t) ∧
        (d = 3 → sectionOk 2 s = true → t = { s with
          pwr := { s.pwr with domains := s.pwr.domains ||| 8#20, powering := s.pwr.powering &&& ~~~8#20 },
          mot := { s.mot with mcHeld := false } }))

/-- R371 to R373 with Table 14.7: the governor, with its frames. -/
def Obligations.GovernorSteps : Prop :=
  (∀ (mw : Nat) (s : State), running s = false → exec (.governorEvaluate mw) s = .next s) ∧
  (∀ (mw : Nat) (s : State), running s = true → flagVal Obj.GOV_ENABLE s = false →
      exec (.governorEvaluate mw) s = .next { s with pwr := { s.pwr with devicePower := mw } }) ∧
  (∀ (mw : Nat) (s : State), running s = true → flagVal Obj.GOV_ENABLE s = true →
    let g := s.pwr.gov
    let above := val Obj.POWER_CAP s < mw ∨ sval 16 Obj.TJ_TARGET s < (tjMax s).1
    let clear := mw + val Obj.POWER_HYST s < val Obj.POWER_CAP s ∧
      (tjMax s).1 < sval 16 Obj.TJ_TARGET s - (val Obj.TJ_HYST s : Int)
    let timed (ms : Nat) : Prop := g.pendingStep = none ∧ ∀ e, g.effectAt = some e → e + 1000000 * ms ≤ s.clk
    let since := g.clearSince.getD s.clk
    let half := flagVal Obj.GOV_ALLOW_HALF_RES s
    let step := val Obj.GOV_SPEED_STEP s
    let floor := val Obj.GOV_SPEED_FLOOR s
    let dest (t : State) (level cap : Nat) : Prop :=
      exec (.governorEvaluate mw) s = .next t ∧ t.pwr.gov.level = level ∧ t.pwr.gov.cap = cap ∧
      t.pwr.devicePower = mw ∧ t.cmp.halfWanted = (decide (2 ≤ level) && half) ∧
      t = { s with pwr := { s.pwr with devicePower := mw, gov := t.pwr.gov }, cmp := { s.cmp with halfWanted := t.cmp.halfWanted } }
    ((¬ above ∧ ¬ clear) → exec (.governorEvaluate mw) s = .next { s with pwr := { s.pwr with
        devicePower := mw, gov := { g with above := false, holding := true, clearSince := none } } }) ∧
    (above → ¬ timed (val Obj.GOV_STEP_TIME s) → exec (.governorEvaluate mw) s = .next { s with pwr := { s.pwr with
        devicePower := mw, gov := { g with above := true, holding := false, clearSince := none } } }) ∧
    (above → timed (val Obj.GOV_STEP_TIME s) →
      (g.level = 3 → floor < g.cap → ∃ t, dest t 3 (max floor (g.cap - step)) ∧ t.pwr.gov.above = true) ∧
      (g.level = 0 → 1 ≤ govHighest s.modes.mode s → ∃ t, dest t 1 100 ∧ t.pwr.gov.above = true ∧
        (s.lv.groups.all (fun x => x.pass.isNone) = true → t.pwr.gov.effectAt = some s.clk ∧ t.pwr.gov.pendingStep = none) ∧
        (s.lv.groups.all (fun x => x.pass.isNone) = false →
          t.pwr.gov.effectAt = g.effectAt ∧ t.pwr.gov.pendingStep = some .background)) ∧
      (g.level = 1 → 2 ≤ govHighest s.modes.mode s → half = true →
        ∃ t, dest t 2 100 ∧ t.pwr.gov.pendingStep = some .resolution ∧ t.pwr.gov.effectAt = g.effectAt) ∧
      (g.level = 1 ∧ half = false ∨ g.level = 2 → 3 ≤ govHighest s.modes.mode s →
        ∃ t, dest t 3 (max floor (100 - step)) ∧ bitOf t.pwr.gov.sticky 5 = true) ∧
      ((g.level = 3 → g.cap ≤ floor) → govHighest s.modes.mode s ≤ g.level →
        ∃ t, exec (.governorEvaluate mw) s = .next t ∧
          t.pwr.gov = { g with above := true, holding := false, clearSince := none, atLimit := true, sticky := stick 4 g.sticky } ∧
          eventCount t = (if g.atLimit = true then eventCount s else eventCount s + 1) ∧
          t = { s with pwr := { s.pwr with devicePower := mw, gov := t.pwr.gov }, ecat := t.ecat, ev := t.ev, mbox := t.mbox })) ∧
    (clear → ¬ above → ¬ (timed (val Obj.GOV_RELEASE_TIME s) ∧ since + 1000000 * val Obj.GOV_RELEASE_TIME s ≤ s.clk) →
      exec (.governorEvaluate mw) s = .next { s with pwr := { s.pwr with
        devicePower := mw, gov := { g with above := false, holding := false, clearSince := some since } } }) ∧
    (clear → ¬ above → timed (val Obj.GOV_RELEASE_TIME s) → since + 1000000 * val Obj.GOV_RELEASE_TIME s ≤ s.clk →
      (g.level = 3 → g.cap < 100 → ∃ t, dest t 3 (min 100 (g.cap + step)) ∧ t.pwr.gov.atLimit = false) ∧
      (g.level = 3 → 100 ≤ g.cap →
        ∃ t, dest t (if half = true then 2 else 1) 100 ∧ t.pwr.gov.atLimit = false ∧ t.pwr.gov.effectAt = some s.clk) ∧
      (g.level = 2 → ∃ t, dest t 1 100 ∧ t.pwr.gov.pendingStep = some .resolution ∧ t.pwr.gov.atLimit = false) ∧
      (g.level = 1 → ∃ t, dest t 0 100 ∧ t.pwr.gov.effectAt = some s.clk ∧ t.pwr.gov.atLimit = false) ∧
      (g.level = 0 → exec (.governorEvaluate mw) s = .next { s with pwr := { s.pwr with
        devicePower := mw, gov := { g with above := false, holding := false, clearSince := some since, atLimit := false } } }))) ∧
  (∀ (via : Path) (v : BitVec 8) (s : State), served via s = true →
      (1 < v.toNat → exec (.govEnableWrite via v) s = .next (answerWrite via 0x06090030 s) ∧
        exec (.govAllowHalfResWrite via v) s = .next (answerWrite via 0x06090030 s)) ∧
      (v = 1 → exec (.govEnableWrite via v) s = .next (answerWrite via 0 (noteWrite (setVal Obj.GOV_ENABLE 1 s)))) ∧
      (v = 0 → ∃ t, exec (.govEnableWrite via v) s = .next (answerWrite via 0 t) ∧ flagVal Obj.GOV_ENABLE t = false ∧
        t.pwr.gov.level = 0 ∧ t.pwr.gov.cap = 100 ∧ t.pwr.gov.pendingStep = none ∧ t.cmp.halfWanted = false ∧
        t = { s with dict := (setVal Obj.GOV_ENABLE 0 s).dict, pwr := { s.pwr with gov := t.pwr.gov },
                     cmp := { s.cmp with halfWanted := false }, cfg := (noteWrite s).cfg }) ∧
      (v.toNat ≤ 1 → ∃ t, exec (.govAllowHalfResWrite via v) s = .next (answerWrite via 0 t) ∧
        t.pwr.gov.level = (if v = 0 ∧ s.pwr.gov.level = 2 then 1 else s.pwr.gov.level) ∧
        t.cmp.halfWanted = (decide (v = 1) && decide (2 ≤ s.pwr.gov.level)) ∧
        t = { s with dict := (setVal Obj.GOV_ALLOW_HALF_RES v.toNat s).dict, pwr := { s.pwr with gov := t.pwr.gov },
                     cmp := { s.cmp with halfWanted := t.cmp.halfWanted }, cfg := (noteWrite s).cfg })) ∧
  (∀ (via : Path) (v : BitVec 16) (s : State), served via s = true →
      exec (.govStatusClear via v) s = .next (answerWrite via 0
        { s with pwr := { s.pwr with gov := { s.pwr.gov with sticky := unstick s.pwr.gov.sticky v.toNat } } }))

/-- R376 to R379: the entries to OFF, by what they keep (EnteredOff), and the steps of Table 15.2; 19 R454: the balls in OFF and with their domain off. Straps at the restarts that no operand describes are the bench's (log entry 66). -/
def Obligations.ResetsAndRailSequence : Prop :=
  (∀ (x m : Bool) (s : State),
    (s.boot.phase = .unpowered → exec (.powerOn x m) s = .next { s with boot := { s.boot with
      phase := .rails 1, startedAt := s.clk, xtalSel := x, testMode := m } }) ∧
    (s.boot.phase ≠ .unpowered → exec (.powerOn x m) s = .next s) ∧
    (s.boot.phase = .unpowered → ∀ low, exec (.resetPin low x m) s = .next s) ∧
    (s.boot.phase = .pinHeld → exec (.resetPin true x m) s = .next s ∧
      exec (.resetPin false x m) s = .next { s with boot := { s.boot with
        phase := .rails 3, startedAt := s.clk, xtalSel := x, testMode := m } }) ∧
    (s.boot.phase ≠ .unpowered → s.boot.phase ≠ .pinHeld →
      exec (.resetPin false x m) s = .next s ∧
      ∃ t, exec (.resetPin true x m) s = .next t ∧ EnteredOff .pinHeld 1 0 s t ∧ t.boot.count = s.boot.count + 1 ∧
        t.boot.railResets = []) ∧
    (s.boot.phase = .waitRestart → exec (.resetRestart x m) s = .next { s with boot := { s.boot with
      phase := .rails 3, startedAt := s.clk, xtalSel := x, testMode := m } }) ∧
    (s.boot.phase ≠ .waitRestart → exec (.resetRestart x m) s = .next s)) ∧
  (∀ s : State,
    (mpRuns s = false → exec .mpWatchdog s = .next s) ∧
    (mpRuns s = true → ∃ t, exec .mpWatchdog s = .next t ∧ EnteredOff (.rails 3) 4 0 s t ∧ t.boot.count = s.boot.count + 1)) ∧
  (∀ (via : Path) (s : State), served via s = true →
      (∃ t, exec (.softwareReset via) s = .next t ∧ EnteredOff (.rails 3) 5 0 s t ∧ t.boot.count = s.boot.count + 1) ∧
      (∃ t, exec (.objectWrite via 0x2E50 4 [0x07, 0xB0]) s = .next t ∧ EnteredOff (.rails 3) 5 0 s t ∧
        t.boot.count = s.boot.count + 1) ∧
      ∀ data : List Byte, data.length = 2 → leNat data ≠ 0xB007 →
        exec (.objectWrite via 0x2E50 4 data) s = .next (answerWrite via 0x06090030 s)) ∧
  (∀ (x : Signal) (phase : BootPhase) (cause detail : Nat) (s t : State), EnteredOff phase cause detail s t →
      phase ∈ [.unpowered, .pinHeld, .waitRestart, .lockedOut] →
      ballState x t = (if x = .ind 0 ∧ phase = .lockedOut then .active else x.offState)) ∧
  (∀ (x : Signal) (d : Nat) (y : BallState) (s : State), running s = true → s.boot.phase ≠ .starter →
      x.domainOffState = some (d, y) → domainOn d s = false → ballState x s = y) ∧
  (∀ s : State,
    (∀ n, s.boot.phase = .rails n → n < 6 →
      exec .railGood s = .next { s with boot := { s.boot with phase := .rails (n + 1) } }) ∧
    (∀ n, s.boot.phase = .rails n → 6 ≤ n →
      exec .railGood s = .next { s with
        boot := { s.boot with phase := .starter }, pins := { s.pins with qspiDriven := !s.boot.testMode },
        pwr := { s.pwr with domains := 3#20, pllLocked := if s.pwr.refclkLost then 0 else 1 } }) ∧
    ((∀ n, s.boot.phase ≠ .rails n) → exec .railGood s = .next s)) ∧
  (∀ (m : Fin 20) (s : State),
    let started (n : Nat) : Prop := (n, m.val) ∈ [(1, 1), (3, 2), (3, 3), (3, 4), (3, 5), (4, 8), (5, 9), (5, 18), (6, 6), (6, 7)]
    (∀ n, s.boot.phase = .rails n → started n →
      ∃ t, exec (.railStartTimeout m) s = .next t ∧ t.boot.count = s.boot.count + 1 ∧
        EnteredOff (if 2 ≤ (s.boot.railResets.filter (fun x => decide (s.clk < x + 10000000000))).length
          then .lockedOut else .waitRestart) 2 m s t) ∧
    (∀ n, s.boot.phase = .rails n → ¬ started n → exec (.railStartTimeout m) s = .next s) ∧
    ((∀ n, s.boot.phase ≠ .rails n) → exec (.railStartTimeout m) s = .next s))

/-- R380 to R388: from the Starter to STANDBY, and discovery, with their frames. That the reads of the tiles arrive one after another at their bus (log entry 174), and that PLL1 to PLL6 lock as an image boots (53), are the model's choices. -/
def Obligations.StarterBootAndDiscovery : Prop :=
  (∀ s : State, ((s.boot.phase ≠ .starter ∨ s.boot.testMode = true ∨ s.pwr.pllLocked.getLsbD 0 = false) → exec .starter s = .next s) ∧
      ((s.boot.phase ≠ .noImage ∨ s.pwr.pllLocked.getLsbD 0 = false) → exec .starterRetry s = .next s)) ∧
  (∀ (c : Instr) (s : State),
    (c = .starter ∧ s.boot.phase = .starter ∧ s.boot.testMode = false ∨ c = .starterRetry ∧ s.boot.phase = .noImage) →
    s.pwr.pllLocked.getLsbD 0 = true →
    let ok (n : Nat) : Bool := imageOk (slotImage n s) s.otp
    let r : BootRecord := (bootRecord s).getD ⟨0, 0, false, 0, true⟩
    let status (fell : Bool) : Nat := bitsOf [ok 0, ok 1, fell, (bootRecord s).isNone]
    let runs := ok r.slot = true ∧ (r.trial = true → r.count < 3)
    r.slot ≤ 1 →
    (runs → ∃ t, exec c s = .next t ∧
      t.boot = { s.boot with
        phase := .booting 1, slot := r.slot, imageVersion := (slotImage r.slot s).version, trial := r.trial,
        status := status false } ∧
      (r.trial = false → t.flash = s.flash) ∧
      (r.trial = true → s.bench.readBacks = [] → (bootRecord t).map (fun x => (x.slot, x.trial, x.count)) = some (r.slot, true, r.count + 1)) ∧
      t = { s with boot := t.boot, pwr := { s.pwr with pllLocked := s.pwr.pllLocked ||| 0x7E#7 },
                   pins := { s.pins with ind0 := .level }, bench := { s.bench with readBacks := t.bench.readBacks },
                   flash := { s.flash with bootRecords := t.flash.bootRecords, sticky := t.flash.sticky } }) ∧
    (¬ runs → ok (1 - r.slot) = true → exec c s = .next { s with
      boot := { s.boot with
        phase := .booting 1, slot := 1 - r.slot, imageVersion := (slotImage (1 - r.slot) s).version, trial := false,
        status := status true },
      pwr := { s.pwr with pllLocked := s.pwr.pllLocked ||| 0x7E#7 }, pins := { s.pins with ind0 := .level } }) ∧
    (¬ runs → ok (1 - r.slot) = false → exec c s = .next { s with
      boot := { s.boot with phase := .noImage, status := status false }, pins := { s.pins with ind0 := .blink1 } })) ∧
  (∀ s : State, s.boot.phase = .booting 1 →
      ∃ t, exec .bootActions s = .next t ∧ t.boot.phase = .booting 3 ∧ t.boot.discovery = 1 ∧ t.boot.discoveryAtBoot = true ∧
        t.boot.trained = none ∧ t.pins.ecPhyReset = true ∧ t.pins.ddrReset = [true, channelPresent 1 t] ∧
        t.ecat.sii = some (siiImage t) ∧ (∀ d ∈ [3, 15, 17, 19], domainOn d t = true) ∧ t.dict.atReset = t.dict.held ∧
        t.flash = s.flash ∧ t.upd = s.upd ∧ t.otp = s.otp ∧ t.now = s.now ∧ t.clk = s.clk) ∧
  (∀ (a b : Bool) (s : State), s.boot.phase = .booting 3 → s.boot.trained = some (a, b) → s.boot.discovery = 2 →
      let failed := (channelPresent 0 s && !a) || (channelPresent 1 s && !b) || s.boot.sectionBad || s.boot.unlocked.any (fun n => decide (n ≤ 4))
      ∃ t, exec .bootActions s = .next t ∧ t.modes.mode = (if failed = true then .fault else .standby) ∧
        t.modes.changeTime = s.now ∧ t.boot = { s.boot with phase := .running, bootTime := (s.clk - s.boot.startedAt) / 1000 } ∧
        eventCount s < eventCount t ∧ (failed = false → domainOn 15 t = false ∧ domainOn 16 t = false) ∧
        t.dict.atReady = s.dict.held ∧ t.cfg = s.cfg ∧ t.upd = s.upd ∧ t.otp = s.otp ∧ t.now = s.now ∧ t.clk = s.clk) ∧
  (∀ s : State, s.boot.phase = .booting 3 → (s.boot.trained = none ∨ s.boot.discovery ≠ 2) → exec .bootActions s = .next s) ∧
  (∀ s : State, s.boot.phase ≠ .booting 1 → s.boot.phase ≠ .booting 3 → exec .bootActions s = .next s) ∧
  (∀ (a b : Bool) (s : State),
    ((s.boot.phase ≠ .booting 3 ∨ s.boot.trained ≠ none) → exec (.dramTrainingDone a b) s = .next s) ∧
    (s.boot.phase = .booting 3 → s.boot.trained = none →
      let two := channelPresent 1 s
      let good := a && (!two || b)
      exec (.dramTrainingDone a b) s = .next { s with
        boot := { s.boot with trained := some (a, b) },
        cist := { s.cist with
          capacity := if good then (valReset Obj.DRAM_CH0_CAPACITY s + (if two then valReset Obj.DRAM_CH1_CAPACITY s else 0)) * GB
            else 0,
          ready0 := a, ready1 := two && b, trainingFailed := s.cist.trainingFailed || !good } })) ∧
  (∀ (via : Path) (s : State), served via s = true →
      (s.boot.discovery = 1 → exec (.tileDiscover via) s = .next (answerWrite via 0x08000022 s)) ∧
      (s.boot.discovery ≠ 1 → Shaped s = true → twUsable 0 s = true → twUsable 1 s = true →
        ∃ t, exec (.tileDiscover via) s = .next (answerWrite via 0 t) ∧ t.tw.tiles = [] ∧
          (∀ b : Fin 2, busOf b t = { busOf b s with jobs := (busOf b s).jobs ++ [⟨.tile (48 * b.val) false, 0⟩] }) ∧
          t = { s with boot := { s.boot with discovery := 1, discoveryAtBoot := false },
                       tw := { s.tw with tiles := [], buses := t.tw.buses } })) ∧
  -- the transaction that reads a tile's record, alone on its bus
  (∀ (b : Fin 2) (i : Fin 48) (again : Bool) (rest : List TwJob) (n : Nat) (s : State), Shaped s = true → (busOf b s).state = .idle →
      (busOf b s).next = none →
      (busOf b s).jobs = ⟨.tile (48 * b.val + i.val) again, n⟩ :: rest →
    let p := 48 * b.val + i.val
    let kept := rest.filter (stillDue b s)
    let onward := if i.val = 47 then kept else kept ++ [⟨.tile (p + 1) false, 0⟩]
    let comes (seen : List TwSeen) (tiles : List (Nat × TileFound)) (jobs : List TwJob) : Prop :=
      ∃ t, exec (.twTransaction b seen) s = .next t ∧ t.tw.tiles = tiles ∧ (busOf b t).state = .idle ∧ (busOf b t).run = none ∧
        (busOf b t).jobs = jobs ∧ (∀ c : Fin 2, c ≠ b → busOf c t = busOf c s) ∧
        t = { s with tw := { s.tw with tiles := tiles, buses := t.tw.buses } }
    comes [quiet false, quiet false] (s.tw.tiles ++ [(p, .absent)]) onward ∧
    (∀ l : List Byte, l.length = 64 →
      let seen := [quiet true, quiet true, quiet false, quiet true] ++ l.map (fun x => ⟨x, false⟩) ++ [quiet false]
      (fieldAt l 60 4 = crc32c (l.take 60) → comes seen (s.tw.tiles ++ [(p, .present l)]) onward) ∧
      (fieldAt l 60 4 ≠ crc32c (l.take 60) → again = false → comes seen s.tw.tiles (⟨.tile p true, 0⟩ :: kept)) ∧
      (fieldAt l 60 4 ≠ crc32c (l.take 60) → again = true → comes seen (s.tw.tiles ++ [(p, .bad)]) onward))) ∧
  (∀ (as : List (Fin 2 × List TwSeen)) (s : State), s.boot.discovery ≠ 1 → exec (.discoveryDone as) s = .next s) ∧
  (∀ (as : List (Fin 2 × List TwSeen)) (s u : State), s.boot.discovery = 1 →
    u = as.foldl (fun s a => twTransaction a.1.val a.2 s) s →
    (u.tw.tiles.length ≠ 96 → exec (.discoveryDone as) s = .next u) ∧
    (DictSorted u.dict = true → u.tw.tiles.length = 96 → (u.tw.tiles.map (fun x => x.1)).Perm (List.range 96) →
      let apply := flagVal Obj.TILE_AUTO_APPLY s && (s.boot.discoveryAtBoot || rwpOpen s)
      let takes (p : Nat) (l : List Byte) : Prop := ∀ x ∈ tileValues p l, ∃ r, findRow (x.1.key / 256) (x.1.key % 256) = some r ∧
        ownRangeOk (x.1.key / 256) (x.1.key % 256) r x.2 = true
      ∃ t, exec (.discoveryDone as) s = .next t ∧ t.boot.discovery = 2 ∧
        (∀ p < 96,
          ((p, .absent) ∈ u.tw.tiles → t.boot.present.getLsbD p = false ∧ t.boot.bad.getLsbD p = false ∧
            t.boot.mismatch.getLsbD p = false ∧ bytesGet p t.boot.identity = none) ∧
          ((p, .bad) ∈ u.tw.tiles → t.boot.present.getLsbD p = false ∧ t.boot.bad.getLsbD p = true ∧ bytesGet p t.boot.identity = none) ∧
          (∀ l, (p, .present l) ∈ u.tw.tiles → t.boot.present.getLsbD p = true ∧ t.boot.bad.getLsbD p = false ∧
            bytesGet p t.boot.identity = some l ∧
            (apply = false → (t.boot.mismatch.getLsbD p = true ↔
              fieldAt l 12 2 ≠ 816 ∨ ∃ x ∈ tileValues p l, val x.1 s ≠ x.2)) ∧
            (apply = true → takes p l → (t.boot.mismatch.getLsbD p = true ↔ fieldAt l 12 2 ≠ 816) ∧
              ∀ x ∈ tileValues p l, val x.1 t = x.2))) ∧
        (apply = false → t.dict = s.dict) ∧
        eventCount t = (if t.boot.bad = 0 ∧ t.boot.mismatch = 0 then eventCount u else eventCount u + 1) ∧
        t = { u with dict := { u.dict with held := t.dict.held },
                     boot := { u.boot with
                       discovery := 2, discoveryAtBoot := false, present := t.boot.present, bad := t.boot.bad,
                       mismatch := t.boot.mismatch, identity := t.boot.identity },
                     ecat := t.ecat, ev := t.ev, mbox := t.mbox }))

/-- R393 to R400: the rows of the mailboxes, with their frames. That MAILBOX_SEND places nothing on direction 1 is the model's reading (log entry 184). -/
def Obligations.MailboxTransfers : Prop :=
  (∀ (d : Fin 8) (m : List Byte) (s : State),
    ((running s = false ∨ senderRuns d s = false ∨ d = 1 ∨ (dirOf d s).sending ≠ none) → exec (.mailboxSend d m) s = .next s) ∧
    (Shaped s = true → running s = true → senderRuns d s = true → d ≠ 1 → (dirOf d s).sending = none →
      let off := domainOn (ringDomain d) s = false ∧ poweringUp (ringDomain d) s = false
      ∃ t, exec (.mailboxSend d m) s = .next t ∧
        (¬ off → dirOf d t = { dirOf d s with sending := some (asMessage m) } ∧ t.pwr = s.pwr) ∧
        (off → dirOf d t = { dirOf d s with sending := some (asMessage m), wakes := (dirOf d s).wakes + 1 } ∧
          t.pwr.powering = s.pwr.powering ||| (1#20 <<< ringDomain d)) ∧
        (∀ j, j ≠ d.val → dirOf j t = dirOf j s) ∧
        t = { s with mbox := { s.mbox with dirs := t.mbox.dirs }, pwr := { s.pwr with powering := t.pwr.powering } })) ∧
  (∀ (d : Fin 8) (s : State), ((dirOf d s).sending = none ∨ running s = false ∨ domainOn (ringDomain d) s = false ∨
        receiverHeld d s = true ∨ ringSlots d ≤ (dirOf d s).ring.length) → exec (.mailboxDeliver d) s = .next s) ∧
  (∀ (d : Fin 8) (m : Message) (s : State), Shaped s = true → (dirOf d s).sending = some m → running s = true →
      domainOn (ringDomain d) s = true → receiverHeld d s = false → (dirOf d s).ring.length < ringSlots d →
      let x := dirOf d s
      let reply := hostMessage 0x81 s.mbox.nextSeq ((m.drop 8).take (min 56 (m.getD 1 0).toNat))
      ∃ t, exec (.mailboxDeliver d) s = .next t ∧
        dirOf d t = { x with
          ring := x.ring ++ [m], delivered := x.delivered + 1, highWater := max x.highWater (x.ring.length + 1),
          sending := x.queued.head?, queued := x.queued.drop 1 } ∧
        (∀ j, j ≠ d.val → (j ≠ 1 ∨ d ≠ 0) → dirOf j t = dirOf j s) ∧
        (d ≠ 0 → t = { s with mbox := { s.mbox with dirs := t.mbox.dirs } }) ∧
        (d = 0 → t.mbox.hostWaits = none ∧
          (∀ via, s.mbox.hostWaits = some (.write via) →
            t.dict = (answerWrite via 0 s).dict ∧ t.host = s.host ∧ t.ecat = s.ecat) ∧
          ((m.getD 0 0).toNat ≠ 1 → t.mbox.unknown = s.mbox.unknown + 1 ∧ dirOf 1 t = dirOf 1 s) ∧
          ((m.getD 0 0).toNat = 1 → t.mbox.unknown = s.mbox.unknown ∧
            ((dirOf 1 s).sending = none → dirOf 1 t = { dirOf 1 s with sending := some reply }) ∧
            ((dirOf 1 s).sending ≠ none → dirOf 1 t = { dirOf 1 s with queued := (dirOf 1 s).queued ++ [reply] }))) ∧
        t = { s with dict := t.dict, ecat := t.ecat, ev := t.ev, mbox := t.mbox, host := t.host }) ∧
  (∀ (d : Fin 8) (s : State), ((dirOf d s).sending = none ∨ running s = false) → exec (.mailboxTimeout d) s = .next s) ∧
  (∀ (d : Fin 8) (m : Message) (s : State), Shaped s = true → (dirOf d s).sending = some m → running s = true →
      ∃ t, exec (.mailboxTimeout d) s = .next t ∧ (dirOf d t).sending = (dirOf d s).queued.head? ∧
        (dirOf d t).ring = (dirOf d s).ring ∧ (dirOf d t).delivered = (dirOf d s).delivered ∧
        (dirOf d t).timeouts = (dirOf d s).timeouts + 1 ∧ t.mbox.sticky = stick d s.mbox.sticky ∧
        t.mbox.lost = (if d = 1 then s.mbox.lost + 1 else s.mbox.lost) ∧
        eventCount t = (if d = 1 ∨ bitOf s.mbox.sticky d = true then eventCount s else eventCount s + 1) ∧
        (d = 0 → t.mbox.hostWaits = none ∧ ∀ via, s.mbox.hostWaits = some (.write via) →
          t.dict = (answerWrite via 0x08000022 s).dict) ∧
        (d ≠ 0 → t.dict = s.dict ∧ t.host = s.host ∧ t.mbox.hostWaits = s.mbox.hostWaits) ∧
        t = { s with dict := t.dict, ecat := t.ecat, ev := t.ev, mbox := t.mbox, host := t.host,
                     pwr := { s.pwr with powering := t.pwr.powering } }) ∧
  (∀ (d : Fin 8) (s : State),
    ((running s = false ∨ d = 1 ∨ receiverHeld d s = true ∨ domainOn (ringDomain d) s = false) →
      exec (.mailboxRelease d) s = .next s) ∧
    (Shaped s = true → running s = true → d ≠ 1 → receiverHeld d s = false → domainOn (ringDomain d) s = true →
      ∃ t, exec (.mailboxRelease d) s = .next t ∧ dirOf d t = { dirOf d s with ring := (dirOf d s).ring.drop 1 } ∧
        (∀ j, j ≠ d.val → dirOf j t = dirOf j s) ∧ t = { s with mbox := { s.mbox with dirs := t.mbox.dirs } })) ∧
  (∀ s : State,
    let idle := s.modes.mode = .standby ∧ s.modes.trans = none ∧ domainOn 2 s = true ∧ s.mot.pcHeld = false ∧
      (∀ d ∈ [2, 7], (dirOf d s).ring = []) ∧ (∀ d ∈ [3, 6], (dirOf d s).sending = none)
    (¬ idle → exec .pcRelease s = .next s) ∧
    (idle → Shaped s = true → ∃ t, exec .pcRelease s = .next t ∧ domainOn 2 t = false ∧ (∀ d < 20, d ≠ 2 → domainOn d t = domainOn d s) ∧
      (∀ d ∈ [0, 1, 5], dirOf d t = dirOf d s) ∧
      (∀ d ∈ [2, 4, 7], dirOf d t = { dirOf d s with wakes := (dirOf d t).wakes }) ∧
      -- a send on its way to the PC powers PD02 up again
      (domainOn 3 s = true → poweringUp 2 s = false →
        ((∀ d ∈ [2, 7], (dirOf d s).sending = none) → t.pwr.powering = s.pwr.powering ∧ (dirOf 2 t).wakes = (dirOf 2 s).wakes ∧
          (dirOf 7 t).wakes = (dirOf 7 s).wakes) ∧
        ((∃ d ∈ [2, 7], (dirOf d s).sending ≠ none) → t.pwr.powering = (s.pwr.powering ||| 4#20) ∧
          (dirOf 2 t).wakes + (dirOf 7 t).wakes = (dirOf 2 s).wakes + (dirOf 7 s).wakes + 1)) ∧
      t = { s with pwr := { s.pwr with domains := t.pwr.domains, powering := t.pwr.powering },
                   mbox := { s.mbox with dirs := t.mbox.dirs } })) ∧
  (∀ (via : Path) (m : List Byte) (s : State), served via s = true →
      (m.length ≠ 64 → exec (.hmSend via m) s = .next (answerWrite via 0x06070010 s)) ∧
      (m.length = 64 → (dirOf 0 s).sending ≠ none → exec (.hmSend via m) s = .next (answerWrite via 0x08000022 s)) ∧
      (Shaped s = true → m.length = 64 → (dirOf 0 s).sending = none →
        ∃ t, exec (.hmSend via m) s = .next t ∧ dirOf 0 t = { dirOf 0 s with sending := some m } ∧
          (∀ j, j ≠ 0 → dirOf j t = dirOf j s) ∧
          t = { s with mbox := { s.mbox with dirs := t.mbox.dirs, hostWaits := some (.write via) } })) ∧
  (∀ (via : Path) (v : BitVec 16) (s : State), served via s = true → Shaped s = true →
      (∀ m r, (dirOf 1 s).ring = m :: r → leNat ((m.drop 2).take 2) = v.toNat →
        ∃ t, exec (.mhRelease via v) s = .next (answerWrite via 0 t) ∧ dirOf 1 t = { dirOf 1 s with ring := r } ∧
          (∀ j, j ≠ 1 → dirOf j t = dirOf j s) ∧ t = { s with mbox := { s.mbox with dirs := t.mbox.dirs } }) ∧
      (((dirOf 1 s).ring = [] ∨ ∃ m r, (dirOf 1 s).ring = m :: r ∧ leNat ((m.drop 2).take 2) ≠ v.toNat) →
        exec (.mhRelease via v) s = .next (answerWrite via 0 s))) ∧
  (∀ (via : Path) (v : BitVec 8) (s : State), served via s = true →
      exec (.mboxStatusClear via v) s = .next (answerWrite via 0
        { s with mbox := { s.mbox with sticky := unstick s.mbox.sticky v.toNat } }))

/-- R402 to R408: the rows of the flash and of telemetry, with their frames. What a failed erase of a log block does is the model's reading (log entry 136). -/
def Obligations.FlashLogAndTelemetry : Prop :=
  (∀ (ok : Bool) (s : State), (mpRuns s = false ∨ s.ev.waiting = []) → exec (.logFlush ok) s = .next s) ∧
  (∀ s : State, mpRuns s = true → s.ev.waiting ≠ [] →
      exec (.logFlush false) s = .next { s with flash := { s.flash with sticky := stick 4 s.flash.sticky } }) ∧
  (∀ (old : List LogBlock) (b : LogBlock) (s : State), mpRuns s = true → s.ev.waiting ≠ [] → s.flash.log = old ++ [b] →
    let l := s.ev.waiting.filter (fun e => decide (e.cls = 3)) ++ s.ev.waiting.filter (fun e => decide (e.cls ≠ 3))
    -- an entry that filled the first-error record is noted as it is stored, also after its acknowledgement
    let filled : Option LogEntry := match (l.filter (fun e => s.ev.fillers.contains e.sequence)).getLast? with
      | some e => some e
      | none => s.flash.filled
    let stored (log : List LogBlock) (t : State) : Prop :=
      t.ev.fillers = s.ev.fillers.filter (fun n => !(l.map (fun e => e.sequence)).contains n) ∧
      ((l.map (fun e => e.sequence)).Nodup → t.flash.filled = filled) ∧
      t = { s with ev := { s.ev with waiting := [], fillers := t.ev.fillers },
                   flash := { s.flash with log := log, filled := t.flash.filled, eraseCounts := t.flash.eraseCounts } }
    (b.entries.length + l.length ≤ 2046 → ∃ t, exec (.logFlush true) s = .next t ∧ stored (old ++ [{ b with entries := b.entries ++ l }]) t ∧
      t.flash.eraseCounts = s.flash.eraseCounts) ∧
    (b.entries.length = 2046 → l.length ≤ 2046 → old.length < 15 → ∃ t, exec (.logFlush true) s = .next t ∧
      stored (old ++ [b, ⟨(b.block + 1) % 16, l, [], false⟩]) t ∧ t.flash.eraseCounts = s.flash.eraseCounts) ∧
    (b.entries.length = 2046 → l.length ≤ 2046 → ∀ o rest, old = o :: rest → old.length = 15 →
      s.flash.eraseCounts.getD (16 + o.block) 0 < 89999 → s.bench.readBacks = [] → ∃ t, exec (.logFlush true) s = .next t ∧
        stored (rest ++ [b, ⟨(b.block + 1) % 16, l, [], false⟩]) t ∧
        t.flash.eraseCounts = modifyAt (fun n => n + 1) (16 + o.block) s.flash.eraseCounts) ∧
    (b.entries.length = 2046 → old.length = 15 → ∀ e more, s.ev.waiting = [e] → s.bench.readBacks = false :: more →
      exec (.logFlush true) s = .next { s with
        flash := { s.flash with sticky := stick 4 s.flash.sticky }, bench := { s.bench with readBacks := more } })) ∧
  (∀ (via : Path) (s : State), served via s = true →
      ∃ t, exec (.logClear via) s = .next (answerWrite via 0 t) ∧ t.ev.nextSeq = s.ev.nextSeq + 1 ∧
        (s.ev.waiting.length < 512 → ∃ e, t.ev.waiting = s.ev.waiting ++ [e] ∧ bitOf e.flags 1 = true ∧
          e.sequence = s.ev.nextSeq ∧ e.time = s.now ∧ e.source = 0xFFFF) ∧
        (512 ≤ s.ev.waiting.length → t.ev.waiting = s.ev.waiting ∧ t.ev.notStored = s.ev.notStored + 1) ∧
        (s.ev.waiting.length < 512 → (∀ e ∈ allEntries s, e.1.sequence < s.ev.nextSeq) → eventLog t = []) ∧
        t = { s with fresh := t.fresh, mbox := t.mbox,
                     ev := { s.ev with waiting := t.ev.waiting, notStored := t.ev.notStored, nextSeq := t.ev.nextSeq } }) ∧
  (∀ (ok : Bool) (s : State), (mpRuns s = false ∨ s.flash.leaven.length < 2) → exec (.leavenReclaim ok) s = .next s) ∧
  (∀ (ok : Bool) (s : State), mpRuns s = true → 2 ≤ s.flash.leaven.length → 1 ≤ s.pwr.gov.level → s.flash.leaven.length ≤ 12 →
      exec (.leavenReclaim ok) s = .next { s with flash := { s.flash with reclaimDeferred := true } }) ∧
  (∀ s : State, mpRuns s = true → 2 ≤ s.flash.leaven.length → (s.pwr.gov.level = 0 ∨ 12 < s.flash.leaven.length) →
      exec (.leavenReclaim false) s = .next { s with flash := { s.flash with sticky := stick 4 s.flash.sticky } }) ∧
  (∀ (b : LeavenBlock) (rest : List LeavenBlock) (s : State), mpRuns s = true → s.flash.leaven = b :: rest → rest ≠ [] →
      (s.pwr.gov.level = 0 ∨ 12 < s.flash.leaven.length) →
      ∃ t, exec (.leavenReclaim true) s = .next t ∧
        (∀ r ∈ storedRecords { s with flash := { s.flash with leaven := [b] } }, recordLive r s = true → r ∈ storedRecords t) ∧
        (∀ r ∈ storedRecords { s with flash := { s.flash with leaven := rest } }, r ∈ storedRecords t) ∧
        t.flash.eraseCounts = modifyAt (fun n => n + 1) b.block s.flash.eraseCounts ∧
        t = { s with ecat := t.ecat, ev := t.ev, mbox := t.mbox,
                     flash := { s.flash with leaven := t.flash.leaven, eraseCounts := t.flash.eraseCounts,
                                             worn := t.flash.worn, sticky := t.flash.sticky, reclaimDeferred := false } }) ∧
  (∀ s : State, (mpRuns s = false ∨ 1 ≤ s.pwr.gov.level) → exec .flashPatrol s = .next s) ∧
  (∀ s : State, mpRuns s = true → s.pwr.gov.level = 0 →
      (∀ x ∈ [s.flash.slotA, s.flash.slotB], (match x with
        | .image _ => imageOk x s.otp
        | _ => true) = true) →
      let n := sumNats (s.flash.leaven.map (fun b => b2n b.headerBad + (b.records.filter (fun r => !recordGood r)).length)) +
        sumNats (s.flash.log.map (fun b => b2n b.headerBad + b.badAt.length)) + (s.flash.bootRecords.filter (fun r => r.bad)).length
      (n = 0 → exec .flashPatrol s = .next s) ∧
      (0 < n → ∃ t, exec .flashPatrol s = .next t ∧
        t.flash = { s.flash with patrolBad := s.flash.patrolBad + n, sticky := stick 2 s.flash.sticky } ∧
        eventCount t = eventCount s + 1 ∧ t = { s with flash := t.flash, ecat := t.ecat, ev := t.ev, mbox := t.mbox })) ∧
  (∀ (via : Path) (v : BitVec 16) (s : State), served via s = true →
      exec (.flashStatusClear via v) s = .next (answerWrite via 0
        { s with flash := { s.flash with sticky := unstick s.flash.sticky v.toNat } })) ∧
  (∀ s : State, running s = false → exec .telemetrySnapshot s = .next s) ∧
  (∀ s : State, running s = true →
      ∃ t, exec .telemetrySnapshot s = .next t ∧ t.telem.sequence = s.telem.sequence + 1 ∧ t.telem.last.length = 256 ∧
        t.telem.last.take 8 = leBytes 8 s.now ∧ (t.telem.last.drop 8).take 1 = leBytes 1 s.modes.mode.code ∧
        (t.telem.last.drop 9).take 1 = leBytes 1 s.pwr.gov.level ∧
        (t.telem.last.drop 10).take 2 = leBytes 2 ((s.telem.sequence + 1) % 65536) ∧
        (t.telem.last.drop 12).take 4 = leBytes 4 s.pwr.devicePower ∧
        (∀ i < 20, (t.telem.last.drop (64 + 2 * i)).take 2 = leBytes 2 (s.pwr.volts.getD i 0)) ∧
        (domainOn 12 s = false → (t.telem.last.drop 128).take 4 = [0, 0, 0, 0]) ∧
        (domainOn 15 s = false → domainOn 16 s = false → (t.telem.last.drop 133).take 7 = List.replicate 7 0) ∧
        (domainOn 15 s = true → (t.telem.last.drop 136).take 4 = leBytes 4 s.cist.corrected) ∧
        t.telem.last.drop 252 = leBytes 4 (crc32c (t.telem.last.take 252)) ∧
        (s.telem.history.length < 240 → t.telem.history = s.telem.history ++ [t.telem.last]) ∧
        (s.telem.history.length = 240 → t.telem.history = s.telem.history.drop 1 ++ [t.telem.last]) ∧
        t = { s with fresh := t.fresh, telem := t.telem })

/-- R411 to R415 with Table 16.11: the rows of the update, with their frames. A boot-control record that fails its read-back (log entry 136) is the model's reading. -/
def Obligations.FirmwareUpdateAndRollback : Prop :=
  let slotIs (n : Nat) (x : ImageSlot) (s t : State) : Prop :=
    slotImage n t = x ∧ slotImage (1 - n) t = slotImage (1 - n) s
  let changed (st : UpdState) (s t : State) : Prop :=
    t.upd.state = st ∧ eventCount t = eventCount s + 1 ∧
    t = { s with upd := t.upd, ecat := t.ecat, ev := t.ev, mbox := t.mbox,
                 flash := { s.flash with slotA := t.flash.slotA, slotB := t.flash.slotB, sticky := t.flash.sticky } }
  (∀ (via : Path) (s : State), served via s = true → s.boot.slot ≤ 1 →
    let refused (c : Instr) : Prop := exec c s = .next (answerWrite via 0x08000022 s)
    let state := s.upd.state
    ((state = .idle ∨ state = .verified ∨ state = .failed) → onTrial s = false →
      ∃ t, exec (.updBegin via) s = .next (answerWrite via 0 t) ∧ changed .erasing s t ∧ slotIs (targetSlot s) .none s t ∧
        t.upd = { s.upd with state := .erasing } ∧ t.flash.sticky = s.flash.sticky) ∧
    ((state ≠ .idle ∧ state ≠ .verified ∧ state ≠ .failed ∨ onTrial s = true) → refused (.updBegin via)) ∧
    (state = .receiving → ∃ t, exec (.verify via) s = .next (answerWrite via 0 t) ∧ changed .verifying s t ∧
      t.upd = { s.upd with state := .verifying } ∧ t.flash = s.flash) ∧
    (state ≠ .receiving → refused (.verify via)) ∧
    (state = .verified → atRest s = true → s.bench.readBacks = [] →
      ∃ t, exec (.activate via) s = .next t ∧
        EnteredOff (.rails 3) 6 0 { s with flash := { s.flash with bootRecords := t.flash.bootRecords } } t ∧
        (bootRecord t).map (fun r => (r.slot, r.trial, r.count)) = some (targetSlot s, true, 0) ∧
        t.flash.slotA = s.flash.slotA ∧ t.flash.slotB = s.flash.slotB) ∧
    ((state ≠ .verified ∨ atRest s = false) → refused (.activate via)) ∧
    (onTrial s = true → ∀ more, s.bench.readBacks = false :: more →
      ∃ t, exec (.confirm via) s = .next (answerWrite via 0 t) ∧ bitOf t.flash.sticky 4 = true ∧
        (s.flash.bootRecords.length < 2048 → bootRecord t = bootRecord s)) ∧
    (onTrial s = true → s.bench.readBacks = [] →
      let svn := (slotImage s.boot.slot s).svn
      let raises := flagVal Obj.UPDATE_LOCK_SVN s = true ∧ s.otp.minSvn < svn
      ∃ t, exec (.confirm via) s = .next (answerWrite via 0 t) ∧
        (bootRecord t).map (fun r => (r.slot, r.trial, r.count)) = some (s.boot.slot, false, 0) ∧
        (raises → t.otp = { s.otp with minSvn := svn } ∧ eventCount t = eventCount s + 1) ∧
        (¬ raises → t.otp = s.otp ∧ eventCount t = eventCount s) ∧
        t = { s with flash := { s.flash with bootRecords := t.flash.bootRecords }, otp := t.otp, ecat := t.ecat, ev := t.ev,
                     mbox := t.mbox }) ∧
    (onTrial s = false → refused (.confirm via)) ∧
    (atRest s = false → refused (.revert via)) ∧
    (atRest s = true → imageOk (slotImage (targetSlot s) s) s.otp = false →
      exec (.revert via) s = .next (answerWrite via 0x08000020 s)) ∧
    (atRest s = true → imageOk (slotImage (targetSlot s) s) s.otp = true → s.bench.readBacks = [] →
      ∃ t, exec (.revert via) s = .next t ∧
        EnteredOff (.rails 3) 6 0 { s with flash := { s.flash with bootRecords := t.flash.bootRecords } } t ∧
        (bootRecord t).map (fun r => (r.slot, r.trial, r.count)) = some (targetSlot s, false, 0)) ∧
    ((state = .erasing ∨ state = .receiving ∨ state = .verifying) →
      ∃ t, exec (.updAbort via) s = .next (answerWrite via 0 t) ∧ changed .failed s t ∧ slotIs (targetSlot s) .none s t ∧
        t.upd = { s.upd with state := .failed, result := 8 }) ∧
    (state ≠ .erasing → state ≠ .receiving → state ≠ .verifying → refused (.updAbort via))) ∧
  (∀ (ok : Bool) (s : State), (running s = false ∨ s.upd.state ≠ .erasing) → exec (.updateEraseDone ok) s = .next s) ∧
  (∀ s : State, running s = true → s.upd.state = .erasing →
      (∃ t, exec (.updateEraseDone true) s = .next t ∧ changed .receiving s t ∧
        t.upd = { s.upd with state := .receiving, bytes := 0 } ∧ t.flash = s.flash) ∧
      (∃ t, exec (.updateEraseDone false) s = .next t ∧ changed .failed s t ∧
        t.upd = { s.upd with state := .failed, result := 7 } ∧ t.flash = { s.flash with sticky := stick 4 s.flash.sticky })) ∧
  (∀ s : State, (running s = false ∨ s.upd.state ≠ .verifying) → exec .updateVerifyDone s = .next s) ∧
  (∀ s : State, running s = true → s.upd.state = .verifying →
      let r := imageResult (slotImage (targetSlot s) s) s.otp
      ∃ t, exec .updateVerifyDone s = .next t ∧ changed (if r = 1 then .verified else .failed) s t ∧
        t.upd = { s.upd with state := if r = 1 then .verified else .failed, result := r } ∧ t.flash = s.flash) ∧
  (∀ (via : Path) (offset : Nat) (data : List Byte) (ok : Bool) (s : State), served via s = true → s.boot.slot ≤ 1 →
    let receiving := s.upd.state = .receiving
    let long := 4194304 < offset + data.length
    (long → receiving → ∃ t, exec (.updateData via offset data ok) s = .next (answerWrite via 0x06070010 t) ∧
      changed .failed s t ∧ t.upd = { s.upd with state := .failed, result := 6 } ∧ t.flash = s.flash) ∧
    (long → ¬ receiving → exec (.updateData via offset data ok) s = .next (answerWrite via 0x06070010 s)) ∧
    (¬ long → ¬ receiving → exec (.updateData via offset data ok) s = .next (answerWrite via 0x08000022 s)) ∧
    (¬ long → receiving → offset ≠ s.upd.bytes → exec (.updateData via offset data ok) s = .next (answerWrite via 0x05030000 s)) ∧
    (¬ long → receiving → offset = s.upd.bytes → ok = false →
      ∃ t, exec (.updateData via offset data ok) s = .next (answerWrite via 0x06060000 t) ∧ changed .failed s t ∧
        t.upd = { s.upd with state := .failed, result := 7 } ∧ t.flash = { s.flash with sticky := stick 4 s.flash.sticky }) ∧
    (¬ long → receiving → offset = s.upd.bytes → ok = true →
      (∀ got, slotImage (targetSlot s) s = .image got →
        ∃ t, exec (.updateData via offset data ok) s = .next (answerWrite via 0 t) ∧
          slotIs (targetSlot s) (.image (got ++ data)) s t ∧
          t = { s with upd := { s.upd with bytes := s.upd.bytes + data.length },
                       flash := { s.flash with slotA := t.flash.slotA, slotB := t.flash.slotB } }) ∧
      ((∀ got, slotImage (targetSlot s) s ≠ .image got) →
        ∃ t, exec (.updateData via offset data ok) s = .next (answerWrite via 0 t) ∧
          slotIs (targetSlot s) (.image data) s t ∧
          t = { s with upd := { s.upd with bytes := s.upd.bytes + data.length },
                       flash := { s.flash with slotA := t.flash.slotA, slotB := t.flash.slotB } })))

/-- R420 to R434: the rows of the two-wire buses, with their frames. The held line is numbered by the model (log entry 56), a RECOVER of a bus not in use is left alone (55), a poll on a bus stuck or out of use fails (57), and an operand that ends before the STOP leaves the transaction in progress (185). -/
def Obligations.TwoWireBuses : Prop :=
  let byte (data : List Byte) (i : Nat) : Nat := (data.getD i 0).toNat
  let others (b : Nat) (s t : State) : Prop := ∀ j < 2, j ≠ b → busOf j t = busOf j s
  (∀ (via : Path) (data : List Byte) (s : State), served via s = true → Shaped s = true →
    let b := byte data 0
    let a := byte data 1
    let formed := 4 ≤ data.length ∧ data.length = 4 + byte data 2 ∧ data.length ≤ 36
    let ready := (busOf b s).state ∉ [.off, .testing, .stuck] ∧ flagVal (Obj.TW_ENABLE b) s = true
    let usable := b ≤ 1 ∧ a < 128 ∧ ready
    let aborts (code : Nat) : Prop := exec (.twRequest via data) s = .next (answerWrite via code s)
    (¬ formed → aborts 0x06070010) ∧
    (formed → s.tw.request ≠ none → aborts 0x08000022) ∧
    (formed → s.tw.request = none → b ≤ 1 → a < 128 → ¬ ready → aborts 0x08000022) ∧
    (formed → s.tw.request = none → 1 < b → aborts 0x06090030) ∧
    (formed → s.tw.request = none → b ≤ 1 → 128 ≤ a → exec (.twRequest via data) s = .fault .reservedBits) ∧
    (formed → s.tw.request = none → usable → (a < 8 ∨ 0x78 ≤ a ∨ 32 < byte data 3) → aborts 0x06090030) ∧
    (formed → s.tw.request = none → usable → 8 ≤ a → a < 0x78 → byte data 3 ≤ 32 →
      (a = valReady (Obj.TW_OWN_ADDRESS b) s → aborts 0x08000020) ∧
      (a ≠ valReady (Obj.TW_OWN_ADDRESS b) s → ∃ t, exec (.twRequest via data) s = .next (answerWrite via 0 t) ∧
        busOf b t = { busOf b s with jobs := (busOf b s).jobs ++ [⟨.host, 0⟩] } ∧ others b s t ∧
        t = { s with tw := { s.tw with
          buses := t.tw.buses, request := some ⟨b, a, data.drop 4, byte data 3⟩, resultState := 1, resultAcked := 0, resultBytes := [] } }))) ∧
  -- nothing is in progress and nothing begins
  (∀ (b : Fin 2) (seen : List TwSeen) (s : State), (busOf b s).run = none → (busOf b s).state ≠ .idle →
      exec (.twTransaction b seen) s = .next s ∧ exec (.twStretchTimeout b seen) s = .next s) ∧
  (∀ (b : Fin 2) (seen : List TwSeen) (s : State), Shaped s = true → (busOf b s).run = none → (busOf b s).jobs = [] →
      exec (.twTransaction b seen) s = .next s ∧ exec (.twStretchTimeout b seen) s = .next s) ∧
  -- an operand may be cut where the transaction goes on
  (∀ (b : Fin 2) (first rest : List TwSeen) (s t : State), exec (.twTransaction b first) s = .next t → (busOf b t).run ≠ none →
      exec (.twTransaction b (first ++ rest)) s = exec (.twTransaction b rest) t) ∧
  -- a host transaction, first in the queue of a free bus
  (∀ (b : Fin 2) (r : TwRequest) (waiting : List TwJob) (k : Nat) (s : State), Shaped s = true → s.tw.request = some r →
      (busOf b s).state = .idle → (busOf b s).next = none → (busOf b s).jobs = ⟨.host, k⟩ :: waiting →
    let w := r.written
    let n := r.readLength
    let kept := waiting.filter (stillDue b s)
    let bus : TwBus := { busOf b s with state := .idle, jobs := kept, timing := twFields b s, run := none, won := none }
    let ends (seen : List TwSeen) (t : State) (code acked : Nat) (read : List Byte) : Prop :=
      exec (.twTransaction b seen) s = .next t ∧
      t.tw = { s.tw with request := none, resultState := code, resultAcked := acked, resultBytes := read,
                         buses := t.tw.buses, sticky := t.tw.sticky } ∧ others b s t ∧ t = { s with tw := t.tw }
    -- the first address byte: a read where there is nothing to write
    let begins := BitVec.ofNat 8 (2 * r.address + b2n (decide (n ≠ 0) && w.isEmpty))
    let writes := if n ≠ 0 ∧ w = [] then [] else quiet true :: w.map (fun _ => quiet true)
    let reads (bytes : List Byte) : List TwSeen :=
      if n = 0 then [] else (if w = [] then [] else [quiet false]) ++ quiet true :: bytes.map (fun x => ⟨x, false⟩)
    (∀ bytes : List Byte, bytes.length = n → ∃ t, ends (writes ++ reads bytes ++ [quiet false]) t 3 w.length bytes ∧ busOf b t = bus ∧
      t.tw.sticky = s.tw.sticky) ∧
    (∃ t, ends [quiet false, quiet false] t 4 0 [] ∧ t.tw.sticky = s.tw.sticky ∧
      busOf b t = { bus with nacks := (busOf b s).nacks + 1 }) ∧
    (n ≠ 0 → w ≠ [] → ∃ t, ends (writes ++ [quiet false, quiet false, quiet false]) t 4 w.length [] ∧
      busOf b t = { bus with nacks := (busOf b s).nacks + 1 }) ∧
    (∀ i < w.length, ∃ t, ends (quiet true :: List.replicate i (quiet true) ++ [quiet false, quiet false]) t 5 i [] ∧
      t.tw.sticky = s.tw.sticky ∧ busOf b t = { bus with nacks := (busOf b s).nacks + 1 }) ∧
    (∀ (x : Byte) (low : Bool), wins x begins →
      let own := x.toNat / 2 = valReady (Obj.TW_OWN_ADDRESS b) s ∧ valReady (Obj.TW_TARGET_ENABLE b) s ≠ 0
      ∃ t, ends [⟨x, low⟩] t 6 0 [] ∧ t.tw.sticky = stick 2 s.tw.sticky ∧
        (¬ own → busOf b t = { bus with arbLost := (busOf b s).arbLost + 1 }) ∧
        (own → busOf b t = { bus with state := .target, won := some (x.getLsbD 0), arbLost := (busOf b s).arbLost + 1 })) ∧
    (∃ t, exec (.twTransaction b []) s = .next t ∧ (busOf b t).state = .controller ∧ t.tw.resultState = 2 ∧
      t.tw.request = s.tw.request ∧ (busOf b t).jobs = kept ∧ (busOf b t).run ≠ none ∧
      t = { s with tw := { s.tw with buses := t.tw.buses, resultState := 2 } }) ∧
    (∃ t, exec (.twStretchTimeout b []) s = .next t ∧
      busOf b t = { bus with state := .testing, won := (busOf b s).won, timeouts := (busOf b s).timeouts + 1 } ∧ others b s t ∧
      t.tw.sticky = stick 3 s.tw.sticky ∧ t.tw.request = none ∧ t.tw.resultState = 8 ∧
      eventCount t = (if bitOf s.tw.sticky 3 = true then eventCount s else eventCount s + 1) ∧
      t = { s with tw := t.tw, ecat := t.ecat, ev := t.ev, mbox := t.mbox })) ∧
  -- another transaction that loses arbitration or times out starts again
  (∀ (b : Fin 2) (j : TwJob) (waiting : List TwJob) (s : State), Shaped s = true → (busOf b s).state = .idle →
      (busOf b s).next = none → (busOf b s).jobs = j :: waiting → j.work ≠ .host → stillDue b s j = true → j.tries < 3 →
    let again := ⟨j.work, j.tries + 1⟩ :: waiting.filter (stillDue b s)
    (∃ t, exec (.twStretchTimeout b []) s = .next t ∧ (busOf b t).state = .testing ∧ (busOf b t).jobs = again ∧
      (busOf b t).timeouts = (busOf b s).timeouts + 1 ∧ t.tw.sticky = stick 3 s.tw.sticky ∧ t.tw.request = s.tw.request ∧
      t.tw.barTemp = s.tw.barTemp ∧ t.tw.tiles = s.tw.tiles ∧ t = { s with tw := t.tw, ecat := t.ecat, ev := t.ev, mbox := t.mbox }) ∧
    (∀ (x : Byte) (low : Bool),
      let a := match j.work with
        | .poll k => 0x08 + k
        | .tile p _ => 0x10 + p % 48
        | .host => 0
      wins x (BitVec.ofNat 8 (2 * a)) → x.toNat / 2 ≠ valReady (Obj.TW_OWN_ADDRESS b) s →
      ∃ t, exec (.twTransaction b [⟨x, low⟩]) s = .next t ∧
        busOf b t = { busOf b s with state := .idle, jobs := again, timing := twFields b s, run := none, won := none,
                                     arbLost := (busOf b s).arbLost + 1 } ∧
        t.tw.sticky = stick 2 s.tw.sticky ∧
        t = { s with tw := { s.tw with buses := t.tw.buses, sticky := t.tw.sticky } })) ∧
  (∀ (via : Path) (b : Fin 2) (s : State), served via s = true → Shaped s = true →
      ((busOf b s).state = .controller ∨ (busOf b s).state = .target →
        exec (.recover via b) s = .next (answerWrite via 0x08000022 s)) ∧
      ((busOf b s).state = .off → exec (.recover via b) s = .next (answerWrite via 0 s)) ∧
      ((busOf b s).state ∈ [.testing, .idle, .stuck] → ∃ t, exec (.recover via b) s = .next (answerWrite via 0 t) ∧
        busOf b t = { busOf b s with state := .testing } ∧ others b s t ∧ t = { s with tw := { s.tw with buses := t.tw.buses } })) ∧
  -- the bus test
  (∀ (b : Fin 2) (r : TwTest) (s : State), (busOf b s).state ≠ .testing → exec (.twBusTest b r) s = .next s) ∧
  (∀ (b : Fin 2) (scl sda held : Bool) (clocks : List Bool) (s : State), Shaped s = true → (busOf b s).state = .testing →
    let test : TwTest := { scl := scl, sda := sda, clocks := clocks, held := held }
    let free (driven : List TwDrive) : Prop := ∃ t, exec (.twBusTest b test) s = .next t ∧
      busOf b t = { busOf b s with state := .idle, timing := twFields b s, driven := driven } ∧
      others b s t ∧ t = { s with tw := { s.tw with buses := t.tw.buses } }
    let stuck (driven : List TwDrive) : Prop := ∃ t, exec (.twBusTest b test) s = .next t ∧
      busOf b t = { busOf b s with state := .stuck, jobs := [], stuckCount := (busOf b s).stuckCount + 1, driven := driven } ∧
      others b s t ∧ bitOf t.tw.sticky 5 = true ∧ eventCount s < eventCount t ∧
      ((∀ j ∈ (busOf b s).jobs, j.work = .host) → eventCount t = eventCount s + 1 ∧ t.tw.sticky = stick 5 s.tw.sticky ∧
        t.tw.barTemp = s.tw.barTemp ∧ t.tw.tiles = s.tw.tiles) ∧
      ((∃ j ∈ (busOf b s).jobs, j.work = .host) → t.tw.request = none ∧ t.tw.resultState = 7) ∧
      ((∀ j ∈ (busOf b s).jobs, j.work ≠ .host) → t.tw.request = s.tw.request ∧ t.tw.resultState = s.tw.resultState) ∧
      t = { s with tw := t.tw, ecat := t.ecat, ev := t.ev, mbox := t.mbox }
    let ended (driven : List TwDrive) : Prop := if held then free driven else stuck driven
    (scl = false → stuck []) ∧
    (scl = true → sda = true → ended [.start, .stop]) ∧
    (scl = true → sda = false → (∀ i < 9, clocks.getD i false = false) → stuck (List.replicate 9 .clock)) ∧
    (∀ i < 9, scl = true → sda = false → clocks.getD i false = true → (∀ j < i, clocks.getD j false = false) →
      ended (List.replicate (i + 1) .clock ++ [.start, .stop]))) ∧
  (∀ (via : Path) (b : Fin 2) (v : BitVec 8) (s : State), served via s = true → Shaped s = true →
    let busy := (busOf b s).state ∈ [.controller, .target]
    let comes (x : TwBus) : Prop := ∃ t, exec (.twEnableWrite via b v) s = .next (answerWrite via 0 t) ∧
        t.dict = (setVal (Obj.TW_ENABLE b) v.toNat s).dict ∧ others b s t ∧ busOf b t = x ∧
        t = { s with dict := t.dict, tw := { s.tw with buses := t.tw.buses }, cfg := (noteWrite s).cfg }
    (1 < v.toNat → exec (.twEnableWrite via b v) s = .next (answerWrite via 0x06090030 s)) ∧
    (v = 0 → busy → comes { busOf b s with next := some .off }) ∧
    (v = 0 → ¬ busy → (∀ j ∈ (busOf b s).jobs, j.work = .host) → comes { busOf b s with state := .off, next := none, won := none }) ∧
    (v = 1 → flagVal (Obj.TW_ENABLE b) s = true → comes (busOf b s)) ∧
    (v = 1 → flagVal (Obj.TW_ENABLE b) s = false → busy → comes { busOf b s with next := some .testing }) ∧
    (v = 1 → flagVal (Obj.TW_ENABLE b) s = false → ¬ busy → comes { busOf b s with state := .testing })) ∧
  -- the device as target
  (∀ (b : Fin 2) (a : BitVec 7) (x : TwTransfer) (s : State), ((busOf b s).state ∉ [.idle, .target] ∨ domainOn 19 s = false ∨
      valReady (Obj.TW_TARGET_ENABLE b) s = 0 ∨ a.toNat ≠ valReady (Obj.TW_OWN_ADDRESS b) s ∨
      ((busOf b s).state = .target ∧ (busOf b s).won ≠ some (transferReads x))) → exec (.twTargetTransaction b a x) s = .next s) ∧
  (∀ (b : Fin 2) (a : BitVec 7) (s : State), Shaped s = true → domainOn 19 s = true → (busOf b s).next = none →
      valReady (Obj.TW_TARGET_ENABLE b) s ≠ 0 → a.toNat = valReady (Obj.TW_OWN_ADDRESS b) s →
    let may (read : Bool) := (busOf b s).state = .idle ∨ ((busOf b s).state = .target ∧ (busOf b s).won = some read)
    let bus : TwBus := { busOf b s with state := .idle, won := none, served := [], targetCount := (busOf b s).targetCount + 1,
                                        timing := if (busOf b s).state = .idle then twFields b s else (busOf b s).timing }
    (∀ n, may true → ∃ t, exec (.twTargetTransaction b a (.read n)) s = .next t ∧
      busOf b t = { bus with
        pointer := (busOf b s).pointer + BitVec.ofNat 8 n,
        served := (List.range n).map (fun i => twByte ((busOf b s).pointer + BitVec.ofNat 8 i) s) } ∧
      others b s t ∧ t = { s with tw := { s.tw with buses := t.tw.buses } }) ∧
    (may false → ∃ t, exec (.twTargetTransaction b a (.write [])) s = .next t ∧ busOf b t = bus ∧
      others b s t ∧ t = { s with tw := { s.tw with buses := t.tw.buses } }) ∧
    (∀ (p x : Byte), may false → s.tw.scratch.length = 128 → ∃ t, exec (.twTargetTransaction b a (.write [p, x])) s = .next t ∧
      busOf b t = { bus with pointer := p + 1 } ∧
      (p.toNat < 128 → t.tw.scratch = s.tw.scratch) ∧
      (128 ≤ p.toNat → t.tw.scratch.getD (p.toNat - 128) 0 = x ∧
        ∀ j, j ≠ p.toNat - 128 → t.tw.scratch.getD j 0 = s.tw.scratch.getD j 0) ∧
      others b s t ∧ t = { s with tw := { s.tw with buses := t.tw.buses, scratch := t.tw.scratch } })) ∧
  (∀ s : State, (domainOn 19 s = false → exec .twWindowRefresh s = .next s) ∧
      (domainOn 19 s = true → ∃ t, exec .twWindowRefresh s = .next t ∧ t.tw.window.length = 128 ∧
        t.tw.window.getD 0 0 = 0x96 ∧ t.tw.window.getD 1 0 = BitVec.ofNat 8 s.modes.mode.code ∧
        (t.tw.window.drop 2).take 2 = leBytes 2 (toRaw 16 (tjMax s).1) ∧
        (s.ev.first = none → (t.tw.window.drop 4).take 2 = [0, 0]) ∧
        (∀ e, s.ev.first = some e → (t.tw.window.drop 4).take 2 = leBytes 2 e.code) ∧
        (t.tw.window.drop 8).take 8 = leBytes 8 s.otp.serial ∧
        t = { s with tw := { s.tw with window := t.tw.window } })) ∧
  -- the bar sensors
  (∀ (b : Fin 2) (k : Fin 8) (seen : List TwSeen) (s : State), (domainOn 19 s = false ∨
      bitOf (val Obj.TW_SENSOR_MASK s) (8 * b.val + k.val) = false) → exec (.twSensorPoll b k seen) s = .next s) ∧
  (∀ (b : Fin 2) (k : Fin 8) (seen : List TwSeen) (s : State), Shaped s = true → domainOn 19 s = true →
      bitOf (val Obj.TW_SENSOR_MASK s) (8 * b.val + k.val) = true → twUsable b s = true →
      ((busOf b s).state ≠ .idle ∨ (busOf b s).jobs ≠ []) →
      ∃ t, exec (.twSensorPoll b k seen) s = .next t ∧
        busOf b t = { busOf b s with jobs := (busOf b s).jobs ++ [⟨.poll k, 0⟩] } ∧ others b s t ∧
        t = { s with tw := { s.tw with buses := t.tw.buses } }) ∧
  (∀ (b : Fin 2) (k : Fin 8) (s : State), Shaped s = true → domainOn 19 s = true →
      bitOf (val Obj.TW_SENSOR_MASK s) (8 * b.val + k.val) = true →
    let i := 8 * b.val + k.val
    let alone := (busOf b s).state = .idle ∧ (busOf b s).jobs = [] ∧ (busOf b s).next = none
    let failed (seen : List TwSeen) : Prop := ∃ t, exec (.twSensorPoll b k seen) s = .next t ∧
        t.tw.sensorFails.getD i 0 = min (s.tw.sensorFails.getD i 0 + 1) 4 ∧
        (s.tw.sensorFails.getD i 0 = 2 → t.tw.barTemp.getD i 0 = -32768 ∧ t.tw.sticky = stick 4 s.tw.sticky ∧
          eventCount t = eventCount s + 1) ∧
        (s.tw.sensorFails.getD i 0 ≠ 2 → t.tw.barTemp = s.tw.barTemp ∧ t.tw.sticky = s.tw.sticky ∧ t.ev = s.ev) ∧
        t = { s with tw := t.tw, ecat := t.ecat, ev := t.ev, mbox := t.mbox }
    (∀ h l : Byte, alone →
      ∃ t, exec (.twSensorPoll b k [quiet true, quiet true, quiet false, quiet true, ⟨h, false⟩, ⟨l, false⟩, quiet false]) s = .next t ∧
      t.tw.barTemp.getD i 0 = roundDiv (toSigned 16 (256 * h.toNat + l.toNat) * 100) 256 ∧
      (∀ j, j ≠ i → t.tw.barTemp.getD j 0 = s.tw.barTemp.getD j 0) ∧ t.tw.sensorFails.getD i 0 = 0 ∧
      (busOf b t).state = .idle ∧ (busOf b t).jobs = [] ∧ t = { s with tw := t.tw }) ∧
    (alone → failed [quiet false, quiet false]) ∧ (alone → failed [quiet true, quiet false, quiet false]) ∧
    (∀ seen, twUsable b s = false → failed seen)) ∧
  (∀ (via : Path) (v : BitVec 16) (s : State), served via s = true →
      exec (.twStatusClear via v) s = .next (answerWrite via 0
        { s with tw := { s.tw with sticky := unstick s.tw.sticky v.toNat } }))

/-- R436 to R441, R444: the acknowledgement, and a FATAL event as the watchdog of the PC raises it. -/
def Obligations.FirstErrorRecordAndFatal : Prop :=
  (∀ (via : Path) (v : BitVec 32) (s : State), served via s = true →
      ((∀ e, s.ev.first = some e → e.sequence % 2 ^ 32 ≠ v.toNat) →
        exec (.firstErrorAck via v) s = .next (answerWrite via 0x06090030 s)) ∧
      (∀ e, s.ev.first = some e → e.sequence % 2 ^ 32 = v.toNat →
        ∃ t, exec (.firstErrorAck via v) s = .next (answerWrite via 0 t) ∧
          t.ev = { s.ev with first := none, firstFatal := none, overflow := 0, classMap := 0,
                             emergencies := t.ev.emergencies, emcyLost := t.ev.emcyLost } ∧
          (emergencySent s = false → mailQueue t = mailQueue s ∧ t.ev.emcyLost = s.ev.emcyLost ∧ t.ecat = s.ecat) ∧
          (emergencySent s = true → s.ev.emergencies.length < 8 → t.ev.emcyLost = s.ev.emcyLost ∧ ∃ x y,
            t.ecat.sm1.toList ++ t.ev.emergencies = s.ecat.sm1.toList ++ s.ev.emergencies ++ [.emergency 0 0 x y 2]) ∧
          (emergencySent s = true → 8 ≤ s.ev.emergencies.length → t.ev.emcyLost = s.ev.emcyLost + 1 ∧
            t.ecat.sm1.toList ++ t.ev.emergencies = s.ecat.sm1.toList ++ s.ev.emergencies) ∧
          t = { s with ev := t.ev, fresh := t.fresh, ecat := { s.ecat with sm1 := t.ecat.sm1, responses := t.ecat.responses },
                       pwr := { s.pwr with raised := [] }, flash := { s.flash with filled := none } })) ∧
  (∀ s : State, running s = true → domainOn 2 s = true → s.mot.pcHeld = false → s.ev.held = none →
      let e : LogEntry := { time := s.now, sequence := s.ev.nextSeq, code := 0x0C03, cls := 3, flags := b2n (inOp s), source := 1,
                            detail := [] }
      ∃ t, exec .pcWatchdog s = .next t ∧ t.modes.mode = .fault ∧
        (s.modes.trans = none → t.modes.status = s.modes.status) ∧ (s.modes.trans ≠ none → t.modes.status = 2 ∧ t.modes.trans = none) ∧
        (s.ev.first = none → t.ev.first = some e) ∧ (∀ f, s.ev.first = some f → t.ev.first = some f) ∧
        (∀ f, s.ev.first = some f → f.cls = 2 → s.ev.firstFatal = none → t.ev.firstFatal = some e) ∧
        (∀ g, s.ev.firstFatal = some g → t.ev.firstFatal = some g) ∧
        (s.ev.first ≠ none → bitOf t.ev.classMap 3 = true ∧ min 65535 (s.ev.overflow + 1) ≤ t.ev.overflow) ∧
        s.ev.nextSeq < t.ev.nextSeq ∧ eventCount s < eventCount t ∧ t.dict = s.dict ∧ t.cfg = s.cfg ∧ t.boot = s.boot ∧
        t.flash = s.flash ∧ t.upd = s.upd ∧ t.otp = s.otp ∧ t.now = s.now ∧ t.clk = s.clk)

/-- R420 to R434: for each row of the two-wire buses, states and operands on which it completes, and what it comes to. -/
def Obligations.TwoWireCommandsComplete : Prop :=
  (∀ (via : Path) (b : Fin 2) (a n : Byte) (w : List Byte) (s : State), served via s = true → Shaped s = true → s.tw.request = none →
      (busOf b s).state ∈ [.idle, .controller, .target] → flagVal (Obj.TW_ENABLE b) s = true → 8 ≤ a.toNat → a.toNat < 0x78 →
      a.toNat ≠ valReady (Obj.TW_OWN_ADDRESS b) s → w.length ≤ 32 → n.toNat ≤ 32 →
      ∃ t, exec (.twRequest via ([BitVec.ofNat 8 b, a, BitVec.ofNat 8 w.length, n] ++ w)) s = .next (answerWrite via 0 t) ∧
        t.tw.request = some ⟨b, a.toNat, w, n.toNat⟩ ∧ t.tw.resultState = 1 ∧
        (busOf b t).jobs = (busOf b s).jobs ++ [⟨.host, 0⟩]) ∧
  (∀ (b : Fin 2) (r : TwRequest) (bytes : List Byte) (s : State), Shaped s = true → s.tw.request = some r →
      (busOf b s).state = .idle → (busOf b s).next = none → (busOf b s).jobs = [⟨.host, 0⟩] → bytes.length = r.readLength →
      r.written ≠ [] → 0 < r.readLength →
      ∃ t, exec (.twTransaction b (quiet true :: r.written.map (fun _ => quiet true) ++ [quiet false, quiet true] ++
          bytes.map (fun x => ⟨x, false⟩) ++ [quiet false])) s = .next t ∧ t.tw.request = none ∧ t.tw.resultState = 3 ∧
        t.tw.resultAcked = r.written.length ∧ t.tw.resultBytes = bytes ∧ (busOf b t).state = .idle ∧
        t = { s with tw := { t.tw with sticky := s.tw.sticky, window := s.tw.window, scratch := s.tw.scratch } }) ∧
  (∀ (b : Fin 2) (r : TwRequest) (s : State), Shaped s = true → s.tw.request = some r →
      (busOf b s).state = .idle → (busOf b s).next = none → (busOf b s).jobs = [⟨.host, 0⟩] →
      ∃ t, exec (.twStretchTimeout b []) s = .next t ∧ t.tw.request = none ∧ t.tw.resultState = 8 ∧
        (busOf b t).state = .testing ∧ (busOf b t).timeouts = (busOf b s).timeouts + 1) ∧
  (∀ (b : Fin 2) (clocks : List Bool) (s : State), Shaped s = true → (busOf b s).state = .testing →
      ∃ t, exec (.twBusTest b { scl := true, sda := true, clocks := clocks, held := true }) s = .next t ∧
        (busOf b t).state = .idle ∧ (busOf b t).timing = twFields b s) ∧
  (∀ (via : Path) (b : Fin 2) (s : State), served via s = true → Shaped s = true → (busOf b s).state ∈ [.idle, .stuck] →
      ∃ t, exec (.recover via b) s = .next (answerWrite via 0 t) ∧ (busOf b t).state = .testing) ∧
  (∀ (via : Path) (b : Fin 2) (s : State), served via s = true → Shaped s = true → (busOf b s).state ∉ [.controller, .target] →
      (∃ t, exec (.twEnableWrite via b 0) s = .next (answerWrite via 0 t) ∧ val (Obj.TW_ENABLE b) t = 0 ∧
        (busOf b t).state = .off) ∧
      (flagVal (Obj.TW_ENABLE b) s = false →
        ∃ t, exec (.twEnableWrite via b 1) s = .next (answerWrite via 0 t) ∧ val (Obj.TW_ENABLE b) t = 1 ∧
          (busOf b t).state = .testing)) ∧
  (∀ (b : Fin 2) (a : BitVec 7) (n : Nat) (s : State), Shaped s = true → (busOf b s).state = .idle → (busOf b s).next = none →
      domainOn 19 s = true → valReady (Obj.TW_TARGET_ENABLE b) s ≠ 0 → a.toNat = valReady (Obj.TW_OWN_ADDRESS b) s →
      ∃ t, exec (.twTargetTransaction b a (.read n)) s = .next t ∧ (busOf b t).state = .idle ∧
        (busOf b t).targetCount = (busOf b s).targetCount + 1 ∧ (busOf b t).pointer = (busOf b s).pointer + BitVec.ofNat 8 n ∧
        (busOf b t).served.length = n) ∧
  (∀ s : State, domainOn 19 s = true →
      ∃ t, exec .twWindowRefresh s = .next t ∧ t.tw.window = twWindow s ∧ t.tw.window.getD 0 0 = 0x96 ∧
        t = { s with tw := { s.tw with window := t.tw.window } }) ∧
  (∀ (b : Fin 2) (k : Fin 8) (h l : Byte) (s : State), Shaped s = true → domainOn 19 s = true →
      bitOf (val Obj.TW_SENSOR_MASK s) (8 * b.val + k.val) = true → (busOf b s).state = .idle → (busOf b s).jobs = [] →
      (busOf b s).next = none →
      ∃ t, exec (.twSensorPoll b k [quiet true, quiet true, quiet false, quiet true, ⟨h, false⟩, ⟨l, false⟩, quiet false]) s = .next t ∧
        t.tw.barTemp.getD (8 * b.val + k.val) 0 = roundDiv (toSigned 16 (256 * h.toNat + l.toNat) * 100) 256) ∧
  (∀ (via : Path) (v : BitVec 16) (s : State), served via s = true →
      exec (.twStatusClear via v) s = .next (answerWrite via 0
        { s with tw := { s.tw with sticky := unstick s.tw.sticky v.toNat } }))

/-- What reset leaves (15 R377), as far as the spec states it, with the invariants at reset. The flash and the OTP are the model's choice (log entries 4 and 5) and not part of it. -/
def Obligations.StateAfterReset : Prop :=
  (let s := State.reset
   s.modes.mode = .off ∧ s.now = 0 ∧ s.pending = [] ∧ s.boot.phase = .unpowered ∧ s.boot.cause = 0 ∧ s.boot.count = 1 ∧
   (∀ r : Ref, val r s = r.dflt ∧ valReady r s = r.dflt ∧ valSession r s = r.dflt ∧ valReset r s = r.dflt ∧
     valRun r s = r.dflt) ∧
   (∀ d < 20, domainOn d s = false) ∧ s.ecat.al = 1 ∧ s.host.session = 0 ∧
   (∀ b ∈ s.pipe.banks, b.state = 0 ∧ b.time = 0) ∧ s.pipe.active = 0 ∧ s.tim.lines = [] ∧ s.tim.lineActive = false ∧
   s.host.slots = [] ∧ s.host.items = [] ∧ s.host.nextItem = 0 ∧ s.cist.scratch = [] ∧ s.cist.capacity = 0 ∧
   (∀ a < 6, (axisOf a s).state = .disabled ∧ (axisOf a s).referenced = false ∧ (axisOf a s).energised = false) ∧
   (∀ c < 3, (lampOf c s).levelActual = 0) ∧ (∀ i < 4, (engineOf i s).state = 0) ∧
   (∀ d < 8, dirOf d s = MailDir.reset) ∧ s.ev.first = none ∧ s.ev.firstFatal = none ∧ s.ev.logged = 0 ∧ s.ev.overflow = 0 ∧
   s.pwr.gov.level = 0 ∧ s.pwr.gov.cap = 100 ∧ s.upd.state = .idle ∧ s.cfg.active = 0 ∧ s.telem.sequence = 0) ∧
  Shaped State.reset = true ∧ Canonical State.reset

/-- The invariant `Shaped`, the premise of the statements that name a port, a group, a lane or an axis, is kept by every step of every command. -/
def Obligations.StepKeepsShape : Prop :=
  ∀ s t : State, Shaped s = true → step s = .next t → Shaped t = true

/-- The invariant `Canonical` is kept by every step of every command: equal contents stay equal data. What an unlisted byte reads is the model's choice (log entry 6). -/
def Obligations.StepKeepsCanonicalForms : Prop :=
  ∀ s t : State, Canonical s → step s = .next t → Canonical t

/-- R5, R337, R338 and 15 R377 over all commands: only the change to Op and an entry to OFF set the time base; no command touches the queue or the local count. -/
def Obligations.CommandsKeepTimeAndQueue : Prop :=
  ∀ (c : Instr) (s t : State), exec c s = .next t →
    t.pending = s.pending ∧ t.clk = s.clk ∧
    (t.now = s.now ∨ (∃ d, c = .alRequestOp d) ∨ (t.now = 0 ∧ t.modes.mode = .off))
end

