-- ==== Sys2Proof/Laws/ConfigSets.lean ====
section
/-! SUPPORT. The length of a configuration set, as a sum over the rows of the object table (12_control_dictionary R340). -/
namespace Sys2Proof.Laws
open Sys2Proof Sys2Proof.Machine

/-- Bytes of an entry of a set. -/
def entrySize (s : State) (x : Nat × Row) : Nat := (entryBytesOf (x.1, heldBytes x.1 x.2 s)).length

def objectsSize (s : State) (m : List (Nat × Row)) : Nat := (m.map (entrySize s)).sum

theorem objectsSize_placeObject (s : State) (m : List (Nat × Row)) (x : Nat × Row) :
    objectsSize s (placeObject m x) = objectsSize s m + entrySize s x := by
  have h := congrArg (objectsSize s) (List.takeWhile_append_dropWhile (p := fun y : Nat × Row => decide (y.1 < x.1)) (l := m))
  simp only [objectsSize, placeObject, List.map_append, List.sum_append, List.map_cons, List.sum_cons] at h ⊢
  omega

theorem objectsSize_foldl {α : Type} (s : State) (f : List (Nat × Row) → α → List (Nat × Row)) (g : α → Nat)
    (h : ∀ m a, objectsSize s (f m a) = objectsSize s m + g a) (l : List α) :
    ∀ m, objectsSize s (l.foldl f m) = objectsSize s m + (l.map g).sum := by
  induction l with
  | nil => intro m; simp
  | cons a l ih => intro m; simp [ih, h]; omega

/-- Bytes of the entries of a row. -/
def rowSize (s : State) (r : Row) : Nat :=
  ((List.range (max 1 r.count)).map (fun i => ((List.range r.subs).map (fun j =>
    if classInSets r.acc (r.base + i * r.stride) (r.sub + j) = true then
      entrySize s (objKey (r.base + i * r.stride) (r.sub + j), r) else 0)).sum)).sum

/-- The order in which objects are placed does not count. -/
theorem objectsSize_setObjects (s : State) : objectsSize s setObjects = (objTable.map (rowSize s)).sum := by
  unfold setObjects
  rw [objectsSize_foldl s _ (rowSize s)]
  · simp [objectsSize]
  intro m r
  unfold rowSize
  rw [objectsSize_foldl s _ (fun i => ((List.range r.subs).map (fun j =>
    if classInSets r.acc (r.base + i * r.stride) (r.sub + j) = true then
      entrySize s (objKey (r.base + i * r.stride) (r.sub + j), r) else 0)).sum)]
  intro m i
  rw [objectsSize_foldl s _ (fun j => if classInSets r.acc (r.base + i * r.stride) (r.sub + j) = true then
      entrySize s (objKey (r.base + i * r.stride) (r.sub + j), r) else 0)]
  intro m j
  dsimp only
  split
  · exact objectsSize_placeObject s m _
  · simp

/-- The length of the set that a commit writes, without its order. -/
theorem newSet_length (s : State) : (newSet s).length = 52 + (objTable.map (rowSize s)).sum := by
  rw [← objectsSize_setObjects]
  simp only [newSet, ConfigSet.tail, setEntries, objectsSize, List.length_flatMap, List.map_map]
  rfl
end Sys2Proof.Laws
end

