-- ==== Sys2Proof/Laws/State.lean ====
section
/-! SUPPORT. What each update of one part of the state leaves: one lemma for each field and update. -/
namespace Sys2Proof.Machine

variable (s : State)

/-! ### setVal -/

@[simp] theorem setVal_now (r : Ref) (v : Nat) : (setVal r v s).now = s.now := rfl
@[simp] theorem setVal_clk (r : Ref) (v : Nat) : (setVal r v s).clk = s.clk := rfl
@[simp] theorem setVal_fresh (r : Ref) (v : Nat) : (setVal r v s).fresh = s.fresh := rfl
@[simp] theorem setVal_modes (r : Ref) (v : Nat) : (setVal r v s).modes = s.modes := rfl
@[simp] theorem setVal_dict (r : Ref) (v : Nat) : (setVal r v s).dict = { s.dict with held := sparseSet r.key r.dflt v s.dict.held } := rfl
@[simp] theorem setVal_ecat (r : Ref) (v : Nat) : (setVal r v s).ecat = s.ecat := rfl
@[simp] theorem setVal_cfg (r : Ref) (v : Nat) : (setVal r v s).cfg = s.cfg := rfl
@[simp] theorem setVal_ev (r : Ref) (v : Nat) : (setVal r v s).ev = s.ev := rfl
@[simp] theorem setVal_pwr (r : Ref) (v : Nat) : (setVal r v s).pwr = s.pwr := rfl
@[simp] theorem setVal_boot (r : Ref) (v : Nat) : (setVal r v s).boot = s.boot := rfl
@[simp] theorem setVal_mbox (r : Ref) (v : Nat) : (setVal r v s).mbox = s.mbox := rfl
@[simp] theorem setVal_flash (r : Ref) (v : Nat) : (setVal r v s).flash = s.flash := rfl
@[simp] theorem setVal_upd (r : Ref) (v : Nat) : (setVal r v s).upd = s.upd := rfl
@[simp] theorem setVal_telem (r : Ref) (v : Nat) : (setVal r v s).telem = s.telem := rfl
@[simp] theorem setVal_otp (r : Ref) (v : Nat) : (setVal r v s).otp = s.otp := rfl
@[simp] theorem setVal_fe (r : Ref) (v : Nat) : (setVal r v s).fe = s.fe := rfl
@[simp] theorem setVal_tim (r : Ref) (v : Nat) : (setVal r v s).tim = s.tim := rfl
@[simp] theorem setVal_lamps (r : Ref) (v : Nat) : (setVal r v s).lamps = s.lamps := rfl
@[simp] theorem setVal_ind (r : Ref) (v : Nat) : (setVal r v s).ind = s.ind := rfl
@[simp] theorem setVal_pipe (r : Ref) (v : Nat) : (setVal r v s).pipe = s.pipe := rfl
@[simp] theorem setVal_lv (r : Ref) (v : Nat) : (setVal r v s).lv = s.lv := rfl
@[simp] theorem setVal_cmp (r : Ref) (v : Nat) : (setVal r v s).cmp = s.cmp := rfl
@[simp] theorem setVal_cist (r : Ref) (v : Nat) : (setVal r v s).cist = s.cist := rfl
@[simp] theorem setVal_host (r : Ref) (v : Nat) : (setVal r v s).host = s.host := rfl
@[simp] theorem setVal_mot (r : Ref) (v : Nat) : (setVal r v s).mot = s.mot := rfl
@[simp] theorem setVal_tw (r : Ref) (v : Nat) : (setVal r v s).tw = s.tw := rfl
@[simp] theorem setVal_pins (r : Ref) (v : Nat) : (setVal r v s).pins = s.pins := rfl
@[simp] theorem setVal_tap (r : Ref) (v : Nat) : (setVal r v s).tap = s.tap := rfl
@[simp] theorem setVal_bench (r : Ref) (v : Nat) : (setVal r v s).bench = s.bench := rfl
@[simp] theorem setVal_pending (r : Ref) (v : Nat) : (setVal r v s).pending = s.pending := rfl

/-! ### setBulk -/

@[simp] theorem setBulk_now (k : Nat) (v : List Byte) : (setBulk k v s).now = s.now := rfl
@[simp] theorem setBulk_clk (k : Nat) (v : List Byte) : (setBulk k v s).clk = s.clk := rfl
@[simp] theorem setBulk_fresh (k : Nat) (v : List Byte) : (setBulk k v s).fresh = s.fresh := rfl
@[simp] theorem setBulk_modes (k : Nat) (v : List Byte) : (setBulk k v s).modes = s.modes := rfl
@[simp] theorem setBulk_dict (k : Nat) (v : List Byte) : (setBulk k v s).dict = { s.dict with bulk := bytesSet k v s.dict.bulk } := rfl
@[simp] theorem setBulk_ecat (k : Nat) (v : List Byte) : (setBulk k v s).ecat = s.ecat := rfl
@[simp] theorem setBulk_cfg (k : Nat) (v : List Byte) : (setBulk k v s).cfg = s.cfg := rfl
@[simp] theorem setBulk_ev (k : Nat) (v : List Byte) : (setBulk k v s).ev = s.ev := rfl
@[simp] theorem setBulk_pwr (k : Nat) (v : List Byte) : (setBulk k v s).pwr = s.pwr := rfl
@[simp] theorem setBulk_boot (k : Nat) (v : List Byte) : (setBulk k v s).boot = s.boot := rfl
@[simp] theorem setBulk_mbox (k : Nat) (v : List Byte) : (setBulk k v s).mbox = s.mbox := rfl
@[simp] theorem setBulk_flash (k : Nat) (v : List Byte) : (setBulk k v s).flash = s.flash := rfl
@[simp] theorem setBulk_upd (k : Nat) (v : List Byte) : (setBulk k v s).upd = s.upd := rfl
@[simp] theorem setBulk_telem (k : Nat) (v : List Byte) : (setBulk k v s).telem = s.telem := rfl
@[simp] theorem setBulk_otp (k : Nat) (v : List Byte) : (setBulk k v s).otp = s.otp := rfl
@[simp] theorem setBulk_fe (k : Nat) (v : List Byte) : (setBulk k v s).fe = s.fe := rfl
@[simp] theorem setBulk_tim (k : Nat) (v : List Byte) : (setBulk k v s).tim = s.tim := rfl
@[simp] theorem setBulk_lamps (k : Nat) (v : List Byte) : (setBulk k v s).lamps = s.lamps := rfl
@[simp] theorem setBulk_ind (k : Nat) (v : List Byte) : (setBulk k v s).ind = s.ind := rfl
@[simp] theorem setBulk_pipe (k : Nat) (v : List Byte) : (setBulk k v s).pipe = s.pipe := rfl
@[simp] theorem setBulk_lv (k : Nat) (v : List Byte) : (setBulk k v s).lv = s.lv := rfl
@[simp] theorem setBulk_cmp (k : Nat) (v : List Byte) : (setBulk k v s).cmp = s.cmp := rfl
@[simp] theorem setBulk_cist (k : Nat) (v : List Byte) : (setBulk k v s).cist = s.cist := rfl
@[simp] theorem setBulk_host (k : Nat) (v : List Byte) : (setBulk k v s).host = s.host := rfl
@[simp] theorem setBulk_mot (k : Nat) (v : List Byte) : (setBulk k v s).mot = s.mot := rfl
@[simp] theorem setBulk_tw (k : Nat) (v : List Byte) : (setBulk k v s).tw = s.tw := rfl
@[simp] theorem setBulk_pins (k : Nat) (v : List Byte) : (setBulk k v s).pins = s.pins := rfl
@[simp] theorem setBulk_tap (k : Nat) (v : List Byte) : (setBulk k v s).tap = s.tap := rfl
@[simp] theorem setBulk_bench (k : Nat) (v : List Byte) : (setBulk k v s).bench = s.bench := rfl
@[simp] theorem setBulk_pending (k : Nat) (v : List Byte) : (setBulk k v s).pending = s.pending := rfl

/-! ### clearBulk -/

@[simp] theorem clearBulk_now (k : Nat) : (clearBulk k s).now = s.now := rfl
@[simp] theorem clearBulk_clk (k : Nat) : (clearBulk k s).clk = s.clk := rfl
@[simp] theorem clearBulk_fresh (k : Nat) : (clearBulk k s).fresh = s.fresh := rfl
@[simp] theorem clearBulk_modes (k : Nat) : (clearBulk k s).modes = s.modes := rfl
@[simp] theorem clearBulk_dict (k : Nat) : (clearBulk k s).dict = { s.dict with bulk := bytesErase k s.dict.bulk } := rfl
@[simp] theorem clearBulk_ecat (k : Nat) : (clearBulk k s).ecat = s.ecat := rfl
@[simp] theorem clearBulk_cfg (k : Nat) : (clearBulk k s).cfg = s.cfg := rfl
@[simp] theorem clearBulk_ev (k : Nat) : (clearBulk k s).ev = s.ev := rfl
@[simp] theorem clearBulk_pwr (k : Nat) : (clearBulk k s).pwr = s.pwr := rfl
@[simp] theorem clearBulk_boot (k : Nat) : (clearBulk k s).boot = s.boot := rfl
@[simp] theorem clearBulk_mbox (k : Nat) : (clearBulk k s).mbox = s.mbox := rfl
@[simp] theorem clearBulk_flash (k : Nat) : (clearBulk k s).flash = s.flash := rfl
@[simp] theorem clearBulk_upd (k : Nat) : (clearBulk k s).upd = s.upd := rfl
@[simp] theorem clearBulk_telem (k : Nat) : (clearBulk k s).telem = s.telem := rfl
@[simp] theorem clearBulk_otp (k : Nat) : (clearBulk k s).otp = s.otp := rfl
@[simp] theorem clearBulk_fe (k : Nat) : (clearBulk k s).fe = s.fe := rfl
@[simp] theorem clearBulk_tim (k : Nat) : (clearBulk k s).tim = s.tim := rfl
@[simp] theorem clearBulk_lamps (k : Nat) : (clearBulk k s).lamps = s.lamps := rfl
@[simp] theorem clearBulk_ind (k : Nat) : (clearBulk k s).ind = s.ind := rfl
@[simp] theorem clearBulk_pipe (k : Nat) : (clearBulk k s).pipe = s.pipe := rfl
@[simp] theorem clearBulk_lv (k : Nat) : (clearBulk k s).lv = s.lv := rfl
@[simp] theorem clearBulk_cmp (k : Nat) : (clearBulk k s).cmp = s.cmp := rfl
@[simp] theorem clearBulk_cist (k : Nat) : (clearBulk k s).cist = s.cist := rfl
@[simp] theorem clearBulk_host (k : Nat) : (clearBulk k s).host = s.host := rfl
@[simp] theorem clearBulk_mot (k : Nat) : (clearBulk k s).mot = s.mot := rfl
@[simp] theorem clearBulk_tw (k : Nat) : (clearBulk k s).tw = s.tw := rfl
@[simp] theorem clearBulk_pins (k : Nat) : (clearBulk k s).pins = s.pins := rfl
@[simp] theorem clearBulk_tap (k : Nat) : (clearBulk k s).tap = s.tap := rfl
@[simp] theorem clearBulk_bench (k : Nat) : (clearBulk k s).bench = s.bench := rfl
@[simp] theorem clearBulk_pending (k : Nat) : (clearBulk k s).pending = s.pending := rfl

/-! ### modPort -/

@[simp] theorem modPort_now (n : Nat) (f : Port → Port) : (modPort n f s).now = s.now := rfl
@[simp] theorem modPort_clk (n : Nat) (f : Port → Port) : (modPort n f s).clk = s.clk := rfl
@[simp] theorem modPort_fresh (n : Nat) (f : Port → Port) : (modPort n f s).fresh = s.fresh := rfl
@[simp] theorem modPort_modes (n : Nat) (f : Port → Port) : (modPort n f s).modes = s.modes := rfl
@[simp] theorem modPort_dict (n : Nat) (f : Port → Port) : (modPort n f s).dict = s.dict := rfl
@[simp] theorem modPort_ecat (n : Nat) (f : Port → Port) : (modPort n f s).ecat = s.ecat := rfl
@[simp] theorem modPort_cfg (n : Nat) (f : Port → Port) : (modPort n f s).cfg = s.cfg := rfl
@[simp] theorem modPort_ev (n : Nat) (f : Port → Port) : (modPort n f s).ev = s.ev := rfl
@[simp] theorem modPort_pwr (n : Nat) (f : Port → Port) : (modPort n f s).pwr = s.pwr := rfl
@[simp] theorem modPort_boot (n : Nat) (f : Port → Port) : (modPort n f s).boot = s.boot := rfl
@[simp] theorem modPort_mbox (n : Nat) (f : Port → Port) : (modPort n f s).mbox = s.mbox := rfl
@[simp] theorem modPort_flash (n : Nat) (f : Port → Port) : (modPort n f s).flash = s.flash := rfl
@[simp] theorem modPort_upd (n : Nat) (f : Port → Port) : (modPort n f s).upd = s.upd := rfl
@[simp] theorem modPort_telem (n : Nat) (f : Port → Port) : (modPort n f s).telem = s.telem := rfl
@[simp] theorem modPort_otp (n : Nat) (f : Port → Port) : (modPort n f s).otp = s.otp := rfl
@[simp] theorem modPort_fe (n : Nat) (f : Port → Port) : (modPort n f s).fe = { s.fe with ports := modifyAt f n s.fe.ports } := rfl
@[simp] theorem modPort_tim (n : Nat) (f : Port → Port) : (modPort n f s).tim = s.tim := rfl
@[simp] theorem modPort_lamps (n : Nat) (f : Port → Port) : (modPort n f s).lamps = s.lamps := rfl
@[simp] theorem modPort_ind (n : Nat) (f : Port → Port) : (modPort n f s).ind = s.ind := rfl
@[simp] theorem modPort_pipe (n : Nat) (f : Port → Port) : (modPort n f s).pipe = s.pipe := rfl
@[simp] theorem modPort_lv (n : Nat) (f : Port → Port) : (modPort n f s).lv = s.lv := rfl
@[simp] theorem modPort_cmp (n : Nat) (f : Port → Port) : (modPort n f s).cmp = s.cmp := rfl
@[simp] theorem modPort_cist (n : Nat) (f : Port → Port) : (modPort n f s).cist = s.cist := rfl
@[simp] theorem modPort_host (n : Nat) (f : Port → Port) : (modPort n f s).host = s.host := rfl
@[simp] theorem modPort_mot (n : Nat) (f : Port → Port) : (modPort n f s).mot = s.mot := rfl
@[simp] theorem modPort_tw (n : Nat) (f : Port → Port) : (modPort n f s).tw = s.tw := rfl
@[simp] theorem modPort_pins (n : Nat) (f : Port → Port) : (modPort n f s).pins = s.pins := rfl
@[simp] theorem modPort_tap (n : Nat) (f : Port → Port) : (modPort n f s).tap = s.tap := rfl
@[simp] theorem modPort_bench (n : Nat) (f : Port → Port) : (modPort n f s).bench = s.bench := rfl
@[simp] theorem modPort_pending (n : Nat) (f : Port → Port) : (modPort n f s).pending = s.pending := rfl

/-! ### modGroup -/

@[simp] theorem modGroup_now (n : Nat) (f : Group → Group) : (modGroup n f s).now = s.now := rfl
@[simp] theorem modGroup_clk (n : Nat) (f : Group → Group) : (modGroup n f s).clk = s.clk := rfl
@[simp] theorem modGroup_fresh (n : Nat) (f : Group → Group) : (modGroup n f s).fresh = s.fresh := rfl
@[simp] theorem modGroup_modes (n : Nat) (f : Group → Group) : (modGroup n f s).modes = s.modes := rfl
@[simp] theorem modGroup_dict (n : Nat) (f : Group → Group) : (modGroup n f s).dict = s.dict := rfl
@[simp] theorem modGroup_ecat (n : Nat) (f : Group → Group) : (modGroup n f s).ecat = s.ecat := rfl
@[simp] theorem modGroup_cfg (n : Nat) (f : Group → Group) : (modGroup n f s).cfg = s.cfg := rfl
@[simp] theorem modGroup_ev (n : Nat) (f : Group → Group) : (modGroup n f s).ev = s.ev := rfl
@[simp] theorem modGroup_pwr (n : Nat) (f : Group → Group) : (modGroup n f s).pwr = s.pwr := rfl
@[simp] theorem modGroup_boot (n : Nat) (f : Group → Group) : (modGroup n f s).boot = s.boot := rfl
@[simp] theorem modGroup_mbox (n : Nat) (f : Group → Group) : (modGroup n f s).mbox = s.mbox := rfl
@[simp] theorem modGroup_flash (n : Nat) (f : Group → Group) : (modGroup n f s).flash = s.flash := rfl
@[simp] theorem modGroup_upd (n : Nat) (f : Group → Group) : (modGroup n f s).upd = s.upd := rfl
@[simp] theorem modGroup_telem (n : Nat) (f : Group → Group) : (modGroup n f s).telem = s.telem := rfl
@[simp] theorem modGroup_otp (n : Nat) (f : Group → Group) : (modGroup n f s).otp = s.otp := rfl
@[simp] theorem modGroup_fe (n : Nat) (f : Group → Group) : (modGroup n f s).fe = { s.fe with groups := modifyAt f n s.fe.groups } := rfl
@[simp] theorem modGroup_tim (n : Nat) (f : Group → Group) : (modGroup n f s).tim = s.tim := rfl
@[simp] theorem modGroup_lamps (n : Nat) (f : Group → Group) : (modGroup n f s).lamps = s.lamps := rfl
@[simp] theorem modGroup_ind (n : Nat) (f : Group → Group) : (modGroup n f s).ind = s.ind := rfl
@[simp] theorem modGroup_pipe (n : Nat) (f : Group → Group) : (modGroup n f s).pipe = s.pipe := rfl
@[simp] theorem modGroup_lv (n : Nat) (f : Group → Group) : (modGroup n f s).lv = s.lv := rfl
@[simp] theorem modGroup_cmp (n : Nat) (f : Group → Group) : (modGroup n f s).cmp = s.cmp := rfl
@[simp] theorem modGroup_cist (n : Nat) (f : Group → Group) : (modGroup n f s).cist = s.cist := rfl
@[simp] theorem modGroup_host (n : Nat) (f : Group → Group) : (modGroup n f s).host = s.host := rfl
@[simp] theorem modGroup_mot (n : Nat) (f : Group → Group) : (modGroup n f s).mot = s.mot := rfl
@[simp] theorem modGroup_tw (n : Nat) (f : Group → Group) : (modGroup n f s).tw = s.tw := rfl
@[simp] theorem modGroup_pins (n : Nat) (f : Group → Group) : (modGroup n f s).pins = s.pins := rfl
@[simp] theorem modGroup_tap (n : Nat) (f : Group → Group) : (modGroup n f s).tap = s.tap := rfl
@[simp] theorem modGroup_bench (n : Nat) (f : Group → Group) : (modGroup n f s).bench = s.bench := rfl
@[simp] theorem modGroup_pending (n : Nat) (f : Group → Group) : (modGroup n f s).pending = s.pending := rfl

/-! ### modEncoder -/

@[simp] theorem modEncoder_now (n : Nat) (f : Encoder → Encoder) : (modEncoder n f s).now = s.now := rfl
@[simp] theorem modEncoder_clk (n : Nat) (f : Encoder → Encoder) : (modEncoder n f s).clk = s.clk := rfl
@[simp] theorem modEncoder_fresh (n : Nat) (f : Encoder → Encoder) : (modEncoder n f s).fresh = s.fresh := rfl
@[simp] theorem modEncoder_modes (n : Nat) (f : Encoder → Encoder) : (modEncoder n f s).modes = s.modes := rfl
@[simp] theorem modEncoder_dict (n : Nat) (f : Encoder → Encoder) : (modEncoder n f s).dict = s.dict := rfl
@[simp] theorem modEncoder_ecat (n : Nat) (f : Encoder → Encoder) : (modEncoder n f s).ecat = s.ecat := rfl
@[simp] theorem modEncoder_cfg (n : Nat) (f : Encoder → Encoder) : (modEncoder n f s).cfg = s.cfg := rfl
@[simp] theorem modEncoder_ev (n : Nat) (f : Encoder → Encoder) : (modEncoder n f s).ev = s.ev := rfl
@[simp] theorem modEncoder_pwr (n : Nat) (f : Encoder → Encoder) : (modEncoder n f s).pwr = s.pwr := rfl
@[simp] theorem modEncoder_boot (n : Nat) (f : Encoder → Encoder) : (modEncoder n f s).boot = s.boot := rfl
@[simp] theorem modEncoder_mbox (n : Nat) (f : Encoder → Encoder) : (modEncoder n f s).mbox = s.mbox := rfl
@[simp] theorem modEncoder_flash (n : Nat) (f : Encoder → Encoder) : (modEncoder n f s).flash = s.flash := rfl
@[simp] theorem modEncoder_upd (n : Nat) (f : Encoder → Encoder) : (modEncoder n f s).upd = s.upd := rfl
@[simp] theorem modEncoder_telem (n : Nat) (f : Encoder → Encoder) : (modEncoder n f s).telem = s.telem := rfl
@[simp] theorem modEncoder_otp (n : Nat) (f : Encoder → Encoder) : (modEncoder n f s).otp = s.otp := rfl
@[simp] theorem modEncoder_fe (n : Nat) (f : Encoder → Encoder) : (modEncoder n f s).fe = s.fe := rfl
@[simp] theorem modEncoder_tim (n : Nat) (f : Encoder → Encoder) : (modEncoder n f s).tim = { s.tim with encoders := modifyAt f n s.tim.encoders } := rfl
@[simp] theorem modEncoder_lamps (n : Nat) (f : Encoder → Encoder) : (modEncoder n f s).lamps = s.lamps := rfl
@[simp] theorem modEncoder_ind (n : Nat) (f : Encoder → Encoder) : (modEncoder n f s).ind = s.ind := rfl
@[simp] theorem modEncoder_pipe (n : Nat) (f : Encoder → Encoder) : (modEncoder n f s).pipe = s.pipe := rfl
@[simp] theorem modEncoder_lv (n : Nat) (f : Encoder → Encoder) : (modEncoder n f s).lv = s.lv := rfl
@[simp] theorem modEncoder_cmp (n : Nat) (f : Encoder → Encoder) : (modEncoder n f s).cmp = s.cmp := rfl
@[simp] theorem modEncoder_cist (n : Nat) (f : Encoder → Encoder) : (modEncoder n f s).cist = s.cist := rfl
@[simp] theorem modEncoder_host (n : Nat) (f : Encoder → Encoder) : (modEncoder n f s).host = s.host := rfl
@[simp] theorem modEncoder_mot (n : Nat) (f : Encoder → Encoder) : (modEncoder n f s).mot = s.mot := rfl
@[simp] theorem modEncoder_tw (n : Nat) (f : Encoder → Encoder) : (modEncoder n f s).tw = s.tw := rfl
@[simp] theorem modEncoder_pins (n : Nat) (f : Encoder → Encoder) : (modEncoder n f s).pins = s.pins := rfl
@[simp] theorem modEncoder_tap (n : Nat) (f : Encoder → Encoder) : (modEncoder n f s).tap = s.tap := rfl
@[simp] theorem modEncoder_bench (n : Nat) (f : Encoder → Encoder) : (modEncoder n f s).bench = s.bench := rfl
@[simp] theorem modEncoder_pending (n : Nat) (f : Encoder → Encoder) : (modEncoder n f s).pending = s.pending := rfl

/-! ### modLamp -/

@[simp] theorem modLamp_now (n : Nat) (f : Lamp → Lamp) : (modLamp n f s).now = s.now := rfl
@[simp] theorem modLamp_clk (n : Nat) (f : Lamp → Lamp) : (modLamp n f s).clk = s.clk := rfl
@[simp] theorem modLamp_fresh (n : Nat) (f : Lamp → Lamp) : (modLamp n f s).fresh = s.fresh := rfl
@[simp] theorem modLamp_modes (n : Nat) (f : Lamp → Lamp) : (modLamp n f s).modes = s.modes := rfl
@[simp] theorem modLamp_dict (n : Nat) (f : Lamp → Lamp) : (modLamp n f s).dict = s.dict := rfl
@[simp] theorem modLamp_ecat (n : Nat) (f : Lamp → Lamp) : (modLamp n f s).ecat = s.ecat := rfl
@[simp] theorem modLamp_cfg (n : Nat) (f : Lamp → Lamp) : (modLamp n f s).cfg = s.cfg := rfl
@[simp] theorem modLamp_ev (n : Nat) (f : Lamp → Lamp) : (modLamp n f s).ev = s.ev := rfl
@[simp] theorem modLamp_pwr (n : Nat) (f : Lamp → Lamp) : (modLamp n f s).pwr = s.pwr := rfl
@[simp] theorem modLamp_boot (n : Nat) (f : Lamp → Lamp) : (modLamp n f s).boot = s.boot := rfl
@[simp] theorem modLamp_mbox (n : Nat) (f : Lamp → Lamp) : (modLamp n f s).mbox = s.mbox := rfl
@[simp] theorem modLamp_flash (n : Nat) (f : Lamp → Lamp) : (modLamp n f s).flash = s.flash := rfl
@[simp] theorem modLamp_upd (n : Nat) (f : Lamp → Lamp) : (modLamp n f s).upd = s.upd := rfl
@[simp] theorem modLamp_telem (n : Nat) (f : Lamp → Lamp) : (modLamp n f s).telem = s.telem := rfl
@[simp] theorem modLamp_otp (n : Nat) (f : Lamp → Lamp) : (modLamp n f s).otp = s.otp := rfl
@[simp] theorem modLamp_fe (n : Nat) (f : Lamp → Lamp) : (modLamp n f s).fe = s.fe := rfl
@[simp] theorem modLamp_tim (n : Nat) (f : Lamp → Lamp) : (modLamp n f s).tim = s.tim := rfl
@[simp] theorem modLamp_lamps (n : Nat) (f : Lamp → Lamp) : (modLamp n f s).lamps = { s.lamps with colours := modifyAt f n s.lamps.colours } := rfl
@[simp] theorem modLamp_ind (n : Nat) (f : Lamp → Lamp) : (modLamp n f s).ind = s.ind := rfl
@[simp] theorem modLamp_pipe (n : Nat) (f : Lamp → Lamp) : (modLamp n f s).pipe = s.pipe := rfl
@[simp] theorem modLamp_lv (n : Nat) (f : Lamp → Lamp) : (modLamp n f s).lv = s.lv := rfl
@[simp] theorem modLamp_cmp (n : Nat) (f : Lamp → Lamp) : (modLamp n f s).cmp = s.cmp := rfl
@[simp] theorem modLamp_cist (n : Nat) (f : Lamp → Lamp) : (modLamp n f s).cist = s.cist := rfl
@[simp] theorem modLamp_host (n : Nat) (f : Lamp → Lamp) : (modLamp n f s).host = s.host := rfl
@[simp] theorem modLamp_mot (n : Nat) (f : Lamp → Lamp) : (modLamp n f s).mot = s.mot := rfl
@[simp] theorem modLamp_tw (n : Nat) (f : Lamp → Lamp) : (modLamp n f s).tw = s.tw := rfl
@[simp] theorem modLamp_pins (n : Nat) (f : Lamp → Lamp) : (modLamp n f s).pins = s.pins := rfl
@[simp] theorem modLamp_tap (n : Nat) (f : Lamp → Lamp) : (modLamp n f s).tap = s.tap := rfl
@[simp] theorem modLamp_bench (n : Nat) (f : Lamp → Lamp) : (modLamp n f s).bench = s.bench := rfl
@[simp] theorem modLamp_pending (n : Nat) (f : Lamp → Lamp) : (modLamp n f s).pending = s.pending := rfl

/-! ### modEngine -/

@[simp] theorem modEngine_now (n : Nat) (f : IndEngine → IndEngine) : (modEngine n f s).now = s.now := rfl
@[simp] theorem modEngine_clk (n : Nat) (f : IndEngine → IndEngine) : (modEngine n f s).clk = s.clk := rfl
@[simp] theorem modEngine_fresh (n : Nat) (f : IndEngine → IndEngine) : (modEngine n f s).fresh = s.fresh := rfl
@[simp] theorem modEngine_modes (n : Nat) (f : IndEngine → IndEngine) : (modEngine n f s).modes = s.modes := rfl
@[simp] theorem modEngine_dict (n : Nat) (f : IndEngine → IndEngine) : (modEngine n f s).dict = s.dict := rfl
@[simp] theorem modEngine_ecat (n : Nat) (f : IndEngine → IndEngine) : (modEngine n f s).ecat = s.ecat := rfl
@[simp] theorem modEngine_cfg (n : Nat) (f : IndEngine → IndEngine) : (modEngine n f s).cfg = s.cfg := rfl
@[simp] theorem modEngine_ev (n : Nat) (f : IndEngine → IndEngine) : (modEngine n f s).ev = s.ev := rfl
@[simp] theorem modEngine_pwr (n : Nat) (f : IndEngine → IndEngine) : (modEngine n f s).pwr = s.pwr := rfl
@[simp] theorem modEngine_boot (n : Nat) (f : IndEngine → IndEngine) : (modEngine n f s).boot = s.boot := rfl
@[simp] theorem modEngine_mbox (n : Nat) (f : IndEngine → IndEngine) : (modEngine n f s).mbox = s.mbox := rfl
@[simp] theorem modEngine_flash (n : Nat) (f : IndEngine → IndEngine) : (modEngine n f s).flash = s.flash := rfl
@[simp] theorem modEngine_upd (n : Nat) (f : IndEngine → IndEngine) : (modEngine n f s).upd = s.upd := rfl
@[simp] theorem modEngine_telem (n : Nat) (f : IndEngine → IndEngine) : (modEngine n f s).telem = s.telem := rfl
@[simp] theorem modEngine_otp (n : Nat) (f : IndEngine → IndEngine) : (modEngine n f s).otp = s.otp := rfl
@[simp] theorem modEngine_fe (n : Nat) (f : IndEngine → IndEngine) : (modEngine n f s).fe = s.fe := rfl
@[simp] theorem modEngine_tim (n : Nat) (f : IndEngine → IndEngine) : (modEngine n f s).tim = s.tim := rfl
@[simp] theorem modEngine_lamps (n : Nat) (f : IndEngine → IndEngine) : (modEngine n f s).lamps = s.lamps := rfl
@[simp] theorem modEngine_ind (n : Nat) (f : IndEngine → IndEngine) : (modEngine n f s).ind = { s.ind with engines := modifyAt f n s.ind.engines } := rfl
@[simp] theorem modEngine_pipe (n : Nat) (f : IndEngine → IndEngine) : (modEngine n f s).pipe = s.pipe := rfl
@[simp] theorem modEngine_lv (n : Nat) (f : IndEngine → IndEngine) : (modEngine n f s).lv = s.lv := rfl
@[simp] theorem modEngine_cmp (n : Nat) (f : IndEngine → IndEngine) : (modEngine n f s).cmp = s.cmp := rfl
@[simp] theorem modEngine_cist (n : Nat) (f : IndEngine → IndEngine) : (modEngine n f s).cist = s.cist := rfl
@[simp] theorem modEngine_host (n : Nat) (f : IndEngine → IndEngine) : (modEngine n f s).host = s.host := rfl
@[simp] theorem modEngine_mot (n : Nat) (f : IndEngine → IndEngine) : (modEngine n f s).mot = s.mot := rfl
@[simp] theorem modEngine_tw (n : Nat) (f : IndEngine → IndEngine) : (modEngine n f s).tw = s.tw := rfl
@[simp] theorem modEngine_pins (n : Nat) (f : IndEngine → IndEngine) : (modEngine n f s).pins = s.pins := rfl
@[simp] theorem modEngine_tap (n : Nat) (f : IndEngine → IndEngine) : (modEngine n f s).tap = s.tap := rfl
@[simp] theorem modEngine_bench (n : Nat) (f : IndEngine → IndEngine) : (modEngine n f s).bench = s.bench := rfl
@[simp] theorem modEngine_pending (n : Nat) (f : IndEngine → IndEngine) : (modEngine n f s).pending = s.pending := rfl

/-! ### modCal -/

@[simp] theorem modCal_now (n : Nat) (f : GroupCal → GroupCal) : (modCal n f s).now = s.now := rfl
@[simp] theorem modCal_clk (n : Nat) (f : GroupCal → GroupCal) : (modCal n f s).clk = s.clk := rfl
@[simp] theorem modCal_fresh (n : Nat) (f : GroupCal → GroupCal) : (modCal n f s).fresh = s.fresh := rfl
@[simp] theorem modCal_modes (n : Nat) (f : GroupCal → GroupCal) : (modCal n f s).modes = s.modes := rfl
@[simp] theorem modCal_dict (n : Nat) (f : GroupCal → GroupCal) : (modCal n f s).dict = s.dict := rfl
@[simp] theorem modCal_ecat (n : Nat) (f : GroupCal → GroupCal) : (modCal n f s).ecat = s.ecat := rfl
@[simp] theorem modCal_cfg (n : Nat) (f : GroupCal → GroupCal) : (modCal n f s).cfg = s.cfg := rfl
@[simp] theorem modCal_ev (n : Nat) (f : GroupCal → GroupCal) : (modCal n f s).ev = s.ev := rfl
@[simp] theorem modCal_pwr (n : Nat) (f : GroupCal → GroupCal) : (modCal n f s).pwr = s.pwr := rfl
@[simp] theorem modCal_boot (n : Nat) (f : GroupCal → GroupCal) : (modCal n f s).boot = s.boot := rfl
@[simp] theorem modCal_mbox (n : Nat) (f : GroupCal → GroupCal) : (modCal n f s).mbox = s.mbox := rfl
@[simp] theorem modCal_flash (n : Nat) (f : GroupCal → GroupCal) : (modCal n f s).flash = s.flash := rfl
@[simp] theorem modCal_upd (n : Nat) (f : GroupCal → GroupCal) : (modCal n f s).upd = s.upd := rfl
@[simp] theorem modCal_telem (n : Nat) (f : GroupCal → GroupCal) : (modCal n f s).telem = s.telem := rfl
@[simp] theorem modCal_otp (n : Nat) (f : GroupCal → GroupCal) : (modCal n f s).otp = s.otp := rfl
@[simp] theorem modCal_fe (n : Nat) (f : GroupCal → GroupCal) : (modCal n f s).fe = s.fe := rfl
@[simp] theorem modCal_tim (n : Nat) (f : GroupCal → GroupCal) : (modCal n f s).tim = s.tim := rfl
@[simp] theorem modCal_lamps (n : Nat) (f : GroupCal → GroupCal) : (modCal n f s).lamps = s.lamps := rfl
@[simp] theorem modCal_ind (n : Nat) (f : GroupCal → GroupCal) : (modCal n f s).ind = s.ind := rfl
@[simp] theorem modCal_pipe (n : Nat) (f : GroupCal → GroupCal) : (modCal n f s).pipe = s.pipe := rfl
@[simp] theorem modCal_lv (n : Nat) (f : GroupCal → GroupCal) : (modCal n f s).lv = { s.lv with groups := modifyAt f n s.lv.groups } := rfl
@[simp] theorem modCal_cmp (n : Nat) (f : GroupCal → GroupCal) : (modCal n f s).cmp = s.cmp := rfl
@[simp] theorem modCal_cist (n : Nat) (f : GroupCal → GroupCal) : (modCal n f s).cist = s.cist := rfl
@[simp] theorem modCal_host (n : Nat) (f : GroupCal → GroupCal) : (modCal n f s).host = s.host := rfl
@[simp] theorem modCal_mot (n : Nat) (f : GroupCal → GroupCal) : (modCal n f s).mot = s.mot := rfl
@[simp] theorem modCal_tw (n : Nat) (f : GroupCal → GroupCal) : (modCal n f s).tw = s.tw := rfl
@[simp] theorem modCal_pins (n : Nat) (f : GroupCal → GroupCal) : (modCal n f s).pins = s.pins := rfl
@[simp] theorem modCal_tap (n : Nat) (f : GroupCal → GroupCal) : (modCal n f s).tap = s.tap := rfl
@[simp] theorem modCal_bench (n : Nat) (f : GroupCal → GroupCal) : (modCal n f s).bench = s.bench := rfl
@[simp] theorem modCal_pending (n : Nat) (f : GroupCal → GroupCal) : (modCal n f s).pending = s.pending := rfl

/-! ### modChain -/

@[simp] theorem modChain_now (n : Nat) (f : ChainInfo → ChainInfo) : (modChain n f s).now = s.now := rfl
@[simp] theorem modChain_clk (n : Nat) (f : ChainInfo → ChainInfo) : (modChain n f s).clk = s.clk := rfl
@[simp] theorem modChain_fresh (n : Nat) (f : ChainInfo → ChainInfo) : (modChain n f s).fresh = s.fresh := rfl
@[simp] theorem modChain_modes (n : Nat) (f : ChainInfo → ChainInfo) : (modChain n f s).modes = s.modes := rfl
@[simp] theorem modChain_dict (n : Nat) (f : ChainInfo → ChainInfo) : (modChain n f s).dict = s.dict := rfl
@[simp] theorem modChain_ecat (n : Nat) (f : ChainInfo → ChainInfo) : (modChain n f s).ecat = s.ecat := rfl
@[simp] theorem modChain_cfg (n : Nat) (f : ChainInfo → ChainInfo) : (modChain n f s).cfg = s.cfg := rfl
@[simp] theorem modChain_ev (n : Nat) (f : ChainInfo → ChainInfo) : (modChain n f s).ev = s.ev := rfl
@[simp] theorem modChain_pwr (n : Nat) (f : ChainInfo → ChainInfo) : (modChain n f s).pwr = s.pwr := rfl
@[simp] theorem modChain_boot (n : Nat) (f : ChainInfo → ChainInfo) : (modChain n f s).boot = s.boot := rfl
@[simp] theorem modChain_mbox (n : Nat) (f : ChainInfo → ChainInfo) : (modChain n f s).mbox = s.mbox := rfl
@[simp] theorem modChain_flash (n : Nat) (f : ChainInfo → ChainInfo) : (modChain n f s).flash = s.flash := rfl
@[simp] theorem modChain_upd (n : Nat) (f : ChainInfo → ChainInfo) : (modChain n f s).upd = s.upd := rfl
@[simp] theorem modChain_telem (n : Nat) (f : ChainInfo → ChainInfo) : (modChain n f s).telem = s.telem := rfl
@[simp] theorem modChain_otp (n : Nat) (f : ChainInfo → ChainInfo) : (modChain n f s).otp = s.otp := rfl
@[simp] theorem modChain_fe (n : Nat) (f : ChainInfo → ChainInfo) : (modChain n f s).fe = s.fe := rfl
@[simp] theorem modChain_tim (n : Nat) (f : ChainInfo → ChainInfo) : (modChain n f s).tim = s.tim := rfl
@[simp] theorem modChain_lamps (n : Nat) (f : ChainInfo → ChainInfo) : (modChain n f s).lamps = s.lamps := rfl
@[simp] theorem modChain_ind (n : Nat) (f : ChainInfo → ChainInfo) : (modChain n f s).ind = s.ind := rfl
@[simp] theorem modChain_pipe (n : Nat) (f : ChainInfo → ChainInfo) : (modChain n f s).pipe = s.pipe := rfl
@[simp] theorem modChain_lv (n : Nat) (f : ChainInfo → ChainInfo) : (modChain n f s).lv = { s.lv with chains := modifyAt f n s.lv.chains } := rfl
@[simp] theorem modChain_cmp (n : Nat) (f : ChainInfo → ChainInfo) : (modChain n f s).cmp = s.cmp := rfl
@[simp] theorem modChain_cist (n : Nat) (f : ChainInfo → ChainInfo) : (modChain n f s).cist = s.cist := rfl
@[simp] theorem modChain_host (n : Nat) (f : ChainInfo → ChainInfo) : (modChain n f s).host = s.host := rfl
@[simp] theorem modChain_mot (n : Nat) (f : ChainInfo → ChainInfo) : (modChain n f s).mot = s.mot := rfl
@[simp] theorem modChain_tw (n : Nat) (f : ChainInfo → ChainInfo) : (modChain n f s).tw = s.tw := rfl
@[simp] theorem modChain_pins (n : Nat) (f : ChainInfo → ChainInfo) : (modChain n f s).pins = s.pins := rfl
@[simp] theorem modChain_tap (n : Nat) (f : ChainInfo → ChainInfo) : (modChain n f s).tap = s.tap := rfl
@[simp] theorem modChain_bench (n : Nat) (f : ChainInfo → ChainInfo) : (modChain n f s).bench = s.bench := rfl
@[simp] theorem modChain_pending (n : Nat) (f : ChainInfo → ChainInfo) : (modChain n f s).pending = s.pending := rfl

/-! ### modChan -/

@[simp] theorem modChan_now (n : Nat) (f : DmaChan → DmaChan) : (modChan n f s).now = s.now := rfl
@[simp] theorem modChan_clk (n : Nat) (f : DmaChan → DmaChan) : (modChan n f s).clk = s.clk := rfl
@[simp] theorem modChan_fresh (n : Nat) (f : DmaChan → DmaChan) : (modChan n f s).fresh = s.fresh := rfl
@[simp] theorem modChan_modes (n : Nat) (f : DmaChan → DmaChan) : (modChan n f s).modes = s.modes := rfl
@[simp] theorem modChan_dict (n : Nat) (f : DmaChan → DmaChan) : (modChan n f s).dict = s.dict := rfl
@[simp] theorem modChan_ecat (n : Nat) (f : DmaChan → DmaChan) : (modChan n f s).ecat = s.ecat := rfl
@[simp] theorem modChan_cfg (n : Nat) (f : DmaChan → DmaChan) : (modChan n f s).cfg = s.cfg := rfl
@[simp] theorem modChan_ev (n : Nat) (f : DmaChan → DmaChan) : (modChan n f s).ev = s.ev := rfl
@[simp] theorem modChan_pwr (n : Nat) (f : DmaChan → DmaChan) : (modChan n f s).pwr = s.pwr := rfl
@[simp] theorem modChan_boot (n : Nat) (f : DmaChan → DmaChan) : (modChan n f s).boot = s.boot := rfl
@[simp] theorem modChan_mbox (n : Nat) (f : DmaChan → DmaChan) : (modChan n f s).mbox = s.mbox := rfl
@[simp] theorem modChan_flash (n : Nat) (f : DmaChan → DmaChan) : (modChan n f s).flash = s.flash := rfl
@[simp] theorem modChan_upd (n : Nat) (f : DmaChan → DmaChan) : (modChan n f s).upd = s.upd := rfl
@[simp] theorem modChan_telem (n : Nat) (f : DmaChan → DmaChan) : (modChan n f s).telem = s.telem := rfl
@[simp] theorem modChan_otp (n : Nat) (f : DmaChan → DmaChan) : (modChan n f s).otp = s.otp := rfl
@[simp] theorem modChan_fe (n : Nat) (f : DmaChan → DmaChan) : (modChan n f s).fe = s.fe := rfl
@[simp] theorem modChan_tim (n : Nat) (f : DmaChan → DmaChan) : (modChan n f s).tim = s.tim := rfl
@[simp] theorem modChan_lamps (n : Nat) (f : DmaChan → DmaChan) : (modChan n f s).lamps = s.lamps := rfl
@[simp] theorem modChan_ind (n : Nat) (f : DmaChan → DmaChan) : (modChan n f s).ind = s.ind := rfl
@[simp] theorem modChan_pipe (n : Nat) (f : DmaChan → DmaChan) : (modChan n f s).pipe = s.pipe := rfl
@[simp] theorem modChan_lv (n : Nat) (f : DmaChan → DmaChan) : (modChan n f s).lv = s.lv := rfl
@[simp] theorem modChan_cmp (n : Nat) (f : DmaChan → DmaChan) : (modChan n f s).cmp = s.cmp := rfl
@[simp] theorem modChan_cist (n : Nat) (f : DmaChan → DmaChan) : (modChan n f s).cist = { s.cist with channels := modifyAt f n s.cist.channels } := rfl
@[simp] theorem modChan_host (n : Nat) (f : DmaChan → DmaChan) : (modChan n f s).host = s.host := rfl
@[simp] theorem modChan_mot (n : Nat) (f : DmaChan → DmaChan) : (modChan n f s).mot = s.mot := rfl
@[simp] theorem modChan_tw (n : Nat) (f : DmaChan → DmaChan) : (modChan n f s).tw = s.tw := rfl
@[simp] theorem modChan_pins (n : Nat) (f : DmaChan → DmaChan) : (modChan n f s).pins = s.pins := rfl
@[simp] theorem modChan_tap (n : Nat) (f : DmaChan → DmaChan) : (modChan n f s).tap = s.tap := rfl
@[simp] theorem modChan_bench (n : Nat) (f : DmaChan → DmaChan) : (modChan n f s).bench = s.bench := rfl
@[simp] theorem modChan_pending (n : Nat) (f : DmaChan → DmaChan) : (modChan n f s).pending = s.pending := rfl

/-! ### modLane -/

@[simp] theorem modLane_now (n : Nat) (f : Lane → Lane) : (modLane n f s).now = s.now := rfl
@[simp] theorem modLane_clk (n : Nat) (f : Lane → Lane) : (modLane n f s).clk = s.clk := rfl
@[simp] theorem modLane_fresh (n : Nat) (f : Lane → Lane) : (modLane n f s).fresh = s.fresh := rfl
@[simp] theorem modLane_modes (n : Nat) (f : Lane → Lane) : (modLane n f s).modes = s.modes := rfl
@[simp] theorem modLane_dict (n : Nat) (f : Lane → Lane) : (modLane n f s).dict = s.dict := rfl
@[simp] theorem modLane_ecat (n : Nat) (f : Lane → Lane) : (modLane n f s).ecat = s.ecat := rfl
@[simp] theorem modLane_cfg (n : Nat) (f : Lane → Lane) : (modLane n f s).cfg = s.cfg := rfl
@[simp] theorem modLane_ev (n : Nat) (f : Lane → Lane) : (modLane n f s).ev = s.ev := rfl
@[simp] theorem modLane_pwr (n : Nat) (f : Lane → Lane) : (modLane n f s).pwr = s.pwr := rfl
@[simp] theorem modLane_boot (n : Nat) (f : Lane → Lane) : (modLane n f s).boot = s.boot := rfl
@[simp] theorem modLane_mbox (n : Nat) (f : Lane → Lane) : (modLane n f s).mbox = s.mbox := rfl
@[simp] theorem modLane_flash (n : Nat) (f : Lane → Lane) : (modLane n f s).flash = s.flash := rfl
@[simp] theorem modLane_upd (n : Nat) (f : Lane → Lane) : (modLane n f s).upd = s.upd := rfl
@[simp] theorem modLane_telem (n : Nat) (f : Lane → Lane) : (modLane n f s).telem = s.telem := rfl
@[simp] theorem modLane_otp (n : Nat) (f : Lane → Lane) : (modLane n f s).otp = s.otp := rfl
@[simp] theorem modLane_fe (n : Nat) (f : Lane → Lane) : (modLane n f s).fe = s.fe := rfl
@[simp] theorem modLane_tim (n : Nat) (f : Lane → Lane) : (modLane n f s).tim = s.tim := rfl
@[simp] theorem modLane_lamps (n : Nat) (f : Lane → Lane) : (modLane n f s).lamps = s.lamps := rfl
@[simp] theorem modLane_ind (n : Nat) (f : Lane → Lane) : (modLane n f s).ind = s.ind := rfl
@[simp] theorem modLane_pipe (n : Nat) (f : Lane → Lane) : (modLane n f s).pipe = s.pipe := rfl
@[simp] theorem modLane_lv (n : Nat) (f : Lane → Lane) : (modLane n f s).lv = s.lv := rfl
@[simp] theorem modLane_cmp (n : Nat) (f : Lane → Lane) : (modLane n f s).cmp = s.cmp := rfl
@[simp] theorem modLane_cist (n : Nat) (f : Lane → Lane) : (modLane n f s).cist = s.cist := rfl
@[simp] theorem modLane_host (n : Nat) (f : Lane → Lane) : (modLane n f s).host = { s.host with lanes := modifyAt f n s.host.lanes } := rfl
@[simp] theorem modLane_mot (n : Nat) (f : Lane → Lane) : (modLane n f s).mot = s.mot := rfl
@[simp] theorem modLane_tw (n : Nat) (f : Lane → Lane) : (modLane n f s).tw = s.tw := rfl
@[simp] theorem modLane_pins (n : Nat) (f : Lane → Lane) : (modLane n f s).pins = s.pins := rfl
@[simp] theorem modLane_tap (n : Nat) (f : Lane → Lane) : (modLane n f s).tap = s.tap := rfl
@[simp] theorem modLane_bench (n : Nat) (f : Lane → Lane) : (modLane n f s).bench = s.bench := rfl
@[simp] theorem modLane_pending (n : Nat) (f : Lane → Lane) : (modLane n f s).pending = s.pending := rfl

/-! ### modAxis -/

@[simp] theorem modAxis_now (n : Nat) (f : Axis → Axis) : (modAxis n f s).now = s.now := rfl
@[simp] theorem modAxis_clk (n : Nat) (f : Axis → Axis) : (modAxis n f s).clk = s.clk := rfl
@[simp] theorem modAxis_fresh (n : Nat) (f : Axis → Axis) : (modAxis n f s).fresh = s.fresh := rfl
@[simp] theorem modAxis_modes (n : Nat) (f : Axis → Axis) : (modAxis n f s).modes = s.modes := rfl
@[simp] theorem modAxis_dict (n : Nat) (f : Axis → Axis) : (modAxis n f s).dict = s.dict := rfl
@[simp] theorem modAxis_ecat (n : Nat) (f : Axis → Axis) : (modAxis n f s).ecat = s.ecat := rfl
@[simp] theorem modAxis_cfg (n : Nat) (f : Axis → Axis) : (modAxis n f s).cfg = s.cfg := rfl
@[simp] theorem modAxis_ev (n : Nat) (f : Axis → Axis) : (modAxis n f s).ev = s.ev := rfl
@[simp] theorem modAxis_pwr (n : Nat) (f : Axis → Axis) : (modAxis n f s).pwr = s.pwr := rfl
@[simp] theorem modAxis_boot (n : Nat) (f : Axis → Axis) : (modAxis n f s).boot = s.boot := rfl
@[simp] theorem modAxis_mbox (n : Nat) (f : Axis → Axis) : (modAxis n f s).mbox = s.mbox := rfl
@[simp] theorem modAxis_flash (n : Nat) (f : Axis → Axis) : (modAxis n f s).flash = s.flash := rfl
@[simp] theorem modAxis_upd (n : Nat) (f : Axis → Axis) : (modAxis n f s).upd = s.upd := rfl
@[simp] theorem modAxis_telem (n : Nat) (f : Axis → Axis) : (modAxis n f s).telem = s.telem := rfl
@[simp] theorem modAxis_otp (n : Nat) (f : Axis → Axis) : (modAxis n f s).otp = s.otp := rfl
@[simp] theorem modAxis_fe (n : Nat) (f : Axis → Axis) : (modAxis n f s).fe = s.fe := rfl
@[simp] theorem modAxis_tim (n : Nat) (f : Axis → Axis) : (modAxis n f s).tim = s.tim := rfl
@[simp] theorem modAxis_lamps (n : Nat) (f : Axis → Axis) : (modAxis n f s).lamps = s.lamps := rfl
@[simp] theorem modAxis_ind (n : Nat) (f : Axis → Axis) : (modAxis n f s).ind = s.ind := rfl
@[simp] theorem modAxis_pipe (n : Nat) (f : Axis → Axis) : (modAxis n f s).pipe = s.pipe := rfl
@[simp] theorem modAxis_lv (n : Nat) (f : Axis → Axis) : (modAxis n f s).lv = s.lv := rfl
@[simp] theorem modAxis_cmp (n : Nat) (f : Axis → Axis) : (modAxis n f s).cmp = s.cmp := rfl
@[simp] theorem modAxis_cist (n : Nat) (f : Axis → Axis) : (modAxis n f s).cist = s.cist := rfl
@[simp] theorem modAxis_host (n : Nat) (f : Axis → Axis) : (modAxis n f s).host = s.host := rfl
@[simp] theorem modAxis_mot (n : Nat) (f : Axis → Axis) : (modAxis n f s).mot = { s.mot with axes := modifyAt f n s.mot.axes } := rfl
@[simp] theorem modAxis_tw (n : Nat) (f : Axis → Axis) : (modAxis n f s).tw = s.tw := rfl
@[simp] theorem modAxis_pins (n : Nat) (f : Axis → Axis) : (modAxis n f s).pins = s.pins := rfl
@[simp] theorem modAxis_tap (n : Nat) (f : Axis → Axis) : (modAxis n f s).tap = s.tap := rfl
@[simp] theorem modAxis_bench (n : Nat) (f : Axis → Axis) : (modAxis n f s).bench = s.bench := rfl
@[simp] theorem modAxis_pending (n : Nat) (f : Axis → Axis) : (modAxis n f s).pending = s.pending := rfl

/-! ### modDir -/

@[simp] theorem modDir_now (n : Nat) (f : MailDir → MailDir) : (modDir n f s).now = s.now := rfl
@[simp] theorem modDir_clk (n : Nat) (f : MailDir → MailDir) : (modDir n f s).clk = s.clk := rfl
@[simp] theorem modDir_fresh (n : Nat) (f : MailDir → MailDir) : (modDir n f s).fresh = s.fresh := rfl
@[simp] theorem modDir_modes (n : Nat) (f : MailDir → MailDir) : (modDir n f s).modes = s.modes := rfl
@[simp] theorem modDir_dict (n : Nat) (f : MailDir → MailDir) : (modDir n f s).dict = s.dict := rfl
@[simp] theorem modDir_ecat (n : Nat) (f : MailDir → MailDir) : (modDir n f s).ecat = s.ecat := rfl
@[simp] theorem modDir_cfg (n : Nat) (f : MailDir → MailDir) : (modDir n f s).cfg = s.cfg := rfl
@[simp] theorem modDir_ev (n : Nat) (f : MailDir → MailDir) : (modDir n f s).ev = s.ev := rfl
@[simp] theorem modDir_pwr (n : Nat) (f : MailDir → MailDir) : (modDir n f s).pwr = s.pwr := rfl
@[simp] theorem modDir_boot (n : Nat) (f : MailDir → MailDir) : (modDir n f s).boot = s.boot := rfl
@[simp] theorem modDir_mbox (n : Nat) (f : MailDir → MailDir) : (modDir n f s).mbox = { s.mbox with dirs := modifyAt f n s.mbox.dirs } := rfl
@[simp] theorem modDir_flash (n : Nat) (f : MailDir → MailDir) : (modDir n f s).flash = s.flash := rfl
@[simp] theorem modDir_upd (n : Nat) (f : MailDir → MailDir) : (modDir n f s).upd = s.upd := rfl
@[simp] theorem modDir_telem (n : Nat) (f : MailDir → MailDir) : (modDir n f s).telem = s.telem := rfl
@[simp] theorem modDir_otp (n : Nat) (f : MailDir → MailDir) : (modDir n f s).otp = s.otp := rfl
@[simp] theorem modDir_fe (n : Nat) (f : MailDir → MailDir) : (modDir n f s).fe = s.fe := rfl
@[simp] theorem modDir_tim (n : Nat) (f : MailDir → MailDir) : (modDir n f s).tim = s.tim := rfl
@[simp] theorem modDir_lamps (n : Nat) (f : MailDir → MailDir) : (modDir n f s).lamps = s.lamps := rfl
@[simp] theorem modDir_ind (n : Nat) (f : MailDir → MailDir) : (modDir n f s).ind = s.ind := rfl
@[simp] theorem modDir_pipe (n : Nat) (f : MailDir → MailDir) : (modDir n f s).pipe = s.pipe := rfl
@[simp] theorem modDir_lv (n : Nat) (f : MailDir → MailDir) : (modDir n f s).lv = s.lv := rfl
@[simp] theorem modDir_cmp (n : Nat) (f : MailDir → MailDir) : (modDir n f s).cmp = s.cmp := rfl
@[simp] theorem modDir_cist (n : Nat) (f : MailDir → MailDir) : (modDir n f s).cist = s.cist := rfl
@[simp] theorem modDir_host (n : Nat) (f : MailDir → MailDir) : (modDir n f s).host = s.host := rfl
@[simp] theorem modDir_mot (n : Nat) (f : MailDir → MailDir) : (modDir n f s).mot = s.mot := rfl
@[simp] theorem modDir_tw (n : Nat) (f : MailDir → MailDir) : (modDir n f s).tw = s.tw := rfl
@[simp] theorem modDir_pins (n : Nat) (f : MailDir → MailDir) : (modDir n f s).pins = s.pins := rfl
@[simp] theorem modDir_tap (n : Nat) (f : MailDir → MailDir) : (modDir n f s).tap = s.tap := rfl
@[simp] theorem modDir_bench (n : Nat) (f : MailDir → MailDir) : (modDir n f s).bench = s.bench := rfl
@[simp] theorem modDir_pending (n : Nat) (f : MailDir → MailDir) : (modDir n f s).pending = s.pending := rfl

/-! ### modBus -/

@[simp] theorem modBus_now (n : Nat) (f : TwBus → TwBus) : (modBus n f s).now = s.now := rfl
@[simp] theorem modBus_clk (n : Nat) (f : TwBus → TwBus) : (modBus n f s).clk = s.clk := rfl
@[simp] theorem modBus_fresh (n : Nat) (f : TwBus → TwBus) : (modBus n f s).fresh = s.fresh := rfl
@[simp] theorem modBus_modes (n : Nat) (f : TwBus → TwBus) : (modBus n f s).modes = s.modes := rfl
@[simp] theorem modBus_dict (n : Nat) (f : TwBus → TwBus) : (modBus n f s).dict = s.dict := rfl
@[simp] theorem modBus_ecat (n : Nat) (f : TwBus → TwBus) : (modBus n f s).ecat = s.ecat := rfl
@[simp] theorem modBus_cfg (n : Nat) (f : TwBus → TwBus) : (modBus n f s).cfg = s.cfg := rfl
@[simp] theorem modBus_ev (n : Nat) (f : TwBus → TwBus) : (modBus n f s).ev = s.ev := rfl
@[simp] theorem modBus_pwr (n : Nat) (f : TwBus → TwBus) : (modBus n f s).pwr = s.pwr := rfl
@[simp] theorem modBus_boot (n : Nat) (f : TwBus → TwBus) : (modBus n f s).boot = s.boot := rfl
@[simp] theorem modBus_mbox (n : Nat) (f : TwBus → TwBus) : (modBus n f s).mbox = s.mbox := rfl
@[simp] theorem modBus_flash (n : Nat) (f : TwBus → TwBus) : (modBus n f s).flash = s.flash := rfl
@[simp] theorem modBus_upd (n : Nat) (f : TwBus → TwBus) : (modBus n f s).upd = s.upd := rfl
@[simp] theorem modBus_telem (n : Nat) (f : TwBus → TwBus) : (modBus n f s).telem = s.telem := rfl
@[simp] theorem modBus_otp (n : Nat) (f : TwBus → TwBus) : (modBus n f s).otp = s.otp := rfl
@[simp] theorem modBus_fe (n : Nat) (f : TwBus → TwBus) : (modBus n f s).fe = s.fe := rfl
@[simp] theorem modBus_tim (n : Nat) (f : TwBus → TwBus) : (modBus n f s).tim = s.tim := rfl
@[simp] theorem modBus_lamps (n : Nat) (f : TwBus → TwBus) : (modBus n f s).lamps = s.lamps := rfl
@[simp] theorem modBus_ind (n : Nat) (f : TwBus → TwBus) : (modBus n f s).ind = s.ind := rfl
@[simp] theorem modBus_pipe (n : Nat) (f : TwBus → TwBus) : (modBus n f s).pipe = s.pipe := rfl
@[simp] theorem modBus_lv (n : Nat) (f : TwBus → TwBus) : (modBus n f s).lv = s.lv := rfl
@[simp] theorem modBus_cmp (n : Nat) (f : TwBus → TwBus) : (modBus n f s).cmp = s.cmp := rfl
@[simp] theorem modBus_cist (n : Nat) (f : TwBus → TwBus) : (modBus n f s).cist = s.cist := rfl
@[simp] theorem modBus_host (n : Nat) (f : TwBus → TwBus) : (modBus n f s).host = s.host := rfl
@[simp] theorem modBus_mot (n : Nat) (f : TwBus → TwBus) : (modBus n f s).mot = s.mot := rfl
@[simp] theorem modBus_tw (n : Nat) (f : TwBus → TwBus) : (modBus n f s).tw = { s.tw with buses := modifyAt f n s.tw.buses } := rfl
@[simp] theorem modBus_pins (n : Nat) (f : TwBus → TwBus) : (modBus n f s).pins = s.pins := rfl
@[simp] theorem modBus_tap (n : Nat) (f : TwBus → TwBus) : (modBus n f s).tap = s.tap := rfl
@[simp] theorem modBus_bench (n : Nat) (f : TwBus → TwBus) : (modBus n f s).bench = s.bench := rfl
@[simp] theorem modBus_pending (n : Nat) (f : TwBus → TwBus) : (modBus n f s).pending = s.pending := rfl

/-! ### setPwr -/

@[simp] theorem setPwr_now (f : Power → Power) : (setPwr f s).now = s.now := rfl
@[simp] theorem setPwr_clk (f : Power → Power) : (setPwr f s).clk = s.clk := rfl
@[simp] theorem setPwr_fresh (f : Power → Power) : (setPwr f s).fresh = s.fresh := rfl
@[simp] theorem setPwr_modes (f : Power → Power) : (setPwr f s).modes = s.modes := rfl
@[simp] theorem setPwr_dict (f : Power → Power) : (setPwr f s).dict = s.dict := rfl
@[simp] theorem setPwr_ecat (f : Power → Power) : (setPwr f s).ecat = s.ecat := rfl
@[simp] theorem setPwr_cfg (f : Power → Power) : (setPwr f s).cfg = s.cfg := rfl
@[simp] theorem setPwr_ev (f : Power → Power) : (setPwr f s).ev = s.ev := rfl
@[simp] theorem setPwr_pwr (f : Power → Power) : (setPwr f s).pwr = f s.pwr := rfl
@[simp] theorem setPwr_boot (f : Power → Power) : (setPwr f s).boot = s.boot := rfl
@[simp] theorem setPwr_mbox (f : Power → Power) : (setPwr f s).mbox = s.mbox := rfl
@[simp] theorem setPwr_flash (f : Power → Power) : (setPwr f s).flash = s.flash := rfl
@[simp] theorem setPwr_upd (f : Power → Power) : (setPwr f s).upd = s.upd := rfl
@[simp] theorem setPwr_telem (f : Power → Power) : (setPwr f s).telem = s.telem := rfl
@[simp] theorem setPwr_otp (f : Power → Power) : (setPwr f s).otp = s.otp := rfl
@[simp] theorem setPwr_fe (f : Power → Power) : (setPwr f s).fe = s.fe := rfl
@[simp] theorem setPwr_tim (f : Power → Power) : (setPwr f s).tim = s.tim := rfl
@[simp] theorem setPwr_lamps (f : Power → Power) : (setPwr f s).lamps = s.lamps := rfl
@[simp] theorem setPwr_ind (f : Power → Power) : (setPwr f s).ind = s.ind := rfl
@[simp] theorem setPwr_pipe (f : Power → Power) : (setPwr f s).pipe = s.pipe := rfl
@[simp] theorem setPwr_lv (f : Power → Power) : (setPwr f s).lv = s.lv := rfl
@[simp] theorem setPwr_cmp (f : Power → Power) : (setPwr f s).cmp = s.cmp := rfl
@[simp] theorem setPwr_cist (f : Power → Power) : (setPwr f s).cist = s.cist := rfl
@[simp] theorem setPwr_host (f : Power → Power) : (setPwr f s).host = s.host := rfl
@[simp] theorem setPwr_mot (f : Power → Power) : (setPwr f s).mot = s.mot := rfl
@[simp] theorem setPwr_tw (f : Power → Power) : (setPwr f s).tw = s.tw := rfl
@[simp] theorem setPwr_pins (f : Power → Power) : (setPwr f s).pins = s.pins := rfl
@[simp] theorem setPwr_tap (f : Power → Power) : (setPwr f s).tap = s.tap := rfl
@[simp] theorem setPwr_bench (f : Power → Power) : (setPwr f s).bench = s.bench := rfl
@[simp] theorem setPwr_pending (f : Power → Power) : (setPwr f s).pending = s.pending := rfl

/-! ### setBoot -/

@[simp] theorem setBoot_now (f : Boot → Boot) : (setBoot f s).now = s.now := rfl
@[simp] theorem setBoot_clk (f : Boot → Boot) : (setBoot f s).clk = s.clk := rfl
@[simp] theorem setBoot_fresh (f : Boot → Boot) : (setBoot f s).fresh = s.fresh := rfl
@[simp] theorem setBoot_modes (f : Boot → Boot) : (setBoot f s).modes = s.modes := rfl
@[simp] theorem setBoot_dict (f : Boot → Boot) : (setBoot f s).dict = s.dict := rfl
@[simp] theorem setBoot_ecat (f : Boot → Boot) : (setBoot f s).ecat = s.ecat := rfl
@[simp] theorem setBoot_cfg (f : Boot → Boot) : (setBoot f s).cfg = s.cfg := rfl
@[simp] theorem setBoot_ev (f : Boot → Boot) : (setBoot f s).ev = s.ev := rfl
@[simp] theorem setBoot_pwr (f : Boot → Boot) : (setBoot f s).pwr = s.pwr := rfl
@[simp] theorem setBoot_boot (f : Boot → Boot) : (setBoot f s).boot = f s.boot := rfl
@[simp] theorem setBoot_mbox (f : Boot → Boot) : (setBoot f s).mbox = s.mbox := rfl
@[simp] theorem setBoot_flash (f : Boot → Boot) : (setBoot f s).flash = s.flash := rfl
@[simp] theorem setBoot_upd (f : Boot → Boot) : (setBoot f s).upd = s.upd := rfl
@[simp] theorem setBoot_telem (f : Boot → Boot) : (setBoot f s).telem = s.telem := rfl
@[simp] theorem setBoot_otp (f : Boot → Boot) : (setBoot f s).otp = s.otp := rfl
@[simp] theorem setBoot_fe (f : Boot → Boot) : (setBoot f s).fe = s.fe := rfl
@[simp] theorem setBoot_tim (f : Boot → Boot) : (setBoot f s).tim = s.tim := rfl
@[simp] theorem setBoot_lamps (f : Boot → Boot) : (setBoot f s).lamps = s.lamps := rfl
@[simp] theorem setBoot_ind (f : Boot → Boot) : (setBoot f s).ind = s.ind := rfl
@[simp] theorem setBoot_pipe (f : Boot → Boot) : (setBoot f s).pipe = s.pipe := rfl
@[simp] theorem setBoot_lv (f : Boot → Boot) : (setBoot f s).lv = s.lv := rfl
@[simp] theorem setBoot_cmp (f : Boot → Boot) : (setBoot f s).cmp = s.cmp := rfl
@[simp] theorem setBoot_cist (f : Boot → Boot) : (setBoot f s).cist = s.cist := rfl
@[simp] theorem setBoot_host (f : Boot → Boot) : (setBoot f s).host = s.host := rfl
@[simp] theorem setBoot_mot (f : Boot → Boot) : (setBoot f s).mot = s.mot := rfl
@[simp] theorem setBoot_tw (f : Boot → Boot) : (setBoot f s).tw = s.tw := rfl
@[simp] theorem setBoot_pins (f : Boot → Boot) : (setBoot f s).pins = s.pins := rfl
@[simp] theorem setBoot_tap (f : Boot → Boot) : (setBoot f s).tap = s.tap := rfl
@[simp] theorem setBoot_bench (f : Boot → Boot) : (setBoot f s).bench = s.bench := rfl
@[simp] theorem setBoot_pending (f : Boot → Boot) : (setBoot f s).pending = s.pending := rfl

/-! ### setFlash -/

@[simp] theorem setFlash_now (f : Flash → Flash) : (setFlash f s).now = s.now := rfl
@[simp] theorem setFlash_clk (f : Flash → Flash) : (setFlash f s).clk = s.clk := rfl
@[simp] theorem setFlash_fresh (f : Flash → Flash) : (setFlash f s).fresh = s.fresh := rfl
@[simp] theorem setFlash_modes (f : Flash → Flash) : (setFlash f s).modes = s.modes := rfl
@[simp] theorem setFlash_dict (f : Flash → Flash) : (setFlash f s).dict = s.dict := rfl
@[simp] theorem setFlash_ecat (f : Flash → Flash) : (setFlash f s).ecat = s.ecat := rfl
@[simp] theorem setFlash_cfg (f : Flash → Flash) : (setFlash f s).cfg = s.cfg := rfl
@[simp] theorem setFlash_ev (f : Flash → Flash) : (setFlash f s).ev = s.ev := rfl
@[simp] theorem setFlash_pwr (f : Flash → Flash) : (setFlash f s).pwr = s.pwr := rfl
@[simp] theorem setFlash_boot (f : Flash → Flash) : (setFlash f s).boot = s.boot := rfl
@[simp] theorem setFlash_mbox (f : Flash → Flash) : (setFlash f s).mbox = s.mbox := rfl
@[simp] theorem setFlash_flash (f : Flash → Flash) : (setFlash f s).flash = f s.flash := rfl
@[simp] theorem setFlash_upd (f : Flash → Flash) : (setFlash f s).upd = s.upd := rfl
@[simp] theorem setFlash_telem (f : Flash → Flash) : (setFlash f s).telem = s.telem := rfl
@[simp] theorem setFlash_otp (f : Flash → Flash) : (setFlash f s).otp = s.otp := rfl
@[simp] theorem setFlash_fe (f : Flash → Flash) : (setFlash f s).fe = s.fe := rfl
@[simp] theorem setFlash_tim (f : Flash → Flash) : (setFlash f s).tim = s.tim := rfl
@[simp] theorem setFlash_lamps (f : Flash → Flash) : (setFlash f s).lamps = s.lamps := rfl
@[simp] theorem setFlash_ind (f : Flash → Flash) : (setFlash f s).ind = s.ind := rfl
@[simp] theorem setFlash_pipe (f : Flash → Flash) : (setFlash f s).pipe = s.pipe := rfl
@[simp] theorem setFlash_lv (f : Flash → Flash) : (setFlash f s).lv = s.lv := rfl
@[simp] theorem setFlash_cmp (f : Flash → Flash) : (setFlash f s).cmp = s.cmp := rfl
@[simp] theorem setFlash_cist (f : Flash → Flash) : (setFlash f s).cist = s.cist := rfl
@[simp] theorem setFlash_host (f : Flash → Flash) : (setFlash f s).host = s.host := rfl
@[simp] theorem setFlash_mot (f : Flash → Flash) : (setFlash f s).mot = s.mot := rfl
@[simp] theorem setFlash_tw (f : Flash → Flash) : (setFlash f s).tw = s.tw := rfl
@[simp] theorem setFlash_pins (f : Flash → Flash) : (setFlash f s).pins = s.pins := rfl
@[simp] theorem setFlash_tap (f : Flash → Flash) : (setFlash f s).tap = s.tap := rfl
@[simp] theorem setFlash_bench (f : Flash → Flash) : (setFlash f s).bench = s.bench := rfl
@[simp] theorem setFlash_pending (f : Flash → Flash) : (setFlash f s).pending = s.pending := rfl

/-! ### setUpd -/

@[simp] theorem setUpd_now (f : Update → Update) : (setUpd f s).now = s.now := rfl
@[simp] theorem setUpd_clk (f : Update → Update) : (setUpd f s).clk = s.clk := rfl
@[simp] theorem setUpd_fresh (f : Update → Update) : (setUpd f s).fresh = s.fresh := rfl
@[simp] theorem setUpd_modes (f : Update → Update) : (setUpd f s).modes = s.modes := rfl
@[simp] theorem setUpd_dict (f : Update → Update) : (setUpd f s).dict = s.dict := rfl
@[simp] theorem setUpd_ecat (f : Update → Update) : (setUpd f s).ecat = s.ecat := rfl
@[simp] theorem setUpd_cfg (f : Update → Update) : (setUpd f s).cfg = s.cfg := rfl
@[simp] theorem setUpd_ev (f : Update → Update) : (setUpd f s).ev = s.ev := rfl
@[simp] theorem setUpd_pwr (f : Update → Update) : (setUpd f s).pwr = s.pwr := rfl
@[simp] theorem setUpd_boot (f : Update → Update) : (setUpd f s).boot = s.boot := rfl
@[simp] theorem setUpd_mbox (f : Update → Update) : (setUpd f s).mbox = s.mbox := rfl
@[simp] theorem setUpd_flash (f : Update → Update) : (setUpd f s).flash = s.flash := rfl
@[simp] theorem setUpd_upd (f : Update → Update) : (setUpd f s).upd = f s.upd := rfl
@[simp] theorem setUpd_telem (f : Update → Update) : (setUpd f s).telem = s.telem := rfl
@[simp] theorem setUpd_otp (f : Update → Update) : (setUpd f s).otp = s.otp := rfl
@[simp] theorem setUpd_fe (f : Update → Update) : (setUpd f s).fe = s.fe := rfl
@[simp] theorem setUpd_tim (f : Update → Update) : (setUpd f s).tim = s.tim := rfl
@[simp] theorem setUpd_lamps (f : Update → Update) : (setUpd f s).lamps = s.lamps := rfl
@[simp] theorem setUpd_ind (f : Update → Update) : (setUpd f s).ind = s.ind := rfl
@[simp] theorem setUpd_pipe (f : Update → Update) : (setUpd f s).pipe = s.pipe := rfl
@[simp] theorem setUpd_lv (f : Update → Update) : (setUpd f s).lv = s.lv := rfl
@[simp] theorem setUpd_cmp (f : Update → Update) : (setUpd f s).cmp = s.cmp := rfl
@[simp] theorem setUpd_cist (f : Update → Update) : (setUpd f s).cist = s.cist := rfl
@[simp] theorem setUpd_host (f : Update → Update) : (setUpd f s).host = s.host := rfl
@[simp] theorem setUpd_mot (f : Update → Update) : (setUpd f s).mot = s.mot := rfl
@[simp] theorem setUpd_tw (f : Update → Update) : (setUpd f s).tw = s.tw := rfl
@[simp] theorem setUpd_pins (f : Update → Update) : (setUpd f s).pins = s.pins := rfl
@[simp] theorem setUpd_tap (f : Update → Update) : (setUpd f s).tap = s.tap := rfl
@[simp] theorem setUpd_bench (f : Update → Update) : (setUpd f s).bench = s.bench := rfl
@[simp] theorem setUpd_pending (f : Update → Update) : (setUpd f s).pending = s.pending := rfl

/-! ### setCfg -/

@[simp] theorem setCfg_now (f : ConfigSets → ConfigSets) : (setCfg f s).now = s.now := rfl
@[simp] theorem setCfg_clk (f : ConfigSets → ConfigSets) : (setCfg f s).clk = s.clk := rfl
@[simp] theorem setCfg_fresh (f : ConfigSets → ConfigSets) : (setCfg f s).fresh = s.fresh := rfl
@[simp] theorem setCfg_modes (f : ConfigSets → ConfigSets) : (setCfg f s).modes = s.modes := rfl
@[simp] theorem setCfg_dict (f : ConfigSets → ConfigSets) : (setCfg f s).dict = s.dict := rfl
@[simp] theorem setCfg_ecat (f : ConfigSets → ConfigSets) : (setCfg f s).ecat = s.ecat := rfl
@[simp] theorem setCfg_cfg (f : ConfigSets → ConfigSets) : (setCfg f s).cfg = f s.cfg := rfl
@[simp] theorem setCfg_ev (f : ConfigSets → ConfigSets) : (setCfg f s).ev = s.ev := rfl
@[simp] theorem setCfg_pwr (f : ConfigSets → ConfigSets) : (setCfg f s).pwr = s.pwr := rfl
@[simp] theorem setCfg_boot (f : ConfigSets → ConfigSets) : (setCfg f s).boot = s.boot := rfl
@[simp] theorem setCfg_mbox (f : ConfigSets → ConfigSets) : (setCfg f s).mbox = s.mbox := rfl
@[simp] theorem setCfg_flash (f : ConfigSets → ConfigSets) : (setCfg f s).flash = s.flash := rfl
@[simp] theorem setCfg_upd (f : ConfigSets → ConfigSets) : (setCfg f s).upd = s.upd := rfl
@[simp] theorem setCfg_telem (f : ConfigSets → ConfigSets) : (setCfg f s).telem = s.telem := rfl
@[simp] theorem setCfg_otp (f : ConfigSets → ConfigSets) : (setCfg f s).otp = s.otp := rfl
@[simp] theorem setCfg_fe (f : ConfigSets → ConfigSets) : (setCfg f s).fe = s.fe := rfl
@[simp] theorem setCfg_tim (f : ConfigSets → ConfigSets) : (setCfg f s).tim = s.tim := rfl
@[simp] theorem setCfg_lamps (f : ConfigSets → ConfigSets) : (setCfg f s).lamps = s.lamps := rfl
@[simp] theorem setCfg_ind (f : ConfigSets → ConfigSets) : (setCfg f s).ind = s.ind := rfl
@[simp] theorem setCfg_pipe (f : ConfigSets → ConfigSets) : (setCfg f s).pipe = s.pipe := rfl
@[simp] theorem setCfg_lv (f : ConfigSets → ConfigSets) : (setCfg f s).lv = s.lv := rfl
@[simp] theorem setCfg_cmp (f : ConfigSets → ConfigSets) : (setCfg f s).cmp = s.cmp := rfl
@[simp] theorem setCfg_cist (f : ConfigSets → ConfigSets) : (setCfg f s).cist = s.cist := rfl
@[simp] theorem setCfg_host (f : ConfigSets → ConfigSets) : (setCfg f s).host = s.host := rfl
@[simp] theorem setCfg_mot (f : ConfigSets → ConfigSets) : (setCfg f s).mot = s.mot := rfl
@[simp] theorem setCfg_tw (f : ConfigSets → ConfigSets) : (setCfg f s).tw = s.tw := rfl
@[simp] theorem setCfg_pins (f : ConfigSets → ConfigSets) : (setCfg f s).pins = s.pins := rfl
@[simp] theorem setCfg_tap (f : ConfigSets → ConfigSets) : (setCfg f s).tap = s.tap := rfl
@[simp] theorem setCfg_bench (f : ConfigSets → ConfigSets) : (setCfg f s).bench = s.bench := rfl
@[simp] theorem setCfg_pending (f : ConfigSets → ConfigSets) : (setCfg f s).pending = s.pending := rfl

/-! ### setEcat -/

@[simp] theorem setEcat_now (f : Ecat → Ecat) : (setEcat f s).now = s.now := rfl
@[simp] theorem setEcat_clk (f : Ecat → Ecat) : (setEcat f s).clk = s.clk := rfl
@[simp] theorem setEcat_fresh (f : Ecat → Ecat) : (setEcat f s).fresh = s.fresh := rfl
@[simp] theorem setEcat_modes (f : Ecat → Ecat) : (setEcat f s).modes = s.modes := rfl
@[simp] theorem setEcat_dict (f : Ecat → Ecat) : (setEcat f s).dict = s.dict := rfl
@[simp] theorem setEcat_ecat (f : Ecat → Ecat) : (setEcat f s).ecat = f s.ecat := rfl
@[simp] theorem setEcat_cfg (f : Ecat → Ecat) : (setEcat f s).cfg = s.cfg := rfl
@[simp] theorem setEcat_ev (f : Ecat → Ecat) : (setEcat f s).ev = s.ev := rfl
@[simp] theorem setEcat_pwr (f : Ecat → Ecat) : (setEcat f s).pwr = s.pwr := rfl
@[simp] theorem setEcat_boot (f : Ecat → Ecat) : (setEcat f s).boot = s.boot := rfl
@[simp] theorem setEcat_mbox (f : Ecat → Ecat) : (setEcat f s).mbox = s.mbox := rfl
@[simp] theorem setEcat_flash (f : Ecat → Ecat) : (setEcat f s).flash = s.flash := rfl
@[simp] theorem setEcat_upd (f : Ecat → Ecat) : (setEcat f s).upd = s.upd := rfl
@[simp] theorem setEcat_telem (f : Ecat → Ecat) : (setEcat f s).telem = s.telem := rfl
@[simp] theorem setEcat_otp (f : Ecat → Ecat) : (setEcat f s).otp = s.otp := rfl
@[simp] theorem setEcat_fe (f : Ecat → Ecat) : (setEcat f s).fe = s.fe := rfl
@[simp] theorem setEcat_tim (f : Ecat → Ecat) : (setEcat f s).tim = s.tim := rfl
@[simp] theorem setEcat_lamps (f : Ecat → Ecat) : (setEcat f s).lamps = s.lamps := rfl
@[simp] theorem setEcat_ind (f : Ecat → Ecat) : (setEcat f s).ind = s.ind := rfl
@[simp] theorem setEcat_pipe (f : Ecat → Ecat) : (setEcat f s).pipe = s.pipe := rfl
@[simp] theorem setEcat_lv (f : Ecat → Ecat) : (setEcat f s).lv = s.lv := rfl
@[simp] theorem setEcat_cmp (f : Ecat → Ecat) : (setEcat f s).cmp = s.cmp := rfl
@[simp] theorem setEcat_cist (f : Ecat → Ecat) : (setEcat f s).cist = s.cist := rfl
@[simp] theorem setEcat_host (f : Ecat → Ecat) : (setEcat f s).host = s.host := rfl
@[simp] theorem setEcat_mot (f : Ecat → Ecat) : (setEcat f s).mot = s.mot := rfl
@[simp] theorem setEcat_tw (f : Ecat → Ecat) : (setEcat f s).tw = s.tw := rfl
@[simp] theorem setEcat_pins (f : Ecat → Ecat) : (setEcat f s).pins = s.pins := rfl
@[simp] theorem setEcat_tap (f : Ecat → Ecat) : (setEcat f s).tap = s.tap := rfl
@[simp] theorem setEcat_bench (f : Ecat → Ecat) : (setEcat f s).bench = s.bench := rfl
@[simp] theorem setEcat_pending (f : Ecat → Ecat) : (setEcat f s).pending = s.pending := rfl

/-! ### setTap -/

@[simp] theorem setTap_now (f : Tap → Tap) : (setTap f s).now = s.now := rfl
@[simp] theorem setTap_clk (f : Tap → Tap) : (setTap f s).clk = s.clk := rfl
@[simp] theorem setTap_fresh (f : Tap → Tap) : (setTap f s).fresh = s.fresh := rfl
@[simp] theorem setTap_modes (f : Tap → Tap) : (setTap f s).modes = s.modes := rfl
@[simp] theorem setTap_dict (f : Tap → Tap) : (setTap f s).dict = s.dict := rfl
@[simp] theorem setTap_ecat (f : Tap → Tap) : (setTap f s).ecat = s.ecat := rfl
@[simp] theorem setTap_cfg (f : Tap → Tap) : (setTap f s).cfg = s.cfg := rfl
@[simp] theorem setTap_ev (f : Tap → Tap) : (setTap f s).ev = s.ev := rfl
@[simp] theorem setTap_pwr (f : Tap → Tap) : (setTap f s).pwr = s.pwr := rfl
@[simp] theorem setTap_boot (f : Tap → Tap) : (setTap f s).boot = s.boot := rfl
@[simp] theorem setTap_mbox (f : Tap → Tap) : (setTap f s).mbox = s.mbox := rfl
@[simp] theorem setTap_flash (f : Tap → Tap) : (setTap f s).flash = s.flash := rfl
@[simp] theorem setTap_upd (f : Tap → Tap) : (setTap f s).upd = s.upd := rfl
@[simp] theorem setTap_telem (f : Tap → Tap) : (setTap f s).telem = s.telem := rfl
@[simp] theorem setTap_otp (f : Tap → Tap) : (setTap f s).otp = s.otp := rfl
@[simp] theorem setTap_fe (f : Tap → Tap) : (setTap f s).fe = s.fe := rfl
@[simp] theorem setTap_tim (f : Tap → Tap) : (setTap f s).tim = s.tim := rfl
@[simp] theorem setTap_lamps (f : Tap → Tap) : (setTap f s).lamps = s.lamps := rfl
@[simp] theorem setTap_ind (f : Tap → Tap) : (setTap f s).ind = s.ind := rfl
@[simp] theorem setTap_pipe (f : Tap → Tap) : (setTap f s).pipe = s.pipe := rfl
@[simp] theorem setTap_lv (f : Tap → Tap) : (setTap f s).lv = s.lv := rfl
@[simp] theorem setTap_cmp (f : Tap → Tap) : (setTap f s).cmp = s.cmp := rfl
@[simp] theorem setTap_cist (f : Tap → Tap) : (setTap f s).cist = s.cist := rfl
@[simp] theorem setTap_host (f : Tap → Tap) : (setTap f s).host = s.host := rfl
@[simp] theorem setTap_mot (f : Tap → Tap) : (setTap f s).mot = s.mot := rfl
@[simp] theorem setTap_tw (f : Tap → Tap) : (setTap f s).tw = s.tw := rfl
@[simp] theorem setTap_pins (f : Tap → Tap) : (setTap f s).pins = s.pins := rfl
@[simp] theorem setTap_tap (f : Tap → Tap) : (setTap f s).tap = f s.tap := rfl
@[simp] theorem setTap_bench (f : Tap → Tap) : (setTap f s).bench = s.bench := rfl
@[simp] theorem setTap_pending (f : Tap → Tap) : (setTap f s).pending = s.pending := rfl

/-! ### takeFree -/

@[simp] theorem takeFree_now (w : Nat) : (takeFree w s).2.now = s.now := rfl
@[simp] theorem takeFree_clk (w : Nat) : (takeFree w s).2.clk = s.clk := rfl
@[simp] theorem takeFree_fresh (w : Nat) : (takeFree w s).2.fresh = s.fresh + 1 := rfl
@[simp] theorem takeFree_modes (w : Nat) : (takeFree w s).2.modes = s.modes := rfl
@[simp] theorem takeFree_dict (w : Nat) : (takeFree w s).2.dict = s.dict := rfl
@[simp] theorem takeFree_ecat (w : Nat) : (takeFree w s).2.ecat = s.ecat := rfl
@[simp] theorem takeFree_cfg (w : Nat) : (takeFree w s).2.cfg = s.cfg := rfl
@[simp] theorem takeFree_ev (w : Nat) : (takeFree w s).2.ev = s.ev := rfl
@[simp] theorem takeFree_pwr (w : Nat) : (takeFree w s).2.pwr = s.pwr := rfl
@[simp] theorem takeFree_boot (w : Nat) : (takeFree w s).2.boot = s.boot := rfl
@[simp] theorem takeFree_mbox (w : Nat) : (takeFree w s).2.mbox = s.mbox := rfl
@[simp] theorem takeFree_flash (w : Nat) : (takeFree w s).2.flash = s.flash := rfl
@[simp] theorem takeFree_upd (w : Nat) : (takeFree w s).2.upd = s.upd := rfl
@[simp] theorem takeFree_telem (w : Nat) : (takeFree w s).2.telem = s.telem := rfl
@[simp] theorem takeFree_otp (w : Nat) : (takeFree w s).2.otp = s.otp := rfl
@[simp] theorem takeFree_fe (w : Nat) : (takeFree w s).2.fe = s.fe := rfl
@[simp] theorem takeFree_tim (w : Nat) : (takeFree w s).2.tim = s.tim := rfl
@[simp] theorem takeFree_lamps (w : Nat) : (takeFree w s).2.lamps = s.lamps := rfl
@[simp] theorem takeFree_ind (w : Nat) : (takeFree w s).2.ind = s.ind := rfl
@[simp] theorem takeFree_pipe (w : Nat) : (takeFree w s).2.pipe = s.pipe := rfl
@[simp] theorem takeFree_lv (w : Nat) : (takeFree w s).2.lv = s.lv := rfl
@[simp] theorem takeFree_cmp (w : Nat) : (takeFree w s).2.cmp = s.cmp := rfl
@[simp] theorem takeFree_cist (w : Nat) : (takeFree w s).2.cist = s.cist := rfl
@[simp] theorem takeFree_host (w : Nat) : (takeFree w s).2.host = s.host := rfl
@[simp] theorem takeFree_mot (w : Nat) : (takeFree w s).2.mot = s.mot := rfl
@[simp] theorem takeFree_tw (w : Nat) : (takeFree w s).2.tw = s.tw := rfl
@[simp] theorem takeFree_pins (w : Nat) : (takeFree w s).2.pins = s.pins := rfl
@[simp] theorem takeFree_tap (w : Nat) : (takeFree w s).2.tap = s.tap := rfl
@[simp] theorem takeFree_bench (w : Nat) : (takeFree w s).2.bench = s.bench := rfl
@[simp] theorem takeFree_pending (w : Nat) : (takeFree w s).2.pending = s.pending := rfl

/-! ### idle -/

@[simp] theorem idle_now : (idle s).now = s.now + 1 := rfl
@[simp] theorem idle_clk : (idle s).clk = s.clk + 1 := rfl
@[simp] theorem idle_fresh : (idle s).fresh = s.fresh := rfl
@[simp] theorem idle_modes : (idle s).modes = s.modes := rfl
@[simp] theorem idle_dict : (idle s).dict = s.dict := rfl
@[simp] theorem idle_ecat : (idle s).ecat = s.ecat := rfl
@[simp] theorem idle_cfg : (idle s).cfg = s.cfg := rfl
@[simp] theorem idle_ev : (idle s).ev = s.ev := rfl
@[simp] theorem idle_pwr : (idle s).pwr = s.pwr := rfl
@[simp] theorem idle_boot : (idle s).boot = s.boot := rfl
@[simp] theorem idle_mbox : (idle s).mbox = s.mbox := rfl
@[simp] theorem idle_flash : (idle s).flash = s.flash := rfl
@[simp] theorem idle_upd : (idle s).upd = s.upd := rfl
@[simp] theorem idle_telem : (idle s).telem = s.telem := rfl
@[simp] theorem idle_otp : (idle s).otp = s.otp := rfl
@[simp] theorem idle_fe : (idle s).fe = s.fe := rfl
@[simp] theorem idle_tim : (idle s).tim = s.tim := rfl
@[simp] theorem idle_lamps : (idle s).lamps = s.lamps := rfl
@[simp] theorem idle_ind : (idle s).ind = s.ind := rfl
@[simp] theorem idle_pipe : (idle s).pipe = s.pipe := rfl
@[simp] theorem idle_lv : (idle s).lv = s.lv := rfl
@[simp] theorem idle_cmp : (idle s).cmp = s.cmp := rfl
@[simp] theorem idle_cist : (idle s).cist = s.cist := rfl
@[simp] theorem idle_host : (idle s).host = s.host := rfl
@[simp] theorem idle_mot : (idle s).mot = s.mot := rfl
@[simp] theorem idle_tw : (idle s).tw = s.tw := rfl
@[simp] theorem idle_pins : (idle s).pins = s.pins := rfl
@[simp] theorem idle_tap : (idle s).tap = s.tap := rfl
@[simp] theorem idle_bench : (idle s).bench = s.bench := rfl
@[simp] theorem idle_pending : (idle s).pending = s.pending := rfl

/-! ### answerWrite -/

@[simp] theorem answerWrite_now (via : Path) (c : Nat) : (answerWrite via c s).now = s.now := by
  cases via <;> rfl
@[simp] theorem answerWrite_clk (via : Path) (c : Nat) : (answerWrite via c s).clk = s.clk := by
  cases via <;> rfl
@[simp] theorem answerWrite_fresh (via : Path) (c : Nat) : (answerWrite via c s).fresh = s.fresh := by
  cases via <;> rfl
@[simp] theorem answerWrite_modes (via : Path) (c : Nat) : (answerWrite via c s).modes = s.modes := by
  cases via <;> rfl
@[simp] theorem answerWrite_ecat (via : Path) (c : Nat) : (answerWrite via c s).ecat = s.ecat := by
  cases via <;> rfl
@[simp] theorem answerWrite_cfg (via : Path) (c : Nat) : (answerWrite via c s).cfg = s.cfg := by
  cases via <;> rfl
@[simp] theorem answerWrite_ev (via : Path) (c : Nat) : (answerWrite via c s).ev = s.ev := by
  cases via <;> rfl
@[simp] theorem answerWrite_pwr (via : Path) (c : Nat) : (answerWrite via c s).pwr = s.pwr := by
  cases via <;> rfl
@[simp] theorem answerWrite_boot (via : Path) (c : Nat) : (answerWrite via c s).boot = s.boot := by
  cases via <;> rfl
@[simp] theorem answerWrite_mbox (via : Path) (c : Nat) : (answerWrite via c s).mbox = s.mbox := by
  cases via <;> rfl
@[simp] theorem answerWrite_flash (via : Path) (c : Nat) : (answerWrite via c s).flash = s.flash := by
  cases via <;> rfl
@[simp] theorem answerWrite_upd (via : Path) (c : Nat) : (answerWrite via c s).upd = s.upd := by
  cases via <;> rfl
@[simp] theorem answerWrite_telem (via : Path) (c : Nat) : (answerWrite via c s).telem = s.telem := by
  cases via <;> rfl
@[simp] theorem answerWrite_otp (via : Path) (c : Nat) : (answerWrite via c s).otp = s.otp := by
  cases via <;> rfl
@[simp] theorem answerWrite_fe (via : Path) (c : Nat) : (answerWrite via c s).fe = s.fe := by
  cases via <;> rfl
@[simp] theorem answerWrite_tim (via : Path) (c : Nat) : (answerWrite via c s).tim = s.tim := by
  cases via <;> rfl
@[simp] theorem answerWrite_lamps (via : Path) (c : Nat) : (answerWrite via c s).lamps = s.lamps := by
  cases via <;> rfl
@[simp] theorem answerWrite_ind (via : Path) (c : Nat) : (answerWrite via c s).ind = s.ind := by
  cases via <;> rfl
@[simp] theorem answerWrite_pipe (via : Path) (c : Nat) : (answerWrite via c s).pipe = s.pipe := by
  cases via <;> rfl
@[simp] theorem answerWrite_lv (via : Path) (c : Nat) : (answerWrite via c s).lv = s.lv := by
  cases via <;> rfl
@[simp] theorem answerWrite_cmp (via : Path) (c : Nat) : (answerWrite via c s).cmp = s.cmp := by
  cases via <;> rfl
@[simp] theorem answerWrite_cist (via : Path) (c : Nat) : (answerWrite via c s).cist = s.cist := by
  cases via <;> rfl
@[simp] theorem answerWrite_host (via : Path) (c : Nat) : (answerWrite via c s).host = s.host := by
  cases via <;> rfl
@[simp] theorem answerWrite_mot (via : Path) (c : Nat) : (answerWrite via c s).mot = s.mot := by
  cases via <;> rfl
@[simp] theorem answerWrite_tw (via : Path) (c : Nat) : (answerWrite via c s).tw = s.tw := by
  cases via <;> rfl
@[simp] theorem answerWrite_pins (via : Path) (c : Nat) : (answerWrite via c s).pins = s.pins := by
  cases via <;> rfl
@[simp] theorem answerWrite_tap (via : Path) (c : Nat) : (answerWrite via c s).tap = s.tap := by
  cases via <;> rfl
@[simp] theorem answerWrite_bench (via : Path) (c : Nat) : (answerWrite via c s).bench = s.bench := by
  cases via <;> rfl
@[simp] theorem answerWrite_pending (via : Path) (c : Nat) : (answerWrite via c s).pending = s.pending := by
  cases via <;> rfl
@[simp] theorem answerWrite_held (via : Path) (c : Nat) : (answerWrite via c s).dict.held = s.dict.held := by
  cases via <;> rfl
@[simp] theorem answerWrite_bulk (via : Path) (c : Nat) : (answerWrite via c s).dict.bulk = s.dict.bulk := by
  cases via <;> rfl

end Sys2Proof.Machine
end

