-- ==== Sys2Proof/Laws/Stores.lean ====
section
/-! SUPPORT. Reads after writes of the sparse stores and of the addressed bytes, and the canonical forms that every write
keeps. -/
namespace Sys2Proof.Machine

/-! ## Lists by place -/

@[simp] theorem modifyAt_length {α : Type} (f : α → α) (i : Nat) (l : List α) : (modifyAt f i l).length = l.length := by
  induction l generalizing i with
  | nil => cases i <;> rfl
  | cons x t ih => cases i <;> simp [modifyAt, ih]

@[simp] theorem setAt_length {α : Type} (l : List α) (i : Nat) (v : α) : (setAt l i v).length = l.length :=
  modifyAt_length _ _ _

theorem modifyAt_getD_self {α : Type} (f : α → α) (i : Nat) (l : List α) (d : α) (h : i < l.length) :
    (modifyAt f i l).getD i d = f (l.getD i d) := by
  induction l generalizing i with
  | nil => simp at h
  | cons x t ih =>
    cases i with
    | zero => rfl
    | succ i => simpa [modifyAt] using ih i (by simpa using h)

theorem modifyAt_getD_ne {α : Type} (f : α → α) (i j : Nat) (l : List α) (d : α) (h : j ≠ i) :
    (modifyAt f i l).getD j d = l.getD j d := by
  induction l generalizing i j with
  | nil => cases i <;> rfl
  | cons x t ih =>
    cases i with
    | zero => cases j with
      | zero => exact absurd rfl h
      | succ j => rfl
    | succ i => cases j with
      | zero => rfl
      | succ j => simpa [modifyAt] using ih i j (by omega)

/-- Past the end of the list nothing changes. -/
theorem modifyAt_out {α : Type} (f : α → α) (i : Nat) (l : List α) (h : l.length ≤ i) : modifyAt f i l = l := by
  induction l generalizing i with
  | nil => cases i <;> rfl
  | cons x t ih =>
    cases i with
    | zero => simp at h
    | succ i => simp [modifyAt, ih i (by simpa using h)]

theorem setAt_getD_self {α : Type} (l : List α) (i : Nat) (v d : α) (h : i < l.length) : (setAt l i v).getD i d = v :=
  modifyAt_getD_self _ _ _ _ h

theorem setAt_getD_ne {α : Type} (l : List α) (i j : Nat) (v d : α) (h : j ≠ i) : (setAt l i v).getD j d = l.getD j d :=
  modifyAt_getD_ne _ _ _ _ _ h

/-! ## Sparse stores -/

@[simp] theorem sparseGet_erase_self (k d : Nat) (m : Sparse) : sparseGet k d (sparseErase k m) = d := by
  induction m with
  | nil => rfl
  | cons c t ih => by_cases h : c.1 = k <;> simp [sparseErase, sparseGet, h, ih]

theorem sparseGet_erase_ne (k j d : Nat) (m : Sparse) (h : j ≠ k) : sparseGet j d (sparseErase k m) = sparseGet j d m := by
  induction m with
  | nil => rfl
  | cons c t ih =>
    by_cases hk : c.1 = k
    · have : c.1 ≠ j := fun e => h (e.symm.trans hk)
      simp [sparseErase, sparseGet, hk, ih, Ne.symm h]
    · by_cases hj : c.1 = j <;> simp [sparseErase, sparseGet, hk, hj, ih, h]

@[simp] theorem sparseGet_insert_self (k d v : Nat) (m : Sparse) : sparseGet k d (sparseInsert k v m) = v := by
  induction m with
  | nil => simp [sparseInsert, sparseGet]
  | cons c t ih =>
    simp only [sparseInsert]
    split
    · simp [sparseGet]
    · split
      · simp [sparseGet]
      · rename_i h; simp [sparseGet, ih, Ne.symm h]

theorem sparseGet_insert_ne (k j d v : Nat) (m : Sparse) (h : j ≠ k) :
    sparseGet j d (sparseInsert k v m) = sparseGet j d m := by
  induction m with
  | nil => simp [sparseInsert, sparseGet, Ne.symm h]
  | cons c t ih =>
    simp only [sparseInsert]
    split
    · simp [sparseGet, Ne.symm h]
    · split
      · rename_i e; subst e; simp [sparseGet, Ne.symm h]
      · simp [sparseGet, ih]

/-- A read after a write of the same key. -/
@[simp] theorem sparseGet_set_self (k d v : Nat) (m : Sparse) : sparseGet k d (sparseSet k d v m) = v := by
  unfold sparseSet; split <;> simp_all

/-- A write leaves every other key as it was. -/
theorem sparseGet_set_ne (k j d e v : Nat) (m : Sparse) (h : j ≠ k) : sparseGet j d (sparseSet k e v m) = sparseGet j d m := by
  unfold sparseSet; split
  · exact sparseGet_erase_ne k j d m h
  · exact sparseGet_insert_ne k j d v m h

theorem sparseFrom_cons {α : Type} (lo : Option Nat) (c : Nat × α) (t : List (Nat × α)) :
    sparseFrom lo (c :: t) = true ↔ (∀ l, lo = some l → l < c.1) ∧ sparseFrom (some c.1) t = true := by
  cases lo <;> simp [sparseFrom]

theorem cellsFrom_cons (u : Nat → Byte) (lo : Option Nat) (c : Host.Cell) (t : List Host.Cell) :
    cellsFrom u lo (c :: t) = true ↔
      (∀ l, lo = some l → l < c.1) ∧ c.2 ≠ u c.1 ∧ cellsFrom u (some c.1) t = true := by
  cases lo <;> simp [cellsFrom, and_assoc]

/-- A weaker bound of the first key. -/
theorem sparseFrom_weaken {α : Type} (m : List (Nat × α)) (a : Nat) (lo : Option Nat) (h : sparseFrom (some a) m = true)
    (hl : ∀ l, lo = some l → l ≤ a) : sparseFrom lo m = true := by
  cases m with
  | nil => cases lo <;> rfl
  | cons c t =>
    simp only [sparseFrom, Bool.and_eq_true, decide_eq_true_eq] at h
    cases lo with
    | none => simp [sparseFrom, h.2]
    | some l => simp [sparseFrom, h.2, Nat.lt_of_le_of_lt (hl l rfl) h.1]

theorem sparseFrom_filter {α : Type} (p : Nat × α → Bool) (m : List (Nat × α)) (lo : Option Nat)
    (h : sparseFrom lo m = true) : sparseFrom lo (m.filter p) = true := by
  induction m generalizing lo with
  | nil => cases lo <;> rfl
  | cons c t ih =>
    simp only [sparseFrom, Bool.and_eq_true] at h
    by_cases hp : p c
    · simp only [List.filter_cons, hp, if_true, sparseFrom, Bool.and_eq_true]
      exact ⟨h.1, ih _ h.2⟩
    · simp only [List.filter_cons, hp]
      refine sparseFrom_weaken _ c.1 lo (ih _ h.2) (fun l e => ?_)
      subst e
      exact Nat.le_of_lt (by simpa using h.1)

theorem sparseErase_eq (k : Nat) (m : Sparse) : sparseErase k m = m.filter (fun c => decide (c.1 ≠ k)) := by
  induction m with
  | nil => rfl
  | cons c t ih => by_cases h : c.1 = k <;> simp [sparseErase, h, ih]

theorem bytesErase_eq (k : Nat) (m : SparseBytes) : bytesErase k m = m.filter (fun c => decide (c.1 ≠ k)) := by
  induction m with
  | nil => rfl
  | cons c t ih => by_cases h : c.1 = k <;> simp [bytesErase, h, ih]

theorem sparseFrom_insert (k v : Nat) (m : Sparse) (lo : Option Nat) (h : sparseFrom lo m = true)
    (hk : ∀ l, lo = some l → l < k) : sparseFrom lo (sparseInsert k v m) = true := by
  induction m generalizing lo with
  | nil => exact (sparseFrom_cons lo (k, v) []).2 ⟨hk, rfl⟩
  | cons c t ih =>
    obtain ⟨hl, ht⟩ := (sparseFrom_cons _ _ _).1 h
    simp only [sparseInsert]
    split
    · rename_i hlt
      exact (sparseFrom_cons _ _ _).2 ⟨hk, (sparseFrom_cons _ _ _).2 ⟨fun l e => by cases e; exact hlt, ht⟩⟩
    · split
      · rename_i e; exact (sparseFrom_cons _ _ _).2 ⟨hk, by rw [e]; exact ht⟩
      · exact (sparseFrom_cons _ _ _).2 ⟨hl, ih _ ht (fun l e => by cases e; omega)⟩

theorem sparseFrom_bytesSet (k : Nat) (v : List Byte) (m : SparseBytes) (lo : Option Nat) (h : sparseFrom lo m = true)
    (hk : ∀ l, lo = some l → l < k) : sparseFrom lo (bytesSet k v m) = true := by
  induction m generalizing lo with
  | nil => exact (sparseFrom_cons lo (k, v) []).2 ⟨hk, rfl⟩
  | cons c t ih =>
    obtain ⟨hl, ht⟩ := (sparseFrom_cons _ _ _).1 h
    simp only [bytesSet]
    split
    · rename_i hlt
      exact (sparseFrom_cons _ _ _).2 ⟨hk, (sparseFrom_cons _ _ _).2 ⟨fun l e => by cases e; exact hlt, ht⟩⟩
    · split
      · rename_i e; exact (sparseFrom_cons _ _ _).2 ⟨hk, by rw [e]; exact ht⟩
      · exact (sparseFrom_cons _ _ _).2 ⟨hl, ih _ ht (fun l e => by cases e; omega)⟩

/-- A write keeps the keys of a store rising. -/
theorem sparseFrom_set (k d v : Nat) (m : Sparse) (h : sparseFrom none m = true) : sparseFrom none (sparseSet k d v m) = true := by
  unfold sparseSet; split
  · rw [sparseErase_eq]; exact sparseFrom_filter _ _ _ h
  · exact sparseFrom_insert k v m none h (fun _ e => by cases e)

theorem sparseFrom_bytes_set (k : Nat) (v : List Byte) (m : SparseBytes) (h : sparseFrom none m = true) :
    sparseFrom none (bytesSet k v m) = true := sparseFrom_bytesSet k v m none h (fun _ e => by cases e)

theorem sparseFrom_bytes_erase (k : Nat) (m : SparseBytes) (h : sparseFrom none m = true) :
    sparseFrom none (bytesErase k m) = true := by rw [bytesErase_eq]; exact sparseFrom_filter _ _ _ h

/-! ## Byte strings -/

@[simp] theorem bytesGet_set_self (k : Nat) (v : List Byte) (m : SparseBytes) : bytesGet k (bytesSet k v m) = some v := by
  induction m with
  | nil => simp [bytesSet, bytesGet]
  | cons c t ih =>
    simp only [bytesSet]
    split
    · simp [bytesGet]
    · split
      · simp [bytesGet]
      · rename_i h; simp [bytesGet, ih, Ne.symm h]

theorem bytesGet_set_ne (k j : Nat) (v : List Byte) (m : SparseBytes) (h : j ≠ k) :
    bytesGet j (bytesSet k v m) = bytesGet j m := by
  induction m with
  | nil => simp [bytesSet, bytesGet, Ne.symm h]
  | cons c t ih =>
    simp only [bytesSet]
    split
    · simp [bytesGet, Ne.symm h]
    · split
      · rename_i e; subst e; simp [bytesGet, Ne.symm h]
      · simp [bytesGet, ih]

/-! ## Addressed bytes (HOST_SCRATCH) -/

variable (u : Nat → Byte)

theorem cellsFrom_weaken (m : List Host.Cell) (a : Nat) (lo : Option Nat) (h : cellsFrom u (some a) m = true)
    (hl : ∀ l, lo = some l → l ≤ a) : cellsFrom u lo m = true := by
  cases m with
  | nil => cases lo <;> rfl
  | cons c t =>
    simp only [cellsFrom, Bool.and_eq_true, decide_eq_true_eq] at h
    cases lo with
    | none => simp [cellsFrom, h.1.2, h.2]
    | some l => simp [cellsFrom, h.1.2, h.2, Nat.lt_of_le_of_lt (hl l rfl) h.1.1]

theorem cellsFrom_erase (a : Nat) (m : List Host.Cell) (lo : Option Nat) (h : cellsFrom u lo m = true) :
    cellsFrom u lo (cellErase a m) = true := by
  induction m generalizing lo with
  | nil => cases lo <;> rfl
  | cons c t ih =>
    simp only [cellsFrom, Bool.and_eq_true] at h
    simp only [cellErase]
    split
    · refine cellsFrom_weaken u _ c.1 lo h.2 (fun l e => ?_)
      subst e
      exact Nat.le_of_lt (by simpa using h.1.1)
    · simp only [cellsFrom, Bool.and_eq_true]
      exact ⟨h.1, ih _ h.2⟩

theorem cellsFrom_insert (a : Nat) (b : Byte) (m : List Host.Cell) (lo : Option Nat) (h : cellsFrom u lo m = true)
    (hb : b ≠ u a) (ha : ∀ l, lo = some l → l < a) : cellsFrom u lo (cellInsert a b m) = true := by
  induction m generalizing lo with
  | nil => exact (cellsFrom_cons u lo (a, b) []).2 ⟨ha, hb, rfl⟩
  | cons c t ih =>
    obtain ⟨hl, hc, ht⟩ := (cellsFrom_cons _ _ _ _).1 h
    simp only [cellInsert]
    split
    · rename_i hlt
      exact (cellsFrom_cons _ _ _ _).2 ⟨ha, hb, (cellsFrom_cons _ _ _ _).2 ⟨fun l e => by cases e; exact hlt, hc, ht⟩⟩
    · split
      · rename_i e; exact (cellsFrom_cons _ _ _ _).2 ⟨ha, hb, by rw [e]; exact ht⟩
      · exact (cellsFrom_cons _ _ _ _).2 ⟨hl, hc, ih _ ht (fun l e => by cases e; omega)⟩

/-- One byte written keeps the canonical form. -/
theorem wf_cellSet (a : Nat) (b : Byte) (m : List Host.Cell) (h : Memory.wf u m = true) :
    Memory.wf u (cellSet u a b m) = true := by
  unfold cellSet; split
  · exact cellsFrom_erase u a m none h
  · rename_i hb; exact cellsFrom_insert u a b m none h hb (fun _ e => by cases e)

/-- Bytes written from an address on keep the canonical form. -/
theorem wf_cellsWrite (a : Nat) (bs : List Byte) (m : List Host.Cell) (h : Memory.wf u m = true) :
    Memory.wf u (cellsWrite u a bs m) = true := by
  induction bs generalizing a m with
  | nil => exact h
  | cons b t ih => exact ih (a + 1) _ (wf_cellSet u a b m h)

/-- Above the bound no address at or below it is listed. -/
theorem cellGet_below (a : Nat) (m : List Host.Cell) (l : Nat) (h : cellsFrom u (some l) m = true) (ha : a ≤ l) :
    cellGet u a m = u a := by
  induction m generalizing l with
  | nil => rfl
  | cons c t ih =>
    simp only [cellsFrom, Bool.and_eq_true, decide_eq_true_eq] at h
    have : c.1 ≠ a := by omega
    simp [cellGet, this, ih c.1 h.2 (by omega)]

theorem cellGet_erase_self (a : Nat) (m : List Host.Cell) (lo : Option Nat) (h : cellsFrom u lo m = true) :
    cellGet u a (cellErase a m) = u a := by
  induction m generalizing lo with
  | nil => rfl
  | cons c t ih =>
    simp only [cellsFrom, Bool.and_eq_true] at h
    simp only [cellErase]
    split
    · rename_i e; exact cellGet_below u a t c.1 h.2 (by omega)
    · rename_i e; simp [cellGet, e, ih _ h.2]

theorem cellGet_erase_ne (a x : Nat) (m : List Host.Cell) (h : x ≠ a) : cellGet u x (cellErase a m) = cellGet u x m := by
  induction m with
  | nil => rfl
  | cons c t ih =>
    simp only [cellErase]
    split
    · rename_i e; have : c.1 ≠ x := fun f => h (f.symm.trans e); simp [cellGet, this]
    · simp [cellGet, ih]

theorem cellGet_insert_self (a : Nat) (b : Byte) (m : List Host.Cell) : cellGet u a (cellInsert a b m) = b := by
  induction m with
  | nil => simp [cellInsert, cellGet]
  | cons c t ih =>
    simp only [cellInsert]
    split
    · simp [cellGet]
    · split
      · simp [cellGet]
      · rename_i h; simp [cellGet, ih, Ne.symm h]

theorem cellGet_insert_ne (a x : Nat) (b : Byte) (m : List Host.Cell) (h : x ≠ a) :
    cellGet u x (cellInsert a b m) = cellGet u x m := by
  induction m with
  | nil => simp [cellInsert, cellGet, Ne.symm h]
  | cons c t ih =>
    simp only [cellInsert]
    split
    · simp [cellGet, Ne.symm h]
    · split
      · rename_i e; rw [e] at h; simp [cellGet, Ne.symm h, e]
      · simp [cellGet, ih]

/-- A read after a write of the same address. -/
theorem cellGet_set_self (a : Nat) (b : Byte) (m : List Host.Cell) (h : Memory.wf u m = true) :
    cellGet u a (cellSet u a b m) = b := by
  unfold cellSet; split
  · rename_i e; rw [cellGet_erase_self u a m none h, e]
  · exact cellGet_insert_self u a b m

/-- A write leaves every other address as it was. -/
theorem cellGet_set_ne (a x : Nat) (b : Byte) (m : List Host.Cell) (h : x ≠ a) :
    cellGet u x (cellSet u a b m) = cellGet u x m := by
  unfold cellSet; split
  · exact cellGet_erase_ne u a x m h
  · exact cellGet_insert_ne u a x b m h

/-- Outside the bytes written every address reads as before. -/
theorem cellGet_write_ne (a x : Nat) (bs : List Byte) (m : List Host.Cell) (h : x < a ∨ a + bs.length ≤ x) :
    cellGet u x (cellsWrite u a bs m) = cellGet u x m := by
  induction bs generalizing a m with
  | nil => rfl
  | cons b t ih =>
    simp only [List.length_cons] at h
    rw [cellsWrite, ih (a + 1) _ (by omega), cellGet_set_ne u a x b m (by omega)]

/-- A read of the bytes just written. -/
theorem cellGet_write_self (a i : Nat) (bs : List Byte) (m : List Host.Cell) (h : Memory.wf u m = true) (hi : i < bs.length) :
    cellGet u (a + i) (cellsWrite u a bs m) = bs.getD i 0 := by
  induction bs generalizing a m i with
  | nil => simp at hi
  | cons b t ih =>
    cases i with
    | zero =>
      rw [cellsWrite, cellGet_write_ne u (a + 1) (a + 0) t _ (by omega)]
      exact cellGet_set_self u a b m h
    | succ i =>
      have e : a + (i + 1) = a + 1 + i := by omega
      rw [e, cellsWrite, ih (a + 1) i _ (wf_cellSet u a b m h) (by simpa using hi)]
      rfl

end Sys2Proof.Machine
end

