-- ==== Sys2Proof/Laws/Parts.lean ====
section
/-! SUPPORT. Reads of one part after an update of one part, reads of one object after a write of one object, and what those
updates keep of the invariants. -/
namespace Sys2Proof.Machine

variable (s : State)

/-! ## The parts of the state -/

theorem portOf_modPort_self (i : Nat) (f : Port → Port) (h : i < s.fe.ports.length) : portOf i (modPort i f s) = f (portOf i s) :=
  modifyAt_getD_self f i _ _ h
theorem portOf_modPort_ne (i j : Nat) (f : Port → Port) (h : j ≠ i) : portOf j (modPort i f s) = portOf j s :=
  modifyAt_getD_ne f i j _ _ h
@[simp] theorem modPort_ports_length (i : Nat) (f : Port → Port) :
    (modPort i f s).fe.ports.length = s.fe.ports.length := modifyAt_length _ _ _
@[simp] theorem shaped_modPort (i : Nat) (f : Port → Port) : Shaped (modPort i f s) = Shaped s := by
  rw [Shaped, modPort_ports_length]; rfl

theorem groupOf_modGroup_self (i : Nat) (f : Group → Group) (h : i < s.fe.groups.length) : groupOf i (modGroup i f s) = f (groupOf i s) :=
  modifyAt_getD_self f i _ _ h
theorem groupOf_modGroup_ne (i j : Nat) (f : Group → Group) (h : j ≠ i) : groupOf j (modGroup i f s) = groupOf j s :=
  modifyAt_getD_ne f i j _ _ h
@[simp] theorem modGroup_groups_length (i : Nat) (f : Group → Group) :
    (modGroup i f s).fe.groups.length = s.fe.groups.length := modifyAt_length _ _ _
@[simp] theorem shaped_modGroup (i : Nat) (f : Group → Group) : Shaped (modGroup i f s) = Shaped s := by
  rw [Shaped, modGroup_groups_length]; rfl

theorem encoderOf_modEncoder_self (i : Nat) (f : Encoder → Encoder) (h : i < s.tim.encoders.length) : encoderOf i (modEncoder i f s) = f (encoderOf i s) :=
  modifyAt_getD_self f i _ _ h
theorem encoderOf_modEncoder_ne (i j : Nat) (f : Encoder → Encoder) (h : j ≠ i) : encoderOf j (modEncoder i f s) = encoderOf j s :=
  modifyAt_getD_ne f i j _ _ h
@[simp] theorem modEncoder_encoders_length (i : Nat) (f : Encoder → Encoder) :
    (modEncoder i f s).tim.encoders.length = s.tim.encoders.length := modifyAt_length _ _ _
@[simp] theorem shaped_modEncoder (i : Nat) (f : Encoder → Encoder) : Shaped (modEncoder i f s) = Shaped s := by
  rw [Shaped, modEncoder_encoders_length]; rfl

theorem lampOf_modLamp_self (i : Nat) (f : Lamp → Lamp) (h : i < s.lamps.colours.length) : lampOf i (modLamp i f s) = f (lampOf i s) :=
  modifyAt_getD_self f i _ _ h
theorem lampOf_modLamp_ne (i j : Nat) (f : Lamp → Lamp) (h : j ≠ i) : lampOf j (modLamp i f s) = lampOf j s :=
  modifyAt_getD_ne f i j _ _ h
@[simp] theorem modLamp_colours_length (i : Nat) (f : Lamp → Lamp) :
    (modLamp i f s).lamps.colours.length = s.lamps.colours.length := modifyAt_length _ _ _
@[simp] theorem shaped_modLamp (i : Nat) (f : Lamp → Lamp) : Shaped (modLamp i f s) = Shaped s := by
  rw [Shaped, modLamp_colours_length]; rfl

theorem engineOf_modEngine_self (i : Nat) (f : IndEngine → IndEngine) (h : i < s.ind.engines.length) : engineOf i (modEngine i f s) = f (engineOf i s) :=
  modifyAt_getD_self f i _ _ h
theorem engineOf_modEngine_ne (i j : Nat) (f : IndEngine → IndEngine) (h : j ≠ i) : engineOf j (modEngine i f s) = engineOf j s :=
  modifyAt_getD_ne f i j _ _ h
@[simp] theorem modEngine_engines_length (i : Nat) (f : IndEngine → IndEngine) :
    (modEngine i f s).ind.engines.length = s.ind.engines.length := modifyAt_length _ _ _
@[simp] theorem shaped_modEngine (i : Nat) (f : IndEngine → IndEngine) : Shaped (modEngine i f s) = Shaped s := by
  rw [Shaped, modEngine_engines_length]; rfl

theorem calOf_modCal_self (i : Nat) (f : GroupCal → GroupCal) (h : i < s.lv.groups.length) : calOf i (modCal i f s) = f (calOf i s) :=
  modifyAt_getD_self f i _ _ h
theorem calOf_modCal_ne (i j : Nat) (f : GroupCal → GroupCal) (h : j ≠ i) : calOf j (modCal i f s) = calOf j s :=
  modifyAt_getD_ne f i j _ _ h
@[simp] theorem modCal_groups_length (i : Nat) (f : GroupCal → GroupCal) :
    (modCal i f s).lv.groups.length = s.lv.groups.length := modifyAt_length _ _ _
@[simp] theorem shaped_modCal (i : Nat) (f : GroupCal → GroupCal) : Shaped (modCal i f s) = Shaped s := by
  rw [Shaped, modCal_groups_length]; rfl

theorem chainOf_modChain_self (i : Nat) (f : ChainInfo → ChainInfo) (h : i < s.lv.chains.length) : chainOf i (modChain i f s) = f (chainOf i s) :=
  modifyAt_getD_self f i _ _ h
theorem chainOf_modChain_ne (i j : Nat) (f : ChainInfo → ChainInfo) (h : j ≠ i) : chainOf j (modChain i f s) = chainOf j s :=
  modifyAt_getD_ne f i j _ _ h
@[simp] theorem modChain_chains_length (i : Nat) (f : ChainInfo → ChainInfo) :
    (modChain i f s).lv.chains.length = s.lv.chains.length := modifyAt_length _ _ _
@[simp] theorem shaped_modChain (i : Nat) (f : ChainInfo → ChainInfo) : Shaped (modChain i f s) = Shaped s := by
  rw [Shaped, modChain_chains_length]; rfl

theorem chanOf_modChan_self (i : Nat) (f : DmaChan → DmaChan) (h : i < s.cist.channels.length) : chanOf i (modChan i f s) = f (chanOf i s) :=
  modifyAt_getD_self f i _ _ h
theorem chanOf_modChan_ne (i j : Nat) (f : DmaChan → DmaChan) (h : j ≠ i) : chanOf j (modChan i f s) = chanOf j s :=
  modifyAt_getD_ne f i j _ _ h
@[simp] theorem modChan_channels_length (i : Nat) (f : DmaChan → DmaChan) :
    (modChan i f s).cist.channels.length = s.cist.channels.length := modifyAt_length _ _ _
@[simp] theorem shaped_modChan (i : Nat) (f : DmaChan → DmaChan) : Shaped (modChan i f s) = Shaped s := by
  rw [Shaped, modChan_channels_length]; rfl

theorem laneOf_modLane_self (i : Nat) (f : Lane → Lane) (h : i < s.host.lanes.length) : laneOf i (modLane i f s) = f (laneOf i s) :=
  modifyAt_getD_self f i _ _ h
theorem laneOf_modLane_ne (i j : Nat) (f : Lane → Lane) (h : j ≠ i) : laneOf j (modLane i f s) = laneOf j s :=
  modifyAt_getD_ne f i j _ _ h
@[simp] theorem modLane_lanes_length (i : Nat) (f : Lane → Lane) :
    (modLane i f s).host.lanes.length = s.host.lanes.length := modifyAt_length _ _ _
@[simp] theorem shaped_modLane (i : Nat) (f : Lane → Lane) : Shaped (modLane i f s) = Shaped s := by
  rw [Shaped, modLane_lanes_length]; rfl

theorem axisOf_modAxis_self (i : Nat) (f : Axis → Axis) (h : i < s.mot.axes.length) : axisOf i (modAxis i f s) = f (axisOf i s) :=
  modifyAt_getD_self f i _ _ h
theorem axisOf_modAxis_ne (i j : Nat) (f : Axis → Axis) (h : j ≠ i) : axisOf j (modAxis i f s) = axisOf j s :=
  modifyAt_getD_ne f i j _ _ h
@[simp] theorem modAxis_axes_length (i : Nat) (f : Axis → Axis) :
    (modAxis i f s).mot.axes.length = s.mot.axes.length := modifyAt_length _ _ _
@[simp] theorem shaped_modAxis (i : Nat) (f : Axis → Axis) : Shaped (modAxis i f s) = Shaped s := by
  rw [Shaped, modAxis_axes_length]; rfl

theorem dirOf_modDir_self (i : Nat) (f : MailDir → MailDir) (h : i < s.mbox.dirs.length) : dirOf i (modDir i f s) = f (dirOf i s) :=
  modifyAt_getD_self f i _ _ h
theorem dirOf_modDir_ne (i j : Nat) (f : MailDir → MailDir) (h : j ≠ i) : dirOf j (modDir i f s) = dirOf j s :=
  modifyAt_getD_ne f i j _ _ h
@[simp] theorem modDir_dirs_length (i : Nat) (f : MailDir → MailDir) :
    (modDir i f s).mbox.dirs.length = s.mbox.dirs.length := modifyAt_length _ _ _
@[simp] theorem shaped_modDir (i : Nat) (f : MailDir → MailDir) : Shaped (modDir i f s) = Shaped s := by
  rw [Shaped, modDir_dirs_length]; rfl

theorem busOf_modBus_self (i : Nat) (f : TwBus → TwBus) (h : i < s.tw.buses.length) : busOf i (modBus i f s) = f (busOf i s) :=
  modifyAt_getD_self f i _ _ h
theorem busOf_modBus_ne (i j : Nat) (f : TwBus → TwBus) (h : j ≠ i) : busOf j (modBus i f s) = busOf j s :=
  modifyAt_getD_ne f i j _ _ h
@[simp] theorem modBus_buses_length (i : Nat) (f : TwBus → TwBus) :
    (modBus i f s).tw.buses.length = s.tw.buses.length := modifyAt_length _ _ _
@[simp] theorem shaped_modBus (i : Nat) (f : TwBus → TwBus) : Shaped (modBus i f s) = Shaped s := by
  rw [Shaped, modBus_buses_length]; rfl

/-! ## The objects of the dictionary -/

@[simp] theorem val_setVal_self (r : Ref) (v : Nat) : val r (setVal r v s) = v := sparseGet_set_self _ _ _ _

/-- A write of one object leaves every other. -/
theorem val_setVal_ne (q r : Ref) (v : Nat) (h : q.key ≠ r.key) : val q (setVal r v s) = val q s :=
  sparseGet_set_ne _ _ _ _ _ _ h

theorem val_setKey_ne (q : Ref) (k v : Nat) (h : q.key ≠ k) : val q (setKey k v s) = val q s :=
  sparseGet_set_ne _ _ _ _ _ _ h

@[simp] theorem bulkVal_setBulk_self (k : Nat) (v d : List Byte) : bulkVal k d (setBulk k v s) = v := by
  simp [bulkVal, setBulk]

theorem bulkVal_setBulk_ne (k j : Nat) (v d : List Byte) (h : j ≠ k) : bulkVal j d (setBulk k v s) = bulkVal j d s := by
  simp [bulkVal, setBulk, bytesGet_set_ne _ _ _ _ h]

@[simp] theorem shaped_setVal (r : Ref) (v : Nat) : Shaped (setVal r v s) = Shaped s := rfl
@[simp] theorem shaped_setKey (k v : Nat) : Shaped (setKey k v s) = Shaped s := rfl
@[simp] theorem shaped_setBulk (k : Nat) (v : List Byte) : Shaped (setBulk k v s) = Shaped s := rfl
@[simp] theorem shaped_clearBulk (k : Nat) : Shaped (clearBulk k s) = Shaped s := rfl
@[simp] theorem shaped_answerWrite (via : Path) (c : Nat) : Shaped (answerWrite via c s) = Shaped s := by cases via <;> rfl
@[simp] theorem shaped_takeFree (w : Nat) : Shaped (takeFree w s).2 = Shaped s := rfl
@[simp] theorem shaped_idle : Shaped (idle s) = Shaped s := rfl

/-- DictSorted, as one conjunction. -/
theorem dictSorted_iff (d : Dict) : DictSorted d = true ↔
    sparseFrom none d.held = true ∧ sparseFrom none d.atReady = true ∧ sparseFrom none d.atSession = true ∧
    sparseFrom none d.atReset = true ∧ sparseFrom none d.atRun = true ∧ sparseFrom none d.bulk = true ∧
    sparseFrom none d.bulkAtReady = true := by
  simp [DictSorted, and_assoc]

/-- A write of an object keeps the canonical forms. -/
theorem canonical_setVal (r : Ref) (v : Nat) (h : Canonical s) : Canonical (setVal r v s) := by
  refine ⟨?_, h.2⟩
  have hd := (dictSorted_iff _).1 h.1
  exact (dictSorted_iff _).2 ⟨sparseFrom_set _ _ _ _ hd.1, hd.2⟩

theorem canonical_setKey (k v : Nat) (h : Canonical s) : Canonical (setKey k v s) := canonical_setVal s _ v h

theorem canonical_setBulk (k : Nat) (v : List Byte) (h : Canonical s) : Canonical (setBulk k v s) := by
  refine ⟨?_, h.2⟩
  obtain ⟨h1, h2, h3, h4, h5, h6, h7⟩ := (dictSorted_iff _).1 h.1
  exact (dictSorted_iff _).2 ⟨h1, h2, h3, h4, h5, sparseFrom_bytes_set _ _ _ h6, h7⟩

theorem canonical_clearBulk (k : Nat) (h : Canonical s) : Canonical (clearBulk k s) := by
  refine ⟨?_, h.2⟩
  obtain ⟨h1, h2, h3, h4, h5, h6, h7⟩ := (dictSorted_iff _).1 h.1
  exact (dictSorted_iff _).2 ⟨h1, h2, h3, h4, h5, sparseFrom_bytes_erase _ _ h6, h7⟩

end Sys2Proof.Machine
end

