-- ==== Sys2Proof/Laws/Events.lean ====
section
/-! SUPPORT. What the logging of events, the mailbox, the answer of a dictionary write, the entry to FAULT and the entry to
OFF come to: one lemma for each shared operation. -/
namespace Sys2Proof.Machine

variable (s : State)

/-! ## The answer of a dictionary write -/

/-- Where the path is not served nothing happens. -/
theorem writeCommand_notServed (via : Path) (h : State → WriteOut) (hs : served via s = false) :
    writeCommand via h s = .next s := by simp [writeCommand, hs]

/-- Where the path is served the handler's outcome is the command's. -/
theorem writeCommand_served (via : Path) (h : State → WriteOut) (hs : served via s = true) :
    writeCommand via h s = (h s).outcome via := by simp [writeCommand, hs]

/-- A dictionary write ends in a next state, or in the fault of the handler's misuse. -/
theorem writeCommand_cases (via : Path) (h : State → WriteOut) :
    (∃ t, writeCommand via h s = .next t) ∨ (∃ f, h s = .misuse f ∧ writeCommand via h s = .fault f) := by
  cases hs : served via s with
  | false => exact .inl ⟨s, writeCommand_notServed s via h hs⟩
  | true =>
    rw [writeCommand_served s via h hs]
    cases h s with
    | ok t => exact .inl ⟨_, rfl⟩
    | later t => exact .inl ⟨_, rfl⟩
    | abort c t => exact .inl ⟨_, rfl⟩
    | misuse f => exact .inr ⟨f, rfl, rfl⟩

/-- A write that is not a misuse leaves the handler's state with the answer. -/
theorem writeCommand_next (via : Path) (h : State → WriteOut) (t : State) (hs : served via s = true)
    (ht : writeCommand via h s = .next t) :
    (∃ u, h s = .ok u ∧ t = answerWrite via 0 u) ∨ h s = .later t ∨ (∃ c u, h s = .abort c u ∧ t = answerWrite via c u) := by
  rw [writeCommand_served s via h hs] at ht
  cases e : h s with
  | ok u => simp only [e, WriteOut.outcome, Host.Outcome.next.injEq] at ht; exact .inl ⟨u, rfl, ht.symm⟩
  | later u => simp only [e, WriteOut.outcome, Host.Outcome.next.injEq] at ht; exact .inr (.inl (by rw [ht]))
  | abort c u => simp only [e, WriteOut.outcome, Host.Outcome.next.injEq] at ht; exact .inr (.inr ⟨c, u, rfl, ht.symm⟩)
  | misuse f => simp [e, WriteOut.outcome] at ht

/-- The answer changes nothing but the reply. -/
theorem answerWrite_frame (via : Path) (c : Nat) :
    answerWrite via c s = { s with dict := { s.dict with reply := (answerWrite via c s).dict.reply } } := by
  cases via <;> rfl

@[simp] theorem val_answerWrite (r : Ref) (via : Path) (c : Nat) : val r (answerWrite via c s) = val r s := by
  cases via <;> rfl

theorem canonical_answerWrite (via : Path) (c : Nat) (h : Canonical s) : Canonical (answerWrite via c s) := by
  cases via <;> exact h

/-! ## The mailbox and the events -/

/-- The move into the SM1 mailbox changes the two queues and the mailbox alone. -/
theorem fillMailbox_frame :
    fillMailbox s = { s with
      ecat := { s.ecat with sm1 := (fillMailbox s).ecat.sm1, responses := (fillMailbox s).ecat.responses },
      ev := { s.ev with emergencies := (fillMailbox s).ev.emergencies } } := by
  unfold fillMailbox; split
  · rfl
  · rfl
  · split
    · rfl
    · rfl
    · rfl

/-- Nothing is lost on the way into the SM1 mailbox. -/
@[simp] theorem mailQueue_fillMailbox : mailQueue (fillMailbox s) = mailQueue s := by
  unfold fillMailbox; split
  · rfl
  · rfl
  · rename_i h _
    split
    · rename_i e; simp [mailQueue, h, e]
    · rename_i e r; simp [mailQueue, h, e, r]
    · rfl

/-- A send of the MP changes its mailbox ring alone. -/
theorem mpMessage_frame (typ : Nat) (p : List Byte) : mpMessage typ p s = { s with mbox := (mpMessage typ p s).mbox } := rfl

theorem recordError_frame (e : LogEntry) (ev : Events) :
    (recordError e ev).logged = ev.logged ∧ (recordError e ev).nextSeq = ev.nextSeq ∧
    (recordError e ev).waiting = ev.waiting ∧ (recordError e ev).held = ev.held := by
  unfold recordError; split
  · exact ⟨rfl, rfl, rfl, rfl⟩
  · simp only; split <;> exact ⟨rfl, rfl, rfl, rfl⟩

theorem queueEmergency_frame (k : Nat) (m : MailIn) (ev : Events) :
    queueEmergency k m ev = { ev with
      emergencies := (queueEmergency k m ev).emergencies, emcyLost := (queueEmergency k m ev).emcyLost } := by
  unfold queueEmergency
  simp only
  split
  · rfl
  · split
    · split <;> rfl
    · rfl

theorem bufferEntry_frame (e : LogEntry) (ev : Events) :
    bufferEntry e ev = { ev with waiting := (bufferEntry e ev).waiting, notStored := (bufferEntry e ev).notStored } := by
  unfold bufferEntry; split <;> rfl

/-- The record of an event changes the records of events and the ring of the MP, and takes one number and one count. -/
theorem recordEvent_frame (k : Nat) (e : Event) :
    recordEvent k e s = { s with ev := (recordEvent k e s).ev, mbox := (recordEvent k e s).mbox } ∧
    (recordEvent k e s).ev.logged = s.ev.logged + 1 ∧ (recordEvent k e s).ev.nextSeq = s.ev.nextSeq + 1 ∧
    (recordEvent k e s).ev.held = s.ev.held := by
  have tail (ev : Events) (p : List Byte) (y : State)
      (h : y = if flagVal Obj.EVENT_NOTICE_ENABLE { s with ev := ev } then mpMessage 0x84 p { s with ev := ev }
        else { s with ev := ev }) : y = { s with ev := y.ev, mbox := y.mbox } ∧ y.ev = ev := by
    subst h; split <;> exact ⟨rfl, rfl⟩
  have hr (x : LogEntry) (b : Bool) (v : Events) : (if b then recordError x v else v).logged = v.logged ∧
      (if b then recordError x v else v).nextSeq = v.nextSeq ∧ (if b then recordError x v else v).held = v.held := by
    cases b with
    | false => exact ⟨rfl, rfl, rfl⟩
    | true => exact ⟨(recordError_frame x v).1, (recordError_frame x v).2.1, (recordError_frame x v).2.2.2⟩
  have hq (m : MailIn) (b : Bool) (v : Events) : (if b then queueEmergency k m v else v).logged = v.logged ∧
      (if b then queueEmergency k m v else v).nextSeq = v.nextSeq ∧ (if b then queueEmergency k m v else v).held = v.held := by
    cases b with
    | false => exact ⟨rfl, rfl, rfl⟩
    | true => rw [if_pos rfl, queueEmergency_frame]; exact ⟨rfl, rfl, rfl⟩
  obtain ⟨hf, he⟩ := tail _ _ (recordEvent k e s) rfl
  refine ⟨hf, ?_⟩
  rw [he, (hq _ _ _).1, (hr _ _ _).1, (hq _ _ _).2.1, (hr _ _ _).2.1, (hq _ _ _).2.2, (hr _ _ _).2.2, bufferEntry_frame]
  exact ⟨rfl, rfl, rfl⟩

theorem recordEvents_frame (l : List Event) (k : Nat) :
    recordEvents l k s = { s with ev := (recordEvents l k s).ev, mbox := (recordEvents l k s).mbox } ∧
    (recordEvents l k s).ev.logged = s.ev.logged + l.length ∧ (recordEvents l k s).ev.held = s.ev.held := by
  induction l generalizing s k with
  | nil => exact ⟨rfl, rfl, rfl⟩
  | cons e t ih =>
    obtain ⟨h, hl, -, hh⟩ := recordEvent_frame s k e
    obtain ⟨ih1, ih2, ih3⟩ := ih (recordEvent k e s) (if e.cls = 3 then k + 1 else k)
    simp only [recordEvents]
    refine ⟨?_, by rw [ih2, hl, List.length_cons]; omega, ih3.trans hh⟩
    rw [ih1, h]

/-- Where the events of a command are gathered an event is held back; otherwise it is recorded and the mailbox filled. -/
theorem logEvent_held (e : Event) (l : List Event) (h : s.ev.held = some l) :
    logEvent e s = { s with ev := { s.ev with held := some (l ++ [e]) } } := by simp [logEvent, h]

theorem logEvent_none (e : Event) (h : s.ev.held = none) : logEvent e s = fillMailbox (recordEvent 0 e s) := by
  simp [logEvent, h]

/-- An event changes the records of events, the mailbox of EtherCAT and the ring of the MP, and nothing else. -/
theorem logEvent_frame (e : Event) :
    logEvent e s = { s with
      ecat := (logEvent e s).ecat, ev := (logEvent e s).ev, mbox := (logEvent e s).mbox } := by
  cases h : s.ev.held with
  | some l => rw [logEvent_held s e l h]
  | none => rw [logEvent_none s e h, fillMailbox_frame, (recordEvent_frame s 0 e).1]

/-- Each event is counted once and takes one sequence number. -/
theorem logEvent_count (e : Event) (h : s.ev.held = none) :
    (logEvent e s).ev.logged = s.ev.logged + 1 ∧ (logEvent e s).ev.nextSeq = s.ev.nextSeq + 1 ∧ (logEvent e s).ev.held = none := by
  obtain ⟨-, hl, hn, hh⟩ := recordEvent_frame s 0 e
  rw [logEvent_none s e h, fillMailbox_frame]
  exact ⟨hl, hn, hh.trans h⟩

@[simp] theorem logEvent_pending (e : Event) : (logEvent e s).pending = s.pending := by rw [logEvent_frame]
@[simp] theorem logEvent_now (e : Event) : (logEvent e s).now = s.now := by rw [logEvent_frame]
@[simp] theorem logEvent_clk (e : Event) : (logEvent e s).clk = s.clk := by rw [logEvent_frame]
@[simp] theorem logEvent_modes (e : Event) : (logEvent e s).modes = s.modes := by rw [logEvent_frame]
@[simp] theorem logEvent_dict (e : Event) : (logEvent e s).dict = s.dict := by rw [logEvent_frame]
@[simp] theorem logEvent_fe (e : Event) : (logEvent e s).fe = s.fe := by rw [logEvent_frame]
@[simp] theorem logEvent_tim (e : Event) : (logEvent e s).tim = s.tim := by rw [logEvent_frame]
@[simp] theorem logEvent_pwr (e : Event) : (logEvent e s).pwr = s.pwr := by rw [logEvent_frame]

/-- Several events change the same parts as one. -/
theorem logEvents_frame (l : List Event) :
    logEvents l s = { s with
      ecat := (logEvents l s).ecat, ev := (logEvents l s).ev, mbox := (logEvents l s).mbox } := by
  unfold logEvents
  split
  · rfl
  · split
    · rfl
    · rw [fillMailbox_frame, (recordEvents_frame s _ 0).1]

theorem logEvents_held (l : List Event) (h : s.ev.held = none) : (logEvents l s).ev.held = none := by
  simp only [logEvents, h]
  split
  · exact h
  · rw [fillMailbox_frame]
    exact (recordEvents_frame s _ 0).2.2.trans h

@[simp] theorem logEvents_nil : logEvents [] s = s := by
  cases h : s.ev.held with
  | none => simp [logEvents, h]
  | some l =>
    simp only [logEvents, h, List.append_nil]
    rw [← h]

/-- One event is logged as by itself. -/
theorem logEvents_one (e : Event) : logEvents [e] s = logEvent e s := by
  cases h : s.ev.held <;> simp [logEvents, logEvent, h, sortEvents, insertEvent, recordEvents]

/-- A command with its events gathered is what it does to everything but the records of events and the mailboxes. -/
theorem inOneCycle_frame (f : State → State) :
    inOneCycle f s = { f { s with ev := { s.ev with held := some [] } } with
      ecat := (inOneCycle f s).ecat, ev := (inOneCycle f s).ev, mbox := (inOneCycle f s).mbox } := by
  unfold inOneCycle
  simp only
  rw [logEvents_frame]

/-- Nothing is held back after it. -/
theorem inOneCycle_held (f : State → State) (h : s.ev.held = none) : (inOneCycle f s).ev.held = none :=
  logEvents_held _ _ h

/-- Events without a FATAL one among them are logged, and nothing more. -/
theorem raise_log (l : List Event) (h : l.any (fun e => decide (e.cls = 3)) = false) : raise l s = logEvents l s := by
  unfold raise; rw [h]; rfl

/-- With a FATAL one among them the device enters FAULT, whose events fall in the same cycle. -/
theorem raise_fatal (l : List Event) (h : l.any (fun e => decide (e.cls = 3)) = true) :
    raise l s = inOneCycle (fun s => enterFault (logEvents l s)) s := by
  unfold raise; rw [h]; rfl

/-! ## The queue of commands and the time -/

/-- The entry to OFF leaves the queue, the local count, OTP and the packets sent. -/
theorem enterOff_kept (phase : BootPhase) (cause detail count : Nat) (resets : List Nat) :
    (enterOff phase cause detail count resets s).pending = s.pending ∧
    (enterOff phase cause detail count resets s).clk = s.clk ∧
    (enterOff phase cause detail count resets s).otp = s.otp ∧
    (enterOff phase cause detail count resets s).modes = State.reset.modes ∧
    (enterOff phase cause detail count resets s).dict = State.reset.dict ∧
    (enterOff phase cause detail count resets s).cist.scratch = [] := ⟨rfl, rfl, rfl, rfl, rfl, rfl⟩

/-- In FAULT already, or in OFF, an entry to FAULT abandons a transition at most. -/
theorem enterFault_off (h : s.modes.mode = .off) : enterFault s = s := by simp [enterFault, h]

theorem enterFault_fault (h : s.modes.mode = .fault) : enterFault s = abandonTransition s := by simp [enterFault, h]

end Sys2Proof.Machine
end

