-- ==== Sys2Proof/Laws/Ticks.lean ====
section
/-! SUPPORT. What a frame of a lane and a tick of an empty queue can change (10_host_stream R246, 11_motion R301, 19_pins_package
R457 and R458; log entries 3, 115 and 172). -/
namespace Sys2Proof.Machine

variable (s : State)

/-! ## Frames -/

theorem emitFrame_sent (n : Nat) (x : Sent) (h : (laneOf n s).pausedUntil = none) :
    emitFrame n x s = { s with host := { s.host with out := x :: s.host.out } } := by
  simp [emitFrame, h]

theorem emitFrame_delayed (n : Nat) (x : Sent) (h : (laneOf n s).pausedUntil ≠ none) :
    emitFrame n x s = modLane n (fun l => { l with delayed := l.delayed ++ [x] }) s := by
  cases hp : (laneOf n s).pausedUntil with
  | none => exact absurd hp h
  | some t => simp [emitFrame, hp]

/-- A frame changes the stream alone, and of it the frames sent and the lanes. -/
theorem emitFrame_frame (n : Nat) (x : Sent) :
    emitFrame n x s = { s with host := { s.host with
      out := (emitFrame n x s).host.out, lanes := (emitFrame n x s).host.lanes } } := by
  unfold emitFrame
  split <;> rfl

theorem endPause_frame (n : Nat) :
    endPause n s = { s with host := { s.host with
      out := (laneOf n s).delayed.reverse ++ s.host.out, lanes := (endPause n s).host.lanes } } := rfl

/-! ## The chopper cycles -/

theorem chopAxis_off (a : Nat) (h : (axisOf a s).energised = false) : chopAxis a s = s := by simp [chopAxis, h]

theorem chopAxis_frame (a : Nat) :
    ∃ n axes, chopAxis a s = { s with fresh := n, mot := { s.mot with axes := axes } } := by
  unfold chopAxis
  split <;> exact ⟨_, _, rfl⟩

/-- The chopper cycles take free values and change the axes alone. -/
theorem chopTick_frame : ∃ n axes, chopTick s = { s with fresh := n, mot := { s.mot with axes := axes } } := by
  unfold chopTick
  generalize axisNumbers = l
  induction l generalizing s with
  | nil => exact ⟨_, _, rfl⟩
  | cons a t ih =>
    obtain ⟨n, axes, h⟩ := chopAxis_frame s a
    obtain ⟨n', axes', h'⟩ := ih { s with fresh := n, mot := { s.mot with axes := axes } }
    rw [List.foldl_cons, h]
    exact ⟨n', axes', h'⟩

/-! ## Equipment outside -/

/-- A capture takes free values at most, and one level for each cell. -/
theorem captureCells_frame (l : List Signal) (n : Nat) :
    (∃ m, (captureCells l n s).2 = { s with fresh := m }) ∧ (captureCells l n s).1.length = l.length := by
  induction l generalizing s n with
  | nil => exact ⟨⟨_, rfl⟩, rfl⟩
  | cons x t ih =>
    unfold captureCells
    split
    rename_i e
    split at e
    · cases e
      obtain ⟨⟨m, h⟩, hl⟩ := ih s (n + 1)
      exact ⟨⟨m, h⟩, congrArg Nat.succ hl⟩
    · cases e
      obtain ⟨⟨m, h⟩, hl⟩ := ih (takeFree 1 s).2 (n + 1)
      exact ⟨⟨m, h⟩, congrArg Nat.succ hl⟩

theorem tapAct_frame (tdi : Bool) : ∃ n p, tapAct tdi s = { s with fresh := n, tap := p } := by
  unfold tapAct
  split
  case h_4 =>
    split
    · exact ⟨_, _, rfl⟩
    · obtain ⟨⟨m, h⟩, -⟩ := captureCells_frame s scanSignals 0
      generalize captureCells scanSignals 0 s = r at h
      obtain ⟨l, t⟩ := r
      simp only at h
      subst h
      exact ⟨_, _, rfl⟩
  all_goals first | exact ⟨_, _, rfl⟩ | (split <;> exact ⟨_, _, rfl⟩)

theorem tapClock_frame (tms tdi : Bool) : ∃ n p, tapClock tms tdi s = { s with fresh := n, tap := p } := by
  obtain ⟨n, p, h⟩ := tapAct_frame s tdi
  simp only [tapClock, h]
  split <;> split <;> exact ⟨_, _, rfl⟩

/-- An input of the test access port changes the port, is taken from the inputs that wait, and may take free values. -/
theorem tapTick_frame :
    ∃ n p, tapTick s = { s with fresh := n, tap := p, bench := { s.bench with tap := s.bench.tap.drop 1 } } := by
  unfold tapTick
  split
  · next h => exact ⟨s.fresh, s.tap, by rw [h, List.drop_nil, ← h]⟩
  · next x rest h =>
    rw [h]
    simp only
    split
    · exact ⟨_, _, rfl⟩
    · split
      · exact tapClock_frame _ _ _
      · exact ⟨_, _, rfl⟩

/-- A programmer changes the flash, and only with RESET_N low or VIN removed and the flash balls high impedance. -/
theorem programTick_frame :
    programTick s = { s with flash := (programTick s).flash, bench := (programTick s).bench } := by
  unfold programTick
  split
  · rfl
  · split <;> rfl

theorem programTick_waits (h : s.boot.phase ≠ .unpowered) (r : resetLow s = false) : programTick s = s := by
  unfold programTick
  split <;> simp [h, r]

/-- A change outside stands on the bench. -/
theorem outsideTick_frame : outsideTick s = { s with bench := (outsideTick s).bench } := by
  unfold outsideTick; split <;> rfl

/-- All that a tick of an empty queue can change. -/
theorem tick_frame :
    ∃ n axes p b f, tick s = { s with
      now := s.now + 1, clk := s.clk + 1, fresh := n, mot := { s.mot with axes := axes }, tap := p, bench := b, flash := f } := by
  unfold tick
  rw [outsideTick_frame]
  generalize (outsideTick s).bench = b
  obtain ⟨n, p, h⟩ := tapTick_frame { s with bench := b }
  rw [h, programTick_frame]
  generalize (programTick _).flash = f
  generalize (programTick _).bench = b'
  obtain ⟨m, axes, h'⟩ := chopTick_frame { s with fresh := n, tap := p, flash := f, bench := b' }
  exact ⟨m, axes, p, b', f, by simp only at h' ⊢; rw [h']; rfl⟩

end Sys2Proof.Machine
end

