-- ==== Sys2Proof/Tests/Slice0.lean ====
section
/-! SUPPORT. The model's own tests: refused ill-formed commands, single steps on small states, and for each statement
states and operands that meet its hypotheses. -/
namespace Sys2Proof.Tests
open Sys2Proof Sys2Proof.Machine

/-! ## Small states -/

/-- STANDBY with EtherCAT in Op and the domains of Table 1.10. -/
def standby : State :=
  { State.reset with
    modes := { Modes.reset with mode := .standby }, ecat := { Ecat.reset with al := 8 },
    pwr := { Power.reset with domains := 0xA000B#20, pllLocked := 0x7F#7 }, boot := { Boot.reset with phase := .running } }

/-- The device in a mode with its domains on and EtherCAT in Op. -/
def inMode (m : Mode) : State :=
  { standby with modes := { Modes.reset with mode := m }, pwr := { standby.pwr with domains := 0xFFFFF#20 } }

def ready : State := inMode .ready

/-- A mode with a transition running. -/
def inTransition (m target : Mode) : State :=
  { inMode m with modes := { Modes.reset with mode := m, status := 1, trans := some ⟨target, false, false⟩ } }

/-- READY with a program of the given words loaded; the engine stands before word `pc`. -/
def withProgram (ws : List Nat) (pc : Nat) : State :=
  { ready with tim := { ready.tim with active := 1, words := ws, pc := pc } }

/-- The program with the engine in a line of one record, in its slots. -/
def inLine (ws : List Nat) (pc : Nat) : State :=
  let l : LineRec :=
    { id := ⟨0, none⟩, page := 0, pageStart := false, pageLine := 0, leadIn := false, gap := false, refPhase := none,
      counted := false, trigPos := 0, startTime := 0, slots := [], invalid := 0, settling := false, diagnostic := [],
      dropped := false, lin := none, hostDefects := none,
      chainSet := none, driftSet := none, pulsed := 0, ended := none }
  let s := withProgram ws pc
  { s with tim := { s.tim with lines := [l], lineActive := true } }

/-- The program of R71: LINE, RED, GREEN, BLUE, TONE, LINE, RED, GREEN, BLUE, JUMP 0. -/
def example71 : List Nat :=
  [0x10000000, 0x200008AD, 0x240008AD, 0x280008AD, 0x30FF00A0, 0x10000000, 0x200008AD, 0x240008AD, 0x280008AD, 0x60000000]

/-- A line record of the hold, read and without a y. -/
def heldLine (serial : Nat) (settling : Bool) : LineRec :=
  { id := ⟨serial, none⟩, page := 0, pageStart := false, pageLine := 0, leadIn := false, gap := false, refPhase := none,
    counted := false, trigPos := 0, startTime := 0, slots := [], invalid := 0, settling := settling, diagnostic := [],
    dropped := false, lin := none, hostDefects := none,
    chainSet := none, driftSet := none, pulsed := 0, ended := some 0 }

/-- The hold of a state. -/
def holdingLines (ls : List LineRec) (s : State) : State := { s with tim := { s.tim with lines := ls } }

/-- A capture in a state of its own. -/
def inCapture (st : RefState) (f : RefCapture → RefCapture) (s : State) : State :=
  setCapture (fun c => f { c with state := st, attempt := 1, pass := 1 }) s

/-- The words of a string of zeros are zero. -/
theorem words_zero (k : Nat) : ∀ w ∈ words32 (List.replicate k 0), w = 0 := by
  have go : ∀ n k, ∀ w ∈ words32.go n (List.replicate k 0), w = 0 := by
    intro n
    induction n with
    | zero => intro k w h; simp [words32.go] at h
    | succ n ih =>
      intro k w h
      simp only [words32.go, List.mem_cons, List.take_replicate, List.drop_replicate] at h
      rcases h with h | h
      · subst h
        have : ∀ m, leNat (List.replicate m 0) = 0 := by
          intro m
          induction m with
          | zero => rfl
          | succ m ihm =>
            show (0 : Byte).toNat + 256 * leNat (List.replicate m 0) = 0
            rw [ihm]; rfl
        exact this _
      · exact ih _ _ h
  exact go _ _

/-- A group of Leaven in READY, changed. -/
def calibrating (f : GroupCal → GroupCal) : State := modCal 3 f ready

/-- A window of a port of G3 with its lines. -/
def windowOf (n : Nat) (lamp : Bool) : CalWindow := { openWindow 38 lamp ready with lines := n }

/-- A pass of T38. -/
def passAt (st : PassStep) (full : Bool) (a b : List CalWindow) (w : Option CalWindow) : Pass :=
  { port := 38, range := 2, chain := 38, full := full, seed := false, attempt := 1, step := st, closedA := a, closedB := b,
    window := w, sweeps := [], dimmed := false, retry := false, returnFrom := 0 }

/-- READY with that pass in G3. -/
def passing (p : Pass) : State := calibrating (fun g => { g with pass := some p })

/-- A reference image of 4 by 1 pixels in a state of its own. -/
def image4 (state : Nat) : RefImage :=
  { id := 7, state := state, base := 0, allocated := 128,
    bytes := leBytes 2 1 ++ leBytes 2 0 ++ leBytes 4 4 ++ leBytes 4 1 ++ leBytes 4 64 ++ leBytes 112 0 }

/-- A page that the engine follows. -/
def pageOf (ref : Option Nat) : CmpPage :=
  { page := ⟨0, 5⟩, bits := 8, xavg := 1, ref := ref, centreX := 0, centreY := 0, firstY := 0, start := 0, lastN := none, group := [], rows := [],
    half := false, ended := false, partialEnd := false, blobs := [], nextIndex := 0, records := 0, blobsLost := 0,
    failed := false, flags := 0, bandsCompared := 0, bandsSkipped := 0, assumed := 0, rowsCompared := 0, missing := 0,
    lineRows := [], rowsSettling := 0, rowsDuplicate := 0, firstOffset := (0, 0), lastOffset := (0, 0), outside := 0,
    contEdge := [] }

/-- INLINE with images, pages and waiting bands. -/
def comparing (refs : List RefImage) (pages : List CmpPage) (queue : List CmpBand) : State :=
  { inMode .inline with cmp := { (inMode .inline).cmp with active := true, refs := refs, pages := pages, queue := queue } }

/-- A copy of 8 bytes of 8-bit elements inside HOST_SCRATCH, the last of its list. -/
def copyOf (a : Nat) : Descriptor := ⟨a + 2 ^ 46, a + 64 + 2 ^ 46, 8, 2 ^ 63 + 2 ^ 54⟩

/-- READY with the default layout placed on 32 GB of Cistern and channel 16 in a state of its own. -/
def channelled (f : DmaChan → DmaChan) : State :=
  let s := { ready with cist := { ready.cist with
    capacity := 32 * GB, ready0 := true, ready1 := true, layout := (layoutOf regionDefaults (32 * GB)).getD [] } }
  modChan 16 f s

/-- A valid host packet on a lane, with a session number and a request id. -/
def packet (lane : Fin 16) (session : BitVec 32) (item : BitVec 64) : Frame :=
  { lane := lane, ipv4 := true, fragment := false, options := false, ipChecksumBad := false, protocol := 17,
    dstIp := BitVec.ofNat 32 (0xC0A80A10 + lane.val), dstPort := 47100, udpChecksumBad := false, udpLength := 56,
    srcMac := 0x0200000000AA, srcIp := 0xC0A80AF0, srcPort := 5000, magic := 0x5354, version := 1,
    laneField := BitVec.ofNat 8 lane.val, streamId := 0, session := session, item := item, length := 16 }

/-- A state with session 9 open on L00 and L01, whose lanes are ready to send. -/
def inSession (s : State) : State :=
  { s with host := { s.host with
      session := 9, dataLanes := 3,
      lanes := s.host.lanes.map (fun l => { l with host := some (1, 2, 3), blockLock := true, creditLimit := 4096 }) } }

/-- INLINE with a gap record that waits as item 1. -/
def itemWaiting : State :=
  let s := inSession (inMode .inline)
  { s with host := { s.host with items := [⟨1, .gap (gapRecord 1 0 3 7 9 3), 0⟩], nextItem := 2 } }

/-- SHEET on a Cistern with the default layout. -/
def sheet (f : HostStream → HostStream) : State :=
  let s := inMode .sheet
  { s with cist := { s.cist with layout := (layoutOf regionDefaults (32 * GB)).getD [] }, host := f s.host }

/-- A mode with axis 2 enabled and in a state of its own. -/
def axis2 (m : Mode) (f : Axis → Axis) : State :=
  let s := inMode m
  modAxis 2 (fun x => f { x with state := .holding, energised := true }) { s with dict := { s.dict with atReady := [((Obj.AXIS_ENABLE 2).key, 1)] } }

/-- Axis 2 runs a list of the given words. -/
def listed (words : List Nat) (f : Axis → Axis) : State :=
  axis2 .ready (fun x => f { x with
    owner := .list, seg := { SegList.reset with state := .running, words := words, budget := 16, speed := 1000, accel := 5000 } })

/-- Axis 2 in SHEET as the whole transport. -/
def transported (f : Transport → Transport) : State :=
  let s := axis2 .sheet (fun x => { x with owner := .pacer })
  { s with dict := { s.dict with atReady := [(Obj.TRANSPORT_AXES.key, 4), ((Obj.AXIS_ENABLE 2).key, 1)] }, mot := { s.mot with transport := f { Transport.reset with owns := true } } }

/-- EtherCAT in a state of its own, with the device in STANDBY. -/
def slave (f : Ecat → Ecat) : State := { standby with ecat := f standby.ecat }

/-- A transfer in progress. -/
def transferring (x : SdoTransfer) : State := slave (fun e => { e with sdo := some x })

/-- A configuration set of a version in a slot. -/
def setOf (version : Nat) (revoked : Bool) : ConfigSet :=
  let c : ConfigSet := { marker := 0x5E7C0F13, version := version, length := 52, count := 0, time := 0, firmware := 1, label := [],
                         word := if revoked then 0 else 0xFFFFFFFF, entries := [], check := 0 }
  { c with check := c.crc }

/-- Versions 5 and 6 and version 7 in force, and an empty slot (Table 12.9). -/
def slots567 : State :=
  { standby with flash := { standby.flash with config := [.set (setOf 5 false), .set (setOf 6 false), .set (setOf 7 false), .empty] },
                 cfg := { standby.cfg with active := 7, source := 1 }, ecat := { standby.ecat with al := 2 } }

/-! ## Ill-formed commands are refused by the check -/

theorem test_wf_modeRequestInvalid :
    (.modeRequestInvalid .sdo 3 : Instr).wf = false ∧
    (.modeRequestInvalid .sdo 9 : Instr).wf = true := by decide

theorem test_wf_objectWrite :
    (.objectWrite .sdo 0x10000 0 [0] : Instr).wf = false ∧
    (.objectWrite .sdo 0x2000 1 [0] : Instr).wf = true := by decide

theorem test_wf_bulkDownload :
    (.bulkDownloadComplete .sdo 0x2000 0x100 [] : Instr).wf = false ∧
    (.bulkDownloadComplete .sdo 0x2000 1 [] : Instr).wf = true := by decide

theorem test_wf_toneWindow :
    (.toneWindowEnd 0 [(12, 5)] : Instr).wf = false ∧
    (.toneWindowEnd 1 [(12, 5)] : Instr).wf = true := by decide

theorem test_wf_startPulse :
    (.startPulse 0 [⟨12, [⟨0, 0⟩]⟩] : Instr).wf = false ∧
    (.startPulse 1 [⟨12, [⟨0, 0⟩]⟩] : Instr).wf = true := by decide

theorem test_wf_startPulse_empty : (.startPulse 1 [⟨12, []⟩] : Instr).wf = false := by decide

theorem test_wf_latch :
    (.latch [[], [], []] : Instr).wf = false ∧
    (.latch [[], [], [], []] : Instr).wf = true := by decide

theorem test_wf_spareCheck :
    (.spareCheck 0 (List.replicate 17 0) (List.replicate 16 0) : Instr).wf = false ∧
    (.spareCheck 0 (List.replicate 17 0) (List.replicate 17 0) : Instr).wf = true := by decide

theorem test_wf_sweep :
    (.sweepDone 0 (List.replicate 18 0) : Instr).wf = false ∧
    (.sweepDone 0 (List.replicate 17 0) : Instr).wf = true := by decide

theorem test_wf_credit :
    (.credit (packet 0 9 0) 1 [0] : Instr).wf = false ∧
    (.credit (packet 0 9 0) 1 (List.replicate 16 0) : Instr).wf = true := by decide

theorem test_wf_read :
    (.read (packet 0 9 0) 0x10000 0 : Instr).wf = false ∧
    (.read (packet 0 9 0) 0x1000 0 : Instr).wf = true := by decide

theorem test_wf_write :
    (.write (packet 0 9 0) 0x2000 0x100 [] : Instr).wf = false ∧
    (.write (packet 0 9 0) 0x2000 1 [] : Instr).wf = true := by decide

theorem test_wf_readSegment :
    (.readSegment (packet 0 9 0) 0x2000 1 0 0x10000 : Instr).wf = false ∧
    (.readSegment (packet 0 9 0) 0x2000 1 0 0xFFFF : Instr).wf = true := by decide

theorem test_wf_readSegment_index : (.readSegment (packet 0 9 0) 0x10000 1 0 1 : Instr).wf = false := by decide

theorem test_wf_writeSegment :
    (.writeSegment (packet 0 9 0) 0x2000 1 0x100000000 [] true : Instr).wf = false ∧
    (.writeSegment (packet 0 9 0) 0x2000 1 0 [] true : Instr).wf = true := by decide

theorem test_wf_writeSegment_index : (.writeSegment (packet 0 9 0) 0x2000 256 0 [] true : Instr).wf = false := by decide

theorem test_wf_scratchWrite :
    (.scratchWrite (packet 0 9 0) 0x100000000 [0] .clean : Instr).wf = false ∧
    (.scratchWrite (packet 0 9 0) 0 [0] .clean : Instr).wf = true := by decide

theorem test_wf_scratchRead :
    (.scratchRead (packet 0 9 0) 0 0x10000 .clean : Instr).wf = false ∧
    (.scratchRead (packet 0 9 0) 0 8 .clean : Instr).wf = true := by decide

theorem test_wf_reference :
    (.reference (packet 0 9 0) 0x100000000 [] : Instr).wf = false ∧
    (.reference (packet 0 9 0) 0 [] : Instr).wf = true := by decide

theorem test_wf_sdoDownload :
    (.sdoDownload 0x2000 1 false 0x100000000 [] : Instr).wf = false ∧
    (.sdoDownload 0x2000 1 false 4 [] : Instr).wf = true := by decide

theorem test_wf_sdoDownload_index : (.sdoDownload 0x10000 1 false 4 [] : Instr).wf = false := by decide

theorem test_wf_sdoUpload :
    (.sdoUpload 0x10000 0 false : Instr).wf = false ∧
    (.sdoUpload 0x1000 0 false : Instr).wf = true := by decide

theorem test_wf_sdoInformation :
    (.sdoInformation 0x1000 256 : Instr).wf = false ∧
    (.sdoInformation 0x1000 0 : Instr).wf = true := by decide

theorem test_wf_volts :
    (.voltMonitorSample (List.replicate 19 0) : Instr).wf = false ∧
    (.voltMonitorSample (List.replicate 20 0) : Instr).wf = true := by decide

theorem test_wf_temps :
    (.tempMonitorSample (List.replicate 25 0) : Instr).wf = false ∧
    (.tempMonitorSample (List.replicate 24 0) : Instr).wf = true := by decide

theorem test_wf_processes :
    (.processMonitorSample [] : Instr).wf = false ∧
    (.processMonitorSample (List.replicate 12 0) : Instr).wf = true := by decide

theorem test_wf_discovery :
    (.discoveryDone [(0, List.replicate 70 ⟨0, false⟩)] : Instr).wf = false ∧
    (.discoveryDone [(0, List.replicate 69 ⟨0, false⟩)] : Instr).wf = true := by decide

theorem test_wf_twTransaction :
    (.twTransaction 0 (List.replicate 70 ⟨0, false⟩) : Instr).wf = false ∧
    (.twTransaction 0 (List.replicate 69 ⟨0, false⟩) : Instr).wf = true := by decide

theorem test_wf_twBusTest :
    (.twBusTest 0 ⟨true, false, List.replicate 10 false, true⟩ : Instr).wf = false ∧
    (.twBusTest 0 ⟨true, false, List.replicate 9 false, true⟩ : Instr).wf = true := by decide

theorem test_wf_twSensorPoll :
    (.twSensorPoll 0 1 (List.replicate 8 ⟨0, false⟩) : Instr).wf = false ∧
    (.twSensorPoll 0 1 [⟨0, false⟩] : Instr).wf = true := by decide

theorem test_wf_mailbox :
    (.mailboxSend 0 (List.replicate 63 0) : Instr).wf = false ∧
    (.mailboxSend 0 (List.replicate 64 0) : Instr).wf = true := by decide

/-- A sample of the voltage monitors with every rail in its window and VIN as given. -/
def railsAt (vin : Nat) : List Nat :=
  [vin, 5000, 750, 750, 750, 750, 1100, 1100, 1800, 3300, 1800, 1800, 1800, 1800, 1800, 1800, 1800, 1800, 900, 12000]

/-- SHEET, over its cap of 11,500 mW, with no step taken. -/
def governed (level cap : Nat) (effect : Option Nat) : State :=
  { inMode .sheet with
    clk := 2000000000, pwr := { (inMode .sheet).pwr with gov := { (inMode .sheet).pwr.gov with
      level := level, cap := cap, effectAt := effect } } }

/-- The device on its way out of OFF. -/
def bootingAt (phase : BootPhase) : State := { State.reset with boot := { Boot.reset with phase := phase } }

/-- The flash with a trial record for slot B of a count. -/
def trialFlash (count : Nat) : State :=
  { bootingAt .starter with flash := { State.reset.flash with
      slotB := .factory 2 0, bootRecords := [⟨0, 0, false, 0, false⟩, ⟨1, 1, true, count, false⟩] } }

/-- An identity record of 816 active pixels with PIXEL_COUNT and the other three values. -/
def tileRecord (pixels lead trail index : Nat) : List Byte :=
  let l := leBytes 2 1 ++ leBytes 2 0 ++ leBytes 8 77 ++ leBytes 2 816 ++ leBytes 2 pixels ++ leBytes 1 lead ++ leBytes 1 trail ++
    leBytes 1 index ++ List.replicate 41 0
  l ++ leBytes 4 (crc32c l)

/-- STANDBY with a discovery that runs since boot. -/
def discovering : State :=
  let s := [0, 1].foldl (fun s b => modBus b (fun y => { y with state := .idle }) s) standby
  { s with boot := { s.boot with discovery := 1, discoveryAtBoot := true } }

/-- A state whose mailbox direction has a send of the message in progress. -/
def sendingOn (d : Nat) (m : List Byte) (s : State) : State := modDir d (fun x => { x with sending := some (asMessage m) }) s

/-- The log with one block of entries. -/
def entryOf (n : Nat) (cls : Nat) : LogEntry :=
  { time := n, sequence := n, code := 0x0200, cls := cls, flags := 0, source := 0, detail := [] }

def loggedIn (old : List LogEntry) (waiting : List LogEntry) : State :=
  { standby with
    flash := { standby.flash with log := [⟨3, old, [], false⟩] }, ev := { standby.ev with waiting := waiting, nextSeq := 9 } }

/-- An update in a state, with bytes programmed into slot B. -/
def updating (u : UpdState) : State :=
  { standby with upd := { standby.upd with state := u, bytes := 4 }, flash := { standby.flash with slotB := .image [1, 2, 3, 4] } }

/-- A trial of slot A. -/
def onTrialState : State :=
  { standby with
    boot := { standby.boot with trial := true, slot := 0 },
    flash := { standby.flash with bootRecords := [⟨0, 0, true, 1, false⟩], slotA := .factory 2 5, slotB := .factory 1 0 } }

/-- A Leaven record of a chain. -/
def recordOf (chain seq : Nat) : LeavenRecord :=
  sealRecord { sequence := seq, chain := chain, range := 2, flags := 0, accepted := 1, time := 0, temp := 2500, inl := 0,
               tombstone := false, entries := [], check := 0 }

/-- STANDBY with a bus in a state. -/
def busIn (b : Nat) (x : TwState) : State := modBus b (fun y => { y with state := x }) standby

/-- A host request on TW0 that waits: two write bytes, three to read. -/
def asked : State := modBus 0 (fun y => { y with jobs := [⟨.host, 0⟩] })
  { busIn 0 .idle with tw := { (busIn 0 .idle).tw with request := some ⟨0, 0x50, [1, 2], 3⟩, resultState := 1 } }

/-- A held error of a class and sequence number. -/
def held (seq cls : Nat) : State := { ready with ev := { ready.ev with first := some (entryOf seq cls), overflow := 7, nextSeq := seq + 1 } }


/-! ### StepRunsFrontCommand -/

theorem witness_step : ({ standby with pending := [.pageStartNow .sdo] } : State).pending = .pageStartNow .sdo :: [] := by decide

theorem witness_idle : State.reset.pending = [] ∧
    (State.reset.bench.tap = [] ∧ State.reset.bench.program = none ∧ State.reset.bench.acts = []) ∧
    (∀ a < 6, (axisOf a State.reset).energised = false) ∧ State.reset.mot.axes.length = 6 ∧
    (axisOf 5 (modAxis 5 (fun x => { x with energised := true }) standby)).energised = true := by decide

set_option maxRecDepth 20000 in
theorem witness_bench :
    (let s := { standby with bench := { standby.bench with tap := [.clock false true] }, tap := { standby.tap with state := .shiftDr } }
     s.pending = [] ∧ s.boot.phase ≠ .unpowered ∧ s.tap.instr = .bypass ∧ (∀ a < 6, (axisOf a s).energised = false)) ∧
    (let s := { standby with bench := { standby.bench with program := some standby.flash }, boot := { standby.boot with phase := .pinHeld } }
     s.pending = [] ∧ s.pins.qspiDriven = false ∧ standby.flash.config.length = 4) := by decide

set_option maxRecDepth 20000 in
theorem witness_outside :
    (∀ x ∈ [Outside.load 7 true 20000, .ball 0 none, .ball 3 (some true), .chains none],
      let s := { standby with bench := { standby.bench with acts := [x] } }
      s.pending = [] ∧ s.bench.tap = [] ∧ s.bench.program = none ∧ (∀ a < 6, (axisOf a s).energised = false)) ∧
    (let s := { State.reset with boot := { State.reset.boot with phase := .pinHeld }, bench := { State.reset.bench with tap := [.clock false true] },
                                 tap := { State.reset.tap with state := .captureDr, instr := .extest } }
     s.tap.instr ≠ .bypass ∧ scanSignals[scanSignals.length - 3]? = some .resetN ∧ Signal.resetN.drives = false ∧
       ballLevel (scanSignals.length - 3) .resetN s = some false) := by decide

/-! ### ModeRequestStartsTransition -/

theorem witness_mode_request :
    (served .pdo standby = true ∧ standby.modes.trans = none ∧ standby.modes.mode = .standby) ∧
    (served .sdo ready = true ∧ ready.modes.mode = .ready) ∧ (inMode .inline).modes.mode = .inline ∧
    (inMode .sheet).modes.mode = .sheet ∧
    (served .tsp { inTransition .standby .ready with host := { standby.host with session := 5 } } = true) ∧
    (5#8).toNat ∉ [1, 2, 3, 4] := by decide

set_option maxRecDepth 20000 in
/-- Refusals, and the starts from INLINE, SHEET and FAULT. -/
theorem witness_request_refused :
    (served .sdo (inMode .inline) = true ∧ served .sdo (inMode .sheet) = true ∧ (inMode .sheet).modes.trans = none) ∧
    (let s := { ready with ecat := { ready.ecat with al := 2 } }
     served .sdo s = true ∧ hasSession s = false ∧ s.modes.mode = .ready) ∧
    (hasSession ready = true ∧ (transportAxes ready).isEmpty = true ∧
      selectionEmpty (val Obj.PROGRAM_SELECT (setVal Obj.PROGRAM_SELECT 1 ready)) (setVal Obj.PROGRAM_SELECT 1 ready) = true) ∧
    (let s := { inMode .fault with ev := { (inMode .fault).ev with first := some ⟨0, 0, 0x0B02, 3, 0, 6, []⟩ } }
     served .sdo s = true ∧ s.ev.first.isSome = true) ∧
    (served .sdo (inMode .fault) = true ∧ causeActive (inMode .fault) = false ∧ (inMode .fault).ev.first = none ∧
      causeActive { inMode .fault with pwr := { (inMode .fault).pwr with pllLocked := 0 } } = true) ∧
    (∃ s : State, served .sdo s = true ∧ s.modes.mode = .fault ∧ s.modes.trans = none ∧ s.ev.first = none ∧ causeActive s = false ∧
      sectionOk 2 s = true) :=
  ⟨by decide, by decide, by decide, by decide, by decide,
    ⟨inMode .fault, by decide⟩⟩

/-- READY with the simple sequence selected. -/
theorem witness_request_starts :
    (served .sdo standby = true ∧ standby.modes.trans = none ∧ standby.modes.mode = .standby ∧ standby.ecat.al = 8) ∧
    (∃ s : State, served .sdo s = true ∧ s.modes.mode = .ready ∧ s.modes.trans = none ∧ s.ecat.al = 8 ∧
      selectionEmpty (val Obj.PROGRAM_SELECT s) s = false ∧ (transportAxes s).isEmpty = false) :=
  ⟨by decide, ⟨{ ready with dict := { ready.dict with atReady := [((Obj.AXIS_ENABLE 2).key, 1), (Obj.TRANSPORT_AXES.key, 4)] } }, by decide⟩⟩

/-! ### ModeTransitionCompletes -/

theorem witness_transition :
    ∀ p ∈ [(Mode.standby, Mode.ready), (.ready, .standby), (.ready, .inline), (.ready, .sheet), (.inline, .ready),
        (.sheet, .ready), (.fault, .standby), (.standby, .standby)],
      let s := inTransition p.1 p.2
      s.modes.trans = some ⟨p.2, false, false⟩ ∧ (s.modes.mode, p.2) = p ∧ transitionReady ⟨p.2, decide (p.2 = .ready), false⟩ s = true := by
  decide

/-! ### ModeChangesByTable -/

theorem witness_mode_changes :
    let s := inTransition .sheet .ready
    (∀ r, s.modes.trans = some r → (s.modes.mode, r.target) = (Mode.sheet, Mode.ready) ∧ r.thenStandby = false) ∧
    (∃ t, exec .modeTransitionDone s = .next t ∧ t.modes.mode = .ready) :=
  ⟨by intro r h; cases h; exact ⟨rfl, rfl⟩, _, rfl, by decide⟩

/-! ### PortClearingAndGroupOutputs -/

theorem witness_ports :
    (served .sdo ready = true ∧ Shaped ready = true ∧ domainOn (4 + (7 : Fin 8).val) ready = true) ∧
    (portOf 95 (modPort 95 (fun x => { x with latched := true }) ready)).latched = true ∧
    Shaped (modPort 95 (fun x => { x with latched := true }) ready) = true ∧
    domainOn (4 + (7 : Fin 8).val) State.reset = false ∧
    (500#16).toNat % 10 = 0 ∧ 3000 ≤ (3000#16).toNat ∧ (2500#16).toNat % 10 = 0 ∧ (3010#16).toNat > 3000 ∧
    (2510#16).toNat > (if true then 2500 else 3000) ∧ (490#16).toNat < (if false then 300 else 500) := by decide

/-- A write of 1,655 mV is off the grid. -/
theorem test_vbias_grid : served .sdo ready = true ∧ (1655#16).toNat % 10 ≠ 0 := by decide

/-! ### HandoverAtSlotBoundary -/

theorem witness_handover :
    let due := modGroup 7 (fun g => { g with assignDue := some (95, true) }) ready
    let held := modGroup 7 (fun g => { g with spare := .host, port := some 95, returnDue := true }) ready
    (served .sdo ready = true ∧ (84#8).toNat / 12 ≠ (6 : Fin 8).val ∧ (84#8).toNat ≠ 0xFF) ∧
    ((84#8).toNat / 12 = (7 : Fin 8).val ∧ (84#8).toNat ≠ hostAssign 7 ready ∧ (groupOf 7 ready).spare = .idle ∧
      (calOf 7 ready).pass = none ∧ (calOf 7 ready).spareCheck = false) ∧
    (Shaped due = true ∧ 95 / 12 = (7 : Fin 8).val ∧ (groupOf 7 due).windowOpen = none ∧ groupLive 7 due = true ∧
      (groupOf 7 due).assignDue = some (95, true)) ∧
    (Shaped held = true ∧ (groupOf 7 held).returnDue = true ∧ groupLive 7 held = true ∧ (groupOf 7 held).spare = .host ∧
      (groupOf 7 held).port = some 95 ∧ (calOf 7 held).pass = none) ∧
    (groupLive 7 State.reset = false ∧ (calOf 7 State.reset).pass = none) := by decide

/-! ### ToneWindowJudgesPorts -/

/-- READY with every port enabled, a window of 400 ns open on G7 and a reference of 100 codes for T95. -/
def toned : State :=
  setVal (Obj.TONE_REF 95) 100 (modGroup 7 (fun g => { g with window := 400000, windowOpen := some ⟨3, none⟩ }) ready)

theorem witness_tone :
    (Shaped toned = true ∧ (groupOf 7 toned).windowOpen = some ⟨3, none⟩ ∧ toned.tim.due.getD 7 [] = [] ∧
      400000 ≤ (groupOf 7 toned).window ∧ (calOf 7 toned).pass = none ∧ 95 ∈ tonePorts 7 toned ∧ onSpare 95 toned = false ∧
      (portOf 95 toned).learning = none ∧ (portOf 95 toned).latched = false ∧ val (Obj.TONE_REF 95) toned ≠ 0) ∧
    (val (Obj.TONE_LIMIT_HIGH 95) toned * val (Obj.TONE_REF 95) toned < 100 * 201) ∧
    (100 * 49 < val (Obj.TONE_LIMIT_LOW 95) toned * val (Obj.TONE_REF 95) toned) ∧
    (val (Obj.TONE_LIMIT_LOW 95) toned * val (Obj.TONE_REF 95) toned ≤ 100 * 50) ∧
    (groupOf 7 (modGroup 7 (fun g => { g with window := 399999 }) toned)).window < 400000 := by decide

/-- Twice the reference passes, one code more fails as OPEN (R50). -/
theorem test_tone_verdict :
    toneVerdict (Frac.ofNat 200) 100 200 50 = none ∧ toneVerdict (Frac.ofNat 201) 100 200 50 = some 2 ∧
      toneVerdict (Frac.ofNat 49) 100 200 50 = some 3 := by decide

/-! ### TimingProgramInstructions -/

theorem witness_control :
    currentOp (withProgram [0x00000000] 0) = some .nop ∧
    currentOp (withProgram [0x10000000, 0x50000002] 1) = some (.loop 0 0 2) ∧ 0 < (withProgram [] 0).tim.cnt.length ∧
    currentOp (withProgram example71 9) = some (.jump 0) ∧ currentOp (withProgram example71 0) = some .line := by decide

/-- The program of the worked example passes the checks of R69; without its BLUE slot it does not. -/
theorem test_program_checks :
    programOk example71 = true ∧ programOk [0x10000000, 0x200008AD, 0x240008AD] = false ∧
      programOk [0x10000000, 0x200008AD, 0x240008AD, 0x280008AD, 0x50010001] = false := by decide

/-- READY with the program of the worked example in bank 0 and a lone NOP in bank 1. -/
def banked : State :=
  setBulk (objKey 0x4101 0) (leBytes 4 0) (setBulk (objKey 0x4100 0) (example71.flatMap (leBytes 4)) (withProgram example71 0))

theorem witness_select :
    (served .sdo banked = true ∧ 2 < (3#8).toNat) ∧
    (selectionEmpty 1 (inMode .inline) = true ∧ capturing (inMode .inline) = true ∧ served .sdo (inMode .inline) = true) ∧
    (selectionEmpty 2 banked = false ∧ programOk (bankWords 1 banked) = false) ∧
    (selectionEmpty 1 banked = false ∧ programOk (bankWords 0 banked) = true ∧ banked.tim.words ≠ []) ∧
    (selectionEmpty 1 (withProgram example71 0) = true ∧ capturing (withProgram example71 0) = false) := by decide

theorem witness_slot_tone :
    (currentOp (inLine example71 1) = some (.slot 0 2221) ∧ (inLine example71 1).tim.lineActive = true) ∧
    (currentOp (inLine [0x2A600898] 0) = some (.slot 2 0x200898)) ∧
    (let s := placeSlot 2 2221 (inLine example71 4)
     currentOp s = some (.tone 0xFF 160) ∧ 7 < s.tim.due.length ∧ s.tim.due.getD 7 [] = [] ++ [⟨0, 0, .blue, 5552500, none, false⟩]) := by
  decide

/-! ### TriggersBeginPendOrOverrun -/

/-- READY with the built-in sequence and the engine at its LINE. -/
def atLine : State :=
  let s := withProgram (simpleWords 0 ready) 1
  { s with tim := { s.tim with active := 0, atLine := true, inFlight := [some 7] } }

/-- The same with a source of triggers selected. -/
def sourced (n : Nat) (s : State) : State := { s with dict := { s.dict with atReady := [(Obj.TRIG_SOURCE.key, n)] } }

theorem witness_triggers :
    (atLine.tim.inFlight = some 7 :: [] ∧ inPhase atLine = false ∧ mayStart atLine = true ∧ engineRuns atLine = true ∧
      atLine.tim.lineActive = false ∧ atLine.tim.pending = none ∧ val Obj.PROGRAM_SELECT atLine = atLine.tim.active) ∧
    (let s := { atLine with modes := { atLine.modes with mode := .inline }, tim := { atLine.tim with armed := true } }
     capturing s = true ∧ mayStart s = true ∧ engineRuns s = true) ∧
    (let s := { inLine example71 5 with tim := { (inLine example71 5).tim with pending := some 7 } }
     currentOp s = some .line ∧ s.tim.pending = some 7 ∧ s.tim.lineActive = true ∧ s.tim.placed = [] ∧ inPhase s = false ∧
      mayStart s = true ∧ s.pipe.capture.state = .idle ∧ val Obj.PROGRAM_SELECT s ≠ s.tim.active ∧
      opAt (selectionWords (val Obj.PROGRAM_SELECT s) 0 s) 0 = .line ∧ 1 < (selectionWords 0 0 s).length) ∧
    (currentOp (placeSlot 0 2221 (inLine example71 5)) = some .line ∧ (placeSlot 0 2221 (inLine example71 5)).tim.placed ≠ []) ∧
    (let s := { inLine example71 2 with tim := { (inLine example71 2).tim with inFlight := [some 7] } }
     engineRuns s = true ∧ s.tim.lineActive = true ∧ s.tim.pending = none ∧ mayStart s = true ∧ inPhase s = false ∧
      valReady Obj.TRIG_SOURCE (sourced 1 s) = 1 ∧ valReady Obj.TRIG_SOURCE (sourced 2 s) = 2 ∧ s.ecat.al = 8 ∧
      syncMode (sourced 2 s) ≠ 2 ∧ engineRuns (sourced 2 s) = true) ∧
    (let s := sourced 1 { inLine example71 2 with tim := { (inLine example71 2).tim with pending := some 0 } }
     engineRuns s = true ∧ mayStart s = true ∧ s.tim.pending.isSome = true ∧ valReady Obj.TRIG_SOURCE s = 1) ∧
    (domainOn 12 (sourced 3 ready) = true ∧ ready.tim.ltrigLevel = !true ∧ valReady Obj.TRIG_SOURCE (sourced 3 ready) = 3) ∧
    (currentOp (withProgram example71 5) = some .line ∧ (withProgram example71 5).tim.lineActive = false ∧
      (withProgram example71 5).tim.pending = none) := by decide

/-! ### IndexEdgesLatch -/

theorem witness_index :
    Shaped ready = true ∧ domainOn 12 ready = true ∧ (encoderOf 1 ready).z = false ∧
    (let s := modEncoder 1 (fun x => { x with z := true }) ready
     Shaped s = true ∧ (encoderOf 1 s).z = true) := by decide

/-! ### EncodersCountAndLatch -/

theorem witness_encoders :
    (Shaped ready = true ∧ domainOn 12 ready = true ∧ (encoderOf 1 ready).z = false ∧ served .tsp
      { ready with host := { ready.host with session := 1 } } = true) ∧
    ((encoderOf 1 ready).a ≠ true ∧ (encoderOf 1 ready).b = false) ∧ (encoderOf 0 ready).b ≠ true ∧
    (posEncoder ready = 0 ∧ valReady Obj.TRIG_SOURCE ready = 0 ∧ ready.tim.nextPoint ≤ (encoderOf 0 ready).position + 1 ∧
      0 < val Obj.LINE_DIVIDER ready) ∧
    (engineRuns (withProgram example71 0) = true ∧ inPhase (withProgram example71 0) = false) ∧
    (let s := modEncoder 1 (fun x => { x with lastCount := some 0 }) ready
     Shaped s = true ∧ s.clk < 0 + 25 ∧ (encoderOf 1 s).lastCount = some 0) ∧
    domainOn 12 standby = false ∧ Shaped standby = true := by decide

/-- A rises before B: one count up; B rises before A: one count down. -/
theorem test_quadrature : quadrature false false true false = 1 ∧ quadrature false false false true = -1 ∧
    quadrature true true true false = -1 := by decide

/-! ### HaltsHoldsAndPageStarts -/

theorem witness_halts :
    ((inMode .inline).modes.mode = .inline ∧ (inMode .inline).tim.webHalt = false) ∧
    ((inMode .ready).modes.mode ≠ .sheet ∧ ready.tim.holdLevel = false) ∧
    (let s := setVal Obj.PAGE_SOURCE 1 (inMode .inline)
     val Obj.PAGE_SOURCE s = 1 ∧ s.host.stopped = false ∧ captureRuns s = false ∧ s.tim.pagePending.length < 4 ∧ s.tim.pagePrevious = none ∧
      4 ≤ ({ s with tim := { s.tim with pagePending := [1, 2, 3, 4] } } : State).tim.pagePending.length) ∧
    ((inMode .sheet).modes.mode = .sheet ∧ standstillCommanded (inMode .sheet) = false ∧ (inMode .sheet).tim.webHalt = false) ∧
    (let s := setVal Obj.PAGE_LOCKOUT 100 (setVal Obj.PAGE_SOURCE 1 (inMode .inline))
     pathPosition s + val Obj.PAGE_OFFSET s < 0 + (val Obj.PAGE_LOCKOUT s : Int) * val Obj.LINE_DIVIDER s) ∧
    (let s := setVal Obj.PAGE_SOURCE 3 (inMode .sheet)
     served .sdo s = true ∧ capturing s = true ∧ val Obj.PAGE_SOURCE s = 3) := by decide

/-! ### SlotsEndAndPulsesBegin -/

theorem witness_slot_end :
    (let s := placeSlot 1 2221 (placeSlot 0 2221 (inLine example71 4))
     s.tim.lineActive = true ∧ s.tim.placed.length = 2 ∧ s.tim.atLine = false ∧
      (∃ l ∈ s.tim.lines.getLast?, 1 < l.slots.length ∧ (l.slots[0]?).isSome)) ∧
    (let s := placeSlot 0 2221 (inLine example71 4)
     let t := { s with tim := { s.tim with atLine := true } }
     t.tim.lineActive = true ∧ t.tim.placed.length = 1 ∧ t.tim.pending = none) ∧
    (let s := placeSlot 0 2221 (inLine example71 1)
     Shaped s = true ∧ domainOn 12 s = true ∧ s.tim.due.getD 0 [] = ⟨0, 0, .red, 5552500, none, false⟩ :: [] ∧
      (groupOf 0 s).windowOpen = none ∧ (calOf 0 s).pass = none) ∧
    (let s := modGroup 0 (fun g => { g with windowOpen := some ⟨0, none⟩, window := 8000000 }) (placeSlot 0 2221 (inLine example71 1))
     Shaped s = true ∧ s.tim.due.getD 0 [] = ⟨0, 0, .red, 5552500, none, false⟩ :: [] ∧ (calOf 0 s).pass = none ∧
      (groupOf 0 s).windowOpen = some ⟨0, none⟩ ∧ (groupOf 0 s).lastPulse + (groupOf 0 s).lastReadout = 0 ∧
      ¬ (0 + (groupOf 0 s).window ≤ 5552500 + 1000 * val Obj.START_GUARD s)) ∧
    ready.tim.due.getD 3 [] = [] ∧ ready.ev.held = none := by decide

/-! ### LatchCycleLatchesLevels -/

theorem witness_latch :
    (Shaped ready = true ∧ domainOn 12 ready = true ∧ (lampOf 0 ready).fade = none ∧ 3 < ready.lamps.chainErrors.length) ∧
    (let s := modLamp 2 (fun l => { l with fade := some (0, 0, 100) }) { ready with clk := 50000000 }
     (lampOf 2 s).fade = some (0, 0, 100) ∧ s.clk - 0 < 100 * 1000000 ∧ Shaped s = true) ∧
    (let s := modLamp 2 (fun l => { l with fade := some (0, 0, 100) }) { ready with clk := 100000000 }
     100 * 1000000 ≤ s.clk - 0) ∧
    (let s := { ready with dict := { ready.dict with atReady := [((Obj.CHAIN_CHIPS 1).key, 1)] } }
     chainMatches [1#208 <<< 16] 1 s = false) ∧ domainOn 12 standby = false := by decide

theorem witness_lamp_writes :
    (served .sdo ready = true ∧ Shaped ready = true ∧ (4095#16).toNat ≤ 4095 ∧ domainOn 12 ready = true ∧ imaging ready = true) ∧
    4095 < (4096#16).toNat := by decide

/-- Cases A to D of Table 4.4: units of 2.5 ns lit and sub-pulses. -/
theorem test_waveform :
    waveform 1200000 16 2221 400 = ⟨480, 16, 30, false⟩ ∧ waveform 600000 16 2221 400 = ⟨240, 16, 15, false⟩ ∧
    waveform 122500 16 2221 400 = ⟨48, 12, 4, false⟩ ∧ waveform 4752500 16 2221 400 = ⟨1901, 1, 1901, false⟩ := by decide

/-! ### IndicatorEngines -/

/-- Engine 3 running a program of one or more words, owning INDs 0 to 2. -/
def engine3 (ws : List Nat) : State :=
  let s := setBulk (objKey 0x4203 0) (ws.flatMap (leBytes 4)) ready
  modEngine 3 (fun e => { e with state := 1 }) { s with ind := { s.ind with owner := 0xFFFFFFFFF333, levels := [9, 8, 7, 6, 5, 4, 3, 2, 1, 0, 0, 0] } }

theorem witness_indicators :
    Shaped (engine3 [0]) = true ∧ (engine3 [0]).ind.levels.length = 12 ∧
    indCurrent 3 (engine3 [0]) = some .nop ∧ indCurrent 3 (engine3 [0x1007007F]) = some (.set 7 127) ∧
    indCurrent 3 (engine3 [0x2001FF64]) = some (.ramp 1 255 100) ∧ indCurrent 3 (engine3 [0x3000FFFF]) = some (.wait 65535) ∧
    indCurrent 3 (engine3 [0x40000005]) = some (.loop 0 0 5) ∧ indCurrent 3 (engine3 [0x50000000]) = some (.jump 0) ∧
    indCurrent 3 (engine3 [0x60070001]) = some (.rotate 7 true) ∧ indCurrent 3 (engine3 [0x71000000]) = some (.test 1 0) ∧
    indCurrent 3 (engine3 [0x80000000]) = some .halt := by decide

/-- ROTATE of three sinks, both ways, and the duty halfway up the breathing ramp. -/
theorem test_rotate : rotated [1, 2, 3] false = [3, 1, 2] ∧ rotated [1, 2, 3] true = [2, 3, 1] ∧ indDuty 128 = 1032 ∧
    indDuty 255 = 4095 := by decide

theorem witness_engine :
    (let s := modEngine 3 (fun e => { e with state := 0 }) (engine3 [0x30000001, 0x50000000])
     served .sdo s = true ∧ Shaped s = true ∧ indWords 3 s ≠ [] ∧ (engineOf 3 s).state ≠ 1 ∧
      ∀ w ∈ indWords 3 s, indWordOk (indWords 3 s).length w = true) ∧
    (let s := modEngine 3 (fun e => { e with waiting := 2 }) (engine3 [0])
     s.modes.mode ≠ .off ∧ (engineOf 3 s).state = 1 ∧ (engineOf 3 s).fresh = false ∧ (engineOf 3 s).ramp = none ∧
      2 ≤ (engineOf 3 s).waiting ∧ Shaped s = true ∧ s.ind.levels.length = 12) ∧
    (let s := modEngine 3 (fun e => { e with fresh := true, pc := 1 }) (engine3 [0x1007007F, 0x3000FFFF])
     (engineOf 3 s).state = 1 ∧ (engineOf 3 s).fresh = true) ∧
    (let s := modEngine 3 (fun e => { e with ramp := some ⟨1, 255, 2, 0, [1]⟩ }) (engine3 [0x2001FF02])
     (engineOf 3 s).ramp = some ⟨1, 255, 2, 0, [1]⟩ ∧ (engineOf 3 s).waiting = 0 ∧ 0 + 1 < 2) := by decide

/-- The first tick of a program that sets IND0 to IND2 to 127 and waits: the levels are set and the engine stands at the WAIT. -/
theorem test_engine_tick :
    (match exec (.engineTick 3) (modEngine 3 (fun e => { e with fresh := true, pc := 1 })
        (setVal Obj.IND_OWNER 0xFFFFFFFFF333 (engine3 [0x1007007F, 0x3000FFFF]))) with
      | .next t => decide (t.ind.levels.take 4 = [127, 127, 127, 6] ∧ (engineOf 3 t).pc = 1 ∧ (engineOf 3 t).waiting = 65535)
      | _ => false) = true := by decide

/-! ### EngineRunRefusesPrograms -/

theorem witness_engine_refused :
    (served .sdo ready = true ∧ indWords 0 ready = []) ∧ (domainOn 12 standby = false ∧ ∀ k < 8, domainOn (4 + k) standby = false) ∧
    (indWords 3 (engine3 [0x30000000]) = [0x30000000] ∧ indOp 0x30000000 = .wait 0) := by decide

/-! ### BanksSwitchAndAreDownloaded -/

theorem witness_banks :
    (served .sdo ready = true ∧ imaging ready = true ∧ ready.pipe.switchPending = false ∧ captureBusy ready = false ∧
      (bankOf (1 - ready.pipe.active) ready).state ≠ 3 ∧ (inMode .inline).modes.mode ≠ .ready ∧ imaging standby = false) ∧
    (let s := holdingLines [heldLine 0 true] { inMode .inline with pipe := { (inMode .inline).pipe with switchPending := true } }
     s.pipe.switchPending = true ∧ capturing s = true ∧ s.tim.lines = heldLine 0 true :: []) ∧
    (ready.pipe.banks.length = 2 ∧ bankReached ready = true ∧ (1 : Fin 2).val ≠ ready.pipe.active ∧ bankReached standby = false ∧
      bankContent [] = .bad 0x08000020) := by decide

/-- A bank of zeros, with no defects, passes its checks. -/
theorem witness_bank_content : bankContent (List.replicate 940612 0) = .good := by
  have h1 : fieldAt (List.replicate 940612 (0 : Byte)) 940608 4 = 0 := by
    unfold fieldAt slice
    rw [List.drop_replicate, List.take_replicate]; decide
  have h2 : words32 ((List.replicate 940612 (0 : Byte)).drop 940612) = [] := by
    rw [List.drop_replicate]; decide
  have h3 : (words32 ((List.replicate 940612 (0 : Byte)).take 940032)).any (fun w => decide (bits w 31 28 ≠ 0)) = false := by
    rw [List.take_replicate, List.any_eq_false]
    intro w hw
    rw [words_zero _ w hw]; decide
  unfold bankContent
  simp only [h1, h2, h3, List.length_replicate]
  decide

/-! ### CaptureSteps -/

theorem witness_capture_steps :
    (served .sdo ready = true ∧ imaging ready = true ∧ captureBusy ready = false ∧ ready.pipe.switchPending = false ∧
      bankDownloading ready = false ∧ stripAxis ready = some 0 ∧ stripAxis (setVal Obj.REF_AXIS 255 ready) = none ∧
      (inMode .sheet).modes.mode ≠ .ready ∧ imaging standby = false) ∧
    (let s := inCapture .waiting id (inMode .inline)
     captureDue s = true ∧ captureDue { s with tim := { s.tim with lineActive := true } } = false) ∧
    (let s := inCapture .movingIn id ready
     stripAxis s = some 0 ∧ s.pipe.capture.state = .movingIn ∧ sval 32 Obj.REF_POS_IN s = 0) ∧
    (let s := modAxis 0 (fun x => { x with captureNext := none, owner := .host, target := some 0, pos := 0,
                                           atTarget := true }) (inCapture .movingOut (fun c => { c with move := some (0, 0) }) ready)
     s.pipe.capture.move = some (0, 0) ∧ s.pipe.capture.state = .movingOut ∧ stripArrived 0 0 s = true ∧ stripArrived 0 7 s = false) ∧
    (let s := inCapture .black (fun c => { c with begun := 64 }) ready
     phaseTarget s ≤ s.pipe.capture.begun ∧ s.tim.lineActive = false ∧ s.tim.pending = none) ∧
    (let s := inCapture .white (fun c => { c with begun := 64, pass := 2 }) ready
     phaseTarget s ≤ s.pipe.capture.begun ∧ s.pipe.capture.pass ≠ 1) ∧
    (inCapture .white (fun c => { c with begun := 63 }) ready).pipe.capture.begun < phaseTarget (inCapture .white id ready) := by
  decide

/-! ### CaptureIsEvaluated -/

/-- An attempt in which every port was marked, its sums lost or not. -/
def attempted (lost : Bool) : State :=
  let s := inCapture .evaluating (fun c => { c with marked := BitVec.allOnes 96 }) ready
  { s with cist := { s.cist with layout := List.replicate 6 (0, 0) ++ [(0, 64)], poisoned := if lost then [regionBase rSums s] else [] } }

set_option maxRecDepth 4000 in
theorem witness_judged (lost : Bool) : verdicts (attempted lost) = [] := by cases lost <;> decide

theorem witness_evaluate :
    ((attempted false).pipe.capture.state = .evaluating ∧ (attempted false).tim.lines = [] ∧
      (attempted false).pipe.banks.length = 2 ∧ (attempted false).pipe.active < 2) ∧
    attemptResult [] (attempted false) = 1 ∧ attemptResult [] (attempted true) = 3 ∧
      (attempted true).pipe.capture.attempt ≤ val Obj.REF_RETRIES (attempted true) ∧
      val Obj.REF_RETRIES (setVal Obj.REF_RETRIES 0 (attempted true)) < 1 := by decide

/-! ### LinesLeaveHoldAndCommit -/

/-- A line after stage 6. -/
def sixLine (serial : Nat) (reference : Bool) : Stage6Line :=
  { id := ⟨serial, some serial⟩, page := 0, pageStart := false, pageLine := 0, leadIn := false, gap := false,
    reference := reference, dropped := false, trigPos := 0, time := 0, clk := 0, lead := none, positions := [0, 0, 0], planes := [[], [], []],
    replaced := [false, false, false], oldInvalid := 0, oldFallback := false, invalid := 0, settling := false,
    fallback := false, discontinuity := false }

/-- INLINE with lines after stage 6. -/
def sixed (ls : List Stage6Line) : State := { inMode .inline with pipe := { (inMode .inline).pipe with stage6 := ls } }

theorem witness_hold :
    (domainOn 12 (holdingLines [heldLine 0 false] ready) = true ∧ holdOver (holdingLines [heldLine 0 false] ready) = true ∧ lineIsRead (heldLine 0 false) (holdingLines [heldLine 0 false] ready) = true) ∧
    (let s := holdingLines [heldLine 0 false] { ready with tim := { ready.tim with lineActive := true } }
     lineIsRead (heldLine 0 false) s = false) ∧
    (let l : LineRec := { heldLine 0 false with id := ⟨0, some 5⟩ }
     lineIsRead l (holdingLines [l] (inMode .inline)) = true ∧ holdOver (holdingLines [l] (inMode .inline)) = true ∧ l.id.y = some 5) ∧
    (nextToCommit false (sixed [sixLine 0 true]) = some (sixLine 0 true) ∧ domainOn 13 (sixed []) = true ∧
      nextToCommit false (sixed []) = none) ∧
    (let s := sixed [sixLine 0 false]
     nextToCommit false s = some (sixLine 0 false) ∧ s.host.restart.phase = .none ∧ s.pipe.pair = none) ∧
    (served .sdo (inMode .sheet) = true ∧ capturing (inMode .sheet) = true ∧ (inMode .sheet).pipe.measure = none) ∧
    (({ ready with pipe := { ready.pipe with measure := some (0, []) } } : State).pipe.measure = some (0, []) ∧
      ready.pipe.measure = none) := by decide

theorem witness_not_held : formImage (sixLine 0 false) 0 (sixed []) = none := by decide

/-- The worked pixel of Table 5.5. -/
theorem test_pixel : stageA (16589 * 65536 + 1072) 16138 2731 = 43534 ∧ stageB (1046, 18902) 43534 = 49018 := by decide

/-- The coefficients of Table 6.1, and the worked sum after it. -/
theorem test_kernel :
    kernel 32 = [-1024, 9216, 9216, -1024] ∧ kernel 48 = [-384, 3712, 14208, -1152] ∧
    interpolate (kernel 48) [30000, 32000, 40000, 41000] = 38352 := by decide

/-- An edge factor of R136. -/
theorem test_edge : edgeFactor 17203 1 = 17203 ∧ edgeFactor 17203 8 = 16845 := by decide

/-! ### CalibrationsBecomeDueAndStart -/

/-- READY with a calibration of G3 that is at port 38. -/
def atPort38 : State := calibrating (fun g => { g with running := true, ports := [38, 39] })

theorem witness_cal :
    (served .sdo ready = true ∧ Shaped ready = true ∧ leavenRuns ready = true ∧ leavenRuns standby = false ∧
      (inMode .fault).modes.mode ≠ .standby ∧ leavenRuns (inMode .fault) = false ∧ Shaped standby = true ∧
      flagVal Obj.LEAVEN_ENABLE standby = true) ∧
    (let s := calibrating (fun g => { g with tempCal := 500 })
     domainOn 7 s = true ∧ (tempDue 3 s || ageDue 3 s) = true ∧ (calOf 3 s).checkAgain = false ∧ leavenRuns s = true) ∧
    (leavenRuns atPort38 = true ∧ groupLive 3 atPort38 = true ∧ backgroundDeferred atPort38 = false ∧
      (calOf 3 atPort38).pass = none ∧ (calOf 3 atPort38).spareCheck = false ∧ (calOf 3 atPort38).checkAgain = false ∧
      seedPort 3 atPort38 = none) ∧
    (let s := modGroup 3 (fun g => { g with spare := .host, port := some 38 }) ready
     seedPort 3 s = some 38 ∧ groupMayRun s = true ∧ (calOf 3 s).pass = none) ∧
    (let s := calibrating (fun g => { g with deferredSince := some 0 })
     (calOf 3 s).deferredSince ≠ none ∧ (calOf 3 s).deferredLogged = false) := by decide

set_option maxRecDepth 4000 in
theorem witness_next_port : nextPort 3 atPort38 = some 38 := by decide

set_option maxRecDepth 4000 in
theorem witness_cal_ports : calPorts 3 ready ≠ [] := by decide

/-! ### WindowsSweepsAndJudgements -/

set_option maxRecDepth 20000 in
theorem witness_windows :
    (let s := passing (passAt .windowsA true [] [] (some (windowOf 1024 true)))
     Shaped s = true ∧ (calOf 3 s).pass = some (passAt .windowsA true [] [] (some (windowOf 1024 true))) ∧
      val Obj.CAL_WINDOW_LINES s ≤ (windowOf 1024 true).lines ∧ (windowOf 1023 true).lines < val Obj.CAL_WINDOW_LINES s) ∧
    (let s := passing (passAt .windowsB true [] [windowOf 1024 true] (some (windowOf 1024 true)))
     (calOf 3 s).pass = some (passAt .windowsB true [] [windowOf 1024 true] (some (windowOf 1024 true))) ∧
      passJudged (passAt .windowsB true [] [windowOf 1024 true] (some (windowOf 1024 true))) = false ∧
      (groupOf 3 (modGroup 3 (fun g => { g with spare := .leaven, port := some 38 }) s)).port = some 38) ∧
    (let p := passAt .judge false [windowOf 1024 false, windowOf 1024 false] [] none
     (calOf 3 (passing p)).pass = some p ∧ (judgeAttempt p 3 (passing p)).1 = .acceptedOffsetOnly) ∧
    (let p := { passAt .judge false [windowOf 1024 false] [] none with attempt := 4 }
     (judgeAttempt p 3 (passing p)).1 = .rejectedOffset ∧ p.attempt > val Obj.CAL_RETRIES (passing p)) ∧
    (let s := calibrating (fun g => { g with spareCheck := true })
     (calOf 3 s).spareCheck = true ∧ inlOk (sweepInl []) (sweepInl []) s = true) ∧
    (calOf 3 ready).pass = none := by decide

set_option maxRecDepth 20000 in
theorem witness_bad_sweep : inlOk (sweepInl [25600]) (sweepInl []) ready = false := by decide

set_option maxRecDepth 20000 in
/-- The GREEN gain of the worked pass (Table 7.3), and a refined mode. -/
theorem test_worked_pass :
    (let q1 := Frac.mk' 239895 241230
     let q2 := Frac.mk' 239931 241285
     ((Frac.ofNat 16450).mul ((q1.add q2).div (Frac.ofNat 2))).round = 16358) ∧
    refinedMode [(66, 10), (67, 40), (68, 20)] = (Frac.ofNat 67).add (Frac.mk' 1 10) := by decide

/-! ### PaperWhiteAndRecords -/

/-- A region of page 1, lines 0 to 127, tiles 0 to 3. -/
def regionBytes : List Byte := leBytes 4 1 ++ leBytes 4 0 ++ leBytes 4 128 ++ [0, 3, 0, 0]

theorem witness_paper :
    (served .sdo ready = true ∧ regionBytes.length = 16 ∧ fieldAt regionBytes 14 2 = 0 ∧ fieldAt regionBytes 8 4 = 128 ∧
      fieldAt regionBytes 12 1 ≤ fieldAt regionBytes 13 1 ∧ fieldAt regionBytes 13 1 ≤ 95 ∧ ready.lv.regions.length < 32 ∧
      capturing ready = false ∧ fieldAt (leBytes 16 0) 8 4 < 128) ∧
    (let s := { inMode .inline with lv := { (inMode .inline).lv with readAt := some (1, 127), regions := [⟨1, 0, 128, 0, 3, [], [], []⟩] } }
     capturing s = true ∧ lineReadBy (fieldAt regionBytes 0 4) (fieldAt regionBytes 4 4) s = true ∧
      s.lv.regions.findIdx? (fun r => lineReadBy r.page (r.first + r.count - 1) s) = some 0) ∧
    (Shaped ready = true ∧ bits (0x0426#16).toNat 15 12 = 0 ∧ bits (0x0426#16).toNat 7 0 = 38 ∧ passOn 38 ready = false ∧
      passOn 38 (passing (passAt .windowsA true [] [] none)) = true ∧ 103 < bits (0x0168#16).toNat 7 0) ∧
    (let r : LeavenRecord := ⟨true, 0, 0, 0, 0, 0, 0, 0, 0, [], 0⟩
     let s : State := { ready with lv := { ready.lv with toStore := [r] } }
     s.lv.toStore = r :: [] ∧ mpRuns s = true ∧ s.ev.held = none ∧ decide (2 < leavenFree s) = true) ∧
    (let s := { inMode .inline with lv := { (inMode .inline).lv with readAt := none } }
     capturing s = true ∧ lineReadBy (fieldAt regionBytes 0 4) (fieldAt regionBytes 4 4) s = false) := by decide

/-! ### BandsAreComparedWaitOrAreSkipped -/

theorem witness_bands :
    (let s := comparing [image4 2] [pageOf (some 7)] [⟨⟨0, 5⟩, 0, [], 0⟩]
     domainOn 14 s = true ∧ s.cmp.queue = ⟨⟨0, 5⟩, 0, [], 0⟩ :: [] ∧ cmpPageOf ⟨0, 5⟩ s = some (pageOf (some 7)) ∧
      refOf 7 s = some (image4 2) ∧ (image4 2).state = 2 ∧ s.cist.poisoned = []) ∧
    (let s := comparing [image4 1] [pageOf (some 7)] [⟨⟨0, 5⟩, 0, [], 0⟩]
     s.cmp.queue.length < val Obj.CMP_QUEUE_BANDS s ∧ refOf 7 s = some (image4 1)) ∧
    (let s := comparing [image4 3] [pageOf (some 7)] [⟨⟨0, 5⟩, 0, [], 0⟩]
     domainOn 14 s = true ∧ s.ev.held = none ∧ refOf 7 s = some (image4 3) ∧ (image4 3).state = 3 ∧ (pageOf (some 7)).blobs = []) ∧
    refOf 7 (comparing [] [] []) = none ∧ (comparing [] [] []).cmp.queue = [] := by decide

/-- The worked difference of the compare chapter: d = 93. -/
theorem test_weighted : weightedDiff [77, 150, 29] [154, 52, 16] = 93 := by decide

/-! ### ReferencesAndAssignments -/

/-- An entry that binds page 5 to reference 7 with the seed (2, -1). -/
def assignBytes : List Byte := leBytes 4 5 ++ leBytes 2 7 ++ leBytes 2 2 ++ leBytes 2 0xFFFF ++ leBytes 2 0

theorem witness_references :
    (served .sdo ready = true ∧ (7#16).toNat ≤ 255 ∧ refState 7 ready = 0 ∧ ready.cmp.upload = none ∧ imaging ready = true ∧
      imaging standby = false ∧ refState 7 (comparing [image4 2] [] []) ≠ 0) ∧
    (let s := { comparing [image4 1] [] [] with cmp := { (comparing [image4 1] [] []).cmp with upload := some 7 } }
     s.cmp.upload = some 7 ∧ s.cmp.pages = [] ∧ refState 7 s = 1) ∧
    (let s := comparing [image4 2] [] []
     refState 7 s ≠ 1 ∧ refInUse 7 s = false ∧ s.cmp.assigns = [] ∧ refState 8 s = 0 ∧ val Obj.DEFAULT_REF s = 0xFFFF) ∧
    (let s := { comparing [image4 2] [] [] with cmp := { (comparing [image4 2] [] []).cmp with active := false } }
     assignBytes.length = 12 ∧ refState (fieldAt assignBytes 4 2) s = 2 ∧ fieldAt assignBytes 10 2 = 0 ∧
      toSigned 16 (fieldAt assignBytes 8 2) = -1 ∧ s.cmp.assigns.getLast? = none ∧ s.cmp.active = false) ∧
    pageFollows 5 5 = false ∧ pageFollows 0 0xFFFFFFFF = true := by decide

/-! ### CisternLayoutAndMemoryErrors -/

theorem witness_regions :
    served .sdo ready = true ∧ regionSizeOk 7 (GB + 1) = false ∧ regionSizeOk 7 (2 * GB) = true ∧
    regionSizeOk 0 (64 * GB) = true := by decide

set_option maxRecDepth 20000 in
theorem witness_layout :
    layoutOf (setAt (requestedSizes ready) 7 (2 * GB)) (64 * GB) ≠ none ∧
    layoutOf (setAt (requestedSizes ready) 0 (64 * GB)) (64 * GB) = none := by decide

theorem witness_scrub :
    (let s := channelled id
     domainOn 15 s = true ∧ backgroundDeferred s = false ∧ s.cist.capacity ≠ 0 ∧ s.cist.poisoned = []) ∧
    (domainOn 15 standby = false ∧ domainOn 16 standby = false) := by decide

/-! ### DmaControlStartsStopsAndKicks -/

theorem witness_dma_refused : served .sdo ready = true ∧ Shaped ready = true ∧ (3 : Fin 32).val < 16 ∧
    (chanOf 16 (channelled (fun c => { c with state := .running }))).state = .running ∧ imaging standby = false ∧
    (chanOf 16 (channelled id)).state = .idle ∧ imaging (channelled id) = true ∧ inScratch 0 32 (channelled id) = false ∧
    (chanOf 16 (channelled (fun c => { c with state := .waiting }))).state = .waiting := by decide

/-- HOST_SCRATCH of the default layout begins at 26,592,935,936 here. -/
theorem witness_dma_start :
    let s := setVal (Obj.DMA_CH_START 16) (regionBase rScratch (channelled id)) (channelled id)
    let a := val (Obj.DMA_CH_START 16) s
    served .sdo s = true ∧ Shaped s = true ∧ (chanOf 16 s).state = .idle ∧ a % 32 = 0 ∧ inScratch a 32 s = true := by decide

theorem witness_dma_stop :
    let a := regionBase rScratch (channelled id)
    let s := channelled (fun c => { c with state := .running, current := a, desc := some (copyOf (a + 64)) })
    (copyOf (a + 64)).bad = false ∧ (copyOf (a + 64)).count = 8 ∧ (chanOf 16 s).desc = some (copyOf (a + 64)) ∧
    inScratch (a + 16) 16 s = true ∧ Memory.wf (scratchDefault s) s.cist.scratch = true := by decide

/-! ### DescriptorsAreFetchedAndMoved -/

theorem witness_fetch :
    (chanOf 16 (channelled id)).fetching = false ∧
    (let s := channelled (fun c => { c with state := .running, current := 32, fetching := true })
     Shaped s = true ∧ (chanOf 16 s).fetching = true ∧ inScratch 32 32 s = false) ∧
    (let a := regionBase rScratch (channelled id)
     let s := channelled (fun c => { c with state := .running, current := a, fetching := true })
     inScratch a 32 s = true ∧ cisternOn a s = true ∧ s.cist.poisoned = []) := by decide

theorem witness_descriptor :
    let a := regionBase rScratch (channelled id)
    let d := copyOf (a + 64)
    let s := channelled (fun c => { c with state := .running, current := a, desc := some d })
    Shaped s = true ∧ (chanOf 16 s).state = .running ∧ (chanOf 16 s).desc = some d ∧ inScratch (a + 16) 16 s = true ∧
    cisternOn a s = true ∧ Memory.wf (scratchDefault s) s.cist.scratch = true ∧ d.bad = false ∧ d.last = true ∧
    sourceFault d .clean (spanOf d.srcBits d.count) s = none ∧ destFault d (spanOf d.dstBits d.count) s = none ∧
    d.dstInc = true ∧ d.dstWrap = 0 ∧ { d with q2 := 0 }.bad = true := by decide

/-- 5 elements of 12 bits span 8 bytes; an element of 10 bits at 8 bits is rounded. -/
theorem test_elements : spanOf 12 5 = 8 ∧ convertElement 10 8 0x3FF = 0xFF ∧ convertElement 8 12 0x80 = 0x800 := by decide

/-! ### SessionsOpenAndEnd -/

set_option maxRecDepth 4000 in
theorem witness_sessions :
    (let f := packet 0 9 0
     laneReceives f.lane standby = true ∧ frameAddressed f standby = true ∧ f.lane = 0 ∧ f.session ≠ 0 ∧
      standby.host.session = 0 ∧ streamVal Obj.STREAM_ID standby = 0 ∧ lanesGranted 3 standby ≠ 0 ∧
      lanesGranted 0 standby = 0 ∧ standby.modes.trans = none ∧ standby.modes.mode ∉ [.ready, .inline, .sheet]) ∧
    (let s := inSession standby
     frameInSession (packet 0 9 0) s = true ∧ laneReceives 0 s = true ∧ s.host.session ≠ (packet 0 8 0).session.toNat ∧
      frameAddressed (packet 0 8 0) s = true ∧ s.host.session ≠ 0) ∧
    (let s := { inSession (inMode .inline) with ecat := { standby.ecat with al := 1 } }
     frameInSession (packet 0 9 0) s = true ∧ s.ecat.al ≠ 8 ∧ laneReceives 0 s = true) ∧
    hostTyp 0x07 = false ∧ laneReceives 5 standby = true ∧ (packet 5 9 0).lane ≠ 0 ∧
    (0xC0A80A15#32).toNat = (streamVal Obj.DEVICE_IP standby + 5) % 2 ^ 32 := by decide

/-! ### CreditPauseAndLink -/

set_option maxRecDepth 4000 in
theorem witness_credit :
    (let s := inSession standby
     let f := packet 1 9 0
     Shaped s = true ∧ laneReceives f.lane s = true ∧ frameInSession f s = true ∧ frameInSession (packet 1 8 0) s = false ∧
      (laneOf 0 s).host = some (1, 2, 3) ∧ s.host.session ≠ 0 ∧ laneOn 3 s = true ∧ laneEnabled 3 s = true ∧
      served .sdo s = true) ∧
    (laneOf 1 itemWaiting).blockLock = true ∧ laneWaits 1 itemWaiting = true ∧ laneWaits 0 itemWaiting = false := by decide

/-- PAUSE of 2 quanta lasts 102.4 ns, here 103 whole ns. -/
theorem test_pause : ceilDiv (512 * 2) 10 = 103 := by decide

/-! ### ItemsAreSent -/

set_option maxRecDepth 20000 in
theorem witness_items :
    (let s := itemWaiting
     Shaped s = true ∧ nextOnLane 0 s = none ∧ nextOnLane 1 s = some ⟨1, .gap (gapRecord 1 0 3 7 9 3), 0⟩ ∧
      mayBegin 1 ⟨1, .gap (gapRecord 1 0 3 7 9 3), 0⟩ s = true ∧ s.cist.poisoned = [] ∧ 32 ≤ packetBytes s) ∧
    (let s := { itemWaiting with host := { itemWaiting.host with lanes := itemWaiting.host.lanes.map (fun l => { l with creditLimit := 31 }) } }
     mayBegin 1 ⟨1, .gap (gapRecord 1 0 3 7 9 3), 0⟩ s = false) ∧
    (let s := { inSession (inMode .fault) with host := { (inSession standby).host with endDue := some (2, 77) } }
     Shaped s = true ∧ s.host.endDue = some (2, 77) ∧ s.host.session ≠ 0 ∧ (laneOf 0 s).host.isSome = true ∧
      (laneOf 0 s).pausedUntil = none ∧ (laneOf 0 s).blockLock = true ∧ laneOn 0 s = true) := by decide

/-- A line of 2 output pixels in the first slot of the ring, waiting as item 0. -/
def lineWaiting : State :=
  let s := inSession (inMode .inline)
  let l : LineSlot := {
    uid := 0, run := 0, spill := false, reference := false, flags := 0, bits := 8, xavg := 1, layout := 0, page := 3, y := 7, time := 0,
    position := 0, invalid := 0, pageLine := 0, outPixels := 2, planes := [[1, 2], [3, 4], [5, 6]], place := 0, sent := false,
    cut := false, free := none, discontinuity := false }
  { s with host := { s.host with items := [⟨0, .line 0, 0⟩], nextItem := 1, slots := [l] } }

set_option maxRecDepth 20000 in
theorem witness_line_lost :
    nextOnLane 0 lineWaiting = some ⟨0, .line 0, 0⟩ ∧ mayBegin 0 ⟨0, .line 0, 0⟩ lineWaiting = true ∧
    (slotOf 0 lineWaiting).isSome = true ∧ lineWaiting.cist.poisoned = [] ∧ Shaped lineWaiting = true := by decide

/-! ### TspRequests -/

set_option maxRecDepth 20000 in
theorem witness_requests :
    (let s := inSession ready
     let f := packet 1 9 5
     Shaped s = true ∧ requestServed f s = true ∧ imaging s = true ∧ s.cist.poisoned = [] ∧ (laneOf 1 s).up = none ∧
      Memory.wf (scratchDefault s) s.cist.scratch = true ∧ inScratch (regionBase rScratch s) 0 s = true ∧
      inScratch (regionBase rScratch s) 64 s = false ∧ 16 ≤ responseRoom s ∧ imaging (inSession standby) = false) ∧
    (let s := { inSession ready with cmp := { ready.cmp with upload := some 7, refs := [⟨7, 1, 0, 0, []⟩] } }
     s.cmp.upload.isSome = true ∧ uploadBytes s = 0) := by decide

set_option maxRecDepth 20000 in
theorem witness_plain_write :
    let s := heard (packet 1 9 5) (inSession ready)
    (∃ r, PlainWrite 0x2800 9 r 500 s ∧ r.ty.size = 2) ∧ hasEffect (objKey 0x2800 9) = false ∧
    (∃ r, findRow 0x2800 0x0D = some r ∧ r.acc = .ro) ∧ isDomain 0x4900 0 = true ∧ isBank 0x4900 = false ∧
    accessRefusal 0x4900 0 4 s = none ∧ downloadSoFar 1 0x4900 0 0 s = some [] ∧ downloadSoFar 1 0x4900 0 4 s = none ∧
    (readObject 0x4900 0 s).1 = 0 :=
  ⟨⟨_, ⟨rfl, by decide, by decide, by decide, by decide, by decide, by decide⟩, by decide⟩, by decide,
    ⟨_, rfl, by decide⟩, by decide, by decide, by decide, by decide, by decide, by decide⟩

/-- A stored response is sent again. -/
theorem witness_stored :
    let p : Packet := ⟨1, 1, 2, 3, 1, 2, 3, 8, 0, 0, 9, 0, 5, 0, []⟩
    let s := modLane 1 (fun l => { l with answers := [(5, p)] }) (inSession ready)
    (laneOf 1 s).answers.find? (fun x => decide (x.1 = (packet 1 9 5).item.toNat)) = some (5, p) ∧
    frameInSession (packet 1 9 5) s = true ∧ laneReceives 1 s = true := by decide

/-! ### WeirStopsAndRestarts -/

set_option maxRecDepth 20000 in
theorem witness_weir :
    (let s := sheet id
     s.modes.mode = .sheet ∧ s.host.stopped = false ∧ s.host.restart.phase = .none ∧
      val Obj.WEIR_LOW s < val Obj.WEIR_HIGH s ∧ 0 < slotsTotal s ∧ 100 * slotsHeld s ≤ val Obj.WEIR_LOW s * slotsTotal s) ∧
    (let s := inMode .sheet
     slotsTotal s = 0 ∧ val Obj.WEIR_HIGH s * slotsTotal s ≤ 100 * slotsHeld s) ∧
    (let s := sheet (fun h => { h with stopped := true, weir := .stopped })
     s.modes.trans = none ∧ groupStands s = true ∧ holding s = false ∧ captureRuns s = false ∧
      100 * slotsHeld s ≤ val Obj.WEIR_RESUME s * slotsTotal s) ∧
    (let s := sheet (fun h => { h with restart := { Restart.reset with phase := .backup } })
     s.modes.trans = none ∧ s.mot.transport.moveWaits = false ∧ s.mot.transport.move = .none ∧ groupStands s = true) ∧
    (let s := { inMode .sheet with host := { standby.host with restart := { Restart.reset with phase := .speculative } } }
     slotsIn rSpeculative s ≤ s.host.restart.lines.length ∧ s.host.restart.attempts ≤ val Obj.RESTART_RETRIES s) := by decide

/-- A ring of 4 slots of which 2 are held, between WEIR_LOW and WEIR_HIGH. -/
theorem witness_slowing :
    let l : LineSlot := {
      uid := 0, run := 0, spill := false, reference := false, flags := 0, bits := 8, xavg := 1, layout := 0, page := 0, y := 0, time := 0,
      position := 0, invalid := 0, pageLine := 0, outPixels := 0, planes := [], place := 0, sent := false, cut := false, free := none, discontinuity := false }
    let s := sheet (fun h => { h with slots := [l, { l with place := 1 }] })
    let s := { s with dict := { s.dict with atReady := [(Obj.STITCH_ENABLE.key, 0)] }, cist := { s.cist with layout := [(0, 4 * slotSize s)] } }
    slotsHeld s = 2 ∧ 0 < slotsTotal s := by decide

/-- 72 speculative lines, one line divider apart, and no overlap: the decision is by the encoder. -/
def speculating : State :=
  let l (i : Nat) : LineSlot := {
    uid := 0, run := 0, spill := false, reference := false, flags := 0, bits := 8, xavg := 1, layout := 0, page := 0, y := i, time := 0,
    position := 64 * 256 * i, invalid := 0, pageLine := 0, outPixels := 0, planes := [[], [], []], place := i, sent := false,
    cut := false, free := none, discontinuity := false }
  sheet (fun h => { h with stopped := true, restart := { Restart.reset with phase := .speculative, attempts := 1, lines := (List.range 72).map l } })

set_option maxRecDepth 20000 in
theorem witness_decision :
    (decideMatch speculating).j0 + val Obj.RESTART_SEARCH speculating + 63 < speculating.host.restart.lines.length ∧
    speculating.cist.poisoned = [] ∧
    (((decideMatch speculating).u.sub (Frac.ofInt (decideMatch speculating).u.floor)).mul (Frac.ofNat 64)).round.toNat < 64 := by
  decide

/-! ### AxisCommandsAreRefused -/

theorem witness_axis_refused :
    served .sdo ready = true ∧ Shaped ready = true ∧ axisEnabled 2 ready = false ∧
    (axisOf 2 (axis2 .ready (fun x => { x with owner := .pacer }))).owner = .pacer ∧
    (axisOf 2 (axis2 .ready (fun x => { x with state := .error }))).state = .error ∧
    (axisOf 2 (axis2 .ready (fun x => { x with owner := .follow }))).owner = .follow ∧
    (axisOf 2 (axis2 .ready (fun x => { x with state := .moving }))).moving = true ∧
    (axisOf 2 (axis2 .ready (fun x => { x with emergency := true }))).emergency = true ∧
    mstopActive { ready with mot := { ready.mot with mstop := true } } = true ∧
    (let s := axis2 .ready id
     commandRefused 2 .runList s = false ∧ segListOk 2 s = false ∧ (axisOf 2 s).owner = .host ∧ (axisOf 2 s).moving = false) := by
  decide

/-! ### AxisCommandsAct -/

theorem witness_axis_acts :
    (let s := axis2 .ready id
     served .sdo s = true ∧ Shaped s = true ∧ axisEnabled 2 s = true ∧ s.modes.mode ≠ .fault ∧ (axisOf 2 s).owner = .host ∧
      mstopActive s = false ∧ (axisOf 2 s).state = .holding ∧ (axisOf 2 s).emergency = false ∧
      (axisOf 2 s).stopRamp = false ∧ (axisOf 2 s).parkAfterFade = false ∧ val (Obj.RETAIN_MODE 2) s = 0 ∧
      (axisOf 2 s).mref = false ∧ parkPosition (axisOf 2 s).pos = (axisOf 2 s).pos) ∧
    (let s := axis2 .ready (fun x => { x with state := .moving })
     (axisOf 2 s).moving = true ∧ (axisOf 2 s).link = none ∧ (axisOf 2 s).seg.live = false ∧ groupAxes 2 s = [2]) ∧
    (axisOf 2 (axis2 .ready (fun x => { x with state := .off }))).state = .off ∧
    (axisOf 2 (axis2 .ready (fun x => { x with state := .parked }))).state = .parked ∧
    (axisOf 2 (axis2 .ready (fun x => { x with mref := true }))).mref = true ∧
    (let s := setVal (Obj.RETAIN_MODE 2) 1 (axis2 .ready id)
     val (Obj.RETAIN_MODE 2) s ≠ 0) ∧
    (let s := setBulk (objKey 0x4902 0) (leBytes 8 (0xA * 2 ^ 60)) (axis2 .ready id)
     segListOk 2 s = true) := by decide

/-- From 10 microsteps to the nearest park angle, and from 200. -/
theorem test_park : parkPosition 10 = 0 ∧ parkPosition 200 = 256 ∧ parkPosition 128 = 256 ∧ parkPosition (-5) = 0 := by decide

/-- The worked cruise of the flipper: VW for 160,000 microsteps/s. -/
theorem test_velocity_word : velocityWord (Frac.ofNat 160000) = 450359962737 := by decide

/-! ### AxisUpdateMoves -/

theorem witness_axis_update :
    mcRuns State.reset = false ∧
    (let s := axis2 .ready (fun x => { x with state := .moving, vw := 450359962737, profile := { Profile.reset with parts := [⟨[.hold (Frac.ofNat 160000)], none⟩] } })
     Shaped s = true ∧ mcRuns s = true ∧ s.mot.transport.owns = false ∧ (axisOf 2 s).owner = .host ∧
      (axisOf 2 s).state = .moving ∧ (∀ b < 6, (axisOf b s).link = none) ∧ (axisOf 2 s).goal = none ∧
      (axisOf 2 s).blending = none ∧ (axisOf 2 s).captureNext = none ∧ (axisOf 2 s).seg.live = false ∧
      (axisOf 2 s).fade = none ∧ decide (0 ≤ (Frac.ofNat 160000).num) = (axisOf 2 s).forward) ∧
    (axisOf 2 (axis2 .ready (fun x => { x with state := .off, energised := false }))).moving = false := by decide

/-- 1.6 microsteps an update from 0: one carry in the first period, with 0.6 left. -/
theorem test_accumulator :
    (runAccumulator { Axis.reset with vw := 450359962737, forward := true }).pos = 1 ∧
    (runAccumulator { Axis.reset with vw := 450359962737, forward := false }).pos = -1 := by decide

/-! ### MotionProtectionAndStall -/

theorem witness_chop :
    (let c : ChopCycle := { ChopCycle.reset with dir := 1, on := true, age := 999 }
     ¬ c.age + 1 < val (Obj.CHOP_BLANK 2) standby ∧ c.dir ≠ 0 ∧ c.on = true ∧ c.age + 1 < 64 * (100 * val (Obj.CHOP_OFF_TIME 2) standby)) ∧
    (axisOf 2 standby).energised = false ∧ (axisOf 2 (axis2 .ready id)).energised = true := by decide

/-- R301, its example: an off-phase of 10 µs decays fast for 2.5 µs, and takes the sign of the target at its end. -/
theorem test_chop :
    (let c : ChopCycle := { ChopCycle.reset with dir := 1, high := (false, true) }
     let at' (n : Nat) := chopStep 2 (-5) 0 standby { c with age := n }
     (at' 2498).high = (false, true) ∧ (at' 2499).high = (false, false) ∧ (at' 9998).dir = 1 ∧ (at' 9999).dir = -1 ∧
       (at' 9999).high = (false, true)) ∧
    halfBridgeGates 2 true 49 standby = (false, false) := by decide

theorem witness_protection :
    (let s := axis2 .ready id
     Shaped s = true ∧ domainOn 3 s = true ∧ (axisOf 2 s).energised = true ∧ s.mot.gateUv = false ∧ mcRuns s = true ∧
      (axisSpeed 2 s).lt (Frac.ofNat (val (Obj.LOAD_MIN_SPEED 2) s)) = true ∧ (axisOf 2 s).stallSince = none ∧
      running s = true ∧ s.mot.mcHeld = false ∧ s.mot.pcHeld = false ∧ domainOn 2 s = true ∧ groupAxes 2 s = [2]) ∧
    domainOn 3 State.reset = false ∧
    (let s := axis2 .ready (fun x => { x with state := .moving, vw := 450359962737, lastCurrents := some (0, 0) })
     (axisOf 2 s).state = .moving ∧ (Frac.ofNat (val (Obj.LOAD_MIN_SPEED 2) s)).le (axisSpeed 2 s) = true) ∧
    (let s := axis2 .ready (fun x => { x with state := .moving, stallSince := some 5 })
     (axisOf 2 s).stallSince ≠ none ∧ val (Obj.STALL_ACTION 2) s = 1 ∧ (axisOf 2 s).moving = true ∧
      val (Obj.STALL_ACTION 2) (setVal (Obj.STALL_ACTION 2) 0 s) = 0 ∧ val (Obj.STALL_ACTION 2) (setVal (Obj.STALL_ACTION 2) 2 s) = 2 ∧
      axisEnabled 2 s = true ∧ (axisOf 2 s).owner = .host ∧ (axisOf 2 s).link = none) := by decide

/-- At the run current the target at θ = 0 is large enough for the check of the coils. -/
theorem witness_open_coil :
    let s := axis2 .ready (fun x => { x with current := 50000 })
    val (Obj.RUN_CURRENT_BASE 2) s * valReady (Obj.SENSE_RESISTANCE 2) s * 4096 ≤ 4 * (phaseTargets 2 s).2.natAbs * 200000 := by decide

theorem test_angle : angleOf 1 1 = 450 ∧ angleOf 0 5 = 900 ∧ angleOf (-3) 0 = 1800 ∧ wrapAngle 2700 = -900 := by decide

/-! ### SegmentListInstructions -/

theorem witness_segments :
    let at' (w : Nat) : Option SegOp := segCurrent 2 (listed [w] id)
    Shaped (listed [0] id) = true ∧ at' 0 = some .nop ∧ at' (2 * 2 ^ 60 + 7) = some (.speed 7) ∧
    at' (3 * 2 ^ 60 + 2 ^ 40 + 9) = some (.accel 1 9) ∧ at' (8 * 2 ^ 60 + 3) = some (.jump 3) ∧
    at' (7 * 2 ^ 60 + 2 ^ 58 + 5 * 2 ^ 48 + 4) = some (.loop 1 5 4) ∧ at' (4 * 2 ^ 60 + 10) = some (.dwell 10) ∧
    at' (5 * 2 ^ 60 + 2 ^ 32) = some (.wait 1) ∧ at' (6 * 2 ^ 60 + 4 * 2 ^ 48 + 1) = some (.sync 4 1) ∧
    at' (9 * 2 ^ 60 + 77) = some (.notify 77) ∧ at' (10 * 2 ^ 60) = some .halt ∧
    at' (2 ^ 60 + 2 ^ 59 + 0xFFFFFFFF) = some (.move true 0 (-1)) ∧ segCurrent 2 ready = none ∧
    listAtRest 2 (listed [0] id) = true ∧ segCondition 2 1 (listed [0] id) = true ∧ segCondition 2 0 (listed [0] id) = false ∧
    (setBits 4 6).all (fun b => decide (standsAt b (listed [6 * 2 ^ 60 + 4 * 2 ^ 48 + 1] id) = some (.sync 4 1)) &&
      listAtRest b (listed [6 * 2 ^ 60 + 4 * 2 ^ 48 + 1] id) && mayPass (4, some 1) b (listed [6 * 2 ^ 60 + 4 * 2 ^ 48 + 1] id)) = true ∧
    (setBits 6 6).all (fun b => decide (standsAt b (listed [6 * 2 ^ 60 + 6 * 2 ^ 48 + 1] id) = some (.sync 6 1)) &&
      listAtRest b (listed [6 * 2 ^ 60 + 6 * 2 ^ 48 + 1] id) && mayPass (6, some 1) b (listed [6 * 2 ^ 60 + 6 * 2 ^ 48 + 1] id)) = false := by decide

theorem witness_linked :
    let w := 2 ^ 60 + 4 * 2 ^ 48 + 50
    segCurrent 2 (listed [w] id) = some (.move false 4 50) ∧
    (∀ b ∈ setBits 4 6, standsAt b (listed [w] id) = some (.move false 4 50) ∧ (axisOf b (listed [w] id)).seg.moves.length < 8 ∧
      mayPass (4, none) b (listed [w] id) = true) := by
  decide

/-- A list with a MOVE ahead, one with eight, and one in a DWELL. -/
theorem witness_lookahead :
    let m : SegMove := ⟨100, 0, 2, 1000, 5000, 0, false, []⟩
    let s (n : Nat) := listed [9 * 2 ^ 60 + 77] (fun x => { x with state := .moving, seg := { x.seg with moves := List.replicate n m } })
    (axisOf 2 (s 1)).seg.moves = [] ++ [m] ∧ 8 ≤ (axisOf 2 (s 8)).seg.moves.length ∧ listAtRest 2 (s 1) = false ∧
    (let d := listed [4 * 2 ^ 60 + 10] (fun x => { x with seg := { x.seg with state := .waiting, dwellUntil := some 9 } })
     (axisOf 2 d).seg.dwellUntil ≠ none ∧ (axisOf 2 d).seg.live = true ∧ mcRuns d = true) := by decide

/-! ### StandstillHomeFollowPacerAndMstop -/

theorem witness_standstill :
    (let s := axis2 .ready id
     Shaped s = true ∧ mcRuns s = true ∧ (axisOf 2 s).state = .holding ∧ (axisOf 2 s).fade = none ∧
      (axisOf 2 s).parkAfterFade = false ∧ (axisOf 2 s).owner ≠ .pacer ∧ val (Obj.RETAIN_MODE 2) s = 0 ∧
      val (Obj.STANDSTILL_OFF 2) s = 0 ∧ val (Obj.STANDSTILL_OFF 2) (setVal (Obj.STANDSTILL_OFF 2) 5 s) ≠ 0 ∧
      (axisOf 3 s).state ≠ .holding ∧ (axisOf 2 s).task = .none ∧ domainOn 3 s = true ∧ s.mot.mstop = false ∧
      flagVal Obj.MSTOP_ENABLE s = true ∧ (∀ a < 6, (axisOf a s).captureNext = none)) ∧
    flagVal Obj.MSTOP_ENABLE (setVal Obj.MSTOP_ENABLE 0 ready) = false ∧
    (axisOf 2 (axis2 .ready (fun x => { x with task := .home 2 7 }))).task = .home 2 7 ∧
    (axisOf 2 (axis2 .ready (fun x => { x with owner := .follow }))).owner = .follow ∧ val (Obj.STEP_SOURCE 2) ready = 0 ∧
    (let s := axis2 .ready (fun x => { x with state := .moving })
     axisEnabled 2 s = true ∧ (axisOf 2 s).moving = true ∧ (axisOf 2 s).owner = .host ∧ (axisOf 2 s).link = none) ∧
    (axisOf 2 (listed [0] id)).seg.live = true := by decide

theorem witness_pacer :
    let s := transported id
    s.mot.transport.owns = true ∧ s.modes.mode = .sheet ∧ s.modes.trans = none ∧ s.mot.transport.emergency = false ∧ mcRuns s = true ∧
    s.mot.transport.moveWaits = false ∧ s.mot.transport.move = .none ∧ s.host.restart.phase ≠ .backup ∧
    standstillCommanded s = false ∧ groupReady s = true ∧ mstopActive s = false ∧
    (s.host.request.min (cappedSpeed s)).eq s.mot.transport.targetV = true ∧
    (let s := { s with host := { s.host with request := Frac.ofNat 500000 } }
     (s.host.request.min (cappedSpeed s)).eq s.mot.transport.targetV = false) := by decide

/-! ### EthercatStateChanges -/

set_option maxRecDepth 20000 in
theorem witness_al :
    domainOn 19 State.reset = false ∧ domainOn 19 standby = true ∧ standby.ecat.al = 8 ∧ standby.modes.mode ≠ .off ∧
    (slave (fun e => { e with al := 4 })).ecat.al ≠ 1 ∧ (slave (fun e => { e with al := 4 })).ecat.al ≠ 8 ∧ running standby = true ∧
    (slave (fun e => { e with al := 1 })).ecat.al = 1 ∧ running (slave (fun e => { e with al := 1 })) = true ∧
    (slave (fun e => { e with al := 4, sm2Written := true })).ecat.sm2Written = true ∧
    valReady Obj.SYNC_MODE standby = 0 ∧ Shaped standby = true ∧
    hasSession { standby with ecat := { standby.ecat with al := 1 }, host := { standby.host with session := 5 } } = true ∧
    (let s := { State.reset with pwr := { Power.reset with domains := 0x80000#20 } }
     domainOn 19 s = true ∧ running s = false) := by decide

set_option maxRecDepth 20000 in
theorem witness_safe_op :
    mapOk true standby = true ∧ pdoBytes (pdoEntries true standby) = 8 ∧ mapOk false standby = true ∧
    pdoBytes (pdoEntries false standby) = 28 := by decide

/-! ### ProcessDataAndMailbox -/

/-- Op with IND_HOST_FLAGS alone mapped, and an update that writes 5 to it. -/
def mapped : State := slave (fun e => { e with rxMap := [0x22100308], txMap := [0x22100308] })

set_option maxRecDepth 20000 in
theorem witness_pdo :
    mapped.ecat.al = 8 ∧ ([5] : List Byte).length = pdoBytes mapped.ecat.rxMap ∧ mapped.modes.mode ≠ .off ∧
    changedOutputs none [0x22100308] (unpackOutputs [0x22100308] (leNat [5])) = [(0x22100308, 5)] ∧
    changedOutputs (some [5]) [0x22100308] (unpackOutputs [0x22100308] (leNat [5])) = [] ∧
    hasEffect (objKey 0x2210 3) = false ∧ entryBits 0x22100308 = 8 ∧ valReady Obj.SYNC_MODE mapped = 0 ∧
    (let s := { mapped with ecat := { mapped.ecat with al := 4, sync0 := some 1000000, lastSync := some 0 }, dict := { mapped.dict with atReady := [(Obj.SYNC_MODE.key, 1)] } }
     s.ecat.al = 4 ∧ syncMode s = 1 ∧ ([5] : List Byte).length = pdoBytes s.ecat.rxMap ∧ s.ecat.lastSync = some 0) ∧
    (let s := { mapped with ecat := { mapped.ecat with sync0 := some 1000000, lastSync := some 0 }, dict := { mapped.dict with atReady := [(Obj.SYNC_MODE.key, 2)] } }
     syncMode s = 2 ∧ valReady Obj.TRIG_SOURCE s ≠ 2 ∧ s.ecat.al = 8 ∧ s.ecat.sync0.isSome = true) ∧
    bits 0x22100308 31 16 = 0x2210 ∧ bits 0x22100308 15 8 = 3 := by decide

/-- The hypothesis on the written object, in every state with the dictionary of this one. -/
theorem witness_pdo_plain : ∃ r, r.acc = .rw ∧ r.ty.size = 1 ∧ ∀ u : State, u.dict = mapped.dict → PlainWrite 0x2210 3 r 5 u := by
  have free : bindings.all (fun b => !b.keys.contains (objKey 0x2210 3)) = true := by decide
  refine ⟨_, ?_, ?_, fun u _ => ⟨rfl, Or.inl ?_, ?_, ?_, ?_, ?_, ?_⟩⟩
  · decide
  · decide
  · decide
  · decide
  · rfl
  · decide
  · decide
  · unfold bindingsOk
    rw [List.all_eq_true] at free ⊢
    intro b hb
    rw [free b hb, Bool.true_or]

/-! ### DictionaryWritesAndTheirRefusals -/

set_option maxRecDepth 20000 in
theorem witness_object_write :
    served .sdo standby = true ∧ served .tsp standby = false ∧ findRow 0x1FFF 1 = none ∧ hasCountSub 0x1FFF = false ∧
    indexExists 0x1FFF = false ∧ findRow 0x2100 0xF0 = none ∧ indexExists 0x2100 = true ∧
    (findRow 0x2000 1).any (fun r => r.acc = .ro) = true ∧
    (findRow 0x2000 2).any (fun r => r.acc = .rw && decide (([0, 0] : List Byte).length ≠ r.ty.size)) = true ∧
    (findRow 0x2900 3).any (fun r => r.acc = .rwp && !r.ty.isBulk && r.ty.size == 1) = true ∧ rwpOpen standby = false ∧
    rwpOpen slots567 = true ∧ handlerOf 0x2800 9 5 = none ∧ (findRow 0x2800 9).any (fun r => !ownRangeOk 0x2800 9 r 5) = true ∧
    handlerOf 0x2801 9 10 = none ∧ (findRow 0x2801 9).any (fun r => ownRangeOk 0x2801 9 r 10) = true ∧
    bindingsOk (objKey 0x2801 9) (setKey (objKey 0x2801 9) 10 standby) = false ∧
    handlerOf 0x2900 0x0F 0x10 = none ∧
    (findRow 0x2900 0x0F).any (fun r => ownRangeOk 0x2900 0x0F r 0x10 && decide (0x10 &&& r.chk.reservedMask ≠ 0)) = true := by
  decide

set_option maxRecDepth 20000 in
theorem witness_plain_object : (∃ r, PlainWrite 0x2800 9 r 500 standby ∧ r.ty.size = 2) ∧ hasEffect (objKey 0x2800 9) = false :=
  ⟨⟨_, ⟨rfl, by decide, by decide, by decide, by decide, by decide, by decide⟩, by decide⟩, by decide⟩

/-! ### SdoTransfers -/

set_option maxRecDepth 20000 in
theorem witness_sdo :
    served .sdo State.reset = false ∧ served .sdo standby = true ∧ standby.ecat.sdo = none ∧
    (findRow 0x2800 0x0D).any (fun r => r.acc = .ro) = true ∧ accessRefusal 0x4900 0 2048 standby = none ∧
    isBank 0x4900 = false ∧ (readObject 0x2800 9 standby).1 = 0 ∧ (readObject 0x2800 9 standby).2.1 = [0xE8, 0x03] ∧
    (readObject 0x2800 0x0F standby).1 = 0x06010001 ∧ (findRow 0x2800 9).isSome = true ∧
    (transferring (.up 0x4900 0 [] 0 false)).ecat.sdo = some (.up 0x4900 0 [] 0 false) ∧
    served .sdo (transferring (.down 0x4900 0 16 [1] true)) = true := by decide

set_option maxRecDepth 20000 in
/-- A table of fixed entries is longer than one initiate. -/
theorem witness_long_upload : (findRow 0x4210 0).any (fun r => r.ty.size = 2048 && r.acc = .rw) = true ∧ isBank 0x4210 = false := by
  decide

set_option maxRecDepth 20000 in
theorem witness_sdo_completes :
    served .sdo standby = true ∧ standby.ecat.sdo = none ∧ (readObject 0x2800 9 standby).1 = 0 ∧
    isBank 0x4210 = false ∧ (transferring (.up 0x4210 0 [1, 2] 0 false)).ecat.sdo = some (.up 0x4210 0 [1, 2] 0 false) ∧
    served .sdo (transferring (.up 0x4210 0 [1, 2] 0 false)) = true ∧
    served .sdo (transferring (.down 0x4210 0 2048 [1] true)) = true ∧ (findRow 0x2800 9).isSome = true ∧
    (∃ r, PlainWrite 0x2800 9 r (leNat [0xF4, 0x01]) standby ∧ r.ty.size = 2) ∧ hasEffect (objKey 0x2800 9) = false :=
  ⟨by decide, by decide, by decide, by decide, by decide, by decide, by decide, by decide,
    ⟨_, ⟨rfl, by decide, by decide, by decide, by decide, by decide, by decide⟩, by decide⟩, by decide⟩

/-! ### ConfigurationSets -/

theorem witness_config : served .sdo slots567 = true ∧ highestVersion slots567 = 7 ∧ slots567.flash.config.length = 4 := by
  decide

theorem witness_idle_slots : slots567.cfg.commit = none ∧ slots567.cfg.revert = none := by decide

theorem witness_slots_writable : rwpOpen slots567 = true ∧ rwpOpen ready = false := by decide

set_option maxRecDepth 20000 in
theorem witness_slot_in_force : slotInForce slots567 = some 2 := by decide

set_option maxRecDepth 20000 in
theorem witness_commit_slot : cfgCommitSlot slots567 = 3 ∧ cfgSlot 3 slots567 = .empty := by decide

theorem witness_config_commit :
    { slots567 with cfg := { slots567.cfg with commit := some (setOf 8 false, 3) } }.cfg.commit = some (setOf 8 false, 3) ∧
    { slots567 with cfg := { slots567.cfg with revert := some 7 } }.cfg.revert = some 7 := ⟨rfl, rfl⟩

set_option maxRecDepth 20000 in
theorem witness_predecessor :
    (predecessor slots567).map (fun x => (x.1, x.2.version)) = some (1, 6) ∧
    (predecessor { slots567 with cfg := { slots567.cfg with active := 0 } }).isNone = true := by decide

theorem witness_last_version :
    highestVersion { slots567 with flash := { slots567.flash with config := [.set { setOf 0xFFFFFFFF false with check := 0 }] } } = 0xFFFFFFFF := rfl

set_option maxRecDepth 100000 in
theorem test_rows_fit : (objTable.map (Laws.rowSize slots567)).sum ≤ 1048524 := by decide +kernel

theorem witness_set_fits : (newSet slots567).length ≤ 1048576 := by
  rw [Laws.newSet_length]
  have := test_rows_fit
  omega

/-- Slots without an empty one: a revoked set in slot 0, or a bad one in slot 2. -/
def fullSlots (revoked bad : Bool) : State :=
  let b : ConfigSet := { setOf 7 false with check := if bad then 0 else (setOf 7 false).check }
  { slots567 with flash := { slots567.flash with config := [.set (setOf 9 revoked), .set (setOf 6 false), .set b, .set (setOf 8 false)] },
                  cfg := { slots567.cfg with active := 8 } }

set_option maxRecDepth 20000 in
theorem witness_slot_order :
    (∀ j < 4, cfgSlot j (fullSlots false true) ≠ .empty) ∧ (cfgSlot 2 (fullSlots false true)).bad = true ∧
    (∀ j < 4, cfgSlot j (fullSlots true false) ≠ .empty ∧ (cfgSlot j (fullSlots true false)).bad = false) ∧
    (setOf 9 true).good = true ∧ (setOf 9 true).live = false ∧ cfgSlot 0 (fullSlots true false) = .set (setOf 9 true) ∧
    slotInForce (fullSlots true false) ≠ some 0 ∧ (predecessor (fullSlots true false)).map (fun x => x.1) = some 2 ∧
    (∀ j < 4, cfgSlot j (fullSlots false false) ≠ .empty ∧ (cfgSlot j (fullSlots false false)).bad = false) := by decide

set_option maxRecDepth 20000 in
/-- Table 12.9: the second commit takes slot 0, and the commit after a revert takes the revoked slot. -/
theorem test_slots :
    (let s := { slots567 with flash := { slots567.flash with config := [.set (setOf 5 false), .set (setOf 6 false), .set (setOf 7 false), .set (setOf 8 false)] }, cfg := { slots567.cfg with active := 8 } }
     cfgCommitSlot s = 0) ∧
    (let s := { slots567 with flash := { slots567.flash with config := [.set (setOf 9 true), .set (setOf 6 false), .set (setOf 7 false), .set (setOf 8 false)] }, cfg := { slots567.cfg with active := 8 } }
     cfgCommitSlot s = 0 ∧ (predecessor s).map (fun x => x.2.version) = some 7) := by decide

/-! ### RailsAndVoltageMonitors -/

set_option maxRecDepth 20000 in
theorem witness_rails :
    railsUp State.reset = false ∧ State.reset.boot.phase = .unpowered ∧ ready.boot.phase ≠ .unpowered ∧ railsUp ready = true ∧ offMonitors ready = [1, 2, 3, 4, 5, 8] ∧
    (let s := { State.reset with boot := { State.reset.boot with phase := .rails 4 } }
     railsUp s = true ∧ 3 ∈ offMonitors s ∧ 8 ∉ offMonitors s) ∧ running State.reset = false ∧
    running ready = true ∧ (railsAt 24000).length = 20 ∧ (railsAt 5199).getD 0 0 < 5200 ∧
    (∀ n ∈ [1, 2, 3, 4, 5, 8], (voltWindow n).1 ≤ (railsAt 42001).getD n 0 ∧ (railsAt 42001).getD n 0 ≤ (voltWindow n).2) ∧
    railConditions { ready with pwr := { ready.pwr with volts := railsAt 42001 } } = [] ∧ pllConditions ready = [] ∧
    ((railsAt 24000).set 8 1655).getD 8 0 < (voltWindow 8).1 ∧ (voltWindow 2).2 < ((railsAt 24000).set 2 796).getD 2 0 := by decide

set_option maxRecDepth 20000 in
theorem witness_rail_conditions :
    running { standby with modes := { standby.modes with mode := .off } } = false ∧
    (⟨0x0B02, 18, []⟩ : Event) ∈ railConditions { ready with pwr := { ready.pwr with volts := (railsAt 24000).set 18 854 } } ∧
    65536 * 0x0B02 + 18 ∉ ready.pwr.raised ∧ domainOn 11 ready = true ∧ 1890 < ((railsAt 24000).set 17 1891).getD 17 0 ∧
    (let s := { ready with pwr := { ready.pwr with afeOut := 0x80#8, volts := railsAt 24000 } }
     s.pwr.afeOut.getLsbD 7 = true ∧ 1710 ≤ s.pwr.volts.getD 17 0 ∧ s.pwr.volts.getD 17 0 ≤ 1890 ∧
       s.pwr.afeOut.getLsbD 0 = false ∧ s.pwr.volts.getD 17 0 = 1800) ∧
    (railsAt 24000 |>.set 17 1709).getD 17 0 < 1710 ∧ served .sdo ready = true := by decide

/-- Three RAIL resets within 10 s lock the device out. -/
theorem test_lockout :
    ((resetRail 8 { ready with clk := 20000000000, boot := { ready.boot with railResets := [19000000000, 11000000000] } }).boot.phase =
      .lockedOut) ∧
    ((resetRail 8 { ready with clk := 20000000000, boot := { ready.boot with railResets := [19000000000, 10000000000] } }).boot.phase =
      .waitRestart) := by decide

/-! ### TemperatureAndProcessMonitors -/

set_option maxRecDepth 20000 in
theorem witness_temperatures :
    running State.reset = false ∧ running ready = true ∧ (List.replicate 24 (4000 : Int)).length = 24 ∧
    (∀ x ∈ List.replicate 24 (4000 : Int), x < sval 16 Obj.TJ_LIMIT ready) ∧ 0 < sval 16 Obj.TJ_LIMIT ready ∧
    (thermalConditions { ready with pwr := { ready.pwr with temps := List.replicate 24 11000 } }) = [⟨0x0B08, 0, []⟩] ∧
    65536 * 0x0B08 + 0 ∉ ready.pwr.raised ∧ railsUp ready = true ∧ railsUp State.reset = false ∧
    ready.pwr.procs.length = 12 ∧ served .sdo ready = true := by decide

set_option maxRecDepth 20000 in
/-- TM00 at 40 °C beside TM20 and TM21 at 61 °C: two excursions above 20 °C. -/
theorem test_gradient :
    (tempSample ((List.replicate 24 (5000 : Int)).set 0 4000 |>.set 20 6100 |>.set 21 6100) ready).pwr.gradientMax = 2100 ∧
    (tempSample ((List.replicate 24 (5000 : Int)).set 0 4000 |>.set 20 6100 |>.set 21 6100) ready).pwr.gradientWarn = [0, 1] := by
  decide

/-! ### ClocksAndDomains -/

set_option maxRecDepth 20000 in
theorem witness_clocks :
    running State.reset = false ∧ refclkChecked State.reset = false ∧ running ready = true ∧ refclkChecked ready = true ∧
    railsGood ready = true ∧ railsGood State.reset = false ∧
    (let s := { State.reset with boot := { Boot.reset with phase := .booting 3 } }
     refclkChecked s = true ∧ railsGood s = true ∧ running s = false ∧ s.pwr.refclkLost = false ∧ s.boot.phase = .booting 3 ∧
       s.pwr.pllLocked.getLsbD 4 = false) ∧
    (let s := { State.reset with boot := { Boot.reset with phase := .booting 2 }, pwr := { Power.reset with pllLocked := 0x7F } }
     railsGood s = true ∧ running s = false ∧ s.pwr.pllLocked.getLsbD 4 = true ∧ s.boot.phase ≠ .booting 3 ∧
       s.pwr.laneLoss.getD 1 none = none) ∧
    (let s := { standby with flash := { standby.flash with slotA := .image [] }, pwr := { standby.pwr with powering := 4#20 } }
     running s = true ∧ poweringUp 2 s = true ∧ powersNext 2 s = true ∧ sectionOk 1 s = false ∧ sectionOk 2 s = false) ∧ ready.pwr.refclkLost = false ∧ 65536 * 0x0B05 + 4 ∉ ready.pwr.raised ∧
    Shaped ready = true ∧ ready.pwr.pllLocked.getLsbD 6 = true ∧ ready.pwr.laneLoss.length = 2 ∧
    (let s := { ready with pwr := { ready.pwr with laneLoss := [none, some (0, [8, 15])] } }
     s.pwr.laneLoss.getD 1 none = some (0, [8, 15]) ∧ s.clk ≤ 0 + 1000000) ∧
    (∀ m < 5, m = 4 ∨ ready.pwr.pllLocked.getLsbD m = true) ∧ poweringUp 2 ready = false ∧
    (let s := { inTransition .standby .ready with pwr := { standby.pwr with powering := 0x01000#20 } }
     poweringUp 12 s = true ∧ powersNext 12 s = true ∧ powersNext 13 s = false ∧ sectionOk 1 s = true ∧ sectionOk 2 s = true) := by
  decide

/-- R361: PD12 waits for PD02. -/
theorem test_power_order :
    (domainPowerUp 12 { inTransition .standby .ready with pwr := { standby.pwr with powering := 0x01004#20 } }).pwr.powering =
      0x01004#20 := by decide

/-! ### GovernorSteps -/

set_option maxRecDepth 20000 in
theorem witness_governor :
    running State.reset = false ∧ (let s := governed 0 100 none
     running s = true ∧ flagVal Obj.GOV_ENABLE s = true ∧ val Obj.POWER_CAP s = 11500 ∧ s.pwr.gov.pendingStep = none ∧
       s.pwr.gov.effectAt = none ∧ govHighest s.modes.mode s = 3 ∧ flagVal Obj.GOV_ALLOW_HALF_RES s = true ∧
       s.lv.groups.all (fun x => x.pass.isNone) = true ∧ (tjMax s).1 < sval 16 Obj.TJ_TARGET s - (val Obj.TJ_HYST s : Int)) ∧
    (let s := governed 3 50 (some 1999950000)
     val Obj.GOV_SPEED_FLOOR s = 50 ∧ ¬ (1999950000 + 1000000 * val Obj.GOV_STEP_TIME s ≤ s.clk)) ∧
    (governed 2 100 (some 0)).pwr.gov.clearSince = none ∧ (governed 3 90 none).pwr.gov.cap < 100 ∧
    govHighest .standby (governed 1 100 none) = 1 ∧
    flagVal Obj.GOV_ALLOW_HALF_RES (setVal Obj.GOV_ALLOW_HALF_RES 0 ready) = false ∧
    flagVal Obj.GOV_ENABLE (setVal Obj.GOV_ENABLE 0 ready) = false ∧ served .sdo ready = true := by decide

/-- Clear since 1 s: a release is due at the evaluation that finds it. -/
theorem witness_governor_release :
    (let s := { governed 1 100 (some 0) with pwr := { (governed 1 100 (some 0)).pwr with
       gov := { (governed 1 100 (some 0)).pwr.gov with clearSince := some 1000000000 } } }
     s.pwr.gov.clearSince.getD s.clk + 1000000 * val Obj.GOV_RELEASE_TIME s ≤ s.clk) := by decide

/-- Table 14.8: from level 0 over the cap level 1 at once; then level 2, and level 3 with a cap of 95 %. -/
theorem test_table_14_8 :
    (governorEvaluate 12000 (governed 0 100 none)).pwr.gov.level = 1 ∧
    (governorEvaluate 12000 (governed 1 100 (some 0))).pwr.gov.level = 2 ∧
    ((governorEvaluate 12000 (governed 2 100 (some 0))).pwr.gov.level, (governorEvaluate 12000 (governed 2 100 (some 0))).pwr.gov.cap) =
      (3, 95) := by decide

/-! ### ResetsAndRailSequence -/

theorem witness_resets :
    State.reset.boot.phase = .unpowered ∧ ready.boot.phase ≠ .unpowered ∧ ready.boot.phase ≠ .pinHeld ∧
    (bootingAt .pinHeld).boot.phase = .pinHeld ∧ (bootingAt .waitRestart).boot.phase = .waitRestart ∧ mpRuns ready = true ∧
    mpRuns State.reset = false ∧ served .sdo standby = true ∧ ([0x08, 0xB0] : List Byte).length = 2 ∧ leNat [0x08, 0xB0] ≠ 0xB007 ∧
    running standby = true ∧ standby.boot.phase ≠ .starter ∧ (Signal.tclk 3).domainOffState = some (7, .low) ∧ domainOn 7 standby = false ∧ (bootingAt (.rails 5)).boot.phase = .rails 5 ∧
    (bootingAt (.rails 6)).boot.phase = .rails 6 ∧ (∀ n, (bootingAt .starter).boot.phase ≠ .rails n) :=
  ⟨by decide, by decide, by decide, by decide, by decide, by decide, by decide, by decide, by decide, by decide,
   by decide, by decide, by decide, by decide, by decide, by decide, fun _ h => by cases h⟩

set_option maxRecDepth 20000 in
theorem witness_entered_off : ∃ t, exec (.resetPin true false false) ready = .next t ∧ t.boot.phase = .pinHeld ∧
    ballState (.tst 2) t = .low ∧ ballState (.tclk 2) t = .highZ := ⟨_, rfl, rfl, rfl, rfl⟩

/-- From the supply to the Starter: seven rails. -/
theorem test_rail_sequence :
    (railGood (railGood (railGood (railGood (railGood (railGood (bootingAt (.rails 1)))))))).boot.phase = .starter := by decide

/-- What a SOFTWARE reset keeps and clears. -/
theorem test_software_reset :
    ((resetNow 5 { ready with now := 77, boot := { ready.boot with count := 3 } }).boot.count,
     (resetNow 5 { ready with now := 77 }).now, (resetNow 5 ready).modes.mode) = (4, 0, Mode.off) := by decide

/-! ### StarterBootAndDiscovery -/

theorem witness_starter :
    (bootingAt .starter).boot.phase = .starter ∧ (bootingAt .starter).boot.testMode = false ∧
    (let s := { bootingAt .starter with pwr := { Power.reset with pllLocked := 1 } }
     s.pwr.pllLocked.getLsbD 0 = true ∧ s.bench.readBacks = []) ∧
    (let s := bootingAt .starter
     let r : BootRecord := (bootRecord s).getD ⟨0, 0, false, 0, true⟩
     imageOk (slotImage r.slot s) s.otp = true ∧ r.trial = false ∧ r.slot ≤ 1) ∧
    (let s := trialFlash 2
     let r : BootRecord := (bootRecord s).getD ⟨0, 0, false, 0, true⟩
     imageOk (slotImage 1 s) s.otp = true ∧ r.slot = 1 ∧ r.trial = true ∧ r.count < 3) ∧
    (let s := { bootingAt .noImage with flash := { State.reset.flash with slotA := .none } }
     imageOk (slotImage 0 s) s.otp = false ∧ imageOk (slotImage 1 s) s.otp = false) ∧
    (bootingAt (.booting 1)).boot.phase = .booting 1 ∧ served .pdo standby = true ∧ standby.boot.discovery ≠ 1 := by decide

/-- A third trial that has run three times falls back to slot A. -/
theorem test_fall_back :
    ((starterChecks (trialFlash 3)).boot.slot, (starterChecks (trialFlash 3)).boot.status) = (0, 7) ∧
    ((starterChecks (trialFlash 2)).boot.slot, (starterChecks (trialFlash 2)).boot.trial) = (1, true) := by decide

/-- Every tile has been found absent. -/
def found96 : State := { discovering with tw := { discovering.tw with tiles := (List.range 96).map (fun p => (p, .absent)) } }

set_option maxRecDepth 20000 in
theorem witness_discovery :
    discovering.boot.discovery = 1 ∧ DictSorted discovering.dict = true ∧ flagVal Obj.TILE_AUTO_APPLY discovering = false ∧
    twUsable 0 discovering = true ∧ twUsable 1 discovering = true ∧ standby.boot.discovery ≠ 1 ∧
    (tileRecord 832 7 9 6).length = 64 ∧ fieldAt (tileRecord 832 7 9 6) 60 4 = crc32c ((tileRecord 832 7 9 6).take 60) ∧
    fieldAt (List.replicate 64 (1 : Byte)) 60 4 ≠ crc32c ((List.replicate 64 1).take 60) ∧
    found96.tw.tiles.map (fun x => x.1) = List.range 96 ∧ found96.tw.tiles.length = 96 ∧ found96.boot.discovery = 1 ∧
    (let s := { discovering with tw := { discovering.tw with buses := [{ busOf 0 discovering with state := .idle, jobs := [⟨.tile 47 false, 0⟩] }, busOf 1 discovering] } }
     (busOf 0 s).state = .idle ∧ (busOf 0 s).next = none ∧ (busOf 0 s).jobs = [⟨.tile 47 false, 0⟩] ∧ Shaped s = true) ∧
    Shaped discovering = true ∧
    (∀ x ∈ tileValues 95 (tileRecord 1024 16 0 5), (findRow (x.1.key / 256) (x.1.key % 256)).any (fun r =>
      ownRangeOk (x.1.key / 256) (x.1.key % 256) r x.2) = true) := by decide

theorem witness_training :
    (bootingAt (.booting 3)).boot.trained = none ∧ (bootingAt (.booting 3)).boot.phase = .booting 3 ∧
    ({ bootingAt (.booting 3) with boot := { (bootingAt (.booting 3)).boot with trained := some (true, false), discovery := 2 } }).boot.discovery = 2 := by
  decide

/-- Boot ends in STANDBY where training has passed, and in FAULT where a present channel has failed. -/
theorem test_boot_end :
    (bootEnd { bootingAt (.booting 3) with boot := { Boot.reset with phase := .booting 3, trained := some (true, true), discovery := 2 } }).modes.mode =
      .standby := by decide

/-! ### MailboxTransfers -/

theorem witness_mailboxes :
    Shaped standby = true ∧ running standby = true ∧ running State.reset = false ∧ senderRuns 2 standby = true ∧
    senderRuns 3 standby = false ∧ (dirOf 2 standby).sending = none ∧ domainOn (ringDomain 2) standby = false ∧
    poweringUp (ringDomain 2) standby = false ∧ domainOn (ringDomain 4) ready = true ∧
    (dirOf 0 (sendingOn 0 [1, 3, 0, 0, 0, 0, 0, 0, 7, 8, 9] standby)).sending = some (asMessage [1, 3, 0, 0, 0, 0, 0, 0, 7, 8, 9]) ∧
    domainOn (ringDomain 0) { standby with pwr := { standby.pwr with domains := 0xA000B#20 } } = true ∧
    receiverHeld 0 standby = false ∧ (dirOf 0 standby).ring.length < ringSlots 0 ∧
    (dirOf 7 (sendingOn 7 [] ready)).sending = some (asMessage []) ∧ receiverHeld 7 ready = false ∧
    receiverHeld 2 { ready with mot := { ready.mot with pcHeld := true } } = true := by decide

theorem witness_releases :
    (let s := { standby with pwr := { standby.pwr with domains := 0xA000F#20 } }
     Shaped s = true ∧ domainOn 3 s = true ∧ poweringUp 2 s = false ∧ (dirOf 2 (sendingOn 2 [] s)).sending ≠ none ∧
       s.modes.mode = .standby ∧ s.modes.trans = none ∧ domainOn 2 s = true ∧ s.mot.pcHeld = false ∧
       (∀ d ∈ [2, 7], (dirOf d s).ring = []) ∧ (∀ d ∈ [3, 6], (dirOf d s).sending = none)) ∧
    served .sdo standby = true ∧ (List.replicate 64 (0 : Byte)).length = 64 ∧
    (let s := modDir 1 (fun x => { x with ring := [hostMessage 0x81 5 [1]] }) standby
     Shaped s = true ∧ (dirOf 1 s).ring = hostMessage 0x81 5 [1] :: [] ∧ leNat (((hostMessage 0x81 5 [1]).drop 2).take 2) = 5) := by
  decide

/-- R400: ECHO of 3 bytes is answered with the same payload and the first sequence number. -/
theorem test_echo :
    (dirOf 1 (mailboxDeliver 0 (sendingOn 0 [1, 3, 0, 0, 0, 0, 0, 0, 7, 8, 9] standby))).sending =
      some (padTo 64 [0x81, 3, 0, 0, 0, 0, 0, 0, 7, 8, 9]) := by decide

/-! ### FlashLogAndTelemetry -/

set_option maxRecDepth 20000 in
theorem witness_flash :
    mpRuns standby = true ∧ mpRuns State.reset = false ∧
    (let s := loggedIn [entryOf 7 2] [entryOf 8 2]
     s.ev.waiting ≠ [] ∧ s.flash.log = [] ++ [⟨3, [entryOf 7 2], [], false⟩] ∧ served .sdo s = true ∧
       (∀ e ∈ allEntries s, e.1.sequence < s.ev.nextSeq) ∧ s.ev.fillers = [] ∧
       (((s.ev.waiting).map (fun e => e.sequence)).Nodup)) ∧
    (let s := { standby with flash := { standby.flash with leaven := [⟨0, [recordOf 4 1], false⟩, ⟨1, [{ recordOf 4 2 with check := 0 }], false⟩] } }
     s.flash.leaven = ⟨0, [recordOf 4 1], false⟩ :: [⟨1, [{ recordOf 4 2 with check := 0 }], false⟩] ∧ s.pwr.gov.level = 0 ∧
       recordLive (recordOf 4 1) s = true ∧
       0 < sumNats (s.flash.leaven.map (fun b => b2n b.headerBad + (b.records.filter (fun r => !recordGood r)).length))) ∧
    imageOk standby.flash.slotA standby.otp = true ∧ (standby.flash.slotB = .none ∨ imageOk standby.flash.slotB standby.otp = true) ∧
    standby.telem.history.length < 240 ∧ domainOn 12 standby = false ∧ domainOn 15 standby = false ∧ domainOn 16 standby = false ∧
    domainOn 15 ready = true ∧ standby.bench.readBacks = [] ∧ (governed 1 100 none).pwr.gov.level = 1 := by decide

/-- A head of 2,046 entries, and a circle of 16 blocks. -/
theorem witness_full_log :
    (List.replicate 2046 (entryOf 0 1)).length = 2046 ∧ (List.replicate 15 (⟨0, [], [], false⟩ : LogBlock)).length = 15 ∧
    (List.replicate 240 ([] : List Byte)).length = 240 ∧ standby.flash.eraseCounts.getD 16 0 < 89999 :=
  ⟨List.length_replicate, List.length_replicate, List.length_replicate, by decide⟩

/-- R404: a FATAL entry goes before an earlier one of another class. -/
theorem test_flush_order :
    ((logFlush true (loggedIn [] [entryOf 7 2, entryOf 8 3])).flash.log.map (fun b => b.entries.map (fun e => e.sequence))) = [[8, 7]] := by
  decide

/-! ### FirmwareUpdateAndRollback -/

theorem witness_update :
    served .tsp { standby with host := { standby.host with session := 4 } } = true ∧ standby.boot.slot ≤ 1 ∧
    standby.upd.state = .idle ∧ onTrial standby = false ∧ onTrial onTrialState = true ∧ atRest standby = true ∧
    atRest ready = false ∧ (updating .receiving).upd.state = .receiving ∧ (updating .receiving).upd.bytes = 4 ∧
    slotImage (targetSlot (updating .receiving)) (updating .receiving) = .image [1, 2, 3, 4] ∧
    imageOk (slotImage (targetSlot onTrialState) onTrialState) onTrialState.otp = true ∧
    (slotImage onTrialState.boot.slot onTrialState).svn = 5 ∧ onTrialState.bench.readBacks = [] ∧ onTrialState.otp.minSvn < 5 ∧
    flagVal Obj.UPDATE_LOCK_SVN (setVal Obj.UPDATE_LOCK_SVN 1 onTrialState) = true ∧ running (updating .erasing) = true := by decide

/-- BEGIN marks slot B empty; a reset before ACTIVATE leaves the record as it was. -/
theorem test_update :
    ((match updBegin standby with
      | .ok t => (t.upd.state, t.flash.slotB)
      | _ => (.idle, .factory 0 0)) = (UpdState.erasing, ImageSlot.none)) ∧
    (keepFlash causePin false (updating .verified)).slotB = .none ∧
    (keepFlash causeUpdate false (updating .verified)).slotB = .image [1, 2, 3, 4] := by decide

/-! ### TwoWireBuses -/

set_option maxRecDepth 20000 in
theorem witness_two_wire :
    served .sdo (busIn 0 .idle) = true ∧ Shaped (busIn 0 .idle) = true ∧ (busIn 0 .idle).tw.request = none ∧
    (busOf 0 (busIn 0 .idle)).state ∉ [TwState.off, .testing, .stuck] ∧ flagVal (Obj.TW_ENABLE 0) (busIn 0 .idle) = true ∧
    (busOf 1 (busIn 1 .stuck)).state = .stuck ∧ twUsable 1 (busIn 1 .stuck) = false ∧ twUsable 1 (busIn 1 .testing) = true ∧
    ([0, 0x50, 2, 3, 1, 2] : List Byte).length = 4 + ((([0, 0x50, 2, 3, 1, 2] : List Byte)).getD 2 0).toNat ∧
    valReady (Obj.TW_OWN_ADDRESS 0) standby = 0x70 ∧ asked.tw.request = some ⟨0, 0x50, [1, 2], 3⟩ ∧
    (busOf 0 asked).state = .idle ∧ (busOf 0 asked).next = none ∧ (busOf 0 asked).jobs = [⟨.host, 0⟩] ∧ Shaped asked = true ∧
    (busOf 0 (busIn 0 .idle)).run = none ∧ (busOf 0 (busIn 0 .idle)).jobs = [] ∧
    (busOf 1 (busIn 1 .testing)).state = .testing ∧ ((busOf 1 (busIn 1 .testing)).jobs.all (fun j => decide (j.work = .host))) = true ∧
    (busOf 0 (busIn 0 .target)).state = .target ∧ (busOf 0 (busIn 0 .off)).state = .off ∧ domainOn 19 standby = true ∧
    standby.tw.scratch.length = 128 ∧ bitOf (val Obj.TW_SENSOR_MASK (setVal Obj.TW_SENSOR_MASK 0x8000 standby)) 15 = true ∧
    flagVal (Obj.TW_ENABLE 1) (setVal (Obj.TW_ENABLE 1) 0 standby) = false ∧
    valReady (Obj.TW_TARGET_ENABLE 1) { standby with dict := { standby.dict with atReady := [((Obj.TW_TARGET_ENABLE 1).key, 1)] } } ≠ 0 := by
  decide

/-- Another controller wins against the address byte of 0x50, against that of a tile, and, to the device's own address, against 0x71. -/
theorem witness_wins : wins 0x20 0xA0 ∧ (0x20#8).toNat / 2 ≠ 0x70 ∧ wins 0x20 (BitVec.ofNat 8 (2 * 0x17)) ∧ wins 0xE0 0xE2 :=
  ⟨⟨7, by decide⟩, by decide, ⟨3, by decide⟩, ⟨1, by decide⟩⟩

/-- A host transaction that is cut after its address. -/
theorem witness_cut : ∃ t, exec (.twTransaction 0 [quiet true]) asked = .next t ∧ (busOf 0 t).run ≠ none := by
  refine ⟨_, rfl, ?_⟩
  decide

/-- A poll that waits on a free bus. -/
theorem witness_poll_waits :
    (let s := setVal Obj.TW_SENSOR_MASK 1 (modBus 0 (fun y => { y with jobs := [⟨.poll 0, 2⟩] }) (busIn 0 .idle))
     (busOf 0 s).jobs = ⟨.poll 0, 2⟩ :: [] ∧ stillDue 0 s ⟨.poll 0, 2⟩ = true ∧ Shaped s = true ∧ (busOf 0 s).next = none) := by
  decide

/-- R434: 0x1980 is 25.5 °C. -/
theorem test_bar_temperature :
    ((twPoll 0 0 [quiet true, quiet true, quiet false, quiet true, ⟨0x19, false⟩, ⟨0x80, false⟩, quiet false]
      (setVal Obj.TW_SENSOR_MASK 1 (busIn 0 .idle))).tw.barTemp.getD 0 0 = 2550) := by decide

/-- R429: the pointer wraps from 0xFF to 0x00, where a byte is discarded. -/
theorem test_target_pointer :
    (twStore [0xAA, 0xBB, 0xCC] 0xFE (List.replicate 128 0)).2 = 0x01 ∧
    ((twStore [0xAA, 0xBB, 0xCC] 0xFE (List.replicate 128 0)).1.drop 126) = [0xAA, 0xBB] := by decide

/-! ### FirstErrorRecordAndFatal -/

theorem witness_first_error :
    served .sdo (held 5120 2) = true ∧ (held 5120 2).ev.first = some (entryOf 5120 2) ∧
    (entryOf 5120 2).sequence % 2 ^ 32 = (5120#32).toNat ∧ (entryOf 5120 2).sequence % 2 ^ 32 ≠ (5122#32).toNat ∧
    ready.ev.first = none ∧ emergencySent (held 5120 2) = true ∧ (held 5120 2).ev.emergencies.length < 8 ∧
    emergencySent { standby with ecat := { standby.ecat with al := 1 } } = false ∧ running (held 5120 2) = true ∧
    domainOn 2 (held 5120 2) = true ∧ (held 5120 2).mot.pcHeld = false ∧ (held 5120 2).ev.held = none ∧ (held 5120 2).ev.firstFatal = none ∧
    (entryOf 5120 2).cls = 2 := by decide

/-- Table 18.5: an error of a port, then one of an axis, then THERMAL_LIMIT. -/
theorem test_table_18_5 :
    let s := logEvent ⟨0x0100, 41, []⟩ ready
    let t := logEvent ⟨0x0903, 3, []⟩ s
    let u := logEvent ⟨0x0B08, 0, []⟩ t
    (errorRegister s.ev, errorRegister t.ev, errorRegister u.ev) = (0x81, 0x81, 0x89) ∧
    (u.ev.overflow, u.ev.classMap) = (2, 0x0C) ∧ u.ev.firstFatal.isSome = true := by decide

/-! ### TwoWireCommandsComplete -/

set_option maxRecDepth 20000 in
theorem witness_two_wire_completes :
    served .sdo (busIn 0 .idle) = true ∧ (busIn 0 .idle).tw.request = none ∧ (busOf 0 (busIn 0 .idle)).state = .idle ∧
    (0x50#8).toNat ≠ valReady (Obj.TW_OWN_ADDRESS 0) (busIn 0 .idle) ∧ ([1, 2] : List Byte).length ≤ 32 ∧
    flagVal (Obj.TW_ENABLE 0) (busIn 0 .idle) = true ∧ (busOf 0 (busIn 0 .idle)).next = none ∧ (busOf 0 (busIn 0 .idle)).jobs = [] ∧
    asked.tw.request = some ⟨0, 0x50, [1, 2], 3⟩ ∧ (busOf 0 asked).state = .idle ∧ (busOf 0 asked).jobs = [⟨.host, 0⟩] ∧
    (busOf 0 asked).next = none ∧ Shaped asked = true ∧
    (busOf 1 (busIn 1 .testing)).state = .testing ∧ Shaped (busIn 1 .testing) = true ∧
    (busOf 1 (busIn 1 .stuck)).state = .stuck ∧ flagVal (Obj.TW_ENABLE 1) (setVal (Obj.TW_ENABLE 1) 0 standby) = false ∧
    domainOn 19 (busIn 0 .idle) = true ∧ (0x70#7).toNat = valReady (Obj.TW_OWN_ADDRESS 0) (busIn 0 .idle) ∧
    valReady (Obj.TW_TARGET_ENABLE 0) { busIn 0 .idle with dict := { standby.dict with atReady := [((Obj.TW_TARGET_ENABLE 0).key, 1)] } } ≠ 0 ∧
    bitOf (val Obj.TW_SENSOR_MASK (setVal Obj.TW_SENSOR_MASK 1 (busIn 0 .idle))) 0 = true := by decide

/-! ### StepKeepsShape -/

theorem witness_shape :
    Shaped { standby with pending := [.pageStartNow .sdo] } = true ∧
    (∃ t, step { standby with pending := [.pageStartNow .sdo] } = .next t) := ⟨by decide, _, rfl⟩

/-! ### StepKeepsCanonicalForms -/

theorem witness_canonical :
    Canonical State.reset ∧ (∃ t, step { standby with pending := [.pageStartNow .sdo] } = .next t) :=
  ⟨⟨by decide, by decide⟩, _, rfl⟩

/-! ### CommandsKeepTimeAndQueue -/

theorem witness_time : ∃ t, exec (.pageStartNow .sdo) standby = .next t := ⟨_, rfl⟩

end Sys2Proof.Tests
end

section
/-!
PROOFS. The queue and the time under every command (01_architecture R5, 12_control_dictionary R337 and R338, 15_startup R377).

`clocks` reads the time base, the local count and the queue of a state. Each function of the model that gives a state leaves them:
it updates other parts of the state (`clocks_mk`), or it is made of functions that leave them. So each has one lemma, in the order of
the model's files and tagged `@[simp]`, that proves it from the lemmas of the functions it calls: the branches of its definition are
split where a match stands in it, and `simp` passes through the calls, the conditions (`clocks_ite`) and the folds (`clocks_foldl`).
For a dictionary write the lemma says that every state it may leave has the same clocks (`WriteOut.Keeps`).

Two things remain, at the end: the resets, which enter OFF and clear the time base (`KeptOrOff`), and the change to Op, which steps it.
-/
namespace Sys2Proof.Machine

/-! ### What is kept -/

/-- The time base, the local count and the queue of commands (R5, R337, R338). -/
def clocks (s : State) : Nat × Nat × List Instr := (s.now, s.clk, s.pending)

/-- An update of other parts. -/
@[simp] theorem clocks_mk (s : State) (fresh modes dict ecat cfg ev pwr boot mbox flash upd telem otp fe tim lamps ind pipe lv cmp
    cist host mot tw pins tap bench) :
    clocks ⟨s.now, s.clk, fresh, modes, dict, ecat, cfg, ev, pwr, boot, mbox, flash, upd, telem, otp, fe, tim, lamps, ind, pipe, lv,
      cmp, cist, host, mot, tw, pins, tap, bench, s.pending⟩ = clocks s := rfl

@[simp] theorem clocks_ite (c : Prop) {_ : Decidable c} (s t : State) :
    clocks (if c then s else t) = if c then clocks s else clocks t := apply_ite ..

@[simp] theorem clocks_foldl {α : Type} {f : State → α → State} (h : ∀ s a, clocks (f s a) = clocks s) (l : List α) (s : State) :
    clocks (l.foldl f s) = clocks s := by
  induction l generalizing s with
  | nil => rfl
  | cons a l ih => rw [List.foldl_cons, ih, h]

@[simp] theorem clocks_foldl_fst {α β : Type} {f : State × β → α → State × β} (h : ∀ x a, clocks (f x a).1 = clocks x.1)
    (l : List α) (x : State × β) : clocks (l.foldl f x).1 = clocks x.1 := by
  induction l generalizing x with
  | nil => rfl
  | cons a l ih => rw [List.foldl_cons, ih, h]

/-- Every state that a write may leave has the clocks of `s`. -/
def WriteOut.Keeps (s : State) : WriteOut → Prop
  | .ok t => clocks t = clocks s
  | .later t => clocks t = clocks s
  | .abort _ t => clocks t = clocks s
  | .misuse _ => True

@[simp] theorem keeps_ok (s t : State) : (WriteOut.ok t).Keeps s ↔ clocks t = clocks s := Iff.rfl

@[simp] theorem keeps_later (s t : State) : (WriteOut.later t).Keeps s ↔ clocks t = clocks s := Iff.rfl

@[simp] theorem keeps_abort (c : Nat) (s t : State) : (WriteOut.abort c t).Keeps s ↔ clocks t = clocks s := Iff.rfl

@[simp] theorem keeps_misuse (x : Fault) (s : State) : (WriteOut.misuse x).Keeps s := trivial

@[simp] theorem keeps_ite (c : Prop) {_ : Decidable c} (s : State) (a b : WriteOut) :
    (if c then a else b).Keeps s ↔ if c then a.Keeps s else b.Keeps s := by
  split <;> rfl

theorem WriteOut.Keeps.ok {o : WriteOut} {s t : State} (h : o.Keeps s) (e : o = .ok t) : clocks t = clocks s := by
  subst e; exact h

theorem WriteOut.Keeps.later {o : WriteOut} {s t : State} (h : o.Keeps s) (e : o = .later t) : clocks t = clocks s := by
  subst e; exact h

theorem WriteOut.Keeps.abort {o : WriteOut} {s t : State} {c : Nat} (h : o.Keeps s) (e : o = .abort c t) : clocks t = clocks s := by
  subst e; exact h

theorem WriteOut.Keeps.trans {o : WriteOut} {s t : State} (h : o.Keeps t) (e : clocks t = clocks s) : o.Keeps s := by
  cases o with
  | misuse x => trivial
  | _ => exact Eq.trans h e

/-- A handler, where there is one, keeps the clocks. -/
def HandlerKeeps (o : Option (State → WriteOut)) : Prop := ∀ h ∈ o, ∀ s, (h s).Keeps s

@[simp] theorem handlerKeeps_none : HandlerKeeps none := by simp [HandlerKeeps]

@[simp] theorem handlerKeeps_some (h : State → WriteOut) : HandlerKeeps (some h) ↔ ∀ s, (h s).Keeps s := by simp [HandlerKeeps]

@[simp] theorem handlerKeeps_ite (c : Prop) {_ : Decidable c} (a b : Option (State → WriteOut)) :
    HandlerKeeps (if c then a else b) ↔ if c then HandlerKeeps a else HandlerKeeps b := by
  split <;> rfl

/-! ### Machine/Ops -/

@[simp] theorem clocks_setVal (r : Ref) (v : Nat) (s : State) : clocks (setVal r v s) = clocks s := clocks_mk ..

@[simp] theorem clocks_setKey (k v : Nat) (s : State) : clocks (setKey k v s) = clocks s := by simp [setKey]

@[simp] theorem clocks_setBulk (k : Nat) (v : List Byte) (s : State) : clocks (setBulk k v s) = clocks s := clocks_mk ..

@[simp] theorem clocks_clearBulk (k : Nat) (s : State) : clocks (clearBulk k s) = clocks s := clocks_mk ..

@[simp] theorem clocks_takeFree (w : Nat) (s : State) : clocks (takeFree w s).2 = clocks s := clocks_mk ..

@[simp] theorem clocks_modPort (p : Nat) (f : Port → Port) (s : State) : clocks (modPort p f s) = clocks s := clocks_mk ..

@[simp] theorem clocks_modGroup (k : Nat) (f : Group → Group) (s : State) : clocks (modGroup k f s) = clocks s := clocks_mk ..

@[simp] theorem clocks_modEncoder (e : Nat) (f : Encoder → Encoder) (s : State) : clocks (modEncoder e f s) = clocks s :=
  clocks_mk ..

@[simp] theorem clocks_modLamp (c : Nat) (f : Lamp → Lamp) (s : State) : clocks (modLamp c f s) = clocks s := clocks_mk ..

@[simp] theorem clocks_modEngine (i : Nat) (f : IndEngine → IndEngine) (s : State) : clocks (modEngine i f s) = clocks s :=
  clocks_mk ..

@[simp] theorem clocks_modCal (k : Nat) (f : GroupCal → GroupCal) (s : State) : clocks (modCal k f s) = clocks s := clocks_mk ..

@[simp] theorem clocks_modChain (c : Nat) (f : ChainInfo → ChainInfo) (s : State) : clocks (modChain c f s) = clocks s :=
  clocks_mk ..

@[simp] theorem clocks_modChan (c : Nat) (f : DmaChan → DmaChan) (s : State) : clocks (modChan c f s) = clocks s := clocks_mk ..

@[simp] theorem clocks_modLane (n : Nat) (f : Lane → Lane) (s : State) : clocks (modLane n f s) = clocks s := clocks_mk ..

@[simp] theorem clocks_modAxis (a : Nat) (f : Axis → Axis) (s : State) : clocks (modAxis a f s) = clocks s := clocks_mk ..

@[simp] theorem clocks_modDir (d : Nat) (f : MailDir → MailDir) (s : State) : clocks (modDir d f s) = clocks s := clocks_mk ..

@[simp] theorem clocks_modBus (b : Nat) (f : TwBus → TwBus) (s : State) : clocks (modBus b f s) = clocks s := clocks_mk ..

@[simp] theorem clocks_answerWrite (via : Path) (code : Nat) (s : State) : clocks (answerWrite via code s) = clocks s := by
  rw [answerWrite_frame]; exact clocks_mk ..

@[simp] theorem clocks_noteWrite (s : State) : clocks (noteWrite s) = clocks s := by simp [noteWrite]

/-! ### Machine/Events -/

@[simp] theorem clocks_mpSend (d : Nat) (m : Machine.Message) (s : State) : clocks (mpSend d m s) = clocks s := by simp [mpSend]

@[simp] theorem clocks_mpMessage (typ : Nat) (payload : List Byte) (s : State) : clocks (mpMessage typ payload s) = clocks s := by
  simp [mpMessage]

@[simp] theorem clocks_fillMailbox (s : State) : clocks (fillMailbox s) = clocks s := by
  rw [fillMailbox_frame]; exact clocks_mk ..

@[simp] theorem clocks_logEvent (e : Event) (s : State) : clocks (logEvent e s) = clocks s := by
  rw [logEvent_frame]; exact clocks_mk ..

@[simp] theorem clocks_logEvents (l : List Event) (s : State) : clocks (logEvents l s) = clocks s := by
  rw [logEvents_frame]; exact clocks_mk ..

@[simp] theorem clocks_inOneCycle (f : State → State) (hf : ∀ s, clocks (f s) = clocks s) (s : State) :
    clocks (inOneCycle f s) = clocks s := by
  rw [inOneCycle_frame]; exact (clocks_mk ..).trans ((hf _).trans (clocks_mk ..))

@[simp] theorem clocks_logOnce (was i : Nat) (e : Event) (s : State) : clocks (logOnce was i e s) = clocks s := by simp [logOnce]

/-! ### Machine/Lamps -/

@[simp] theorem clocks_openLampWindow (s : State) : clocks (openLampWindow s) = clocks s := clocks_mk ..

@[simp] theorem keeps_writeLevel (c v : Nat) (s : State) : (writeLevel c v s).Keeps s := by simp [writeLevel]

@[simp] theorem keeps_writeLampFaultClear (v : Bool) (s : State) : (writeLampFaultClear v s).Keeps s := by
  simp [writeLampFaultClear]

@[simp] theorem clocks_setMonitorK (t c raw : Nat) (s : State) : clocks (setMonitorK t c raw s) = clocks s := clocks_setBulk ..

@[simp] theorem clocks_setMonCell (t c : Nat) (m : MonCell) (s : State) : clocks (setMonCell t c m s) = clocks s := clocks_mk ..

@[simp] theorem clocks_raiseDiag (c : Nat) (s : State) : clocks (raiseDiag c s) = clocks s := by simp [raiseDiag]

@[simp] theorem clocks_pageDiag (s : State) : clocks (pageDiag s) = clocks s := clocks_mk ..

@[simp] theorem clocks_monitorTile (t c : Nat) (m : Frac) (settling : Bool) (x : SlotRec) (s : State) :
    clocks (monitorTile t c m settling x s) = clocks s := by
  unfold monitorTile
  split <;> simp

@[simp] theorem clocks_diagnoseTile (t c : Nat) (m : Frac) (x : SlotRec) (s : State) :
    clocks (diagnoseTile t c m x s) = clocks s := by
  unfold diagnoseTile
  split <;> simp

/-! ### Machine/FrontEnd -/

@[simp] theorem clocks_freeCodes (n : Nat) (s : State) : clocks (freeCodes n s).2 = clocks s := by
  induction n generalizing s with
  | zero => rfl
  | succ n ih => simp [freeCodes, ih]

@[simp] theorem clocks_convertPort (p : Nat) (pixels : List Pixel) (s : State) : clocks (convertPort p pixels s).2 = clocks s := by
  unfold convertPort
  repeat' split
  all_goals simp

@[simp] theorem clocks_markLines (p : Nat) (f : LineRec → Bool) (s : State) : clocks (markLines p f s) = clocks s := clocks_mk ..

@[simp] theorem clocks_declarePort (p causeBit : Nat) (first : LineId) (gone : Nat) (s : State) :
    clocks (declarePort p causeBit first gone s) = clocks s := by
  simp [declarePort]

@[simp] theorem clocks_clearStep (p : Nat) (s : State) : clocks (clearStep p s) = clocks s := by simp [clearStep]

@[simp] theorem keeps_writeFaultClear (p : Nat) (v : Bool) (s : State) : (writeFaultClear p v s).Keeps s := by
  simp [writeFaultClear]

@[simp] theorem clocks_endPortLine (p : Nat) (line : LineId) (s : State) : clocks (endPortLine p line s) = clocks s := by
  simp only [endPortLine]
  repeat' split
  all_goals simp

@[simp] theorem clocks_readPort (p : Nat) (d : DuePulse) (line : LineRec) (pixels : List Pixel) (s : State) :
    clocks (readPort p d line pixels s).2.2 = clocks s := by
  simp only [readPort]
  split <;> simp

@[simp] theorem clocks_fileSlot (d : DuePulse) (p : Nat) (tap : PortTap) (act : List Nat) (s : State) :
    clocks (fileSlot d p tap act s) = clocks s :=
  clocks_mk ..

@[simp] theorem clocks_readGroup (k : Nat) (d : DuePulse) (readings : List Reading) (s : State) :
    clocks (readGroup k d readings s) = clocks s := by
  refine clocks_foldl (fun s p => ?_) _ s
  split
  · rfl
  · simp

@[simp] theorem clocks_learnTone (p : Nat) (a : Frac) (s : State) : clocks (learnTone p a s) = clocks s := by
  simp only [learnTone]
  split <;> simp

@[simp] theorem clocks_checkTone (p amplitude : Nat) (line : LineId) (s : State) :
    clocks (checkTone p amplitude line s) = clocks s := by
  simp only [checkTone]
  repeat' split
  all_goals simp

@[simp] theorem clocks_judgeWindow (k w : Nat) (line : LineId) (amps : Option (List (Fin 96 × Nat))) (s : State) :
    clocks (judgeWindow k w line amps s) = clocks s := by
  unfold judgeWindow
  repeat' split
  all_goals simp

@[simp] theorem clocks_clearSkips (k : Nat) (s : State) : clocks (clearSkips k s) = clocks s := by simp [clearSkips]

@[simp] theorem clocks_endWindow (k : Nat) (amps : Option (List (Fin 96 × Nat))) (s : State) :
    clocks (endWindow k amps s) = clocks s := by
  unfold endWindow
  split <;> simp

@[simp] theorem clocks_takePhases (k : Nat) (s : State) : clocks (takePhases k s) = clocks s := by simp [takePhases]

@[simp] theorem clocks_notePulse (serial p : Nat) (s : State) : clocks (notePulse serial p s) = clocks s := clocks_mk ..

@[simp] theorem clocks_startPulse (k : Nat) (readings : List Reading) (s : State) :
    clocks (startPulse k readings s) = clocks s := by
  unfold startPulse
  split <;> simp

@[simp] theorem clocks_outputNow (k : Nat) (vrst : Bool) (o : Output) (s : State) : clocks (outputNow k vrst o s).2 = clocks s := by
  unfold outputNow
  split <;> simp

@[simp] theorem clocks_slewWritten (k : Nat) (s : State) : clocks (slewWritten k s) = clocks s := by simp [slewWritten]

@[simp] theorem clocks_beginOutput (k : Nat) (vrst : Bool) (s : State) : clocks (beginOutput k vrst s) = clocks s := by
  simp [beginOutput]

@[simp] theorem clocks_returnGroup (k : Nat) (s : State) : clocks (returnGroup k s) = clocks s := by simp [returnGroup]

@[simp] theorem clocks_groupLineStart (k : Nat) (s : State) : clocks (groupLineStart k s) = clocks s := by simp [groupLineStart]

@[simp] theorem clocks_groupLineEnd (k : Nat) (s : State) : clocks (groupLineEnd k s) = clocks s := by simp [groupLineEnd]

@[simp] theorem keeps_writeGroupOutput (k : Nat) (vrst : Bool) (mv : Nat) (s : State) : (writeGroupOutput k vrst mv s).Keeps s := by
  simp [writeGroupOutput]

@[simp] theorem clocks_moveToSpare (k p : Nat) (host : Bool) (s : State) : clocks (moveToSpare k p host s) = clocks s := by
  simp [moveToSpare]

@[simp] theorem clocks_returnFromSpare (k : Nat) (s : State) : clocks (returnFromSpare k s) = clocks s := by
  simp only [returnFromSpare]
  split <;> simp

@[simp] theorem clocks_handover (k : Nat) (s : State) : clocks (handover k s) = clocks s := by
  simp only [handover]
  repeat' split
  all_goals simp

/-! ### Machine/Latch -/

@[simp] theorem clocks_takeOpenFlag (g ch : Nat) (s : State) : clocks (takeOpenFlag g ch s) = clocks s := by simp [takeOpenFlag]

@[simp] theorem clocks_takeChainFlags (returned : List (BitVec 208)) (n : Nat) (s : State) :
    clocks (takeChainFlags returned n s) = clocks s := by
  simp [takeChainFlags]

@[simp] theorem clocks_readChain (returned : List (BitVec 208)) (n : Nat) (s : State) :
    clocks (readChain returned n s) = clocks s := by
  simp [readChain]

@[simp] theorem clocks_latchWords (words : List (List Nat)) (steps : List (Nat × Option (Nat × Nat × Nat))) (s : State) :
    clocks (latchWords words steps s) = clocks s :=
  clocks_mk ..

@[simp] theorem clocks_flagsArrive (s : State) : clocks (flagsArrive s) = clocks s := by simp [flagsArrive]

@[simp] theorem clocks_settleLastLine (s : State) : clocks (settleLastLine s) = clocks s := by
  unfold settleLastLine
  split <;> simp

@[simp] theorem clocks_latchChanged (s : State) : clocks (latchChanged s) = clocks s := by simp [latchChanged]

@[simp] theorem clocks_latchCycle (returned : List (List (BitVec 208))) (s : State) :
    clocks (latchCycle returned s) = clocks s := by
  simp [latchCycle]

@[simp] theorem clocks_readChains (s : State) : clocks (readChains s) = clocks s := by simp [readChains]

@[simp] theorem clocks_lampsOff (s : State) : clocks (lampsOff s) = clocks s := by simp [lampsOff]

@[simp] theorem clocks_lampsReady (s : State) : clocks (lampsReady s) = clocks s := by simp [lampsReady]

/-! ### Machine/Engine -/

@[simp] theorem clocks_loadSelection (sel : Nat) (s : State) : clocks (loadSelection sel s) = clocks s := clocks_mk ..

@[simp] theorem keeps_writeProgramSelect (v : Nat) (s : State) : (writeProgramSelect v s).Keeps s := by simp [writeProgramSelect]

@[simp] theorem clocks_advance (s : State) : clocks (advance s) = clocks s := clocks_mk ..

@[simp] theorem clocks_stepNop (s : State) : clocks (stepNop s) = clocks s := by
  unfold stepNop
  split <;> simp

@[simp] theorem clocks_stepLoop (s : State) : clocks (stepLoop s) = clocks s := by
  unfold stepLoop
  split <;> simp

@[simp] theorem clocks_stepJump (s : State) : clocks (stepJump s) = clocks s := by
  unfold stepJump
  split <;> simp

@[simp] theorem clocks_showLight (colour : Nat) (x : Light) (s : State) : clocks (showLight colour x s) = clocks s := by
  simp [showLight]

@[simp] theorem clocks_placeSlot (colour width : Nat) (s : State) : clocks (placeSlot colour width s) = clocks s := by
  simp [placeSlot]

@[simp] theorem clocks_stepSlot (s : State) : clocks (stepSlot s) = clocks s := by
  unfold stepSlot
  split <;> simp

@[simp] theorem clocks_placeTone (mask length : Nat) (s : State) : clocks (placeTone mask length s) = clocks s := clocks_mk ..

@[simp] theorem clocks_stepTone (s : State) : clocks (stepTone s) = clocks s := by
  unfold stepTone
  split <;> simp

/-! ### Machine/Cistern -/

@[simp] theorem keeps_writeRegionSize (i v : Nat) (s : State) : (writeRegionSize i v s).Keeps s := by simp [writeRegionSize]

@[simp] theorem clocks_loseLines (moved : Nat → Bool) (s : State) : clocks (loseLines moved s) = clocks s := by
  unfold loseLines; exact clocks_mk ..

@[simp] theorem clocks_loseRecords (s : State) : clocks (loseRecords s) = clocks s := by
  unfold loseRecords; exact clocks_mk ..

@[simp] theorem clocks_applyLayout (l : List (Nat × Nat)) (s : State) : clocks (applyLayout l s) = clocks s := by
  unfold applyLayout
  simp

@[simp] theorem clocks_placeLayout (s : State) : clocks (placeLayout s) = clocks s := by
  -- a variable in place of `layoutOf`: the kernel would compute the layout of the default sizes
  obtain ⟨place, h⟩ : ∃ f, layoutOf = f := ⟨_, rfl⟩
  rw [placeLayout, h]
  split
  · simp
  · simp only
    split <;> simp

@[simp] theorem clocks_noteOccupancy (i n : Nat) (s : State) : clocks (noteOccupancy i n s) = clocks s := clocks_mk ..

@[simp] theorem clocks_clearPoison (a n : Nat) (s : State) : clocks (clearPoison a n s) = clocks s := clocks_mk ..

@[simp] theorem clocks_scratchWriteAt (a : Nat) (l : List Byte) (s : State) : clocks (scratchWriteAt a l s) = clocks s := by
  simp [scratchWriteAt]

@[simp] theorem clocks_eccCorrected (a : Nat) (s : State) : clocks (eccCorrected a s) = clocks s := by simp [eccCorrected]

@[simp] theorem clocks_eccUncorrectable (a : Nat) (s : State) : clocks (eccUncorrectable a s) = clocks s := by
  simp [eccUncorrectable]

@[simp] theorem clocks_dataLost (s : State) : clocks (dataLost s) = clocks s := clocks_mk ..

@[simp] theorem clocks_eccRead (a n : Nat) (e : Ecc) (s : State) : clocks (eccRead a n e s).2 = clocks s := by
  unfold eccRead
  repeat' split
  all_goals simp

@[simp] theorem clocks_govEffect (g : GovStep) (s : State) : clocks (govEffect g s) = clocks s := by simp [govEffect]

@[simp] theorem clocks_scrubBlock (e : Ecc) (s : State) : clocks (scrubBlock e s) = clocks s := by simp [scrubBlock]

@[simp] theorem keeps_writeDramStatusClear (v : Nat) (s : State) : (writeDramStatusClear v s).Keeps s := clocks_mk ..

/-! ### Machine/Stream -/

@[simp] theorem clocks_emitFrame (n : Nat) (x : Sent) (s : State) : clocks (emitFrame n x s) = clocks s := by
  rw [emitFrame_frame]; exact clocks_mk ..

@[simp] theorem clocks_endPause (lane : Nat) (s : State) : clocks (endPause lane s) = clocks s := by simp [endPause]

@[simp] theorem clocks_sendTo (lane : Nat) (dest : Nat × Nat × Nat) (typ flags session itemBytes item offset : Nat)
    (payload : List Byte) (s : State) : clocks (sendTo lane dest typ flags session itemBytes item offset payload s) = clocks s := by
  simp [sendTo]

@[simp] theorem clocks_sendPacket (lane typ flags itemBytes item offset : Nat) (payload : List Byte) (s : State) :
    clocks (sendPacket lane typ flags itemBytes item offset payload s) = clocks s := by
  unfold sendPacket
  split <;> simp

@[simp] theorem clocks_dropFrame (lane : Nat) (s : State) : clocks (dropFrame lane s) = clocks s := by simp [dropFrame]

@[simp] theorem clocks_heard (f : Frame) (s : State) : clocks (heard f s) = clocks s := by simp [heard]

@[simp] theorem clocks_sessionPacket (f : Frame) (h : State → State) (hh : ∀ s, clocks (h s) = clocks s) (s : State) :
    clocks (sessionPacket f h s) = clocks s := by
  simp [sessionPacket, hh]

@[simp] theorem clocks_respond (f : Frame) (typ code : Nat) (data : List Byte) (s : State) :
    clocks (respond f typ code data s) = clocks s := by
  unfold respond
  split <;> simp

@[simp] theorem clocks_request (f : Frame) (h : State → State) (hh : ∀ s, clocks (h s) = clocks s) (s : State) :
    clocks (request f h s) = clocks s := by
  refine clocks_sessionPacket f _ (fun s => ?_) s
  split <;> simp [hh]

@[simp] theorem clocks_makeItem (k : ItemKind) (s : State) : clocks (makeItem k s) = clocks s := by simp [makeItem]

@[simp] theorem clocks_releaseSlots (s : State) : clocks (releaseSlots s) = clocks s := clocks_mk ..

@[simp] theorem clocks_markSent (uid : Nat) (s : State) : clocks (markSent uid s) = clocks s := clocks_mk ..

@[simp] theorem clocks_uncut (s : State) : clocks (uncut s) = clocks s := clocks_mk ..

@[simp] theorem clocks_commitTo (spill : Bool) (place : Nat) (l : LineSlot) (send : Bool) (s : State) :
    clocks (commitTo spill place l send s) = clocks s := by
  simp [commitTo]

@[simp] theorem clocks_commitTaken (spill : Bool) (place : Nat) (l : LineSlot) (send : Bool) (taken : State → State)
    (htaken : ∀ s, clocks (taken s) = clocks s) (s : State) : clocks (commitTaken spill place l send taken s) = clocks s := by
  simp [commitTaken, htaken]

@[simp] theorem clocks_admitPage (leadIn : Bool) (s : State) : clocks (admitPage leadIn s) = clocks s := by simp [admitPage]

@[simp] theorem clocks_admitLine (first leadIn : Bool) (y : Nat) (s : State) :
    clocks (admitLine first leadIn y s).1 = clocks s := by
  unfold admitLine
  split <;> simp

@[simp] theorem clocks_closePlace (s : State) : clocks (closePlace s) = clocks s := by
  simp only [closePlace]
  split <;> simp

@[simp] theorem clocks_missLine (cause y : Nat) (s : State) : clocks (missLine cause y s) = clocks s := clocks_mk ..

@[simp] theorem clocks_tailDropped (y : Nat) (s : State) : clocks (tailDropped y s) = clocks s := by simp [tailDropped]

@[simp] theorem clocks_commitInline (l : LineSlot) (dropped : Bool) (taken left : State → State) (htaken : ∀ s, clocks
    (taken s) = clocks s) (hleft : ∀ s, clocks (left s) = clocks s) (s : State) :
    clocks (commitInline l dropped taken left s) = clocks s := by
  simp only [commitInline]
  repeat' split
  all_goals simp [htaken, hleft]

@[simp] theorem clocks_commitReference (l : LineSlot) (taken : State → State) (htaken : ∀ s, clocks (taken s) = clocks s)
    (s : State) : clocks (commitReference l taken s) = clocks s := by
  unfold commitReference
  repeat' split
  all_goals simp [htaken]

@[simp] theorem clocks_closeReference (s : State) : clocks (closeReference s) = clocks s := by
  unfold closeReference
  split <;> simp

@[simp] theorem clocks_loseItem (i : Item) (s : State) : clocks (loseItem i s).2 = clocks s := by
  simp only [loseItem]
  repeat' split
  all_goals simp

@[simp] theorem clocks_readItem (i : Item) (e : Ecc) (s : State) : clocks (readItem i e s).2 = clocks s := by
  simp only [readItem]
  repeat' split
  all_goals simp

@[simp] theorem clocks_sendPieces (lane typ item size mtu n off : Nat) (rest : List Byte) (s : State) :
    clocks (sendPieces lane typ item size mtu n off rest s) = clocks s := by
  induction n generalizing off rest s with
  | zero => rfl
  | succ n ih => simp [sendPieces, ih]

@[simp] theorem clocks_sendItem (lane : Nat) (i : Item) (s : State) : clocks (sendItem lane i s) = clocks s := by simp [sendItem]

@[simp] theorem clocks_itemSendOn (n : Nat) (e : Ecc) (s : State) : clocks (itemSendOn n e s) = clocks s := by
  simp only [itemSendOn]
  repeat' split
  all_goals simp

@[simp] theorem clocks_openSession (f : Frame) (mask : Nat) (s : State) : clocks (openSession f mask s) = clocks s := by
  simp [openSession]

@[simp] theorem clocks_sessionOpened (f : Frame) (mask expected : Nat) (s : State) :
    clocks (sessionOpened f mask expected s) = clocks s := by
  simp [sessionOpened]

@[simp] theorem clocks_clearSession (s : State) : clocks (clearSession s) = clocks s := by simp [clearSession]

@[simp] theorem clocks_takeCredit (mask : Nat) (limits : List (BitVec 64)) (s : State) :
    clocks (takeCredit mask limits s) = clocks s :=
  clocks_mk ..

@[simp] theorem clocks_takePause (n q : Nat) (s : State) : clocks (takePause n q s) = clocks s := by simp [takePause]

@[simp] theorem clocks_rxDrop (f : Frame) (typ : Nat) (s : State) : clocks (rxDrop f typ s) = clocks s := by simp [rxDrop]

@[simp] theorem clocks_loseLock (n : Nat) (s : State) : clocks (loseLock n s) = clocks s := by simp [loseLock]

@[simp] theorem clocks_sendStreamEnd (s : State) : clocks (sendStreamEnd s) = clocks s := by
  unfold sendStreamEnd
  split <;> simp

@[simp] theorem clocks_discardStream (s : State) : clocks (discardStream s) = clocks s := by simp [discardStream]

@[simp] theorem keeps_writeStreamStatusClear (v : Nat) (s : State) : (writeStreamStatusClear v s).Keeps s := clocks_mk ..

/-! ### Machine/Compare -/

@[simp] theorem clocks_makeCrop (p : CmpPage) (b : Blob) (s : State) : clocks (makeCrop p b s).2.2 = clocks s := by
  simp only [makeCrop]
  repeat' split
  all_goals simp

@[simp] theorem clocks_modPage (n : PageKey) (f : CmpPage → CmpPage) (s : State) : clocks (modPage n f s) = clocks s := clocks_mk ..

@[simp] theorem clocks_closeBlob (page : PageKey) (b : Blob) (s : State) : clocks (closeBlob page b s) = clocks s := by
  unfold closeBlob
  split <;> simp

@[simp] theorem clocks_finishPage (n : PageKey) (s : State) : clocks (finishPage n s) = clocks s := by
  simp only [finishPage]
  repeat' split
  all_goals simp

@[simp] theorem clocks_skipBand (b : CmpBand) (s : State) : clocks (skipBand b s) = clocks s := by simp [skipBand]

@[simp] theorem clocks_skipLate (s : State) : clocks (skipLate s) = clocks s := by
  unfold skipLate
  repeat' split
  all_goals simp

@[simp] theorem clocks_closeBand (n : PageKey) (s : State) : clocks (closeBand n s) = clocks s := by
  unfold closeBand
  repeat' split
  all_goals simp

@[simp] theorem clocks_endPage (n : PageKey) (partialEnd : Bool) (s : State) : clocks (endPage n partialEnd s) = clocks s := by
  simp [endPage]

@[simp] theorem clocks_flushGroup (n : PageKey) (s : State) : clocks (flushGroup n s) = clocks s := by
  unfold flushGroup
  repeat' split
  all_goals simp

@[simp] theorem clocks_groupLine (l : RegLine) (s : State) : clocks (groupLine l s) = clocks s := by
  simp only [groupLine]
  split <;> simp

@[simp] theorem clocks_compareLine (l : RegLine) (s : State) : clocks (compareLine l s) = clocks s := by
  simp only [compareLine]
  repeat' split
  all_goals simp

@[simp] theorem clocks_usePrefetch (p : CmpPage) (b : CmpBand) (s : State) : clocks (usePrefetch p b s) = clocks s := by
  unfold usePrefetch
  split <;> simp

@[simp] theorem clocks_judge (p : CmpPage) (b : CmpBand) (r : RefImage) (s : State) : clocks (judge p b r s) = clocks s := by
  simp [judge]

@[simp] theorem clocks_compareBand (e : Ecc) (s : State) : clocks (compareBand e s) = clocks s := by
  simp only [compareBand]
  repeat' split
  all_goals simp

@[simp] theorem clocks_drainBands (n : Nat) (s : State) : clocks (drainBands n s) = clocks s := by
  induction n generalizing s with
  | zero => rfl
  | succ n ih => unfold drainBands; split <;> simp [ih]

@[simp] theorem clocks_startPage (n y : Nat) (s : State) : clocks (startPage n y s) = clocks s := by simp [startPage]

@[simp] theorem clocks_setPageStart (n : Nat) (pos : Int) (s : State) : clocks (setPageStart n pos s) = clocks s := by
  unfold setPageStart
  split <;> simp

@[simp] theorem clocks_startCompare (s : State) : clocks (startCompare s) = clocks s := by simp [startCompare]

@[simp] theorem clocks_endCompare (s : State) : clocks (endCompare s) = clocks s := by simp [endCompare]

@[simp] theorem clocks_abandonCompare (s : State) : clocks (abandonCompare s) = clocks s := clocks_mk ..

@[simp] theorem clocks_fetchWindow (s : State) : clocks (fetchWindow s) = clocks s := by
  simp only [fetchWindow]
  repeat' split
  all_goals simp

@[simp] theorem keeps_writeCmpStatusClear (v : Nat) (s : State) : (writeCmpStatusClear v s).Keeps s := clocks_mk ..

/-! ### Machine/Reference -/

@[simp] theorem clocks_noteReference (s : State) : clocks (noteReference s) = clocks s := by simp [noteReference]

@[simp] theorem clocks_modRef (id : Nat) (f : RefImage → RefImage) (s : State) : clocks (modRef id f s) = clocks s := clocks_mk ..

@[simp] theorem clocks_failReference (id : Nat) (s : State) : clocks (failReference id s) = clocks s := by
  refine (clocks_foldl (fun s n => ?_) _ _).trans (by simp)
  split <;> simp

@[simp] theorem clocks_refBad (id : Nat) (s : State) : clocks (refBad id s) = clocks s := by simp [refBad]

@[simp] theorem clocks_checkHeader (id : Nat) (r : RefImage) (s : State) : clocks (checkHeader id r s) = clocks s := by
  unfold checkHeader
  repeat' split
  all_goals simp

@[simp] theorem clocks_checkBody (id : Nat) (r : RefImage) (s : State) : clocks (checkBody id r s) = clocks s := by simp [checkBody]

@[simp] theorem clocks_takeUpTo (id total : Nat) (data : List Byte) (s : State) :
    clocks (takeUpTo id total data s).2 = clocks s := by
  unfold takeUpTo
  split <;> simp

@[simp] theorem clocks_appendUpload (data : List Byte) (s : State) : clocks (appendUpload data s).2 = clocks s := by
  simp only [appendUpload]
  repeat' split
  all_goals simp

@[simp] theorem clocks_abortUpload (s : State) : clocks (abortUpload s) = clocks s := by
  unfold abortUpload
  split <;> simp

@[simp] theorem keeps_writeRefOpen (v : Nat) (s : State) : (writeRefOpen v s).Keeps s := by simp [writeRefOpen]

@[simp] theorem keeps_writeRefRelease (v : Nat) (s : State) : (writeRefRelease v s).Keeps s := by simp [writeRefRelease]

@[simp] theorem keeps_writePageAssign (data : List Byte) (s : State) : (writePageAssign data s).Keeps s := by simp [writePageAssign]

@[simp] theorem keeps_writeDefaultRef (v : Nat) (s : State) : (writeDefaultRef v s).Keeps s := by simp [writeDefaultRef]

/-! ### Machine/Dma -/

@[simp] theorem clocks_fetchError (ch a cause : Nat) (s : State) : clocks (fetchError ch a cause s) = clocks s := by
  simp [fetchError]

@[simp] theorem clocks_fetchDescriptor (ch : Nat) (e : Ecc) (s : State) : clocks (fetchDescriptor ch e s) = clocks s := by
  simp only [fetchDescriptor]
  repeat' split
  all_goals simp

@[simp] theorem clocks_writeDest (d : Descriptor) (j : Nat) (l : List Byte) (s : State) : clocks (writeDest d j l s) = clocks s := by
  induction l generalizing j s with
  | nil => rfl
  | cons b l ih => simp [writeDest, ih]

@[simp] theorem clocks_coverDest (d : Descriptor) (n : Nat) (s : State) : clocks (coverDest d n s) = clocks s := clocks_mk ..

@[simp] theorem clocks_scrambleBlock (d : Descriptor) (j n : Nat) (s : State) : clocks (scrambleBlock d j n s) = clocks s := by
  induction n generalizing j s with
  | zero => rfl
  | succ n ih => simp [scrambleBlock, ih]

@[simp] theorem clocks_countEcc (d : Descriptor) (e : Ecc) (done : Nat) (err : Option (Nat × Nat × Nat)) (s : State) :
    clocks (countEcc d e done err s) = clocks s := by
  unfold countEcc
  split <;> simp

@[simp] theorem clocks_moveData (d : Descriptor) (e : Ecc) (cap : Nat) (s : State) :
    clocks (moveData d e cap s).2.2 = clocks s := by
  simp only [moveData]
  repeat' split
  all_goals simp

@[simp] theorem clocks_noteBad (ch err : Nat) (s : State) : clocks (noteBad ch err s) = clocks s := by simp [noteBad]

@[simp] theorem clocks_sendNotice (ch result done addr : Nat) (s : State) :
    clocks (sendNotice ch result done addr s) = clocks s := by
  simp [sendNotice]

@[simp] theorem clocks_endDescriptor (ch : Nat) (d : Descriptor) (done result : Nat) (s : State) :
    clocks (endDescriptor ch d done result s) = clocks s := by
  simp [endDescriptor]

@[simp] theorem clocks_finishDescriptor (ch : Nat) (d : Descriptor) (e : Ecc) (s : State) :
    clocks (finishDescriptor ch d e s) = clocks s := by
  simp only [finishDescriptor]
  repeat' split
  all_goals simp

@[simp] theorem keeps_startChannel (ch : Nat) (s : State) : (startChannel ch s).Keeps s := by simp [startChannel]

@[simp] theorem clocks_chanStopped (ch : Nat) (s : State) : clocks (chanStopped ch s) = clocks s := by simp [chanStopped]

@[simp] theorem clocks_stopBack (ch done : Nat) (err : Option (Nat × Nat × Nat)) (s : State) :
    clocks (stopBack ch done err s) = clocks s := by
  unfold stopBack
  split <;> simp

@[simp] theorem clocks_stopChannel (ch : Nat) (s : State) : clocks (stopChannel ch s) = clocks s := by
  simp only [stopChannel]
  split <;> simp

@[simp] theorem clocks_kickChannel (ch : Nat) (s : State) : clocks (kickChannel ch s) = clocks s := by simp [kickChannel]

@[simp] theorem keeps_writeDmaControl (ch v : Nat) (s : State) : (writeDmaControl ch v s).Keeps s := by
  unfold writeDmaControl
  repeat' split
  all_goals simp

@[simp] theorem keeps_writeDmaStatusClear (v : Nat) (s : State) : (writeDmaStatusClear v s).Keeps s := clocks_mk ..

@[simp] theorem clocks_stopChannels (s : State) : clocks (stopChannels s) = clocks s := by simp [stopChannels]

/-! ### Machine/Timing -/

@[simp] theorem clocks_pageAt (pos : Int) (s : State) : clocks (pageAt pos s).2 = clocks s := by
  unfold pageAt
  split <;> rfl

@[simp] theorem clocks_passPages (s : State) : clocks (passPages s) = clocks s := by simp [passPages]

@[simp] theorem clocks_takeExposure (s : State) : clocks (takeExposure s).1 = clocks s := clocks_mk ..

@[simp] theorem clocks_openWindows (start : Nat) (s : State) : clocks (openWindows start s) = clocks s := by simp [openWindows]

@[simp] theorem clocks_serveDiagnostic (cs : List Colour) (s : State) : clocks (serveDiagnostic cs s) = clocks s := by
  simp [serveDiagnostic]

@[simp] theorem clocks_takeStageA (s : State) : clocks (takeStageA s) = clocks s := clocks_mk ..

@[simp] theorem clocks_beginLine (l : LineRec) (start : Nat) (s : State) : clocks (beginLine l start s) = clocks s := clocks_mk ..

@[simp] theorem clocks_startImageLine (pos : Int) (start : Nat) (asked : List Colour) (s : State) :
    clocks (startImageLine pos start asked s) = clocks s := by
  simp only [startImageLine]
  repeat' split
  all_goals simp

@[simp] theorem clocks_startReferenceLine (ph : RefPhase) (pos : Int) (start : Nat) (s : State) :
    clocks (startReferenceLine ph pos start s) = clocks s := by
  simp [startReferenceLine]

@[simp] theorem clocks_seekLine (n : Nat) (s : State) : clocks (seekLine n s) = clocks s := by
  induction n generalizing s with
  | zero => rfl
  | succ n ih => unfold seekLine; split <;> simp [ih]

@[simp] theorem clocks_executeLine (s : State) : clocks (executeLine s) = clocks s := by simp [executeLine]

@[simp] theorem clocks_startLine (pos : Int) (start : Nat) (asked : List Colour) (s : State) :
    clocks (startLine pos start asked s) = clocks s := by
  simp only [startLine, clocks_ite, clocks_executeLine]
  split
  · rfl
  · split <;> simp

@[simp] theorem clocks_overrun (s : State) : clocks (overrun s) = clocks s := by simp [overrun]

@[simp] theorem clocks_arrive (pos : Int) (s : State) : clocks (arrive pos s) = clocks s := by simp [arrive]

@[simp] theorem clocks_lineTrigger (s : State) : clocks (lineTrigger s) = clocks s := by
  unfold lineTrigger
  split <;> simp

@[simp] theorem clocks_internalTrigger (s : State) : clocks (internalTrigger s) = clocks s := by simp [internalTrigger]

@[simp] theorem clocks_sync0Triggers (s : State) : clocks (sync0Triggers s) = clocks s := by simp [sync0Triggers]

@[simp] theorem clocks_ltrig (rising : Bool) (s : State) : clocks (ltrig rising s) = clocks s := by simp [ltrig]

@[simp] theorem clocks_markLast (s : State) : clocks (markLast s) = clocks s := by
  unfold markLast
  split <;> simp

@[simp] theorem clocks_completeLine (s : State) : clocks (completeLine s) = clocks s := by simp [completeLine]

@[simp] theorem clocks_takePending (start : Nat) (s : State) : clocks (takePending start s) = clocks s := by
  unfold takePending
  split <;> simp

@[simp] theorem clocks_stepLine (s : State) : clocks (stepLine s) = clocks s := by
  unfold stepLine
  split <;> simp

@[simp] theorem clocks_gatherLight (sl : PlacedSlot) (s : State) : clocks (gatherLight sl s) = clocks s := by simp [gatherLight]

@[simp] theorem clocks_closeSlot (s : State) : clocks (closeSlot s) = clocks s := by
  simp only [closeSlot]
  repeat' split
  all_goals simp

@[simp] theorem clocks_slotEnd (s : State) : clocks (slotEnd s) = clocks s := by simp [slotEnd]

@[simp] theorem clocks_positionMoved (s : State) : clocks (positionMoved s) = clocks s := by simp [positionMoved]

@[simp] theorem clocks_encoderEvent (bit code e : Nat) (s : State) : clocks (encoderEvent bit code e s) = clocks s := by
  simp [encoderEvent]

@[simp] theorem clocks_encCount (e : Nat) (a b : Bool) (s : State) : clocks (encCount e a b s) = clocks s := by
  simp only [encCount, clocks_ite, clocks_modEncoder, clocks_encoderEvent, clocks_positionMoved, ite_self]

@[simp] theorem clocks_encIndex (e : Nat) (level : Bool) (s : State) : clocks (encIndex e level s) = clocks s := by simp [encIndex]

@[simp] theorem clocks_setPosition (e : Nat) (v : Int) (s : State) : clocks (setPosition e v s) = clocks s := by simp [setPosition]

@[simp] theorem keeps_writeEncPosition (e raw : Nat) (s : State) : (writeEncPosition e raw s).Keeps s := by simp [writeEncPosition]

@[simp] theorem clocks_webHalt (s : State) : clocks (webHalt s) = clocks s := by simp [webHalt]

@[simp] theorem clocks_holdOn (s : State) : clocks (holdOn s) = clocks s := by simp [holdOn]

@[simp] theorem clocks_holdOff (s : State) : clocks (holdOff s) = clocks s := clocks_mk ..

@[simp] theorem clocks_ignorePage (s : State) : clocks (ignorePage s) = clocks s := by simp [ignorePage]

@[simp] theorem clocks_pageEdge (sensor : PageSensor) (s : State) : clocks (pageEdge sensor s) = clocks s := by simp [pageEdge]

@[simp] theorem keeps_writePageStartNow (v : Bool) (s : State) : (writePageStartNow v s).Keeps s := by simp [writePageStartNow]

@[simp] theorem clocks_armPoint (s : State) : clocks (armPoint s) = clocks s := clocks_mk ..

@[simp] theorem clocks_armRun (s : State) : clocks (armRun s) = clocks s := by simp [armRun]

@[simp] theorem clocks_disarm (s : State) : clocks (disarm s) = clocks s := clocks_mk ..

@[simp] theorem keeps_writeTimingClear (v : Nat) (s : State) : (writeTimingClear v s).Keeps s := clocks_mk ..

/-! ### Machine/Pipeline -/

@[simp] theorem clocks_modBank (b : Nat) (f : Bank → Bank) (s : State) : clocks (modBank b f s) = clocks s := clocks_mk ..

@[simp] theorem clocks_switchBank (s : State) : clocks (switchBank s) = clocks s := by simp [switchBank]

@[simp] theorem clocks_requestSwitch (s : State) : clocks (requestSwitch s) = clocks s := by simp [requestSwitch]

@[simp] theorem clocks_switchEffect (s : State) : clocks (switchEffect s) = clocks s := by
  unfold switchEffect
  repeat' split
  all_goals simp

@[simp] theorem keeps_writeBankSwitch (v : Bool) (s : State) : (writeBankSwitch v s).Keeps s := by simp [writeBankSwitch]

@[simp] theorem clocks_noteDiscontinuity (b : Bool) (s : State) : clocks (noteDiscontinuity b s) = clocks s := by
  simp [noteDiscontinuity]

@[simp] theorem clocks_pushImage (l : Stage6Line) (s : State) : clocks (pushImage l s) = clocks s := by simp [pushImage]

@[simp] theorem clocks_pushReference (l : Stage6Line) (s : State) : clocks (pushReference l s) = clocks s := clocks_mk ..

@[simp] theorem clocks_passStages (l : LineRec) (s : State) : clocks (passStages l s) = clocks s := by simp [passStages]

@[simp] theorem clocks_gatherLine (l : LineRec) (s : State) : clocks (gatherLine l s) = clocks s := by
  unfold gatherLine
  split <;> simp

@[simp] theorem clocks_readLead (y : Nat) (s : State) : clocks (readLead y s) = clocks s := by
  simp only [readLead]
  repeat' split
  all_goals simp

@[simp] theorem clocks_measureLine (l : RegLine) (s : State) : clocks (measureLine l s) = clocks s := by
  unfold measureLine
  split <;> simp

@[simp] theorem clocks_takeRows (rows : List RegLine) (alone : Bool) (s : State) : clocks (takeRows rows alone s) = clocks s := by
  simp [takeRows]

@[simp] theorem clocks_breakGroup (discontinuity : Bool) (page : Nat) (s : State) :
    clocks (breakGroup discontinuity page s) = clocks s := by
  simp [breakGroup]

@[simp] theorem clocks_leaveRows (rows : List RegLine) (s : State) : clocks (leaveRows rows s) = clocks s := by
  unfold leaveRows
  split <;> simp

@[simp] theorem clocks_weirOverrun (s : State) : clocks (weirOverrun s) = clocks s := by simp [weirOverrun]

@[simp] theorem clocks_endStop (s : State) : clocks (endStop s) = clocks s := by
  unfold endStop
  split <;> simp

@[simp] theorem clocks_commitSlot (l : LineSlot) (taken left : State → State) (htaken : ∀ s, clocks (taken s) = clocks s)
    (hleft : ∀ s, clocks (left s) = clocks s) (s : State) : clocks (commitSlot l taken left s) = clocks s := by
  unfold commitSlot
  split <;> simp [htaken, hleft]

@[simp] theorem clocks_storeSpeculative (l : LineSlot) (s : State) : clocks (storeSpeculative l s) = clocks s := by
  simp [storeSpeculative]

@[simp] theorem clocks_resumeUnmatched (l : LineSlot) (taken left : State → State) (htaken : ∀ s, clocks (taken s) = clocks s)
    (hleft : ∀ s, clocks (left s) = clocks s) (s : State) : clocks (resumeUnmatched l taken left s) = clocks s := by
  simp [resumeUnmatched, htaken, hleft]

@[simp] theorem clocks_commitSheet (l : LineSlot) (taken left : State → State) (htaken : ∀ s, clocks (taken s) = clocks s)
    (hleft : ∀ s, clocks (left s) = clocks s) (s : State) : clocks (commitSheet l taken left s) = clocks s := by
  unfold commitSheet
  repeat' split
  all_goals simp [htaken, hleft]

@[simp] theorem clocks_commitRows (rows : List RegLine) (alone : Bool) (s : State) :
    clocks (commitRows rows alone s) = clocks s := by
  simp [commitRows]

@[simp] theorem clocks_closePair (s : State) : clocks (closePair s) = clocks s := by
  unfold closePair
  split <;> simp

@[simp] theorem clocks_averagePairs (l : RegLine) (s : State) : clocks (averagePairs l s) = clocks s := by
  simp only [averagePairs]
  repeat' split
  all_goals simp

@[simp] theorem keeps_writeStaggerMeasure (v : Bool) (s : State) : (writeStaggerMeasure v s).Keeps s := by
  simp [writeStaggerMeasure]

@[simp] theorem clocks_abandonMeasure (s : State) : clocks (abandonMeasure s) = clocks s := by simp [abandonMeasure]

@[simp] theorem clocks_measureDone (s : State) : clocks (measureDone s) = clocks s := by
  unfold measureDone
  split <;> simp

@[simp] theorem clocks_passUncommitted (l : Stage6Line) (s : State) : clocks (passUncommitted l s) = clocks s := by
  simp [passUncommitted]

@[simp] theorem clocks_noteShort (f : Formed) (s : State) : clocks (noteShort f s) = clocks s := by simp [noteShort]

@[simp] theorem clocks_noteClamp (f : Formed) (s : State) : clocks (noteClamp f s) = clocks s := by simp [noteClamp]

@[simp] theorem clocks_placeFormed (l : RegLine) (s : State) : clocks (placeFormed l s).2 = clocks s := by
  simp only [placeFormed]
  repeat' split
  all_goals simp

@[simp] theorem clocks_takeSkip (s : State) : clocks (takeSkip s) = clocks s := clocks_mk ..

@[simp] theorem clocks_commitImage (f : Formed) (s : State) : clocks (commitImage f s) = clocks s := by simp [commitImage]

@[simp] theorem clocks_commitNext (final : Bool) (s : State) : clocks (commitNext final s) = clocks s := by
  simp only [commitNext]
  repeat' split
  all_goals simp

@[simp] theorem clocks_commitAll (n : Nat) (s : State) : clocks (commitAll n s) = clocks s := by
  induction n generalizing s with
  | zero => simp [commitAll]
  | succ n ih => simp [commitAll, ih]

@[simp] theorem clocks_finishLines (s : State) : clocks (finishLines s) = clocks s := by simp [finishLines]

@[simp] theorem clocks_discardLines (s : State) : clocks (discardLines s) = clocks s := clocks_mk ..

@[simp] theorem keeps_writeShadingClear (v : Nat) (s : State) : (writeShadingClear v s).Keeps s := clocks_mk ..

@[simp] theorem keeps_writeRegClear (v : Nat) (s : State) : (writeRegClear v s).Keeps s := clocks_mk ..

/-! ### Machine/Leaven -/

@[simp] theorem clocks_setTable (key n count d i v : Nat) (s : State) : clocks (setTable key n count d i v s) = clocks s := by
  simp [setTable]

@[simp] theorem clocks_setChainEntry (ch r c v : Nat) (s : State) : clocks (setChainEntry ch r c v s) = clocks s := by
  simp [setChainEntry]

@[simp] theorem clocks_setOffset (ch r c o : Nat) (s : State) : clocks (setOffset ch r c o s) = clocks s := by simp [setOffset]

@[simp] theorem clocks_setGain (ch r c g : Nat) (s : State) : clocks (setGain ch r c g s) = clocks s := by simp [setGain]

@[simp] theorem clocks_writeRecord (ch r flags inl : Nat) (s : State) : clocks (writeRecord ch r flags inl s) = clocks s :=
  clocks_mk ..

@[simp] theorem clocks_acceptChain (ch r : Nat) (res : CalResult) (gain : Bool) (flags : Nat) (inl : Option Nat) (s : State) :
    clocks (acceptChain ch r res gain flags inl s) = clocks s := by
  simp [acceptChain]

@[simp] theorem clocks_endChain (ch : Nat) (res : CalResult) (rejected : Bool) (s : State) :
    clocks (endChain ch res rejected s) = clocks s := by
  simp [endChain]

@[simp] theorem clocks_logRejected (ch : Nat) (res : CalResult) (s : State) : clocks (logRejected ch res s) = clocks s := by
  simp [logRejected]

@[simp] theorem clocks_completeCal (k : Nat) (s : State) : clocks (completeCal k s) = clocks s := by simp [completeCal]

@[simp] theorem clocks_checkComplete (k : Nat) (s : State) : clocks (checkComplete k s) = clocks s := by simp [checkComplete]

@[simp] theorem clocks_noteAbandoned (source : Nat) (detail : List Byte) (s : State) :
    clocks (noteAbandoned source detail s) = clocks s := by
  simp [noteAbandoned]

@[simp] theorem clocks_releaseSpare (k : Nat) (s : State) : clocks (releaseSpare k s) = clocks s := by simp [releaseSpare]

@[simp] theorem clocks_passesEnded (s : State) : clocks (passesEnded s) = clocks s := by simp [passesEnded]

@[simp] theorem clocks_endPass (k : Nat) (s : State) : clocks (endPass k s) = clocks s := by
  unfold endPass
  split <;> simp

@[simp] theorem clocks_abandonPass (k cause : Nat) (s : State) : clocks (abandonPass k cause s) = clocks s := by
  unfold abandonPass
  split <;> simp

@[simp] theorem clocks_abandonCheck (k : Nat) (s : State) : clocks (abandonCheck k s) = clocks s := by simp [abandonCheck]

@[simp] theorem clocks_abandonGroup (k cause : Nat) (s : State) : clocks (abandonGroup k cause s) = clocks s := by
  simp [abandonGroup]

@[simp] theorem clocks_abandonGroups (cause : Nat) (s : State) : clocks (abandonGroups cause s) = clocks s := by
  simp [abandonGroups]

@[simp] theorem clocks_abandonPasses (cause : Nat) (s : State) : clocks (abandonPasses cause s) = clocks s := by
  simp [abandonPasses]

@[simp] theorem clocks_makeDue (k : Nat) (s : State) : clocks (makeDue k s) = clocks s := by simp [makeDue]

@[simp] theorem clocks_startCal (k : Nat) (s : State) : clocks (startCal k s) = clocks s := by simp [startCal]

@[simp] theorem clocks_evaluateGroup (k : Nat) (s : State) : clocks (evaluateGroup k s) = clocks s := by simp [evaluateGroup]

@[simp] theorem clocks_evaluateTriggers (s : State) : clocks (evaluateTriggers s) = clocks s := by simp [evaluateTriggers]

@[simp] theorem clocks_calEvaluate (s : State) : clocks (calEvaluate s) = clocks s := by simp [calEvaluate]

@[simp] theorem clocks_leavenDeferred (k : Nat) (s : State) : clocks (leavenDeferred k s) = clocks s := by simp [leavenDeferred]

@[simp] theorem keeps_writeCalRequest (v : Nat) (s : State) : (writeCalRequest v s).Keeps s := by simp [writeCalRequest]

@[simp] theorem clocks_leavenReady (s : State) : clocks (leavenReady s) = clocks s := by simp [leavenReady]

@[simp] theorem clocks_spareCheck (k : Nat) (sums1 sums2 : List Nat) (s : State) :
    clocks (spareCheck k sums1 sums2 s) = clocks s := by
  simp [spareCheck]

@[simp] theorem clocks_setPass (k : Nat) (p : Option Pass) (s : State) : clocks (setPass k p s) = clocks s := by simp [setPass]

@[simp] theorem clocks_passStart (k : Nat) (s : State) : clocks (passStart k s) = clocks s := by
  unfold passStart
  repeat' split
  all_goals simp

@[simp] theorem clocks_requestHandover (k p : Nat) (s : State) : clocks (requestHandover k p s) = clocks s := by
  simp [requestHandover]

@[simp] theorem clocks_closedBothA (k : Nat) (p : Pass) (a b : CalWindow) (s : State) :
    clocks (closedBothA k p a b s) = clocks s := by
  simp [closedBothA]

@[simp] theorem clocks_closeWindow (k : Nat) (s : State) : clocks (closeWindow k s) = clocks s := by
  unfold closeWindow
  repeat' split
  all_goals simp

@[simp] theorem clocks_windowTimeout (k : Nat) (s : State) : clocks (windowTimeout k s) = clocks s := by
  unfold windowTimeout
  split <;> simp

@[simp] theorem clocks_sweepDone (k : Nat) (sums : List Nat) (s : State) : clocks (sweepDone k sums s) = clocks s := by
  unfold sweepDone
  split <;> simp

@[simp] theorem clocks_writeOffsets (ch r : Nat) (a b : CalWindow) (s : State) : clocks (writeOffsets ch r a b s) = clocks s := by
  simp [writeOffsets]

@[simp] theorem clocks_writeGains (ch r : Nat) (gs : List Nat) (s : State) : clocks (writeGains ch r gs s) = clocks s := by
  simp [writeGains]

@[simp] theorem clocks_writeAccepted (p : Pass) (k : Nat) (res : CalResult) (gs : List Nat) (s : State) :
    clocks (writeAccepted p k res gs s) = clocks s := by
  unfold writeAccepted
  repeat' split
  all_goals simp

@[simp] theorem clocks_giveToHost (k : Nat) (s : State) : clocks (giveToHost k s) = clocks s := by simp [giveToHost]

@[simp] theorem clocks_afterJudge (k : Nat) (p : Pass) (retry : Bool) (from' : Nat) (s : State) :
    clocks (afterJudge k p retry from' s) = clocks s := by
  simp [afterJudge]

@[simp] theorem clocks_keepOnSpare (k : Nat) (s : State) : clocks (keepOnSpare k s) = clocks s := by
  simp only [keepOnSpare]
  split <;> simp

@[simp] theorem clocks_askAgain (k : Nat) (s : State) : clocks (askAgain k s) = clocks s := by
  unfold askAgain
  split <;> simp

@[simp] theorem clocks_noteSweeps (p : Pass) (s : State) : clocks (noteSweeps p s) = clocks s := by simp [noteSweeps]

@[simp] theorem clocks_attemptJudge (k : Nat) (s : State) : clocks (attemptJudge k s) = clocks s := by
  unfold attemptJudge
  split <;> simp

@[simp] theorem clocks_followHandover (k : Nat) (s : State) : clocks (followHandover k s) = clocks s := by
  unfold followHandover
  repeat' split
  all_goals simp

@[simp] theorem clocks_handoverEvent (k : Nat) (s : State) : clocks (handoverEvent k s) = clocks s := by simp [handoverEvent]

@[simp] theorem keeps_writeHostAssign (k v : Nat) (s : State) : (writeHostAssign k v s).Keeps s := by simp [writeHostAssign]

@[simp] theorem clocks_groupOff (k cause : Nat) (s : State) : clocks (groupOff k cause s) = clocks s := by simp [groupOff]

@[simp] theorem clocks_groupOn (k : Nat) (s : State) : clocks (groupOn k s) = clocks s := by simp [groupOn]

@[simp] theorem clocks_stopLatched (k : Nat) (s : State) : clocks (stopLatched k s) = clocks s := by
  unfold stopLatched
  split <;> simp

@[simp] theorem clocks_paperLine (l : LineRec) (s : State) : clocks (paperLine l s) = clocks s := by
  unfold paperLine
  split
  · rfl
  · simp only
    split <;> rfl

@[simp] theorem keeps_writePwRegion (data : List Byte) (s : State) : (writePwRegion data s).Keeps s := by simp [writePwRegion]

@[simp] theorem clocks_applyHalf (r : PwRegion) (h : PwHalf) (s : State) : clocks (applyHalf r h s) = clocks s := by
  unfold applyHalf
  repeat' split
  all_goals simp

@[simp] theorem clocks_regionDone (s : State) : clocks (regionDone s) = clocks s := by
  unfold regionDone
  repeat' split
  all_goals simp

@[simp] theorem keeps_writePwRelearn (v : Bool) (s : State) : (writePwRelearn v s).Keeps s := by simp [writePwRelearn]

@[simp] theorem clocks_clearRange (ch r : Nat) (s : State) : clocks (clearRange ch r s) = clocks s := by simp [clearRange]

@[simp] theorem keeps_writeRecordClear (v : Nat) (s : State) : (writeRecordClear v s).Keeps s := by simp [writeRecordClear]

@[simp] theorem keeps_writeLeavenEnable (v : Nat) (s : State) : (writeLeavenEnable v s).Keeps s := by simp [writeLeavenEnable]

@[simp] theorem keeps_writeLeavenClear (v : Nat) (s : State) : (writeLeavenClear v s).Keeps s := clocks_mk ..

@[simp] theorem clocks_passLine (l : LineRec) (k : Nat) (s : State) : clocks (passLine l k s) = clocks s := by
  simp only [passLine]
  repeat' split
  all_goals simp

@[simp] theorem clocks_countReleased (l : LineRec) (s : State) : clocks (countReleased l s) = clocks s := by simp [countReleased]

@[simp] theorem clocks_releaseOldest (s : State) : clocks (releaseOldest s) = clocks s := by
  unfold releaseOldest
  split <;> simp

@[simp] theorem clocks_releaseLine (s : State) : clocks (releaseLine s) = clocks s := by simp [releaseLine]

@[simp] theorem clocks_drainLines_go (n : Nat) (s : State) : clocks (drainLines.go n s) = clocks s := by
  induction n generalizing s with
  | zero => rfl
  | succ n ih => simp [drainLines.go, ih]

@[simp] theorem clocks_drainLines (s : State) : clocks (drainLines s) = clocks s := by simp [drainLines]

/-! ### Machine/Motion -/

@[simp] theorem clocks_setTransport (f : Transport → Transport) (s : State) : clocks (setTransport f s) = clocks s := clocks_mk ..

@[simp] theorem clocks_modSeg (a : Nat) (f : SegList → SegList) (s : State) : clocks (modSeg a f s) = clocks s := by simp [modSeg]

@[simp] theorem clocks_gatesLow (a : Nat) (s : State) : clocks (gatesLow a s) = clocks s := by simp [gatesLow]

@[simp] theorem clocks_standStill (st : AxisState) (a : Nat) (s : State) : clocks (standStill st a s) = clocks s := by
  simp [standStill]

@[simp] theorem clocks_energiseAxis (a : Nat) (s : State) : clocks (energiseAxis a s) = clocks s := by simp [energiseAxis]

@[simp] theorem clocks_axisOff (a : Nat) (s : State) : clocks (axisOff a s) = clocks s := by simp [axisOff]

@[simp] theorem clocks_currentStep (a : Nat) (s : State) : clocks (currentStep a s) = clocks s := by
  simp only [currentStep]
  repeat' split
  all_goals simp

@[simp] theorem clocks_request11 (a : Nat) (g : AxisGoal) (s : State) : clocks (request11 a g s) = clocks s := by simp [request11]

@[simp] theorem clocks_leaveFollow (a : Nat) (s : State) : clocks (leaveFollow a s) = clocks s := by simp [leaveFollow]

@[simp] theorem clocks_normalStop (a : Nat) (s : State) : clocks (normalStop a s) = clocks s := by simp [normalStop]

@[simp] theorem clocks_emergencyStop (a : Nat) (s : State) : clocks (emergencyStop a s) = clocks s := by simp [emergencyStop]

@[simp] theorem clocks_barOthers (a : Nat) (s : State) : clocks (barOthers a s) = clocks s := by
  unfold barOthers
  split <;> simp

@[simp] theorem clocks_stopList (a reason : Nat) (s : State) : clocks (stopList a reason s) = clocks s := by simp [stopList]

@[simp] theorem clocks_endRun (a reason : Nat) (s : State) : clocks (endRun a reason s) = clocks s := by simp [endRun]

@[simp] theorem clocks_enterError (a : Nat) (s : State) : clocks (enterError a s) = clocks s := by simp [enterError]

@[simp] theorem clocks_gateShutdown (a bit : Nat) (s : State) : clocks (gateShutdown a bit s) = clocks s := by simp [gateShutdown]

@[simp] theorem clocks_parkFade (a : Nat) (s : State) : clocks (parkFade a s) = clocks s := by simp [parkFade]

@[simp] theorem clocks_parkAxis (a : Nat) (s : State) : clocks (parkAxis a s) = clocks s := by simp [parkAxis]

@[simp] theorem clocks_deEnergiseAxis (a : Nat) (s : State) : clocks (deEnergiseAxis a s) = clocks s := by simp [deEnergiseAxis]

@[simp] theorem clocks_retainAfterFault (a : Nat) (s : State) : clocks (retainAfterFault a s) = clocks s := by
  simp [retainAfterFault]

@[simp] theorem clocks_beginCaptureMove (a : Nat) (target : Int) (s : State) : clocks (beginCaptureMove a target s) = clocks s := by
  simp [beginCaptureMove]

@[simp] theorem clocks_captureMove (a : Nat) (target : Int) (s : State) : clocks (captureMove a target s) = clocks s := by
  simp [captureMove]

@[simp] theorem clocks_captureLeave (a : Nat) (s : State) : clocks (captureLeave a s) = clocks s := by simp [captureLeave]

@[simp] theorem keeps_writeAxisPosition (a v : Nat) (s : State) : (writeAxisPosition a v s).Keeps s := by simp [writeAxisPosition]

@[simp] theorem clocks_axisReady (a : Nat) (s : State) : clocks (axisReady a s) = clocks s := by simp [axisReady]

@[simp] theorem clocks_axesReady (s : State) : clocks (axesReady s) = clocks s := by simp [axesReady]

/-! ### Machine/Segments -/

@[simp] theorem clocks_startList (a : Nat) (s : State) : clocks (startList a s) = clocks s := by simp [startList]

@[simp] theorem clocks_tieFollowers (m : SegMove) (s : State) : clocks (tieFollowers m s) = clocks s := by simp [tieFollowers]

@[simp] theorem clocks_startNext (a : Nat) (s : State) : clocks (startNext a s) = clocks s := by
  simp only [startNext]
  split <;> simp

@[simp] theorem clocks_sendNotices (a : Nat) (codes : List Nat) (s : State) : clocks (sendNotices a codes s) = clocks s := by
  simp [sendNotices]

@[simp] theorem clocks_reachFront (a : Nat) (s : State) : clocks (reachFront a s) = clocks s := by
  unfold reachFront
  split <;> simp

@[simp] theorem clocks_endPart (a : Nat) (part : PlanPart) (s : State) : clocks (endPart a part s) = clocks s := by
  unfold endPart
  split
  · rfl
  · simp only [clocks_ite]
    split
    · split
      · split <;> simp
      · simp
    · simp

@[simp] theorem clocks_afterStandstill (a : Nat) (s : State) : clocks (afterStandstill a s) = clocks s := by
  unfold afterStandstill
  extract_lets x wasEmergency s₁ s₂ s₃ reached s₄
  have h₂ : clocks s₂ = clocks s := by
    simp only [s₂, s₁]
    split <;> simp
  have h₃ : clocks s₃ = clocks s := (clocks_modAxis ..).trans h₂
  have h₄ : clocks s₄ = clocks s := (clocks_modAxis ..).trans h₂
  repeat' split
  all_goals simp [h₂, h₃, h₄]

@[simp] theorem clocks_comeToRest (a : Nat) (s : State) : clocks (comeToRest a s) = clocks s := by simp [comeToRest]

@[simp] theorem clocks_followUpdate (a : Nat) (s : State) : clocks (followUpdate a s) = clocks s := by simp [followUpdate]

@[simp] theorem clocks_followEdge (a : Nat) (dirHigh : Bool) (s : State) : clocks (followEdge a dirHigh s) = clocks s := by
  simp [followEdge]

@[simp] theorem clocks_segGoto (a pc : Nat) (s : State) : clocks (segGoto a pc s) = clocks s := by simp [segGoto]

@[simp] theorem clocks_segAdvance (a : Nat) (s : State) : clocks (segAdvance a s) = clocks s := by simp [segAdvance]

@[simp] theorem clocks_segPause (a : Nat) (s : State) : clocks (segPause a s) = clocks s := by simp [segPause]

@[simp] theorem clocks_segWaits (a : Nat) (s : State) : clocks (segWaits a s) = clocks s := by simp [segWaits]

@[simp] theorem clocks_takeIn (a mask leader : Nat) (target : Int) (turn : Bool) (s : State) :
    clocks (takeIn a mask leader target turn s) = clocks s := by
  simp [takeIn]

@[simp] theorem clocks_holdBarred (k : Nat × Option Nat) (a : Nat) (s : State) : clocks (holdBarred k a s) = clocks s := by
  simp [holdBarred]

@[simp] theorem clocks_linkedMove (a mask : Nat) (s : State) : clocks (linkedMove a mask s) = clocks s := by simp [linkedMove]

@[simp] theorem clocks_syncAll (a mask tag : Nat) (s : State) : clocks (syncAll a mask tag s) = clocks s := by simp [syncAll]

@[simp] theorem clocks_segEnd (a : Nat) (s : State) : clocks (segEnd a s) = clocks s := by simp [segEnd]

@[simp] theorem clocks_segDo (a : Nat) (op : SegOp) (s : State) : clocks (segDo a op s) = clocks s := by
  simp only [segDo]
  repeat' split
  all_goals simp

@[simp] theorem clocks_segStep (a : Nat) (is : SegOp → Bool) (s : State) : clocks (segStep a is s) = clocks s := by
  unfold segStep
  split <;> simp

@[simp] theorem clocks_dwellEnd (a : Nat) (s : State) : clocks (dwellEnd a s) = clocks s := by simp [dwellEnd]

@[simp] theorem clocks_segUpdate (a : Nat) (s : State) : clocks (segUpdate a s) = clocks s := by
  simp only [segUpdate]
  repeat' split
  all_goals simp

@[simp] theorem clocks_profileUpdate (a : Nat) (s : State) : clocks (profileUpdate a s) = clocks s := by
  simp only [profileUpdate]
  split <;> simp

@[simp] theorem clocks_captureUpdate (a : Nat) (s : State) : clocks (captureUpdate a s) = clocks s := by
  unfold captureUpdate
  split <;> simp

/-! ### Machine/Pacer -/

@[simp] theorem clocks_pacerTake (s : State) : clocks (pacerTake s) = clocks s := by simp [pacerTake]

@[simp] theorem clocks_pacerLeft (s : State) : clocks (pacerLeft s) = clocks s := by simp [pacerLeft]

@[simp] theorem clocks_groupHalt (s : State) : clocks (groupHalt s) = clocks s := by simp [groupHalt]

@[simp] theorem clocks_endGroupMove (s : State) : clocks (endGroupMove s) = clocks s := by simp [endGroupMove]

@[simp] theorem clocks_pacerRelease (s : State) : clocks (pacerRelease s) = clocks s := by simp [pacerRelease]

@[simp] theorem clocks_groupEmergency (s : State) : clocks (groupEmergency s) = clocks s := by simp [groupEmergency]

@[simp] theorem clocks_groupBackup (d : Frac) (s : State) : clocks (groupBackup d s) = clocks s := by simp [groupBackup]

@[simp] theorem clocks_groupTakeUp (s : State) : clocks (groupTakeUp s) = clocks s := by simp [groupTakeUp]

@[simp] theorem clocks_paceAxis (v : Frac) (a : Nat) (s : State) : clocks (paceAxis v s a) = clocks s := by simp [paceAxis]

@[simp] theorem clocks_groupRests (s : State) : clocks (groupRests s) = clocks s := by
  unfold groupRests
  extract_lets t wasEmergency s₁ s₂
  have h : clocks s₂ = clocks s := by
    refine (clocks_foldl (fun s a => ?_) _ _).trans (clocks_setTransport ..)
    simp only
    repeat' split
    all_goals simp
  split
  · simp [h]
  · split
    · exact h
    · split <;> simp [h]

@[simp] theorem clocks_groupUpdate (s : State) : clocks (groupUpdate s) = clocks s := by simp [groupUpdate]

@[simp] theorem clocks_axisUpdate (a : Nat) (s : State) : clocks (axisUpdate a s) = clocks s := by simp [axisUpdate]

@[simp] theorem clocks_speedReached (s : State) : clocks (speedReached s) = clocks s := by simp [speedReached]

/-! ### Machine/Weir -/

@[simp] theorem clocks_weirStop (s : State) : clocks (weirStop s) = clocks s := by simp [weirStop]

@[simp] theorem clocks_weirStopped (s : State) : clocks (weirStopped s) = clocks s := by simp [weirStopped]

@[simp] theorem clocks_weirEvaluate (s : State) : clocks (weirEvaluate s) = clocks s := by
  unfold weirEvaluate
  repeat' split
  all_goals simp

@[simp] theorem clocks_holdAsserted (s : State) : clocks (holdAsserted s) = clocks s := by simp [holdAsserted]

@[simp] theorem clocks_startBackup (s : State) : clocks (startBackup s) = clocks s := by simp [startBackup]

@[simp] theorem clocks_restartBegin (s : State) : clocks (restartBegin s) = clocks s := by simp [restartBegin]

@[simp] theorem clocks_recordRestart (result : Nat) (offset epsilon : Int) (score : Nat) (s : State) :
    clocks (recordRestart result offset epsilon score s) = clocks s := by
  simp [recordRestart]

@[simp] theorem clocks_restartUnmatched (s : State) : clocks (restartUnmatched s) = clocks s := by simp [restartUnmatched]

@[simp] theorem clocks_backupReached (s : State) : clocks (backupReached s) = clocks s := by simp [backupReached]

@[simp] theorem clocks_freeWords (n : Nat) (s : State) : clocks (freeWords n s).2 = clocks s := by
  induction n generalizing s with
  | zero => rfl
  | succ n ih => simp [freeWords, ih]

@[simp] theorem clocks_takeFormed (l : LineSlot) (s : State) : clocks (takeFormed l s) = clocks s := by simp [takeFormed]

@[simp] theorem clocks_commitSpeculative (l : LineSlot) (s : State) : clocks (commitSpeculative l s) = clocks s := by
  simp [commitSpeculative]

@[simp] theorem clocks_attemptFails (s : State) : clocks (attemptFails s) = clocks s := by simp [attemptFails]

@[simp] theorem clocks_readSpeculative (lo hi : Nat) (s : State) : clocks (readSpeculative lo hi s) = clocks s := by
  simp [readSpeculative]

@[simp] theorem clocks_restartDecision (s : State) : clocks (restartDecision s) = clocks s := by simp [restartDecision]

@[simp] theorem clocks_attemptFailed (s : State) : clocks (attemptFailed s) = clocks s := by simp [attemptFailed]

@[simp] theorem clocks_weirEnd (s : State) : clocks (weirEnd s) = clocks s := clocks_mk ..

@[simp] theorem clocks_weirBegin (s : State) : clocks (weirBegin s) = clocks s := by simp [weirBegin]

/-! ### Machine/Capture -/

@[simp] theorem clocks_setCapture (f : RefCapture → RefCapture) (s : State) : clocks (setCapture f s) = clocks s := clocks_mk ..

@[simp] theorem clocks_moveStrip (a : Nat) (target : Int) (s : State) : clocks (moveStrip a target s) = clocks s := by
  simp [moveStrip]

@[simp] theorem clocks_startPhase (st : RefState) (pass : Nat) (s : State) : clocks (startPhase st pass s) = clocks s := by
  simp [startPhase]

@[simp] theorem clocks_nextPhase (st : RefState) (pass : Nat) (s : State) : clocks (nextPhase st pass s) = clocks s := by
  simp [nextPhase]

@[simp] theorem clocks_dropTriggers (s : State) : clocks (dropTriggers s) = clocks s := clocks_mk ..

@[simp] theorem clocks_startAttempt (n : Nat) (s : State) : clocks (startAttempt n s) = clocks s := by simp [startAttempt]

@[simp] theorem clocks_captureBegins (s : State) : clocks (captureBegins s) = clocks s := by
  simp only [captureBegins]
  split <;> simp

@[simp] theorem keeps_writeRefCapture (v : Bool) (s : State) : (writeRefCapture v s).Keeps s := by simp [writeRefCapture]

@[simp] theorem clocks_endCapture (s : State) : clocks (endCapture s) = clocks s := by simp [endCapture]

@[simp] theorem clocks_moveOut (s : State) : clocks (moveOut s) = clocks s := by
  unfold moveOut
  split <;> simp

@[simp] theorem clocks_captureMoveDone (s : State) : clocks (captureMoveDone s) = clocks s := by
  unfold captureMoveDone
  repeat' split
  all_goals simp

@[simp] theorem clocks_captureMoveTimeout (s : State) : clocks (captureMoveTimeout s) = clocks s := by
  unfold captureMoveTimeout
  split <;> simp

@[simp] theorem clocks_capturePhaseEnd (s : State) : clocks (capturePhaseEnd s) = clocks s := by
  simp only [capturePhaseEnd]
  repeat' split
  all_goals simp

@[simp] theorem clocks_acceptCapture (vs : List Verdict) (s : State) : clocks (acceptCapture vs s) = clocks s := by
  simp [acceptCapture]

@[simp] theorem clocks_noteLostSums (s : State) : clocks (noteLostSums s) = clocks s := by
  unfold noteLostSums
  split <;> simp

@[simp] theorem clocks_captureEvaluate (s : State) : clocks (captureEvaluate s) = clocks s := by simp [captureEvaluate]

@[simp] theorem clocks_abandonCapture (fault : Bool) (s : State) : clocks (abandonCapture fault s) = clocks s := by
  simp only [abandonCapture]
  repeat' split
  all_goals simp

/-! ### Machine/Axis -/

@[simp] theorem clocks_command11 (a : Nat) (task : AxisTask) (target : Option Int) (g : AxisGoal) (s : State) :
    clocks (command11 a task target g s) = clocks s := by
  simp [command11]

@[simp] theorem clocks_commandMoveAbs (a : Nat) (s : State) : clocks (commandMoveAbs a s) = clocks s := by simp [commandMoveAbs]

@[simp] theorem clocks_commandMoveRel (a : Nat) (s : State) : clocks (commandMoveRel a s) = clocks s := by simp [commandMoveRel]

@[simp] theorem clocks_commandVelocity (a : Nat) (s : State) : clocks (commandVelocity a s) = clocks s := by simp [commandVelocity]

@[simp] theorem clocks_jogWritten (a : Nat) (s : State) : clocks (jogWritten a s) = clocks s := by simp [jogWritten]

@[simp] theorem clocks_commandStop (a : Nat) (s : State) : clocks (commandStop a s) = clocks s := by simp [commandStop]

@[simp] theorem clocks_commandHome (a : Nat) (s : State) : clocks (commandHome a s) = clocks s := by simp [commandHome]

@[simp] theorem clocks_commandFollow (a : Nat) (s : State) : clocks (commandFollow a s) = clocks s := by simp [commandFollow]

@[simp] theorem clocks_commandClearError (a : Nat) (s : State) : clocks (commandClearError a s) = clocks s := by
  simp [commandClearError]

@[simp] theorem keeps_writeAxisCommand (a code : Nat) (s : State) : (writeAxisCommand a code s).Keeps s := by
  unfold writeAxisCommand
  repeat' split
  all_goals simp

@[simp] theorem clocks_vdsOvercurrent (a : Nat) (s : State) : clocks (vdsOvercurrent a s) = clocks s := by simp [vdsOvercurrent]

@[simp] theorem clocks_gateUndervoltage (s : State) : clocks (gateUndervoltage s) = clocks s := by simp [gateUndervoltage]

@[simp] theorem clocks_openCoil (a : Nat) (s : State) : clocks (openCoil a s) = clocks s := by simp [openCoil]

@[simp] theorem clocks_loadEstimate (a : Nat) (uA uB iA iB : Int) (s : State) :
    clocks (loadEstimate a uA uB iA iB s) = clocks s := by
  simp only [loadEstimate]
  repeat' split
  all_goals simp

@[simp] theorem clocks_emergencyOf (a : Nat) (s : State) : clocks (emergencyOf a s) = clocks s := by simp [emergencyOf]

@[simp] theorem clocks_emergencyAll (s : State) : clocks (emergencyAll s) = clocks s := by simp [emergencyAll]

@[simp] theorem clocks_stallAxis (a : Nat) (s : State) : clocks (stallAxis a s) = clocks s := by
  simp only [stallAxis]
  repeat' split
  all_goals simp

@[simp] theorem clocks_holdDelayExpires (a : Nat) (s : State) : clocks (holdDelayExpires a s) = clocks s := by
  simp [holdDelayExpires]

@[simp] theorem clocks_standstillOff (a : Nat) (s : State) : clocks (standstillOff a s) = clocks s := by simp [standstillOff]

@[simp] theorem clocks_mrefEdge (a : Nat) (active : Bool) (s : State) : clocks (mrefEdge a active s) = clocks s := by
  simp only [mrefEdge]
  repeat' split
  all_goals simp

@[simp] theorem clocks_homeTimeout (a : Nat) (s : State) : clocks (homeTimeout a s) = clocks s := by
  unfold homeTimeout
  split <;> simp

@[simp] theorem clocks_pacerUpdate (s : State) : clocks (pacerUpdate s) = clocks s := by simp [pacerUpdate]

@[simp] theorem clocks_endLists (reason : Nat) (s : State) : clocks (endLists reason s) = clocks s := by simp [endLists]

@[simp] theorem clocks_mstopEffect (s : State) : clocks (mstopEffect s) = clocks s := by simp [mstopEffect]

@[simp] theorem clocks_mstopAssert (s : State) : clocks (mstopAssert s) = clocks s := by simp [mstopAssert]

@[simp] theorem clocks_mstopRelease (s : State) : clocks (mstopRelease s) = clocks s := by simp [mstopRelease]

@[simp] theorem clocks_motionFault (s : State) : clocks (motionFault s) = clocks s := by simp [motionFault]

@[simp] theorem clocks_hardwareStop (a : Nat) (s : State) : clocks (hardwareStop a s) = clocks s := by simp [hardwareStop]

@[simp] theorem clocks_mcStop (s : State) : clocks (mcStop s) = clocks s := by simp [mcStop]

@[simp] theorem clocks_motionResume (s : State) : clocks (motionResume s) = clocks s := by simp [motionResume]

@[simp] theorem keeps_writeMotionClear (v : Nat) (s : State) : (writeMotionClear v s).Keeps s := clocks_mk ..

@[simp] theorem keeps_writeAxisClear (a v : Nat) (s : State) : (writeAxisClear a v s).Keeps s := by simp [writeAxisClear]

/-! ### Machine/Indicators -/

@[simp] theorem clocks_setLevels (l : List (Nat × Nat)) (s : State) : clocks (setLevels l s) = clocks s := clocks_mk ..

@[simp] theorem clocks_indAdvance (i : Nat) (s : State) : clocks (indAdvance i s) = clocks s := by simp [indAdvance]

@[simp] theorem clocks_indGoto (i pc : Nat) (s : State) : clocks (indGoto i pc s) = clocks s := by simp [indGoto]

@[simp] theorem clocks_indDo (i : Nat) (op : IndOp) (s : State) : clocks (indDo i op s) = clocks s := by
  unfold indDo
  split <;> simp

@[simp] theorem clocks_indStep (i : Nat) (kind : IndOp → Bool) (s : State) : clocks (indStep i kind s) = clocks s := by
  unfold indStep
  split <;> simp

@[simp] theorem clocks_rampTick (i : Nat) (s : State) : clocks (rampTick i s) = clocks s := by
  unfold rampTick
  split <;> simp

@[simp] theorem clocks_waitTick (i : Nat) (s : State) : clocks (waitTick i s) = clocks s := by simp [waitTick]

@[simp] theorem clocks_indRun (i n : Nat) (s : State) : clocks (indRun i n s) = clocks s := by
  induction n generalizing s with
  | zero => rfl
  | succ n ih => unfold indRun; split <;> simp [ih]

@[simp] theorem clocks_engineTick (i : Nat) (s : State) : clocks (engineTick i s) = clocks s := by simp [engineTick]

@[simp] theorem keeps_writeEngineRun (i v : Nat) (s : State) : (writeEngineRun i v s).Keeps s := by simp [writeEngineRun]

@[simp] theorem keeps_writeIndLevel (sink v : Nat) (s : State) : (writeIndLevel sink v s).Keeps s := by simp [writeIndLevel]

/-! ### Machine/Image -/

@[simp] theorem clocks_setSlotImage (n : Nat) (x : ImageSlot) (s : State) : clocks (setSlotImage n x s) = clocks s := by
  simp [setSlotImage]

/-! ### Machine/Mailbox -/

@[simp] theorem clocks_wakeDomain (d : Nat) (s : State) : clocks (wakeDomain d s) = clocks s := by simp [wakeDomain]

@[simp] theorem clocks_emptyRings (l : List Nat) (s : State) : clocks (emptyRings l s) = clocks s := by simp [emptyRings]

@[simp] theorem clocks_holdPc (s : State) : clocks (holdPc s) = clocks s := by simp [holdPc]

@[simp] theorem clocks_dropSends (l : List Nat) (s : State) : clocks (dropSends l s) = clocks s := by simp [dropSends]

@[simp] theorem clocks_wakeFor (d : Nat) (s : State) : clocks (wakeFor d s) = clocks s := by simp [wakeFor]

@[simp] theorem clocks_rewake (s : State) : clocks (rewake s) = clocks s := by simp [rewake]

@[simp] theorem clocks_mailboxSend (d : Nat) (m : List Byte) (s : State) : clocks (mailboxSend d m s) = clocks s := by
  simp [mailboxSend]

@[simp] theorem clocks_nextSend (d : Nat) (s : State) : clocks (nextSend d s) = clocks s := by
  unfold nextSend
  split <;> simp

@[simp] theorem clocks_hostSendEnds (code : Nat) (s : State) : clocks (hostSendEnds code s) = clocks s := by
  unfold hostSendEnds
  split <;> simp

@[simp] theorem clocks_hostMessageIn (m : Machine.Message) (s : State) : clocks (hostMessageIn m s) = clocks s := by
  simp [hostMessageIn]

@[simp] theorem clocks_mailboxDeliver (d : Nat) (s : State) : clocks (mailboxDeliver d s) = clocks s := by
  simp only [mailboxDeliver]
  split <;> simp

@[simp] theorem clocks_mailboxTimeout (d : Nat) (s : State) : clocks (mailboxTimeout d s) = clocks s := by simp [mailboxTimeout]

@[simp] theorem clocks_mailboxRelease (d : Nat) (s : State) : clocks (mailboxRelease d s) = clocks s := by simp [mailboxRelease]

@[simp] theorem clocks_pcOff (s : State) : clocks (pcOff s) = clocks s := by simp [pcOff]

@[simp] theorem clocks_pcRelease (s : State) : clocks (pcRelease s) = clocks s := by simp [pcRelease]

@[simp] theorem keeps_writeHmSend (w : Waiting) (data : List Byte) (s : State) : (writeHmSend w data s).Keeps s := by
  simp [writeHmSend]

@[simp] theorem keeps_writeMhRelease (v : Nat) (s : State) : (writeMhRelease v s).Keeps s := by
  unfold writeMhRelease
  split <;> simp

@[simp] theorem keeps_writeMboxClear (v : Nat) (s : State) : (writeMboxClear v s).Keeps s := clocks_mk ..

/-! ### Machine/TwoWire -/

@[simp] theorem clocks_twFree (b : Nat) (s : State) : clocks (twFree b s) = clocks s := by simp [twFree]

@[simp] theorem clocks_twTest (b : Nat) (s : State) : clocks (twTest b s) = clocks s := by simp [twTest]

@[simp] theorem keeps_writeTwField (b i v : Nat) (s : State) : (writeTwField b i v s).Keeps s := by simp [writeTwField]

@[simp] theorem keeps_writeTwControl (b v : Nat) (s : State) : (writeTwControl b v s).Keeps s := by
  unfold writeTwControl
  repeat' split
  all_goals simp

@[simp] theorem clocks_addJob (b : Nat) (j : TwJob) (s : State) : clocks (addJob b j s) = clocks s := by simp [addJob]

@[simp] theorem keeps_writeTwRequest (data : List Byte) (s : State) : (writeTwRequest data s).Keeps s := by
  simp only [writeTwRequest]
  repeat' split
  all_goals simp

@[simp] theorem clocks_twLog (x : TwOut) : clocks (twLog x) = clocks x.1 := by simp [twLog]

@[simp] theorem clocks_endRequest (st acked : Nat) (bytes : List Byte) (s : State) :
    clocks (endRequest st acked bytes s) = clocks s :=
  clocks_mk ..

@[simp] theorem clocks_nackRequest (b st acked : Nat) (s : State) : clocks (nackRequest b st acked s) = clocks s := by
  simp [nackRequest]

@[simp] theorem clocks_pollFailed (i : Nat) (x : TwOut) : clocks (pollFailed i x).1 = clocks x.1 := by
  simp only [pollFailed]
  split <;> simp

@[simp] theorem clocks_pollRead (i : Nat) (bytes : List Byte) (s : State) : clocks (pollRead i bytes s) = clocks s := clocks_mk ..

@[simp] theorem clocks_foundTile (p : Nat) (r : TileFound) (s : State) : clocks (foundTile p r s) = clocks s := clocks_mk ..

@[simp] theorem clocks_tilesAbsent (p : Nat) (s : State) : clocks (tilesAbsent p s) = clocks s := by simp [tilesAbsent]

@[simp] theorem clocks_readTile (p : Nat) (s : State) : clocks (readTile p s) = clocks s := by simp [readTile]

@[simp] theorem clocks_tileDone (p : Nat) (r : TileFound) (s : State) : clocks (tileDone p r s) = clocks s := by simp [tileDone]

@[simp] theorem clocks_discoveryBegin (s : State) : clocks (discoveryBegin s) = clocks s := by simp [discoveryBegin]

@[simp] theorem clocks_tileRead (b p : Nat) (again : Bool) (r : TwRun) (s : State) :
    clocks (tileRead b p again r s) = clocks s := by
  simp [tileRead]

@[simp] theorem clocks_dropWork (b : Nat) (stuck : Bool) (w : TwWork) (x : TwOut) :
    clocks (dropWork b stuck w x).1 = clocks x.1 := by
  simp only [dropWork]
  repeat' split
  all_goals simp

@[simp] theorem clocks_endOrRetry (b code : Nat) (r : TwRun) (x : TwOut) : clocks (endOrRetry b code r x).1 = clocks x.1 := by
  unfold endOrRetry
  repeat' split
  all_goals simp

@[simp] theorem clocks_twEnds (b : Nat) (r : TwRun) (s : State) : clocks (twEnds b r s).1 = clocks s := by
  unfold twEnds
  repeat' split
  all_goals simp

@[simp] theorem clocks_twOff (b : Nat) (x : TwOut) : clocks (twOff b x).1 = clocks x.1 := by
  simp [twOff]

@[simp] theorem clocks_twAfter (b : Nat) (x : TwOut) : clocks (twAfter b x).1 = clocks x.1 := by
  unfold twAfter
  split <;> simp

@[simp] theorem clocks_loseArbitration (b : Nat) (r : TwRun) (observed : Option Nat) (s : State) :
    clocks (loseArbitration b r observed s).1 = clocks s := by
  simp only [loseArbitration]
  repeat' split
  all_goals simp

@[simp] theorem clocks_twStart (b : Nat) (s : State) : clocks (twStart b s) = clocks s := by
  unfold twStart
  repeat' split
  all_goals simp

@[simp] theorem clocks_twCarry (b : Nat) (seen : List TwSeen) (s : State) : clocks (twCarry b seen s).1 = clocks s := by
  unfold twCarry
  repeat' split
  all_goals simp

@[simp] theorem clocks_twTransaction (b : Nat) (seen : List TwSeen) (s : State) : clocks (twTransaction b seen s) = clocks s := by
  simp [twTransaction]

@[simp] theorem clocks_twTimeout (b : Nat) (seen : List TwSeen) (s : State) : clocks (twTimeout b seen s) = clocks s := by
  simp only [twTimeout]
  split
  · simp
  · repeat' split
    all_goals simp

@[simp] theorem clocks_twPoll (b sensor : Nat) (seen : List TwSeen) (s : State) : clocks (twPoll b sensor seen s) = clocks s := by
  simp [twPoll]

@[simp] theorem clocks_twRetriesEnd (s : State) : clocks (twRetriesEnd s) = clocks s := by
  simp [twRetriesEnd]

@[simp] theorem clocks_twStuck (b line : Nat) (s : State) : clocks (twStuck b line s) = clocks s := by
  simp [twStuck]

@[simp] theorem clocks_twTested (b : Nat) (t : TwTest) (s : State) : clocks (twTested b t s) = clocks s := by
  unfold twTested
  repeat' split
  all_goals simp

@[simp] theorem keeps_writeTwEnable (b v : Nat) (s : State) : (writeTwEnable b v s).Keeps s := by simp [writeTwEnable]

@[simp] theorem clocks_twPowerUp (s : State) : clocks (twPowerUp s) = clocks s := by simp [twPowerUp]

@[simp] theorem clocks_twServe (b : Nat) (tr : TwTransfer) (s : State) : clocks (twServe b tr s) = clocks s := by
  unfold twServe
  split <;> simp

@[simp] theorem clocks_twTarget (b address : Nat) (tr : TwTransfer) (s : State) : clocks (twTarget b address tr s) = clocks s := by
  simp [twTarget]

@[simp] theorem keeps_writeTwScratch (data : List Byte) (s : State) : (writeTwScratch data s).Keeps s := by simp [writeTwScratch]

@[simp] theorem keeps_writeTwClear (v : Nat) (s : State) : (writeTwClear v s).Keeps s := clocks_mk ..

/-! ### Machine/Fault -/

@[simp] theorem clocks_setGov (level cap : Nat) (s : State) : clocks (setGov level cap s) = clocks s := clocks_mk ..

@[simp] theorem clocks_lowerGov (level : Nat) (s : State) : clocks (lowerGov level s) = clocks s := by simp [lowerGov]

@[simp] theorem clocks_govMode (m : Mode) (s : State) : clocks (govMode m s) = clocks s := by simp [govMode]

@[simp] theorem clocks_domainLoses (d : Nat) (s : State) : clocks (domainLoses d s) = clocks s := by simp [domainLoses]

@[simp] theorem clocks_domainOff (d : Nat) (s : State) : clocks (domainOff d s) = clocks s := by simp [domainOff]

@[simp] theorem clocks_domainsDown (m : Mode) (s : State) : clocks (domainsDown m s) = clocks s := by
  refine clocks_foldl (fun s d => ?_) _ s
  split <;> simp

@[simp] theorem clocks_abandonTransition (s : State) : clocks (abandonTransition s) = clocks s := clocks_mk ..

@[simp] theorem clocks_faultDomains (s : State) : clocks (faultDomains s) = clocks s := by simp [faultDomains]

@[simp] theorem clocks_faultActions (s : State) : clocks (faultActions s) = clocks s := by simp [faultActions]

@[simp] theorem clocks_enterFault (s : State) : clocks (enterFault s) = clocks s := by simp [enterFault]

@[simp] theorem clocks_raise (l : List Event) (s : State) : clocks (raise l s) = clocks s := by simp [raise]

@[simp] theorem clocks_raiseConditions (codes : List Nat) (now others : List Event) (s : State) :
    clocks (raiseConditions codes now others s) = clocks s := by
  simp [raiseConditions]

@[simp] theorem clocks_sectionBad (source : Nat) (s : State) : clocks (sectionBad source s) = clocks s := by simp [sectionBad]

@[simp] theorem clocks_startMc (s : State) : clocks (startMc s) = clocks s := by simp [startMc]

@[simp] theorem clocks_domainGains (d : Nat) (s : State) : clocks (domainGains d s) = clocks s := by simp [domainGains]

@[simp] theorem clocks_domainUp (d : Nat) (s : State) : clocks (domainUp d s) = clocks s := by simp [domainUp]

@[simp] theorem clocks_domainPowerUp (d : Nat) (s : State) : clocks (domainPowerUp d s) = clocks s := by simp [domainPowerUp]

@[simp] theorem clocks_comparePower (s : State) : clocks (comparePower s) = clocks s := by simp [comparePower]

/-! ### Machine/Modes -/

@[simp] theorem clocks_refuseMode (code : Nat) (s : State) : clocks (refuseMode code s) = clocks s := clocks_mk ..

@[simp] theorem clocks_setTransition (t : Transition) (s : State) : clocks (setTransition t s) = clocks s := clocks_mk ..

@[simp] theorem clocks_startReady (s : State) : clocks (startReady s) = clocks s := by simp [startReady]

@[simp] theorem clocks_startStandby (s : State) : clocks (startStandby s) = clocks s := by simp [startStandby]

@[simp] theorem clocks_startStop (s : State) : clocks (startStop s) = clocks s := by simp [startStop]

@[simp] theorem clocks_startActions (target : Mode) (s : State) : clocks (startActions target s) = clocks s := by
  unfold startActions
  split <;> simp only [clocks_startReady, clocks_startStandby, clocks_abandonCapture, clocks_startStop, clocks_startMc]

@[simp] theorem clocks_startTransition (t : Transition) (s : State) : clocks (startTransition t s) = clocks s := by
  simp [startTransition]

@[simp] theorem keeps_writeModeRequest (target : Mode) (s : State) : (writeModeRequest target s).Keeps s := by
  simp only [writeModeRequest]
  repeat' split
  all_goals simp

@[simp] theorem keeps_writeModeInvalid (s : State) : (writeModeInvalid s).Keeps s := by simp [writeModeInvalid]

@[simp] theorem keeps_writeMode (code : Nat) (s : State) : (writeMode code s).Keeps s := by
  unfold writeMode
  split <;> simp

@[simp] theorem clocks_learnPort (p : Nat) (s : State) : clocks (learnPort p s) = clocks s := by simp [learnPort]

@[simp] theorem clocks_enterReady (s : State) : clocks (enterReady s) = clocks s := by simp [enterReady]

@[simp] theorem clocks_endRunMode (s : State) : clocks (endRunMode s) = clocks s := by simp [endRunMode]

@[simp] theorem clocks_enterRun (target : Mode) (s : State) : clocks (enterRun target s) = clocks s := by simp [enterRun]

@[simp] theorem clocks_endActions (target : Mode) (s : State) : clocks (endActions target s) = clocks s := by
  unfold endActions
  split <;> simp only [clocks_enterReady, clocks_enterRun, clocks_endRunMode, clocks_motionResume]

@[simp] theorem clocks_restartLevels (s : State) : clocks (restartLevels s) = clocks s := clocks_mk ..

@[simp] theorem clocks_reachMode (m : Mode) (s : State) : clocks (reachMode m s) = clocks s := by
  unfold reachMode
  split <;> simp

@[simp] theorem clocks_transitionDone (s : State) : clocks (transitionDone s) = clocks s := by
  unfold transitionDone
  split <;> simp

@[simp] theorem clocks_sessionLost (s : State) : clocks (sessionLost s) = clocks s := by
  unfold sessionLost
  repeat' split
  all_goals simp

@[simp] theorem clocks_sessionTimeout (s : State) : clocks (sessionTimeout s) = clocks s := by simp [sessionTimeout]

/-! ### Machine/Power -/

@[simp] theorem clocks_setPwr (f : Power → Power) (s : State) : clocks (setPwr f s) = clocks s := clocks_mk ..

@[simp] theorem clocks_afeFault (k : Nat) (s : State) : clocks (afeFault k s) = clocks s := by simp [afeFault]

@[simp] theorem clocks_voltChecks (s : State) : clocks (voltChecks s) = clocks s := by simp [voltChecks]

@[simp] theorem clocks_afeRestore (k : Nat) (s : State) : clocks (afeRestore k s) = clocks s := by simp [afeRestore]

@[simp] theorem clocks_tempSample (centi : List Int) (s : State) : clocks (tempSample centi s) = clocks s := by simp [tempSample]

@[simp] theorem clocks_processSample (readings : List Nat) (s : State) : clocks (processSample readings s) = clocks s := by
  simp [processSample]

@[simp] theorem clocks_pllLanes (n : Nat) (s : State) : clocks (pllLanes n s) = clocks s := by simp [pllLanes]

@[simp] theorem clocks_pllLanesBack (n : Nat) (s : State) : clocks (pllLanesBack n s) = clocks s := by
  unfold pllLanesBack
  split <;> simp

@[simp] theorem clocks_noteUnlocks (l : List Nat) (s : State) : clocks (noteUnlocks l s) = clocks s := by simp [noteUnlocks]

@[simp] theorem clocks_pllUnlock (n : Nat) (s : State) : clocks (pllUnlock n s) = clocks s := by simp [pllUnlock]

@[simp] theorem clocks_pllRelock (n : Nat) (s : State) : clocks (pllRelock n s) = clocks s := by simp [pllRelock]

@[simp] theorem clocks_refclkLost (s : State) : clocks (refclkLost s) = clocks s := by simp [refclkLost]

@[simp] theorem clocks_setGovernor (f : Governor → Governor) (s : State) : clocks (setGovernor f s) = clocks s := by
  simp [setGovernor]

@[simp] theorem clocks_govStep (g : Option GovStep) (s : State) : clocks (govStep g s) = clocks s := by simp [govStep]

@[simp] theorem clocks_govUp (s : State) : clocks (govUp s) = clocks s := by simp [govUp]

@[simp] theorem clocks_govDown (s : State) : clocks (govDown s) = clocks s := by
  simp only [govDown]
  repeat' split
  all_goals simp

@[simp] theorem clocks_govEvaluate (s : State) : clocks (govEvaluate s) = clocks s := by simp [govEvaluate]

@[simp] theorem clocks_governorEvaluate (mw : Nat) (s : State) : clocks (governorEvaluate mw s) = clocks s := by
  simp [governorEvaluate]

@[simp] theorem keeps_writeGovEnable (v : Nat) (s : State) : (writeGovEnable v s).Keeps s := by simp [writeGovEnable]

@[simp] theorem keeps_writeGovHalf (v : Nat) (s : State) : (writeGovHalf v s).Keeps s := by
  unfold writeGovHalf
  split
  · rfl
  · simp only [keeps_ok]
    split <;> simp

@[simp] theorem keeps_writeRailClear (v : Nat) (s : State) : (writeRailClear v s).Keeps s := by simp [writeRailClear]

@[simp] theorem keeps_writeMonClear (v : Nat) (s : State) : (writeMonClear v s).Keeps s := by simp [writeMonClear]

@[simp] theorem keeps_writeGovClear (v : Nat) (s : State) : (writeGovClear v s).Keeps s := by simp [writeGovClear]

/-! ### Machine/Flash -/

@[simp] theorem clocks_setFlash (f : Flash → Flash) (s : State) : clocks (setFlash f s) = clocks s := clocks_mk ..

@[simp] theorem clocks_flashFailed (s : State) : clocks (flashFailed s) = clocks s := by simp [flashFailed]

@[simp] theorem clocks_readBack (s : State) : clocks (readBack s).2 = clocks s := by
  unfold readBack
  split <;> simp

@[simp] theorem clocks_eraseBlock (i : Nat) (s : State) : clocks (eraseBlock i s) = clocks s := by simp [eraseBlock]

@[simp] theorem clocks_logBlockNew (s : State) : clocks (logBlockNew s).2 = clocks s := by
  simp only [logBlockNew]
  repeat' split
  all_goals simp

@[simp] theorem clocks_appendLog (e : LogEntry) (s : State) : clocks (appendLog e s) = clocks s := by
  simp only [appendLog]
  split <;> simp

@[simp] theorem clocks_logFlush (ok : Bool) (s : State) : clocks (logFlush ok s) = clocks s := by simp [logFlush]

@[simp] theorem clocks_clearMarker (s : State) : clocks (clearMarker s) = clocks s := by
  simp only [clearMarker]
  split <;> simp

@[simp] theorem keeps_writeLogClear (v : Bool) (s : State) : (writeLogClear v s).Keeps s := by simp [writeLogClear]

@[simp] theorem clocks_appendRecord (r : LeavenRecord) (s : State) : clocks (appendRecord r s) = clocks s := by simp [appendRecord]

@[simp] theorem clocks_reclaim (s : State) : clocks (reclaim s) = clocks s := by
  unfold reclaim
  split <;> simp

@[simp] theorem clocks_leavenReclaim (ok : Bool) (s : State) : clocks (leavenReclaim ok s) = clocks s := by simp [leavenReclaim]

@[simp] theorem clocks_storeFailed (r : LeavenRecord) (s : State) : clocks (storeFailed r s) = clocks s := by simp [storeFailed]

@[simp] theorem clocks_storeRecord (r : LeavenRecord) (s : State) : clocks (storeRecord r s) = clocks s := by simp [storeRecord]

@[simp] theorem clocks_recordStore (ok : Bool) (s : State) : clocks (recordStore ok s) = clocks s := by
  unfold recordStore
  split <;> simp

@[simp] theorem clocks_appendBoot (slot : Nat) (trial : Bool) (count : Nat) (s : State) :
    clocks (appendBoot slot trial count s) = clocks s := by
  simp [appendBoot]

@[simp] theorem clocks_patrolCount (s : State) : clocks (patrolCount s).2 = clocks s := by
  simp only [patrolCount]
  repeat' split
  all_goals simp

@[simp] theorem clocks_flashPatrol (s : State) : clocks (flashPatrol s) = clocks s := by simp [flashPatrol]

@[simp] theorem keeps_writeFlashClear (v : Nat) (s : State) : (writeFlashClear v s).Keeps s := by simp [writeFlashClear]

@[simp] theorem clocks_cisternLoad (s : State) : clocks (cisternLoad s).2 = clocks s := clocks_mk ..

@[simp] theorem clocks_telemetrySnapshot (s : State) : clocks (telemetrySnapshot s) = clocks s := by simp [telemetrySnapshot]

/-! ### Machine/Update -/

@[simp] theorem clocks_setUpd (f : Update → Update) (s : State) : clocks (setUpd f s) = clocks s := clocks_mk ..

@[simp] theorem clocks_updChange (st : UpdState) (s : State) : clocks (updChange st s) = clocks s := by simp [updChange]

@[simp] theorem clocks_updFail (result : Nat) (s : State) : clocks (updFail result s) = clocks s := by simp [updFail]

@[simp] theorem keeps_updBegin (s : State) : (updBegin s).Keeps s := by simp [updBegin]

@[simp] theorem keeps_updVerify (s : State) : (updVerify s).Keeps s := by simp [updVerify]

@[simp] theorem clocks_raiseSvn (s : State) : clocks (raiseSvn s) = clocks s := by simp [raiseSvn]

@[simp] theorem keeps_updConfirm (s : State) : (updConfirm s).Keeps s := by simp [updConfirm]

@[simp] theorem keeps_updAbort (s : State) : (updAbort s).Keeps s := by simp [updAbort]

@[simp] theorem keeps_writeUpdateData (offset : Nat) (data : List Byte) (given : Option Bool) (s : State) :
    (writeUpdateData offset data given s).Keeps s := by
  simp only [writeUpdateData]
  repeat' split
  all_goals simp

/-! ### Machine/Values -/

@[simp] theorem clocks_storeBulk (index sub : Nat) (data : List Byte) (s : State) :
    clocks (storeBulk index sub data s) = clocks s := by
  unfold storeBulk
  split <;> simp

@[simp] theorem clocks_afterBulk (index : Nat) (s : State) : clocks (afterBulk index s) = clocks s := by simp [afterBulk]

@[simp] theorem clocks_mstopWritten (was : Bool) (s : State) : clocks (mstopWritten was s) = clocks s := by simp [mstopWritten]

@[simp] theorem clocks_toneWritten (p key : Nat) (s : State) : clocks (toneWritten p key s) = clocks s := by simp [toneWritten]

@[simp] theorem clocks_afterValue (key : Nat) (old s : State) : clocks (afterValue key old s) = clocks s := by
  unfold afterValue
  repeat' split
  all_goals simp

/-! ### Machine/ConfigSets -/

@[simp] theorem clocks_setCfg (f : ConfigSets → ConfigSets) (s : State) : clocks (setCfg f s) = clocks s := clocks_mk ..

@[simp] theorem clocks_defaultKey (key : Nat) (s : State) : clocks (defaultKey key s) = clocks s := by simp [defaultKey]

@[simp] theorem clocks_defaultKeys (l : List Nat) (s : State) : clocks (defaultKeys l s) = clocks s := by simp [defaultKeys]

@[simp] theorem clocks_checkBindings (s : State) : clocks (checkBindings s).1 = clocks s := by
  refine clocks_foldl_fst (fun a b => ?_) _ (s, 0)
  split <;> simp

@[simp] theorem clocks_storeEntry (e : Nat × List Byte) (s : State) : clocks (storeEntry s e) = clocks s := by
  unfold storeEntry
  split <;> simp

/-- The handlers of values that sets hold. -/
theorem handlerKeeps_rwHandler (index sub v : Nat) : HandlerKeeps (rwHandler index sub v) := by
  simp [rwHandler]

@[simp] theorem clocks_settleKey (old : State) (written : List Nat) (a : State × Nat) (key : Nat) :
    clocks (settleKey old written a key).1 = clocks a.1 := by
  simp only [settleKey]
  cases eh : rwHandler (key / 256) (key % 256) (sparseGet key (keyDefault key) a.1.dict.held) with
  | none => simp only; split <;> simp
  | some h =>
    have hk := handlerKeeps_rwHandler _ _ _ h eh (setKey key (sparseGet key (keyDefault key) old.dict.held) a.1)
    simp only
    split
    · next e => exact (hk.ok e).trans (clocks_setKey ..)
    · next e => exact (hk.later e).trans (clocks_setKey ..)
    · simp

@[simp] theorem clocks_applySet (entries : List (Nat × List Byte)) (old : State) : clocks (applySet entries old) = clocks old := by
  simp [applySet]

@[simp] theorem clocks_setCfgSlot (i : Nat) (x : ConfigSlot) (s : State) : clocks (setCfgSlot i x s) = clocks s := by
  simp [setCfgSlot]

@[simp] theorem keeps_writeCommit (v : Bool) (s : State) : (writeCommit v s).Keeps s := by simp [writeCommit]

@[simp] theorem clocks_commitComplete (ok : Bool) (s : State) : clocks (commitComplete ok s) = clocks s := by
  unfold commitComplete
  split <;> simp

@[simp] theorem keeps_writeRevert (v : Bool) (s : State) : (writeRevert v s).Keeps s := by
  unfold writeRevert
  repeat' split
  all_goals simp

@[simp] theorem clocks_takeSet (c : ConfigSet) (s : State) : clocks (takeSet c s) = clocks s := by simp [takeSet]

@[simp] theorem clocks_revertComplete (ok : Bool) (s : State) : clocks (revertComplete ok s) = clocks s := by
  unfold revertComplete
  repeat' split
  all_goals simp

@[simp] theorem keeps_writeDefaults (v : Bool) (s : State) : (writeDefaults v s).Keeps s := by simp [writeDefaults]

@[simp] theorem clocks_restoreSet (s : State) : clocks (restoreSet s) = clocks s := by
  simp only [restoreSet]
  split <;> simp

@[simp] theorem keeps_writeConfigClear (v : Nat) (s : State) : (writeConfigClear v s).Keeps s := by simp [writeConfigClear]

/-! ### Machine/Boot -/

@[simp] theorem clocks_setBoot (f : Boot → Boot) (s : State) : clocks (setBoot f s) = clocks s := clocks_mk ..

@[simp] theorem clocks_starterBegins (s : State) : clocks (starterBegins s) = clocks s := by simp [starterBegins]

@[simp] theorem clocks_railGood (s : State) : clocks (railGood s) = clocks s := by
  unfold railGood
  split <;> simp

@[simp] theorem clocks_setInd0 (x : Ind0) (s : State) : clocks (setInd0 x s) = clocks s := clocks_mk ..

@[simp] theorem clocks_bootImage (slot : Nat) (trial fellBack : Bool) (s : State) :
    clocks (bootImage slot trial fellBack s) = clocks s := by
  simp [bootImage]

@[simp] theorem clocks_starterChecks (s : State) : clocks (starterChecks s) = clocks s := by simp [starterChecks]

@[simp] theorem clocks_restoreRecord (good : List LeavenRecord) (x : LeavenRecord) (s : State) :
    clocks (restoreRecord good s x) = clocks s := by
  simp [restoreRecord]

@[simp] theorem clocks_restoreRecords (s : State) : clocks (restoreRecords s) = clocks s := by
  simp only [restoreRecords, clocks_logEvents, clocks_ite, clocks_mk, ite_self]
  refine (clocks_foldl (fun s k => ?_) _ _).trans (by simp)
  split <;> simp

@[simp] theorem clocks_applyTile (p : Nat) (l : List Byte) (s : State) : clocks (applyTile p l s) = clocks s := by
  refine clocks_foldl (fun s x => ?_) _ s
  split <;> simp

@[simp] theorem clocks_discoverPort (apply : Bool) (x : Nat × TileFound) (s : State) :
    clocks (discoverPort apply s x) = clocks s := by
  unfold discoverPort
  split <;> simp

@[simp] theorem clocks_discoveryEnds (s : State) : clocks (discoveryEnds s) = clocks s := by
  simp only [discoveryEnds]
  split <;> simp

@[simp] theorem clocks_discoveryDone (answers : List (Fin 2 × List TwSeen)) (s : State) :
    clocks (discoveryDone answers s) = clocks s := by
  simp [discoveryDone]

@[simp] theorem keeps_writeTileDiscover (v : Bool) (s : State) : (writeTileDiscover v s).Keeps s := by simp [writeTileDiscover]

@[simp] theorem clocks_holdReset (s : State) : clocks (holdReset s) = clocks s := clocks_mk ..

@[simp] theorem clocks_holdReady (s : State) : clocks (holdReady s) = clocks s := clocks_mk ..

@[simp] theorem clocks_bootEvents (s : State) : clocks (bootEvents s) = clocks s := by simp [bootEvents]

@[simp] theorem clocks_bootBegin (s : State) : clocks (bootBegin s) = clocks s := by simp [bootBegin]

@[simp] theorem clocks_recordFallBack (s : State) : clocks (recordFallBack s) = clocks s := by simp [recordFallBack]

@[simp] theorem clocks_bootEnd (s : State) : clocks (bootEnd s) = clocks s := by simp [bootEnd]

@[simp] theorem clocks_bootActions (s : State) : clocks (bootActions s) = clocks s := by
  unfold bootActions
  split <;> simp

@[simp] theorem clocks_trainingDone (ok0 ok1 : Bool) (s : State) : clocks (trainingDone ok0 ok1 s) = clocks s := by
  simp [trainingDone]

/-! ### Machine/Read -/

@[simp] theorem clocks_readLinks (s : State) : clocks (readLinks s).2 = clocks s := clocks_mk ..

theorem clocks_freeValue {index sub : Nat} {s : State} {x : Nat × State} (e : freeValue index sub s = some x) :
    clocks x.2 = clocks s := by
  unfold freeValue at e
  split at e
  · cases e; simp
  · split at e
    · cases e; simp
    · split at e
      · cases e; exact clocks_mk ..
      · cases e

@[simp] theorem clocks_readNumber (index sub : Nat) (r : Row) (s : State) : clocks (readNumber index sub r s).2 = clocks s := by
  unfold readNumber
  split
  · rfl
  · split
    · next e => exact clocks_freeValue e
    · split <;> rfl

@[simp] theorem clocks_readObject (index sub : Nat) (s : State) : clocks (readObject index sub s).2.2 = clocks s := by
  unfold readObject
  repeat' split
  all_goals simp

/-! ### Machine/DictWrite -/

@[simp] theorem clocks_ackEmergency (s : State) : clocks (ackEmergency s) = clocks s := by simp [ackEmergency]

@[simp] theorem clocks_acknowledge (s : State) : clocks (acknowledge s) = clocks s := by simp [acknowledge]

@[simp] theorem keeps_writeFirstErrorAck (v : Nat) (s : State) : (writeFirstErrorAck v s).Keeps s := by
  unfold writeFirstErrorAck
  split <;> simp

@[simp] theorem keeps_writeHeld (key v : Nat) (s : State) : (writeHeld key v s).Keeps s := by simp [writeHeld]

@[simp] theorem keeps_writeMapping (index sub : Nat) (r : Row) (v : Nat) (s : State) : (writeMapping index sub r v s).Keeps s := by
  simp [writeMapping]

@[simp] theorem clocks_bankArrive (b offset : Nat) (data : List Byte) (s : State) :
    clocks (bankArrive b offset data s) = clocks s := by
  simp [bankArrive]

@[simp] theorem keeps_bankComplete (b : Nat) (data : List Byte) (s : State) : (bankComplete b data s).Keeps s := by
  unfold bankComplete
  split <;> simp

@[simp] theorem keeps_writeBank (b : Nat) (data : List Byte) (s : State) : (writeBank b data s).Keeps s := by simp [writeBank]

@[simp] theorem keeps_writeBytes (w : Waiting) (index sub : Nat) (data : List Byte) (s : State) :
    (writeBytes w index sub data s).Keeps s := by
  unfold writeBytes
  repeat' split
  all_goals simp

@[simp] theorem keeps_badLength (index sub n : Nat) (s : State) : (badLength index sub n s).Keeps s := by simp [badLength]

/-! ### Machine/Tsp -/

@[simp] theorem clocks_answerTsp (f : Frame) (code : Nat) (data : List Byte) (s : State) :
    clocks (answerTsp f code data s) = clocks s := by
  simp [answerTsp]

@[simp] theorem clocks_controlRead (f : Frame) (index sub : Nat) (s : State) : clocks (controlRead f index sub s) = clocks s := by
  simp [controlRead]

@[simp] theorem clocks_serveUpload (f : Frame) (index sub offset len : Nat) (content : List Byte) (s : State) :
    clocks (serveUpload f index sub offset len content s) = clocks s := by
  simp [serveUpload]

@[simp] theorem clocks_readSegmentOf (f : Frame) (index sub offset len : Nat) (s : State) :
    clocks (readSegmentOf f index sub offset len s) = clocks s := by
  unfold readSegmentOf
  repeat' split
  all_goals simp

@[simp] theorem clocks_setDown (n : Nat) (d : Option (Nat × Nat × List Byte)) (s : State) : clocks (setDown n d s) = clocks s := by
  simp [setDown]

@[simp] theorem keeps_bankSegment (n b index offset : Nat) (got data : List Byte) (final : Bool) (s : State) :
    (bankSegment n b index offset got data final s).Keeps s := by
  unfold bankSegment
  split
  · simp
  · simp only
    split
    · exact (keeps_bankComplete ..).trans (by simp)
    · simp

@[simp] theorem clocks_freeCode (s : State) : clocks (freeCode s).2 = clocks s := clocks_mk ..

@[simp] theorem clocks_readBlocks (e : Ecc) (l : List Nat) (s : State) : clocks (readBlocks e l s).2 = clocks s := by
  induction l generalizing s with
  | nil => rfl
  | cons b l ih => unfold readBlocks; simp only; split <;> simp [ih]

@[simp] theorem clocks_scratchWriteOf (f : Frame) (offset : Nat) (data : List Byte) (e : Ecc) (s : State) :
    clocks (scratchWriteOf f offset data e s) = clocks s := by
  simp [scratchWriteOf]

@[simp] theorem clocks_scratchReadOf (f : Frame) (offset len : Nat) (e : Ecc) (s : State) :
    clocks (scratchReadOf f offset len e s) = clocks s := by
  simp [scratchReadOf]

@[simp] theorem clocks_referenceOf (f : Frame) (offset : Nat) (data : List Byte) (s : State) :
    clocks (referenceOf f offset data s) = clocks s := by
  simp [referenceOf]

/-! ### Machine/Ecat -/

@[simp] theorem clocks_setEcat (f : Ecat → Ecat) (s : State) : clocks (setEcat f s) = clocks s := clocks_mk ..

@[simp] theorem clocks_refuseAl (code : Nat) (s : State) : clocks (refuseAl code s) = clocks s := by simp [refuseAl]

@[simp] theorem clocks_reachAl (al : Nat) (s : State) : clocks (reachAl al s) = clocks s := by simp [reachAl]

@[simp] theorem clocks_acceptAl (al : Nat) (s : State) : clocks (acceptAl al s) = clocks s := by simp [acceptAl]

@[simp] theorem clocks_requestInit (s : State) : clocks (requestInit s) = clocks s := by simp [requestInit]

@[simp] theorem clocks_setSyncManagers (i : Nat) (x y : SyncManager) (s : State) : clocks (setSyncManagers i x y s) = clocks s := by
  simp [setSyncManagers]

@[simp] theorem clocks_requestPreOp (sm0 sm1 : SyncManager) (s : State) : clocks (requestPreOp sm0 sm1 s) = clocks s := by
  simp [requestPreOp]

@[simp] theorem clocks_enterSafeOp (sync0 : Option Nat) (s : State) : clocks (enterSafeOp sync0 s) = clocks s := by
  simp [enterSafeOp]

@[simp] theorem clocks_changeSafeOp (sync0 : Option Nat) (s : State) : clocks (changeSafeOp sync0 s) = clocks s := by
  unfold changeSafeOp
  split <;> simp

@[simp] theorem clocks_requestSafeOp (sm2 sm3 : SyncManager) (fmmus : List Fmmu) (sync0 : Option Nat) (s : State) :
    clocks (requestSafeOp sm2 sm3 fmmus sync0 s) = clocks s := by
  simp [requestSafeOp]

@[simp] theorem clocks_shiftTimes (step : Int) (s : State) : clocks (shiftTimes step s) = clocks s := clocks_mk ..

@[simp] theorem clocks_requestBoot (s : State) : clocks (requestBoot s) = clocks s := by simp [requestBoot]

@[simp] theorem clocks_pdoTimedOut (s : State) : clocks (pdoTimedOut s) = clocks s := by simp [pdoTimedOut]

@[simp] theorem clocks_packInputs (l : List Nat) (s : State) : clocks (packInputs l s).2.2 = clocks s := by
  induction l generalizing s with
  | nil => rfl
  | cons e l ih => unfold packInputs; simp only [ih]; split <;> simp

@[simp] theorem clocks_sampleInputs (s : State) : clocks (sampleInputs s) = clocks s := by simp [sampleInputs]

@[simp] theorem clocks_measureCycle (s : State) : clocks (measureCycle s) = clocks s := by
  unfold measureCycle
  split <;> simp

@[simp] theorem clocks_txpdoSample (s : State) : clocks (txpdoSample s) = clocks s := by simp [txpdoSample]

@[simp] theorem clocks_sync0Event (s : State) : clocks (sync0Event s) = clocks s := by simp [sync0Event]

@[simp] theorem clocks_postMail (m : MailIn) (s : State) : clocks (postMail m s) = clocks s := by simp [postMail]

@[simp] theorem clocks_abortSdo (index sub code : Nat) (s : State) : clocks (abortSdo index sub code s) = clocks s := by
  simp [abortSdo]

@[simp] theorem clocks_dropTransfer (s : State) : clocks (dropTransfer s) = clocks s := by
  unfold dropTransfer
  split <;> simp

@[simp] theorem keeps_downArrive (index sub offset : Nat) (data : List Byte) (s : State) :
    (downArrive index sub offset data s).Keeps s := by
  simp [downArrive]

@[simp] theorem clocks_sdoUpload (index sub : Nat) (complete : Bool) (s : State) :
    clocks (sdoUpload index sub complete s) = clocks s := by
  simp [sdoUpload]

@[simp] theorem clocks_upSegment (index sub : Nat) (data : List Byte) (offset : Nat) (toggle : Bool) (s : State) :
    clocks (upSegment index sub data offset toggle s) = clocks s := by
  simp [upSegment]

@[simp] theorem clocks_sdoTimedOut (s : State) : clocks (sdoTimedOut s) = clocks s := by simp [sdoTimedOut]

@[simp] theorem clocks_sdoInformation (index sub : Nat) (s : State) : clocks (sdoInformation index sub s) = clocks s := by
  unfold sdoInformation
  split <;> simp

@[simp] theorem clocks_mailboxInRead (s : State) : clocks (mailboxInRead s) = clocks s := by simp [mailboxInRead]

/-! ### The entry to OFF (15_startup R377) -/

/-- The queue and the time are as before, or the device has entered OFF: the time base is 0, and the queue and the local count are as
before. -/
def KeptOrOff (s t : State) : Prop :=
  clocks t = clocks s ∨ clocks t = (0, s.clk, s.pending) ∧ t.modes.mode = .off

theorem keptOrOff_enterOff (phase : BootPhase) (cause detail count : Nat) (resets : List Nat) (s : State) :
    KeptOrOff s (enterOff phase cause detail count resets s) := .inr ⟨rfl, rfl⟩

theorem keptOrOff_resetNow (cause : Nat) (s : State) : KeptOrOff s (resetNow cause s) := .inr ⟨rfl, rfl⟩

theorem keptOrOff_resetRail (monitor : Nat) (s : State) : KeptOrOff s (resetRail monitor s) := keptOrOff_enterOff ..

theorem keptOrOff_resetPower (s : State) : KeptOrOff s (resetPower s) := .inr ⟨rfl, rfl⟩

theorem KeptOrOff.after {s t u : State} (h : KeptOrOff t u) (e : clocks t = clocks s) : KeptOrOff s u := by
  simp only [KeptOrOff, e] at h ⊢
  simp only [clocks, Prod.mk.injEq] at e
  obtain ⟨-, hclk, hpending⟩ := e
  rwa [hclk, hpending] at h

theorem keptOrOff_resetPin (low xtalSel testMode : Bool) (s : State) : KeptOrOff s (resetPin low xtalSel testMode s) := by
  unfold resetPin
  split
  -- RESET_N falls
  case h_4 => exact keptOrOff_enterOff ..
  all_goals exact .inl rfl

theorem keptOrOff_voltSample (mv : List Nat) (s : State) : KeptOrOff s (voltSample mv s) := by
  unfold voltSample
  split
  · exact .inl rfl
  · simp only
    split
    · exact (keptOrOff_resetPower _).after (by simp)
    · split
      · exact (keptOrOff_resetRail ..).after (by simp)
      · exact .inl (by simp)

theorem keptOrOff_buckLimit (b : Nat) (s : State) : KeptOrOff s (buckLimit b s) := by
  unfold buckLimit
  split
  case h_1 =>
    split
    · exact keptOrOff_resetRail ..
    · exact .inl rfl
  case h_2 =>
    split
    · exact keptOrOff_resetRail ..
    · exact .inl rfl
  all_goals exact .inl (by simp)

theorem keptOrOff_railTimeout (m : Nat) (s : State) : KeptOrOff s (railTimeout m s) := by
  unfold railTimeout
  split
  · split
    · exact keptOrOff_resetRail ..
    · exact .inl rfl
  · exact .inl rfl

/-! ### Dictionary writes, a reset among them -/

/-- A write leaves the queue and the time, unless it resets the device: then its answer does not come (15_startup R377). -/
def WriteOut.KeepsOrResets (s : State) : WriteOut → Prop
  | .ok t => clocks t = clocks s
  | .later t => KeptOrOff s t
  | .abort _ t => clocks t = clocks s
  | .misuse _ => True

theorem WriteOut.Keeps.orResets {o : WriteOut} {s : State} (h : o.Keeps s) : o.KeepsOrResets s := by
  cases o with
  | later t => exact .inl h
  | _ => exact h

theorem WriteOut.KeepsOrResets.after {o : WriteOut} {s t : State} (h : o.KeepsOrResets t) (e : clocks t = clocks s) :
    o.KeepsOrResets s := by
  cases o with
  | misuse x => trivial
  | later u => exact KeptOrOff.after h e
  | _ => exact Eq.trans h e

@[simp] theorem keeps_noted (o : WriteOut) (s : State) : o.noted.Keeps s ↔ o.Keeps s := by
  cases o <;> simp [WriteOut.noted]

theorem WriteOut.KeepsOrResets.noted {o : WriteOut} {s : State} (h : o.KeepsOrResets s) : o.noted.KeepsOrResets s := by
  cases o with
  | ok t => exact (clocks_noteWrite t).trans h
  | later t =>
    refine h.imp (clocks_noteWrite t).trans (fun h => ⟨(clocks_noteWrite t).trans h.1, ?_⟩)
    rw [← h.2, noteWrite]
    split <;> rfl
  | _ => exact h

theorem keepsOrResets_writeSoftwareReset (v : Nat) (s : State) : (writeSoftwareReset v s).KeepsOrResets s := by
  unfold writeSoftwareReset
  split
  · exact keptOrOff_resetNow ..
  · exact rfl

theorem keepsOrResets_updActivate (s : State) : (updActivate s).KeepsOrResets s := by
  unfold updActivate
  split
  · exact (keptOrOff_resetNow ..).after (clocks_appendBoot ..)
  · exact rfl

theorem keepsOrResets_updRevert (s : State) : (updRevert s).KeepsOrResets s := by
  unfold updRevert
  split
  · exact rfl
  · split
    · exact (keptOrOff_resetNow ..).after (clocks_appendBoot ..)
    · exact rfl

theorem keepsOrResets_writeUpdateCommand (code : Nat) (s : State) : (writeUpdateCommand code s).KeepsOrResets s := by
  unfold writeUpdateCommand
  split
  · exact (keeps_updBegin s).orResets
  · exact (keeps_updVerify s).orResets
  · exact keepsOrResets_updActivate s
  · exact (keeps_updConfirm s).orResets
  · exact keepsOrResets_updRevert s
  · exact (keeps_updAbort s).orResets
  · exact rfl

theorem handlerKeeps_woImage (index sub v : Nat) : HandlerKeeps (woImage index sub v) := by
  unfold woImage
  extract_lets flag
  split <;> simp

theorem handlerKeeps_woStream (index sub v : Nat) : HandlerKeeps (woStream index sub v) := by
  unfold woStream
  split <;> simp

/-- A handler of the chapters 12, 14 to 16 and 18: a software reset and the update commands among them. -/
theorem keepsOrResets_woManagement {index sub v : Nat} {h : State → WriteOut} (e : woManagement index sub v = some h) (s : State) :
    (h s).KeepsOrResets s := by
  unfold woManagement at e
  simp only at e
  split at e
  -- SOFTWARE_RESET and UPDATE_COMMAND
  case h_10 => cases e; exact keepsOrResets_writeSoftwareReset v s
  case h_14 => cases e; exact keepsOrResets_writeUpdateCommand v s
  case h_16 => cases e
  all_goals cases e; exact WriteOut.Keeps.orResets (by simp)

theorem keepsOrResets_handlerOf {index sub v : Nat} {h : State → WriteOut} (e : handlerOf index sub v = some h) (s : State) :
    (h s).KeepsOrResets s := by
  unfold handlerOf at e
  split at e
  · cases e; exact (keeps_writeMode v s).orResets
  · split at e
    · next eh => cases e; exact (handlerKeeps_rwHandler index sub v _ eh s).orResets
    · split at e
      · next eh => cases e; exact (handlerKeeps_woImage index sub v _ eh s).orResets
      · split at e
        · next eh => cases e; exact (handlerKeeps_woStream index sub v _ eh s).orResets
        · exact keepsOrResets_woManagement e s

/-- A value out of its range resets nothing: a refusal of its handler alone changes the state. -/
theorem keeps_outOfRange {h : State → WriteOut} {s : State} (hh : (h s).KeepsOrResets s) : (outOfRange h s).Keeps s := by
  unfold outOfRange
  split
  · next e =>
    rw [e] at hh
    split
    · exact hh
    · exact rfl
  · exact rfl

theorem keepsOrResets_writeNumber (index sub : Nat) (r : Row) (v : Nat) (s : State) :
    (writeNumber index sub r v s).KeepsOrResets s := by
  have hh : (((handlerOf index sub v).getD (writeHeld (objKey index sub) v)) s).KeepsOrResets s := by
    cases e : handlerOf index sub v with
    | none => exact (keeps_writeHeld ..).orResets
    | some h => exact keepsOrResets_handlerOf e s
  unfold writeNumber
  simp only
  split
  · exact (keeps_outOfRange hh).orResets
  · split
    · trivial
    · exact hh

theorem keeps_accessRefusal {index sub n : Nat} {s : State} {o : WriteOut} (e : accessRefusal index sub n s = some o) : o.Keeps s := by
  unfold accessRefusal at e
  split at e
  · cases e; exact rfl
  · split at e
    · cases e; exact rfl
    · split at e
      · cases e; exact keeps_badLength ..
      · split at e <;> cases e
        exact rfl

theorem keepsOrResets_writeValue (w : Waiting) (index sub : Nat) (data : List Byte) (s : State) :
    (writeValue w index sub data s).KeepsOrResets s := by
  unfold writeValue
  split
  · next e => exact (keeps_accessRefusal e).orResets
  · exact rfl
  · split
    · exact (keeps_writeBytes ..).orResets
    · split
      · exact (keeps_writeMapping ..).orResets
      · exact keepsOrResets_writeNumber ..

theorem keepsOrResets_writeObject (w : Waiting) (index sub : Nat) (data : List Byte) (s : State) :
    (writeObject w index sub data s).KeepsOrResets s := by
  unfold writeObject
  simp only
  split
  · exact (keepsOrResets_writeValue ..).noted
  · exact keepsOrResets_writeValue ..

theorem keepsOrResets_writeSegmentOf (f : Frame) (index sub offset : Nat) (data : List Byte) (final : Bool) (s : State) :
    (writeSegmentOf f index sub offset data final s).KeepsOrResets s := by
  unfold writeSegmentOf
  simp only
  split
  · exact (keeps_writeUpdateData ..).orResets
  · split
    · split
      · next e =>
        split
        · exact (keeps_accessRefusal e).orResets
        · exact rfl
      · exact rfl
    · split
      · next e => exact (keeps_accessRefusal e).orResets
      · split
        · exact rfl
        · split
          · exact (keeps_bankSegment ..).orResets
          · split
            · exact (keepsOrResets_writeObject ..).after (clocks_setDown ..)
            · exact clocks_setDown ..

theorem keepsOrResets_downComplete (index sub : Nat) (data : List Byte) (s : State) :
    (downComplete index sub data s).KeepsOrResets s := by
  unfold downComplete
  split
  · exact rfl
  · exact keepsOrResets_writeObject ..

/-! ### Outcomes of the rows -/

/-- An outcome leaves the queue and the time, or the device has entered OFF. -/
def Steady (s : State) : Host.Outcome State Fault Refusal → Prop
  | .next t => KeptOrOff s t
  | .fault _ => True
  | .refused _ => True

theorem steady_next {s t : State} (h : clocks t = clocks s) : Steady s (.next t) := .inl h

theorem Steady.after {s t : State} {o : Host.Outcome State Fault Refusal} (h : Steady t o) (e : clocks t = clocks s) : Steady s o := by
  cases o with
  | next u => exact KeptOrOff.after h e
  | _ => trivial

theorem steady_outcome {o : WriteOut} {s : State} (h : o.KeepsOrResets s) (via : Path) : Steady s (o.outcome via) := by
  cases o with
  | ok t => exact steady_next ((clocks_answerWrite via 0 t).trans h)
  | later t => exact h
  | abort c t => exact steady_next ((clocks_answerWrite via c t).trans h)
  | misuse x => trivial

/-- A row that is a dictionary write. -/
theorem steady_write (via : Path) {h : State → WriteOut} {s : State} (hk : (h s).KeepsOrResets s) :
    Steady s (writeCommand via h s) := by
  unfold writeCommand
  split
  · exact steady_outcome hk via
  · exact .inl rfl

/-- A row whose write cannot reset the device. -/
theorem steady_plainWrite (via : Path) {h : State → WriteOut} {s : State} (hk : (h s).Keeps s) : Steady s (writeCommand via h s) :=
  steady_write via hk.orResets

theorem steady_tspOutcome (f : Frame) {o : WriteOut} {s : State} (h : o.KeepsOrResets s) : Steady s (o.tspOutcome f) := by
  cases o with
  | ok t => exact steady_next ((clocks_answerTsp ..).trans h)
  | later t => exact h
  | abort c t => exact steady_next ((clocks_answerTsp ..).trans h)
  | misuse x => trivial

/-- A row that is a CONTROL write. -/
theorem steady_controlWrite (f : Frame) {h : State → WriteOut} (hk : ∀ s, (h s).KeepsOrResets s) (s : State) :
    Steady s (controlWrite f h s) := by
  unfold controlWrite
  split
  · exact (steady_tspOutcome f (hk _)).after (clocks_heard ..)
  · exact steady_next (by simp)

theorem steady_sdoOutcome (index sub : Nat) (m : MailIn) {o : WriteOut} {s : State} (h : o.KeepsOrResets s) :
    Steady s (o.sdoOutcome index sub m) := by
  cases o with
  | ok t => exact steady_next (Eq.trans (by simp) h)
  | later t => exact h
  | abort c t => exact steady_next ((clocks_abortSdo ..).trans h)
  | misuse x => trivial

/-- The state that a write leaves, a misuse among them. -/
theorem clocks_writeOut_state {o : WriteOut} {s : State} (h : o.Keeps s) : clocks (o.state s) = clocks s := by
  cases o with
  | misuse x => rfl
  | _ => exact h

theorem steady_beginDownload (index sub size : Nat) (data : List Byte) (s : State) :
    Steady s (beginDownload index sub size data s) := by
  have ha := keeps_downArrive index sub 0 data s
  unfold beginDownload
  split
  · next e => exact steady_sdoOutcome _ _ _ (keeps_accessRefusal e).orResets
  · split
    · next e => exact steady_next ((clocks_abortSdo ..).trans (ha.abort e))
    · trivial
    · exact steady_next (by simp [clocks_writeOut_state ha])

theorem steady_sdoDownload (index sub : Nat) (complete : Bool) (size : Nat) (data : List Byte) (s : State) :
    Steady s (sdoDownload index sub complete size data s) := by
  refine Steady.after ?_ (clocks_dropTransfer s)
  unfold sdoDownload
  simp only
  split
  · exact steady_next (by simp)
  · split
    · exact steady_beginDownload ..
    · split
      · refine steady_sdoOutcome _ _ _ (WriteOut.Keeps.orResets ?_)
        cases e : accessRefusal index sub size (dropTransfer s) with
        | none => exact rfl
        | some o => exact keeps_accessRefusal e
      · exact steady_sdoOutcome _ _ _ (keepsOrResets_writeObject ..)

theorem steady_downSegment (index sub size : Nat) (got : List Byte) (toggle last : Bool) (data : List Byte) (s : State) :
    Steady s (downSegment index sub size got toggle last data s) := by
  have ha := keeps_downArrive index sub got.length data s
  unfold downSegment
  simp only
  split
  · exact steady_next (by simp)
  · split
    · next e => exact steady_next ((clocks_abortSdo ..).trans (ha.abort e))
    · trivial
    · split
      · exact (steady_sdoOutcome _ _ _ (keepsOrResets_downComplete ..)).after (clocks_writeOut_state ha)
      · exact steady_next (by simp [clocks_writeOut_state ha])

theorem steady_sdoSegment (toggle last : Bool) (data : List Byte) (s : State) : Steady s (sdoSegment toggle last data s) := by
  unfold sdoSegment
  split
  · exact steady_next (by simp)
  · split
    · exact steady_next (by simp)
    · exact steady_downSegment ..
  · exact steady_next (by simp)

/-- In OFF no output is written any more: a reset by an RxPDO entry ends the update. -/
theorem writeOutputs_off (l : List (Nat × Nat)) (s : State) (h : s.modes.mode = .off) : writeOutputs l s = .ok s := by
  cases l with
  | nil => rfl
  | cons x l => simp [writeOutputs, served, running, h]

theorem steady_writeOutputs (l : List (Nat × Nat)) (s : State) : Steady s ((writeOutputs l s).outcome .pdo) := by
  induction l generalizing s with
  | nil => exact .inl rfl
  | cons x l ih =>
    have go {u : State} (h : KeptOrOff s u) : Steady s ((writeOutputs l u).outcome .pdo) := by
      rcases h with h | h
      · exact (ih u).after h
      · rw [writeOutputs_off l u h.2]; exact .inr h
    have hw := keepsOrResets_writeObject (.write .pdo) (bits x.1 31 16) (bits x.1 15 8) (leBytes ((entryBits x.1 + 7) / 8) x.2) s
    unfold writeOutputs
    split
    · exact .inl rfl
    · split
      · next e => rw [e] at hw; exact go (.inl hw)
      · next e => rw [e] at hw; exact go hw
      · next e => rw [e] at hw; exact go (.inl hw)
      · trivial

theorem steady_rxpdoUpdate (data : List Byte) (s : State) : Steady s (rxpdoUpdate data s) := by
  unfold rxpdoUpdate
  split
  · exact .inl rfl
  · extract_lets s₁ s₂ s₃
    have h : clocks s₃ = clocks s := by
      simp only [s₃, s₂, s₁]
      repeat' split
      all_goals simp
    split
    · exact (steady_writeOutputs ..).after ((clocks_setEcat ..).trans h)
    · exact steady_next h

/-- A row that acts under a condition. -/
theorem steady_if {c : Prop} {_ : Decidable c} {o : Host.Outcome State Fault Refusal} {s : State} (h : Steady s o) :
    Steady s (if c then o else .next s) := by
  split
  · exact h
  · exact .inl rfl

theorem steady_nextIf {c : Prop} {_ : Decidable c} {s t : State} (h : clocks t = clocks s) :
    Steady s (.next (if c then t else s)) := by
  split
  · exact .inl h
  · exact .inl rfl

/-- A row whose write of an object that sets hold is noted for a commit (12_control_dictionary R341). -/
theorem steady_notedWrite (via : Path) {h : State → WriteOut} (hk : ∀ s, (h s).Keeps s) (s : State) :
    Steady s (writeCommand via (fun s => (h s).noted) s) :=
  steady_plainWrite via ((keeps_noted ..).2 (hk s))

theorem steady_descriptorDone (ch : Fin 32) (ecc : Ecc) (s : State) : Steady s (execDescriptorDone ch ecc s) := by
  unfold execDescriptorDone
  split
  · exact steady_next (clocks_finishDescriptor ..)
  · exact .inl rfl

theorem steady_xstepEdge (e : Fin 2) (dirHigh : Bool) (s : State) : Steady s (execXstepEdge e dirHigh s) :=
  steady_if (steady_next (clocks_foldl (fun s a => clocks_followEdge a dirHigh s) _ s))

theorem steady_vinUndervoltage (s : State) : Steady s (execVinUndervoltage s) := by
  unfold execVinUndervoltage
  split
  · exact .inl rfl
  · exact keptOrOff_resetPower s

theorem steady_thermalShutdown (monitor : Fin 24) (s : State) : Steady s (execThermalShutdown monitor s) := by
  unfold execThermalShutdown
  split
  · exact keptOrOff_enterOff ..
  · exact .inl rfl

theorem steady_mpWatchdog (s : State) : Steady s (execMpWatchdog s) := by
  unfold execMpWatchdog
  split
  · exact keptOrOff_resetNow ..
  · exact .inl rfl

/-- Every row but the change to Op leaves the queue and the time, unless it takes the device to OFF. -/
theorem steady_exec (c : Instr) (s : State) (hc : ∀ d, c ≠ .alRequestOp d) : Steady s (exec c s) := by
  cases c with
  | modeRequestStandby via => exact steady_plainWrite via (keeps_writeModeRequest ..)
  | modeRequestReady via => exact steady_plainWrite via (keeps_writeModeRequest ..)
  | modeRequestInline via => exact steady_plainWrite via (keeps_writeModeRequest ..)
  | modeRequestSheet via => exact steady_plainWrite via (keeps_writeModeRequest ..)
  | modeRequestInvalid via code => exact steady_plainWrite via (keeps_writeMode ..)
  | modeTransitionDone => exact steady_next (clocks_transitionDone ..)
  | objectWrite via index sub data => exact steady_write via (keepsOrResets_writeObject ..)
  | hostAssign via k port => exact steady_plainWrite via (keeps_writeHostAssign ..)
  | handover k => exact steady_next (clocks_handoverEvent ..)
  | toneWindowEnd k amplitudes =>
    exact steady_next (clocks_inOneCycle _ (fun s => (clocks_stopLatched ..).trans (clocks_endWindow ..)) s)
  | faultClear via p => exact steady_plainWrite via (keeps_writeFaultClear ..)
  | groupOutputWrite via k vrst mv => exact steady_notedWrite via (fun s => keeps_writeGroupOutput ..) s
  | settlingWindowClose k => exact steady_next (clocks_modGroup ..)
  | nop => exact steady_next (clocks_stepNop ..)
  | line => exact steady_next (clocks_stepLine ..)
  | slot => exact steady_next (clocks_stepSlot ..)
  | tone => exact steady_next (clocks_stepTone ..)
  | loop => exact steady_next (clocks_stepLoop ..)
  | jump => exact steady_next (clocks_stepJump ..)
  | programSelect via v => exact steady_notedWrite via (fun s => keeps_writeProgramSelect ..) s
  | slotEnd => exact steady_next (clocks_slotEnd ..)
  | startPulse k readings =>
    exact steady_nextIf (clocks_inOneCycle _ (fun s => (clocks_stopLatched ..).trans (clocks_startPulse ..)) s)
  | lineHoldRelease => exact steady_nextIf (clocks_releaseLine ..)
  | lineCommit => exact steady_nextIf (clocks_inOneCycle _ (clocks_commitNext false) s)
  | lineTrigger => exact steady_next (clocks_lineTrigger ..)
  | internalTrigger => exact steady_next (clocks_internalTrigger ..)
  | sync0Trigger => exact steady_next (clocks_sync0Event ..)
  | ltrigEdge rising => exact steady_next (clocks_ltrig ..)
  | encCount e a b => exact steady_next (clocks_encCount ..)
  | encIndex e level => exact steady_next (clocks_encIndex ..)
  | encPositionWrite via e v => exact steady_plainWrite via (keeps_writeEncPosition ..)
  | webHalt => exact steady_next (clocks_webHalt ..)
  | holdAssert => exact steady_next (clocks_holdAsserted ..)
  | holdRelease => exact steady_next (clocks_holdOff ..)
  | pageEdge sensor => exact steady_next (clocks_pageEdge ..)
  | pageStartNow via => exact steady_plainWrite via (keeps_writePageStartNow ..)
  | latch returned => exact steady_nextIf (clocks_inOneCycle _ (clocks_latchCycle returned) s)
  | levelWrite via c v => exact steady_notedWrite via (fun s => keeps_writeLevel ..) s
  | lampFaultClear via => exact steady_plainWrite via (keeps_writeLampFaultClear ..)
  | engineRun via j v => exact steady_notedWrite via (fun s => keeps_writeEngineRun ..) s
  | engineTick j => exact steady_next (clocks_engineTick ..)
  | indNop j => exact steady_next (clocks_indStep ..)
  | set j => exact steady_next (clocks_indStep ..)
  | ramp j => exact steady_next (clocks_indStep ..)
  | wait j => exact steady_next (clocks_indStep ..)
  | indLoop j => exact steady_next (clocks_indStep ..)
  | indJump j => exact steady_next (clocks_indStep ..)
  | rotate j => exact steady_next (clocks_indStep ..)
  | test j => exact steady_next (clocks_indStep ..)
  | halt j => exact steady_next (clocks_indStep ..)
  | bulkDownloadComplete via index sub data => exact steady_write via (keepsOrResets_writeObject ..)
  | bankSwitch via => exact steady_plainWrite via (keeps_writeBankSwitch ..)
  | bankSwitchEffect => exact steady_next (clocks_switchEffect ..)
  | refCapture via => exact steady_plainWrite via (keeps_writeRefCapture ..)
  | captureBegin => exact steady_nextIf (clocks_captureBegins ..)
  | captureMoveDone => exact steady_next (clocks_captureMoveDone ..)
  | captureMoveTimeout => exact steady_next (clocks_captureMoveTimeout ..)
  | capturePhaseEnd => exact steady_next (clocks_capturePhaseEnd ..)
  | captureEvaluate => exact steady_next (clocks_captureEvaluate ..)
  | staggerMeasure via => exact steady_plainWrite via (keeps_writeStaggerMeasure ..)
  | staggerMeasureDone => exact steady_next (clocks_measureDone ..)
  | calEvaluate => exact steady_next (clocks_calEvaluate ..)
  | calRequest via v => exact steady_plainWrite via (keeps_writeCalRequest ..)
  | spareCheck k sweep1 sweep2 => exact steady_next (clocks_spareCheck ..)
  | passStart k => exact steady_next (clocks_passStart ..)
  | calWindowClose k => exact steady_next (clocks_closeWindow ..)
  | sweepDone k sums => exact steady_next (clocks_sweepDone ..)
  | attemptJudge k => exact steady_next (clocks_attemptJudge ..)
  | calWindowTimeout k => exact steady_next (clocks_windowTimeout ..)
  | leavenDeferred k => exact steady_next (clocks_leavenDeferred ..)
  | pwRegionAdd via data => exact steady_plainWrite via (keeps_writePwRegion ..)
  | pwRegionDone => exact steady_next (clocks_regionDone ..)
  | pwRelearn via => exact steady_plainWrite via (keeps_writePwRelearn ..)
  | recordClear via v => exact steady_plainWrite via (keeps_writeRecordClear ..)
  | recordStore ok => exact steady_nextIf (clocks_recordStore ..)
  | leavenStatusClear via v => exact steady_plainWrite via (keeps_writeLeavenClear ..)
  | bandCompare ecc => exact steady_nextIf (clocks_inOneCycle _ (clocks_compareBand ecc) s)
  | prefetchFetch => exact steady_nextIf (clocks_fetchWindow ..)
  | refOpen via v => exact steady_plainWrite via (keeps_writeRefOpen ..)
  | refRelease via v => exact steady_plainWrite via (keeps_writeRefRelease ..)
  | pageAssign via data => exact steady_plainWrite via (keeps_writePageAssign ..)
  | defaultRefWrite via v => exact steady_notedWrite via (fun s => keeps_writeDefaultRef ..) s
  | cmpStatusClear via v => exact steady_plainWrite via (keeps_writeCmpStatusClear ..)
  | regionSizeWrite via j v => exact steady_notedWrite via (fun s => keeps_writeRegionSize ..) s
  | scrubStep ecc => exact steady_nextIf (clocks_scrubBlock ..)
  | dramStatusClear via v => exact steady_plainWrite via (keeps_writeDramStatusClear ..)
  | dmaStart via ch => exact steady_plainWrite via (keeps_writeDmaControl ..)
  | dmaStop via ch => exact steady_plainWrite via (keeps_writeDmaControl ..)
  | dmaKick via ch => exact steady_plainWrite via (keeps_writeDmaControl ..)
  | descriptorFetch ch ecc => exact steady_nextIf (clocks_fetchDescriptor ..)
  | descriptorDone ch ecc => exact steady_descriptorDone ..
  | dmaStatusClear via v => exact steady_plainWrite via (keeps_writeDmaStatusClear ..)
  | sessionOpen f mask expectedStream => exact steady_next (clocks_sessionOpened ..)
  | sessionClose f =>
    exact steady_next (clocks_sessionPacket _ _ (fun s => (clocks_sessionLost _).trans (clocks_clearSession s)) s)
  | sessionTimeout => exact steady_next (clocks_sessionTimeout ..)
  | credit f mask limits => exact steady_next (clocks_sessionPacket _ _ (fun s => clocks_takeCredit ..) s)
  | read f index sub => exact steady_next (clocks_request _ _ (fun s => clocks_controlRead ..) s)
  | write f index sub data => exact steady_controlWrite f (fun s => keepsOrResets_writeObject ..) s
  | readSegment f index sub offset len => exact steady_next (clocks_request _ _ (fun s => clocks_readSegmentOf ..) s)
  | writeSegment f index sub offset data final => exact steady_controlWrite f (fun s => keepsOrResets_writeSegmentOf ..) s
  | scratchWrite f offset data ecc => exact steady_next (clocks_request _ _ (fun s => clocks_scratchWriteOf ..) s)
  | scratchRead f offset len ecc => exact steady_next (clocks_request _ _ (fun s => clocks_scratchReadOf ..) s)
  | reference f offset data => exact steady_next (clocks_request _ _ (fun s => clocks_referenceOf ..) s)
  | arpRequest lane target => exact steady_nextIf (clocks_emitFrame ..)
  | pauseFrame lane quanta => exact steady_next (clocks_takePause ..)
  | pauseEnd lane => exact steady_next (clocks_endPause ..)
  | itemSend lane ecc => exact steady_next (clocks_itemSendOn ..)
  | statusSend => exact steady_nextIf (clocks_sendPacket ..)
  | laneDown lane => exact steady_next (clocks_loseLock ..)
  | streamEnd => exact steady_next (clocks_sendStreamEnd ..)
  | streamStatusClear via v => exact steady_plainWrite via (keeps_writeStreamStatusClear ..)
  | weirEvaluate => exact steady_next (clocks_weirEvaluate ..)
  | restartBegin => exact steady_next (clocks_restartBegin ..)
  | backupTargetReached => exact steady_next (clocks_backupReached ..)
  | restartDecision => exact steady_next (clocks_inOneCycle _ clocks_restartDecision s)
  | restartAttemptFailed => exact steady_next (clocks_attemptFailed ..)
  | moveAbs via a => exact steady_plainWrite via (keeps_writeAxisCommand ..)
  | moveRel via a => exact steady_plainWrite via (keeps_writeAxisCommand ..)
  | velocity via a => exact steady_plainWrite via (keeps_writeAxisCommand ..)
  | stop via a => exact steady_plainWrite via (keeps_writeAxisCommand ..)
  | home via a => exact steady_plainWrite via (keeps_writeAxisCommand ..)
  | runList via a => exact steady_plainWrite via (keeps_writeAxisCommand ..)
  | follow via a => exact steady_plainWrite via (keeps_writeAxisCommand ..)
  | energise via a => exact steady_plainWrite via (keeps_writeAxisCommand ..)
  | deEnergise via a => exact steady_plainWrite via (keeps_writeAxisCommand ..)
  | clearError via a => exact steady_plainWrite via (keeps_writeAxisCommand ..)
  | axisPositionWrite via a v => exact steady_plainWrite via (keeps_writeAxisPosition ..)
  | axisUpdate a => exact steady_next ((clocks_speedReached _).trans (clocks_axisUpdate ..))
  | vdsOvercurrent a => exact steady_next (clocks_vdsOvercurrent ..)
  | gateUndervoltage => exact steady_next (clocks_gateUndervoltage ..)
  | openCoil a => exact steady_next (clocks_openCoil ..)
  | loadEstimate a uA uB iA iB => exact steady_next (clocks_loadEstimate ..)
  | stall a => exact steady_next (clocks_stallAxis ..)
  | holdDelayExpire a => exact steady_next (clocks_holdDelayExpires ..)
  | standstillOffExpire a => exact steady_next (clocks_standstillOff ..)
  | mrefEdge a active => exact steady_next (clocks_mrefEdge ..)
  | homeTimeout a => exact steady_next (clocks_homeTimeout ..)
  | segNop a => exact steady_next (clocks_segStep ..)
  | move a => exact steady_next (clocks_segStep ..)
  | speed a => exact steady_next (clocks_segStep ..)
  | accel a => exact steady_next (clocks_segStep ..)
  | dwell a => exact steady_next (clocks_segStep ..)
  | dwellEnd a => exact steady_next (clocks_dwellEnd ..)
  | segWait a => exact steady_next (clocks_segStep ..)
  | sync a => exact steady_next (clocks_segStep ..)
  | segLoop a => exact steady_next (clocks_segStep ..)
  | segJump a => exact steady_next (clocks_segStep ..)
  | notify a => exact steady_next (clocks_segStep ..)
  | segHalt a => exact steady_next (clocks_segStep ..)
  | xstepEdge e dirHigh => exact steady_xstepEdge ..
  | pacerUpdate => exact steady_next (clocks_pacerUpdate ..)
  | mstopAssert => exact steady_next (clocks_mstopAssert ..)
  | mstopRelease => exact steady_next (clocks_mstopRelease ..)
  | mcWatchdog => exact steady_nextIf ((clocks_raise ..).trans ((clocks_emptyRings ..).trans (clocks_mcStop s)))
  | pcWatchdog => exact steady_nextIf ((clocks_raise ..).trans (clocks_holdPc s))
  | motionStatusClear via v => exact steady_plainWrite via (keeps_writeMotionClear ..)
  | axisStatusClear via a v => exact steady_plainWrite via (keeps_writeAxisClear ..)
  | alRequestInit => exact steady_next (clocks_requestInit ..)
  | alRequestPreOp sms => exact steady_next (clocks_requestPreOp ..)
  | alRequestSafeOp sms fmmus sync0 => exact steady_next (clocks_requestSafeOp ..)
  | alRequestOp dcTime => exact absurd rfl (hc dcTime)
  | alRequestBoot => exact steady_next (clocks_requestBoot ..)
  | pdoTimeout => exact steady_next (clocks_pdoTimedOut ..)
  | rxpdoUpdate data => exact steady_rxpdoUpdate ..
  | sdoDownload index sub complete size data => exact steady_if (steady_sdoDownload ..)
  | sdoUpload index sub complete => exact steady_nextIf (clocks_sdoUpload ..)
  | sdoSegment toggle last data => exact steady_if (steady_sdoSegment ..)
  | sdoTimeout => exact steady_next (clocks_sdoTimedOut ..)
  | sdoInformation index sub => exact steady_nextIf (clocks_sdoInformation ..)
  | siiWrite address data => exact .inl rfl
  | configCommit via => exact steady_plainWrite via (keeps_writeCommit ..)
  | commitComplete ok => exact steady_next (clocks_commitComplete ..)
  | configRevert via => exact steady_plainWrite via (keeps_writeRevert ..)
  | configDefaults via => exact steady_plainWrite via (keeps_writeDefaults ..)
  | configStatusClear via v => exact steady_plainWrite via (keeps_writeConfigClear ..)
  | vinUndervoltage => exact steady_vinUndervoltage s
  | voltMonitorSample mv => exact keptOrOff_voltSample ..
  | afeRailRestore k => exact steady_next (clocks_afeRestore ..)
  | buckCurrentLimit b => exact keptOrOff_buckLimit ..
  | tempMonitorSample centi => exact steady_next (clocks_tempSample ..)
  | thermalShutdown monitor => exact steady_thermalShutdown ..
  | processMonitorSample readings => exact steady_next (clocks_processSample ..)
  | refclkLost => exact steady_next (clocks_refclkLost ..)
  | pllUnlock n => exact steady_next (clocks_pllUnlock ..)
  | pllRelock n => exact steady_next (clocks_pllRelock ..)
  | domainPowerUp d => exact steady_next (clocks_domainPowerUp ..)
  | governorEvaluate milliwatts => exact steady_next (clocks_governorEvaluate ..)
  | govEnableWrite via v => exact steady_notedWrite via (fun s => keeps_writeGovEnable ..) s
  | govAllowHalfResWrite via v => exact steady_notedWrite via (fun s => keeps_writeGovHalf ..) s
  | railStatusClear via v => exact steady_plainWrite via (keeps_writeRailClear ..)
  | monStatusClear via v => exact steady_plainWrite via (keeps_writeMonClear ..)
  | govStatusClear via v => exact steady_plainWrite via (keeps_writeGovClear ..)
  | powerOn xtalSel testMode => exact steady_nextIf rfl
  | resetPin low xtalSel testMode => exact keptOrOff_resetPin ..
  | mpWatchdog => exact steady_mpWatchdog s
  | softwareReset via => exact steady_write via (keepsOrResets_writeSoftwareReset ..)
  | resetRestart xtalSel testMode => exact steady_nextIf rfl
  | railGood => exact steady_next (clocks_railGood ..)
  | railStartTimeout monitor => exact keptOrOff_railTimeout ..
  | starter => exact steady_nextIf (clocks_starterChecks ..)
  | starterRetry => exact steady_nextIf (clocks_starterChecks ..)
  | bootActions => exact steady_next (clocks_bootActions ..)
  | dramTrainingDone ok0 ok1 => exact steady_next (clocks_trainingDone ..)
  | tileDiscover via => exact steady_plainWrite via (keeps_writeTileDiscover ..)
  | discoveryDone answers => exact steady_next (clocks_discoveryDone ..)
  | mailboxSend d message => exact steady_next (clocks_mailboxSend ..)
  | mailboxDeliver d => exact steady_next (clocks_mailboxDeliver ..)
  | mailboxTimeout d => exact steady_next (clocks_mailboxTimeout ..)
  | mailboxRelease d => exact steady_next (clocks_mailboxRelease ..)
  | pcRelease => exact steady_next (clocks_pcRelease ..)
  | hmSend via message => exact steady_plainWrite via (keeps_writeHmSend ..)
  | mhRelease via v => exact steady_plainWrite via (keeps_writeMhRelease ..)
  | mboxStatusClear via v => exact steady_plainWrite via (keeps_writeMboxClear ..)
  | logFlush ok => exact steady_next (clocks_logFlush ..)
  | logClear via => exact steady_plainWrite via (keeps_writeLogClear ..)
  | leavenReclaim ok => exact steady_next (clocks_leavenReclaim ..)
  | flashPatrol => exact steady_next (clocks_flashPatrol ..)
  | flashStatusClear via v => exact steady_plainWrite via (keeps_writeFlashClear ..)
  | telemetrySnapshot => exact steady_next (clocks_telemetrySnapshot ..)
  | updBegin via => exact steady_write via (keepsOrResets_writeUpdateCommand ..)
  | updateEraseDone ok => exact steady_nextIf (by simp)
  | updateData via offset data ok => exact steady_plainWrite via (keeps_writeUpdateData ..)
  | verify via => exact steady_write via (keepsOrResets_writeUpdateCommand ..)
  | updateVerifyDone => exact steady_nextIf (by simp)
  | activate via => exact steady_write via (keepsOrResets_writeUpdateCommand ..)
  | confirm via => exact steady_write via (keepsOrResets_writeUpdateCommand ..)
  | revert via => exact steady_write via (keepsOrResets_writeUpdateCommand ..)
  | updAbort via => exact steady_write via (keepsOrResets_writeUpdateCommand ..)
  | twRequest via data => exact steady_plainWrite via (keeps_writeTwRequest ..)
  | twTransaction b seen => exact steady_next (clocks_twTransaction ..)
  | twStretchTimeout b seen => exact steady_next (clocks_twTimeout ..)
  | recover via b => exact steady_plainWrite via (keeps_writeTwControl ..)
  | twBusTest b result => exact steady_next (clocks_twTested ..)
  | twEnableWrite via b v => exact steady_notedWrite via (fun s => keeps_writeTwEnable ..) s
  | twTargetTransaction b address transfer => exact steady_next (clocks_twTarget ..)
  | twWindowRefresh => exact steady_nextIf rfl
  | twSensorPoll b sensor seen => exact steady_next (clocks_twPoll ..)
  | twStatusClear via v => exact steady_plainWrite via (keeps_writeTwClear ..)
  | firstErrorAck via v => exact steady_plainWrite via (keeps_writeFirstErrorAck ..)
  | rxDropped f typ => exact steady_next (clocks_rxDrop ..)
  | blockLockGained lane => exact steady_nextIf (clocks_modLane ..)
  | txpdoSample => exact steady_next (clocks_txpdoSample ..)
  | configRevertComplete ok => exact steady_next (clocks_revertComplete ..)
  | mailboxInRead => exact steady_next (clocks_mailboxInRead ..)

/-- The change to Op leaves the queue and the local count; it steps the time base (R337, R338). -/
theorem requestOp_kept (dc : Nat) (s : State) : (requestOp dc s).pending = s.pending ∧ (requestOp dc s).clk = s.clk := by
  have hop : clocks (enterOp dc s) = (dc, s.clk, s.pending) := by
    simp only [enterOp, clocks_ite, clocks_logEvent, clocks_acceptAl, clocks_setEcat, clocks_shiftTimes, ite_self]
    rfl
  have kept {t : State} (h : clocks t = clocks s) : t.pending = s.pending ∧ t.clk = s.clk := by
    simp only [clocks, Prod.mk.injEq] at h
    exact ⟨h.2.2, h.2.1⟩
  unfold requestOp
  split
  · exact ⟨rfl, rfl⟩
  · split
    · split
      · simp only [clocks, Prod.mk.injEq] at hop
        exact ⟨hop.2.2, hop.2.1⟩
      · exact kept (clocks_refuseAl ..)
    · exact kept (clocks_acceptAl ..)
    · exact kept (clocks_refuseAl ..)

/-- Settles O60: every row but the change to Op is steady, and the change to Op steps the time base alone. -/
theorem commandsKeepTimeAndQueue : Obligations.CommandsKeepTimeAndQueue := by
  unfold Obligations.CommandsKeepTimeAndQueue
  intro c s t h
  by_cases hc : ∃ d, c = .alRequestOp d
  · obtain ⟨d, rfl⟩ := hc
    cases h
    obtain ⟨hpending, hclk⟩ := requestOp_kept d.toNat s
    exact ⟨hpending, hclk, .inr (.inl ⟨d, rfl⟩)⟩
  · have hs := steady_exec c s (fun d e => hc ⟨d, e⟩)
    rw [h] at hs
    rcases hs with hs | ⟨hs, hoff⟩ <;> simp only [clocks, Prod.mk.injEq] at hs <;> obtain ⟨hnow, hclk, hpending⟩ := hs
    · exact ⟨hpending, hclk, .inl hnow⟩
    · exact ⟨hpending, hclk, .inr (.inr ⟨hnow, hoff⟩)⟩

end Sys2Proof.Machine
end

section
/-!
PROOFS. What the starts and the ends of the transitions leave (01_architecture Table 1.9, R25 to R31).

`kept` reads the parts of a state that no transition touches but by its own words: the modes, OTP, the flash and the two-wire unit; and,
with `strict`, the dictionary, the power and the timing, which most functions of the image path, of the motion and of the DMA leave
too. Each function that a transition calls has one lemma, in the order of the model's files, for both values of `strict` where it leaves
all of these parts and for `false` where it changes one of the three. Time is not read here: `clocks` above says what becomes of it.
-/
namespace Sys2Proof.Machine

/-- The modes, OTP, the flash and the two-wire unit; with `strict` also the power, the dictionary and the timing. -/
def kept (strict : Bool) (s : State) : Modes × Otp × Flash × TwoWire × Option (Power × Dict × Timing) :=
  (s.modes, s.otp, s.flash, s.tw, if strict then some (s.pwr, s.dict, s.tim) else none)

theorem kept_strict_iff {s t : State} : kept true t = kept true s ↔
    t.modes = s.modes ∧ t.otp = s.otp ∧ t.flash = s.flash ∧ t.tw = s.tw ∧ t.pwr = s.pwr ∧ t.dict = s.dict ∧ t.tim = s.tim := by
  simp [kept]

theorem kept_loose_iff {s t : State} : kept false t = kept false s ↔
    t.modes = s.modes ∧ t.otp = s.otp ∧ t.flash = s.flash ∧ t.tw = s.tw := by
  simp [kept]

theorem kept_loose_of_strict {s t : State} (h : kept true t = kept true s) : kept false t = kept false s := by
  obtain ⟨hmodes, hotp, hflash, htw, -⟩ := kept_strict_iff.1 h
  exact kept_loose_iff.2 ⟨hmodes, hotp, hflash, htw⟩

section
variable {strict : Bool}

/-- An update of parts that `kept` does not read. -/
@[simp] theorem kept_mk (s : State) (now clk fresh ecat cfg ev boot mbox upd telem fe lamps ind pipe lv cmp cist host mot pins tap
    bench pending) :
    kept strict ⟨now, clk, fresh, s.modes, s.dict, ecat, cfg, ev, s.pwr, boot, mbox, s.flash, upd, telem, s.otp, fe, s.tim, lamps,
      ind, pipe, lv, cmp, cist, host, mot, s.tw, pins, tap, bench, pending⟩ = kept strict s := rfl

/-- An update of parts that `kept false` does not read. -/
@[simp] theorem kept_mk_loose (s : State) (now clk fresh dict ecat cfg ev pwr boot mbox upd telem fe tim lamps ind pipe lv cmp cist
    host mot pins tap bench pending) :
    kept false ⟨now, clk, fresh, s.modes, dict, ecat, cfg, ev, pwr, boot, mbox, s.flash, upd, telem, s.otp, fe, tim, lamps, ind,
      pipe, lv, cmp, cist, host, mot, s.tw, pins, tap, bench, pending⟩ = kept false s := rfl

@[simp] theorem kept_ite (c : Prop) {_ : Decidable c} (s t : State) :
    kept strict (if c then s else t) = if c then kept strict s else kept strict t := apply_ite ..

@[simp] theorem kept_foldl {α : Type} {f : State → α → State} (h : ∀ s a, kept strict (f s a) = kept strict s) (l : List α)
    (s : State) : kept strict (l.foldl f s) = kept strict s := by
  induction l generalizing s with
  | nil => rfl
  | cons a l ih => rw [List.foldl_cons, ih, h]

/-- The events that a command gathers and logs are outside these parts. -/
theorem kept_inOneCycle_eq (f : State → State) (s : State) :
    kept strict (inOneCycle f s) = kept strict (f { s with ev := { s.ev with held := some [] } }) := by
  rw [inOneCycle_frame]; exact kept_mk ..

/-! ### Machine/Ops -/

@[simp] theorem kept_setVal (r : Ref) (v : Nat) (s : State) : kept false (setVal r v s) = kept false s := kept_mk_loose ..

@[simp] theorem kept_clearBulk (k : Nat) (s : State) : kept false (clearBulk k s) = kept false s := kept_mk_loose ..

@[simp] theorem kept_takeFree (w : Nat) (s : State) : kept strict (takeFree w s).2 = kept strict s := kept_mk ..

@[simp] theorem kept_modPort (p : Nat) (f : Port → Port) (s : State) : kept strict (modPort p f s) = kept strict s := kept_mk ..

@[simp] theorem kept_modGroup (k : Nat) (f : Group → Group) (s : State) : kept strict (modGroup k f s) = kept strict s := kept_mk ..

@[simp] theorem kept_modCal (k : Nat) (f : GroupCal → GroupCal) (s : State) : kept strict (modCal k f s) = kept strict s :=
  kept_mk ..

@[simp] theorem kept_modChain (c : Nat) (f : ChainInfo → ChainInfo) (s : State) : kept strict (modChain c f s) = kept strict s :=
  kept_mk ..

@[simp] theorem kept_modChan (c : Nat) (f : DmaChan → DmaChan) (s : State) : kept strict (modChan c f s) = kept strict s :=
  kept_mk ..

@[simp] theorem kept_modLane (n : Nat) (f : Lane → Lane) (s : State) : kept strict (modLane n f s) = kept strict s := kept_mk ..

@[simp] theorem kept_modAxis (a : Nat) (f : Axis → Axis) (s : State) : kept strict (modAxis a f s) = kept strict s := kept_mk ..

@[simp] theorem kept_modDir (d : Nat) (f : MailDir → MailDir) (s : State) : kept strict (modDir d f s) = kept strict s := kept_mk ..

/-! ### Machine/Events -/

@[simp] theorem kept_logEvent (e : Event) (s : State) : kept strict (logEvent e s) = kept strict s := by
  rw [logEvent_frame]; exact kept_mk ..

@[simp] theorem kept_logOnce (was i : Nat) (e : Event) (s : State) : kept strict (logOnce was i e s) = kept strict s := by
  simp [logOnce]

/-! ### Machine/Lamps -/

@[simp] theorem kept_openLampWindow (s : State) : kept strict (openLampWindow s) = kept strict s := kept_mk ..

/-! ### Machine/FrontEnd -/

@[simp] theorem kept_clearSkips (k : Nat) (s : State) : kept strict (clearSkips k s) = kept strict s := by simp [clearSkips]

/-! ### Machine/Latch -/

@[simp] theorem kept_takeOpenFlag (g ch : Nat) (s : State) : kept strict (takeOpenFlag g ch s) = kept strict s := by
  simp [takeOpenFlag]

@[simp] theorem kept_takeChainFlags (returned : List (BitVec 208)) (n : Nat) (s : State) :
    kept strict (takeChainFlags returned n s) = kept strict s := by
  simp [takeChainFlags]

@[simp] theorem kept_readChain (returned : List (BitVec 208)) (n : Nat) (s : State) :
    kept strict (readChain returned n s) = kept strict s := by
  simp [readChain]

@[simp] theorem kept_latchWords (words : List (List Nat)) (steps : List (Nat × Option (Nat × Nat × Nat))) (s : State) :
    kept strict (latchWords words steps s) = kept strict s :=
  kept_mk ..

@[simp] theorem kept_flagsArrive (s : State) : kept strict (flagsArrive s) = kept strict s := by simp [flagsArrive]

@[simp] theorem kept_settleLastLine (s : State) : kept false (settleLastLine s) = kept false s := by
  unfold settleLastLine
  split <;> simp

@[simp] theorem kept_latchChanged (s : State) : kept false (latchChanged s) = kept false s := by simp [latchChanged]

@[simp] theorem kept_readChains (s : State) : kept strict (readChains s) = kept strict s := by simp [readChains]

@[simp] theorem kept_lampsOff (s : State) : kept strict (lampsOff s) = kept strict s := by simp [lampsOff]

@[simp] theorem kept_lampsReady (s : State) : kept false (lampsReady s) = kept false s := by simp [lampsReady]

/-! ### Machine/Engine -/

@[simp] theorem kept_loadSelection (sel : Nat) (s : State) : kept false (loadSelection sel s) = kept false s := kept_mk_loose ..

/-! ### Machine/Cistern -/

@[simp] theorem kept_loseLines (moved : Nat → Bool) (s : State) : kept strict (loseLines moved s) = kept strict s := by
  unfold loseLines; exact kept_mk ..

@[simp] theorem kept_loseRecords (s : State) : kept strict (loseRecords s) = kept strict s := by
  unfold loseRecords; exact kept_mk ..

@[simp] theorem kept_applyLayout (l : List (Nat × Nat)) (s : State) : kept false (applyLayout l s) = kept false s := by
  unfold applyLayout
  simp

@[simp] theorem kept_placeLayout (s : State) : kept false (placeLayout s) = kept false s := by
  -- a variable in place of `layoutOf`: the kernel would compute the layout of the default sizes
  obtain ⟨place, h⟩ : ∃ f, layoutOf = f := ⟨_, rfl⟩
  rw [placeLayout, h]
  split
  · simp
  · simp only
    split <;> simp

@[simp] theorem kept_noteOccupancy (i n : Nat) (s : State) : kept strict (noteOccupancy i n s) = kept strict s := kept_mk ..

@[simp] theorem kept_clearPoison (a n : Nat) (s : State) : kept strict (clearPoison a n s) = kept strict s := kept_mk ..

@[simp] theorem kept_scratchWriteAt (a : Nat) (l : List Byte) (s : State) : kept strict (scratchWriteAt a l s) = kept strict s := by
  simp [scratchWriteAt]

@[simp] theorem kept_eccCorrected (a : Nat) (s : State) : kept strict (eccCorrected a s) = kept strict s := by simp [eccCorrected]

@[simp] theorem kept_eccUncorrectable (a : Nat) (s : State) : kept strict (eccUncorrectable a s) = kept strict s := by
  simp [eccUncorrectable]

@[simp] theorem kept_dataLost (s : State) : kept strict (dataLost s) = kept strict s := kept_mk ..

@[simp] theorem kept_eccRead (a n : Nat) (e : Ecc) (s : State) : kept strict (eccRead a n e s).2 = kept strict s := by
  unfold eccRead
  repeat' split
  all_goals simp

@[simp] theorem kept_govEffect (g : GovStep) (s : State) : kept false (govEffect g s) = kept false s := by simp [govEffect]

/-! ### Machine/Stream -/

@[simp] theorem kept_makeItem (k : ItemKind) (s : State) : kept strict (makeItem k s) = kept strict s := by simp [makeItem]

@[simp] theorem kept_releaseSlots (s : State) : kept strict (releaseSlots s) = kept strict s := kept_mk ..

@[simp] theorem kept_markSent (uid : Nat) (s : State) : kept strict (markSent uid s) = kept strict s := kept_mk ..

@[simp] theorem kept_commitTo (spill : Bool) (place : Nat) (l : LineSlot) (send : Bool) (s : State) :
    kept strict (commitTo spill place l send s) = kept strict s := by
  simp [commitTo]

@[simp] theorem kept_commitTaken (spill : Bool) (place : Nat) (l : LineSlot) (send : Bool) (taken : State → State)
    (htaken : ∀ s, kept strict (taken s) = kept strict s) (s : State) :
    kept strict (commitTaken spill place l send taken s) = kept strict s := by
  simp [commitTaken, htaken]

@[simp] theorem kept_closePlace (s : State) : kept strict (closePlace s) = kept strict s := by
  simp only [closePlace]
  split <;> simp

@[simp] theorem kept_missLine (cause y : Nat) (s : State) : kept strict (missLine cause y s) = kept strict s := kept_mk ..

@[simp] theorem kept_tailDropped (y : Nat) (s : State) : kept strict (tailDropped y s) = kept strict s := by simp [tailDropped]

@[simp] theorem kept_commitInline (l : LineSlot) (dropped : Bool) (taken left : State → State) (htaken : ∀ s, kept strict
    (taken s) = kept strict s) (hleft : ∀ s, kept strict (left s) = kept strict s) (s : State) :
    kept strict (commitInline l dropped taken left s) = kept strict s := by
  simp only [commitInline]
  repeat' split
  all_goals simp [htaken, hleft]

@[simp] theorem kept_commitReference (l : LineSlot) (taken : State → State) (htaken : ∀ s, kept strict (taken s) = kept strict s)
    (s : State) : kept strict (commitReference l taken s) = kept strict s := by
  unfold commitReference
  repeat' split
  all_goals simp [htaken]

@[simp] theorem kept_closeReference (s : State) : kept strict (closeReference s) = kept strict s := by
  unfold closeReference
  split <;> simp

@[simp] theorem kept_loseLock (n : Nat) (s : State) : kept strict (loseLock n s) = kept strict s := by simp [loseLock]

/-! ### Machine/Compare -/

@[simp] theorem kept_makeCrop (p : CmpPage) (b : Blob) (s : State) : kept strict (makeCrop p b s).2.2 = kept strict s := by
  simp only [makeCrop]
  repeat' split
  all_goals simp

@[simp] theorem kept_modPage (n : PageKey) (f : CmpPage → CmpPage) (s : State) : kept strict (modPage n f s) = kept strict s :=
  kept_mk ..

@[simp] theorem kept_closeBlob (page : PageKey) (b : Blob) (s : State) : kept strict (closeBlob page b s) = kept strict s := by
  unfold closeBlob
  split <;> simp

@[simp] theorem kept_finishPage (n : PageKey) (s : State) : kept strict (finishPage n s) = kept strict s := by
  simp only [finishPage]
  repeat' split
  all_goals simp

@[simp] theorem kept_skipBand (b : CmpBand) (s : State) : kept strict (skipBand b s) = kept strict s := by simp [skipBand]

@[simp] theorem kept_skipLate (s : State) : kept strict (skipLate s) = kept strict s := by
  unfold skipLate
  repeat' split
  all_goals simp

@[simp] theorem kept_closeBand (n : PageKey) (s : State) : kept strict (closeBand n s) = kept strict s := by
  unfold closeBand
  repeat' split
  all_goals simp

@[simp] theorem kept_endPage (n : PageKey) (partialEnd : Bool) (s : State) :
    kept strict (endPage n partialEnd s) = kept strict s := by
  simp [endPage]

@[simp] theorem kept_flushGroup (n : PageKey) (s : State) : kept strict (flushGroup n s) = kept strict s := by
  unfold flushGroup
  repeat' split
  all_goals simp

@[simp] theorem kept_groupLine (l : RegLine) (s : State) : kept strict (groupLine l s) = kept strict s := by
  simp only [groupLine]
  split <;> simp

@[simp] theorem kept_compareLine (l : RegLine) (s : State) : kept strict (compareLine l s) = kept strict s := by
  simp only [compareLine]
  repeat' split
  all_goals simp

@[simp] theorem kept_usePrefetch (p : CmpPage) (b : CmpBand) (s : State) : kept strict (usePrefetch p b s) = kept strict s := by
  unfold usePrefetch
  split <;> simp

@[simp] theorem kept_judge (p : CmpPage) (b : CmpBand) (r : RefImage) (s : State) :
    kept strict (judge p b r s) = kept strict s := by
  simp [judge]

@[simp] theorem kept_compareBand (e : Ecc) (s : State) : kept strict (compareBand e s) = kept strict s := by
  simp only [compareBand]
  repeat' split
  all_goals simp

@[simp] theorem kept_drainBands (n : Nat) (s : State) : kept strict (drainBands n s) = kept strict s := by
  induction n generalizing s with
  | zero => rfl
  | succ n ih => unfold drainBands; split <;> simp [ih]

@[simp] theorem kept_startCompare (s : State) : kept strict (startCompare s) = kept strict s := by simp [startCompare]

@[simp] theorem kept_endCompare (s : State) : kept strict (endCompare s) = kept strict s := by simp [endCompare]

@[simp] theorem kept_abandonCompare (s : State) : kept strict (abandonCompare s) = kept strict s := kept_mk ..

/-! ### Machine/Reference -/

@[simp] theorem kept_noteReference (s : State) : kept strict (noteReference s) = kept strict s := by simp [noteReference]

@[simp] theorem kept_modRef (id : Nat) (f : RefImage → RefImage) (s : State) : kept strict (modRef id f s) = kept strict s :=
  kept_mk ..

@[simp] theorem kept_failReference (id : Nat) (s : State) : kept strict (failReference id s) = kept strict s := by
  refine (kept_foldl (fun s n => ?_) _ _).trans (by simp)
  split <;> simp

@[simp] theorem kept_refBad (id : Nat) (s : State) : kept strict (refBad id s) = kept strict s := by simp [refBad]

@[simp] theorem kept_checkHeader (id : Nat) (r : RefImage) (s : State) : kept strict (checkHeader id r s) = kept strict s := by
  unfold checkHeader
  repeat' split
  all_goals simp

@[simp] theorem kept_checkBody (id : Nat) (r : RefImage) (s : State) : kept strict (checkBody id r s) = kept strict s := by
  simp [checkBody]

@[simp] theorem kept_takeUpTo (id total : Nat) (data : List Byte) (s : State) :
    kept strict (takeUpTo id total data s).2 = kept strict s := by
  unfold takeUpTo
  split <;> simp

@[simp] theorem kept_appendUpload (data : List Byte) (s : State) : kept strict (appendUpload data s).2 = kept strict s := by
  simp only [appendUpload]
  repeat' split
  all_goals simp

@[simp] theorem kept_abortUpload (s : State) : kept strict (abortUpload s) = kept strict s := by
  unfold abortUpload
  split <;> simp

/-! ### Machine/Dma -/

@[simp] theorem kept_fetchError (ch a cause : Nat) (s : State) : kept strict (fetchError ch a cause s) = kept strict s := by
  simp [fetchError]

@[simp] theorem kept_writeDest (d : Descriptor) (j : Nat) (l : List Byte) (s : State) :
    kept strict (writeDest d j l s) = kept strict s := by
  induction l generalizing j s with
  | nil => rfl
  | cons b l ih => simp [writeDest, ih]

@[simp] theorem kept_coverDest (d : Descriptor) (n : Nat) (s : State) : kept strict (coverDest d n s) = kept strict s := kept_mk ..

@[simp] theorem kept_scrambleBlock (d : Descriptor) (j n : Nat) (s : State) :
    kept strict (scrambleBlock d j n s) = kept strict s := by
  induction n generalizing j s with
  | zero => rfl
  | succ n ih => simp [scrambleBlock, ih]

@[simp] theorem kept_countEcc (d : Descriptor) (e : Ecc) (done : Nat) (err : Option (Nat × Nat × Nat)) (s : State) :
    kept strict (countEcc d e done err s) = kept strict s := by
  unfold countEcc
  split <;> simp

@[simp] theorem kept_moveData (d : Descriptor) (e : Ecc) (cap : Nat) (s : State) :
    kept strict (moveData d e cap s).2.2 = kept strict s := by
  simp only [moveData]
  repeat' split
  all_goals simp

@[simp] theorem kept_noteBad (ch err : Nat) (s : State) : kept strict (noteBad ch err s) = kept strict s := by simp [noteBad]

@[simp] theorem kept_chanStopped (ch : Nat) (s : State) : kept strict (chanStopped ch s) = kept strict s := by simp [chanStopped]

@[simp] theorem kept_stopBack (ch done : Nat) (err : Option (Nat × Nat × Nat)) (s : State) :
    kept strict (stopBack ch done err s) = kept strict s := by
  unfold stopBack
  split <;> simp

@[simp] theorem kept_stopChannel (ch : Nat) (s : State) : kept strict (stopChannel ch s) = kept strict s := by
  simp only [stopChannel]
  split <;> simp

@[simp] theorem kept_stopChannels (s : State) : kept strict (stopChannels s) = kept strict s := by simp [stopChannels]

/-! ### Machine/Timing -/

@[simp] theorem kept_armPoint (s : State) : kept false (armPoint s) = kept false s := kept_mk_loose ..

@[simp] theorem kept_armRun (s : State) : kept false (armRun s) = kept false s := by simp [armRun]

@[simp] theorem kept_disarm (s : State) : kept false (disarm s) = kept false s := kept_mk_loose ..

/-! ### Machine/Pipeline -/

@[simp] theorem kept_switchBank (s : State) : kept false (switchBank s) = kept false s := by simp [switchBank]

@[simp] theorem kept_switchEffect (s : State) : kept false (switchEffect s) = kept false s := by
  unfold switchEffect
  repeat' split
  all_goals simp

@[simp] theorem kept_noteDiscontinuity (b : Bool) (s : State) : kept strict (noteDiscontinuity b s) = kept strict s := by
  simp [noteDiscontinuity]

@[simp] theorem kept_pushImage (l : Stage6Line) (s : State) : kept false (pushImage l s) = kept false s := by simp [pushImage]

@[simp] theorem kept_pushReference (l : Stage6Line) (s : State) : kept strict (pushReference l s) = kept strict s := kept_mk ..

@[simp] theorem kept_passStages (l : LineRec) (s : State) : kept false (passStages l s) = kept false s := by simp [passStages]

@[simp] theorem kept_gatherLine (l : LineRec) (s : State) : kept strict (gatherLine l s) = kept strict s := by
  unfold gatherLine
  split <;> simp

@[simp] theorem kept_readLead (y : Nat) (s : State) : kept strict (readLead y s) = kept strict s := by
  simp only [readLead]
  repeat' split
  all_goals simp

@[simp] theorem kept_measureLine (l : RegLine) (s : State) : kept strict (measureLine l s) = kept strict s := by
  unfold measureLine
  split <;> simp

@[simp] theorem kept_takeRows (rows : List RegLine) (alone : Bool) (s : State) :
    kept strict (takeRows rows alone s) = kept strict s := by
  simp [takeRows]

@[simp] theorem kept_breakGroup (discontinuity : Bool) (page : Nat) (s : State) :
    kept strict (breakGroup discontinuity page s) = kept strict s := by
  simp [breakGroup]

@[simp] theorem kept_leaveRows (rows : List RegLine) (s : State) : kept strict (leaveRows rows s) = kept strict s := by
  unfold leaveRows
  split <;> simp

@[simp] theorem kept_weirOverrun (s : State) : kept false (weirOverrun s) = kept false s := by simp [weirOverrun]

@[simp] theorem kept_endStop (s : State) : kept strict (endStop s) = kept strict s := by
  unfold endStop
  split <;> simp

@[simp] theorem kept_commitSlot (l : LineSlot) (taken left : State → State) (htaken : ∀ s, kept false (taken s) = kept false s)
    (hleft : ∀ s, kept false (left s) = kept false s) (s : State) : kept false (commitSlot l taken left s) = kept false s := by
  unfold commitSlot
  split <;> simp [htaken, hleft]

@[simp] theorem kept_storeSpeculative (l : LineSlot) (s : State) : kept strict (storeSpeculative l s) = kept strict s := by
  simp [storeSpeculative]

@[simp] theorem kept_resumeUnmatched (l : LineSlot) (taken left : State → State) (htaken : ∀ s, kept false (taken s) = kept false s)
    (hleft : ∀ s, kept false (left s) = kept false s) (s : State) : kept false (resumeUnmatched l taken left s) = kept false s := by
  simp [resumeUnmatched, htaken, hleft]

@[simp] theorem kept_commitSheet (l : LineSlot) (taken left : State → State) (htaken : ∀ s, kept false (taken s) = kept false s)
    (hleft : ∀ s, kept false (left s) = kept false s) (s : State) : kept false (commitSheet l taken left s) = kept false s := by
  unfold commitSheet
  repeat' split
  all_goals simp [htaken, hleft]

@[simp] theorem kept_commitRows (rows : List RegLine) (alone : Bool) (s : State) :
    kept false (commitRows rows alone s) = kept false s := by
  simp [commitRows]

@[simp] theorem kept_closePair (s : State) : kept false (closePair s) = kept false s := by
  unfold closePair
  split <;> simp

@[simp] theorem kept_averagePairs (l : RegLine) (s : State) : kept false (averagePairs l s) = kept false s := by
  simp only [averagePairs]
  repeat' split
  all_goals simp

@[simp] theorem kept_abandonMeasure (s : State) : kept strict (abandonMeasure s) = kept strict s := by simp [abandonMeasure]

@[simp] theorem kept_passUncommitted (l : Stage6Line) (s : State) : kept false (passUncommitted l s) = kept false s := by
  simp [passUncommitted]

@[simp] theorem kept_noteShort (f : Formed) (s : State) : kept strict (noteShort f s) = kept strict s := by simp [noteShort]

@[simp] theorem kept_noteClamp (f : Formed) (s : State) : kept strict (noteClamp f s) = kept strict s := by simp [noteClamp]

@[simp] theorem kept_placeFormed (l : RegLine) (s : State) : kept strict (placeFormed l s).2 = kept strict s := by
  simp only [placeFormed]
  repeat' split
  all_goals simp

@[simp] theorem kept_takeSkip (s : State) : kept strict (takeSkip s) = kept strict s := kept_mk ..

@[simp] theorem kept_commitImage (f : Formed) (s : State) : kept false (commitImage f s) = kept false s := by simp [commitImage]

@[simp] theorem kept_commitNext (final : Bool) (s : State) : kept false (commitNext final s) = kept false s := by
  simp only [commitNext]
  repeat' split
  all_goals simp

@[simp] theorem kept_commitAll (n : Nat) (s : State) : kept false (commitAll n s) = kept false s := by
  induction n generalizing s with
  | zero => simp [commitAll]
  | succ n ih => simp [commitAll, ih]

@[simp] theorem kept_finishLines (s : State) : kept false (finishLines s) = kept false s := by simp [finishLines]

@[simp] theorem kept_discardLines (s : State) : kept false (discardLines s) = kept false s := kept_mk_loose ..

/-! ### Machine/Leaven -/

@[simp] theorem kept_endChain (ch : Nat) (res : CalResult) (rejected : Bool) (s : State) :
    kept strict (endChain ch res rejected s) = kept strict s := by
  simp [endChain]

@[simp] theorem kept_completeCal (k : Nat) (s : State) : kept strict (completeCal k s) = kept strict s := by simp [completeCal]

@[simp] theorem kept_checkComplete (k : Nat) (s : State) : kept strict (checkComplete k s) = kept strict s := by
  simp [checkComplete]

@[simp] theorem kept_noteAbandoned (source : Nat) (detail : List Byte) (s : State) :
    kept strict (noteAbandoned source detail s) = kept strict s := by
  simp [noteAbandoned]

@[simp] theorem kept_releaseSpare (k : Nat) (s : State) : kept strict (releaseSpare k s) = kept strict s := by simp [releaseSpare]

@[simp] theorem kept_passesEnded (s : State) : kept false (passesEnded s) = kept false s := by simp [passesEnded]

@[simp] theorem kept_endPass (k : Nat) (s : State) : kept false (endPass k s) = kept false s := by
  unfold endPass
  split <;> simp

@[simp] theorem kept_abandonPass (k cause : Nat) (s : State) : kept false (abandonPass k cause s) = kept false s := by
  unfold abandonPass
  split <;> simp

@[simp] theorem kept_abandonGroup (k cause : Nat) (s : State) : kept false (abandonGroup k cause s) = kept false s := by
  simp [abandonGroup]

@[simp] theorem kept_makeDue (k : Nat) (s : State) : kept strict (makeDue k s) = kept strict s := by simp [makeDue]

@[simp] theorem kept_leavenReady (s : State) : kept strict (leavenReady s) = kept strict s := by simp [leavenReady]

@[simp] theorem kept_setPass (k : Nat) (p : Option Pass) (s : State) : kept strict (setPass k p s) = kept strict s := by
  simp [setPass]

@[simp] theorem kept_requestHandover (k p : Nat) (s : State) : kept strict (requestHandover k p s) = kept strict s := by
  simp [requestHandover]

@[simp] theorem kept_closedBothA (k : Nat) (p : Pass) (a b : CalWindow) (s : State) :
    kept strict (closedBothA k p a b s) = kept strict s := by
  simp [closedBothA]

@[simp] theorem kept_closeWindow (k : Nat) (s : State) : kept strict (closeWindow k s) = kept strict s := by
  unfold closeWindow
  repeat' split
  all_goals simp

@[simp] theorem kept_groupOff (k cause : Nat) (s : State) : kept false (groupOff k cause s) = kept false s := by simp [groupOff]

@[simp] theorem kept_paperLine (l : LineRec) (s : State) : kept strict (paperLine l s) = kept strict s := by
  unfold paperLine
  split
  · rfl
  · simp only
    split <;> rfl

@[simp] theorem kept_passLine (l : LineRec) (k : Nat) (s : State) : kept strict (passLine l k s) = kept strict s := by
  simp only [passLine]
  repeat' split
  all_goals simp

@[simp] theorem kept_countReleased (l : LineRec) (s : State) : kept strict (countReleased l s) = kept strict s := by
  simp [countReleased]

@[simp] theorem kept_releaseOldest (s : State) : kept false (releaseOldest s) = kept false s := by
  unfold releaseOldest
  split <;> simp

@[simp] theorem kept_drainLines_go (n : Nat) (s : State) : kept false (drainLines.go n s) = kept false s := by
  induction n generalizing s with
  | zero => rfl
  | succ n ih => simp [drainLines.go, ih]

@[simp] theorem kept_drainLines (s : State) : kept false (drainLines s) = kept false s := by simp [drainLines]

/-! ### Machine/Motion -/

@[simp] theorem kept_setTransport (f : Transport → Transport) (s : State) : kept strict (setTransport f s) = kept strict s :=
  kept_mk ..

@[simp] theorem kept_modSeg (a : Nat) (f : SegList → SegList) (s : State) : kept strict (modSeg a f s) = kept strict s := by
  simp [modSeg]

@[simp] theorem kept_gatesLow (a : Nat) (s : State) : kept strict (gatesLow a s) = kept strict s := by simp [gatesLow]

@[simp] theorem kept_energiseAxis (a : Nat) (s : State) : kept strict (energiseAxis a s) = kept strict s := by simp [energiseAxis]

@[simp] theorem kept_axisOff (a : Nat) (s : State) : kept strict (axisOff a s) = kept strict s := by simp [axisOff]

@[simp] theorem kept_request11 (a : Nat) (g : AxisGoal) (s : State) : kept strict (request11 a g s) = kept strict s := by
  simp [request11]

@[simp] theorem kept_leaveFollow (a : Nat) (s : State) : kept strict (leaveFollow a s) = kept strict s := by simp [leaveFollow]

@[simp] theorem kept_normalStop (a : Nat) (s : State) : kept strict (normalStop a s) = kept strict s := by simp [normalStop]

@[simp] theorem kept_barOthers (a : Nat) (s : State) : kept strict (barOthers a s) = kept strict s := by
  unfold barOthers
  split <;> simp

@[simp] theorem kept_stopList (a reason : Nat) (s : State) : kept strict (stopList a reason s) = kept strict s := by simp [stopList]

@[simp] theorem kept_endRun (a reason : Nat) (s : State) : kept strict (endRun a reason s) = kept strict s := by simp [endRun]

@[simp] theorem kept_beginCaptureMove (a : Nat) (target : Int) (s : State) :
    kept strict (beginCaptureMove a target s) = kept strict s := by
  simp [beginCaptureMove]

@[simp] theorem kept_captureMove (a : Nat) (target : Int) (s : State) : kept strict (captureMove a target s) = kept strict s := by
  simp [captureMove]

@[simp] theorem kept_axisReady (a : Nat) (s : State) : kept strict (axisReady a s) = kept strict s := by simp [axisReady]

@[simp] theorem kept_axesReady (s : State) : kept strict (axesReady s) = kept strict s := by simp [axesReady]

/-! ### Machine/Pacer -/

@[simp] theorem kept_pacerTake (s : State) : kept strict (pacerTake s) = kept strict s := by simp [pacerTake]

@[simp] theorem kept_pacerLeft (s : State) : kept strict (pacerLeft s) = kept strict s := by simp [pacerLeft]

@[simp] theorem kept_groupHalt (s : State) : kept strict (groupHalt s) = kept strict s := by simp [groupHalt]

@[simp] theorem kept_endGroupMove (s : State) : kept strict (endGroupMove s) = kept strict s := by simp [endGroupMove]

@[simp] theorem kept_pacerRelease (s : State) : kept strict (pacerRelease s) = kept strict s := by simp [pacerRelease]

/-! ### Machine/Weir -/

@[simp] theorem kept_weirStop (s : State) : kept false (weirStop s) = kept false s := by simp [weirStop]

@[simp] theorem kept_weirEnd (s : State) : kept strict (weirEnd s) = kept strict s := kept_mk ..

@[simp] theorem kept_weirBegin (s : State) : kept strict (weirBegin s) = kept strict s := by simp [weirBegin]

/-! ### Machine/Capture -/

@[simp] theorem kept_setCapture (f : RefCapture → RefCapture) (s : State) : kept strict (setCapture f s) = kept strict s :=
  kept_mk ..

@[simp] theorem kept_abandonCapture (fault : Bool) (s : State) : kept strict (abandonCapture fault s) = kept strict s := by
  simp only [abandonCapture]
  repeat' split
  all_goals simp

/-! ### Machine/Axis -/

@[simp] theorem kept_motionResume (s : State) : kept strict (motionResume s) = kept strict s := by simp [motionResume]

/-! ### Machine/Mailbox -/

@[simp] theorem kept_wakeDomain (d : Nat) (s : State) : kept false (wakeDomain d s) = kept false s := by simp [wakeDomain]

@[simp] theorem kept_emptyRings (l : List Nat) (s : State) : kept strict (emptyRings l s) = kept strict s := by simp [emptyRings]

@[simp] theorem kept_dropSends (l : List Nat) (s : State) : kept strict (dropSends l s) = kept strict s := by simp [dropSends]

@[simp] theorem kept_wakeFor (d : Nat) (s : State) : kept false (wakeFor d s) = kept false s := by simp [wakeFor]

@[simp] theorem kept_rewake (s : State) : kept false (rewake s) = kept false s := by simp [rewake]

@[simp] theorem kept_pcOff (s : State) : kept strict (pcOff s) = kept strict s := by simp [pcOff]

/-! ### Machine/Fault -/

@[simp] theorem kept_setGov (level cap : Nat) (s : State) : kept false (setGov level cap s) = kept false s := kept_mk_loose ..

@[simp] theorem kept_lowerGov (level : Nat) (s : State) : kept false (lowerGov level s) = kept false s := by simp [lowerGov]

@[simp] theorem kept_govMode (m : Mode) (s : State) : kept false (govMode m s) = kept false s := by simp [govMode]

@[simp] theorem kept_domainLoses (d : Nat) (s : State) : kept false (domainLoses d s) = kept false s := by simp [domainLoses]

@[simp] theorem kept_domainOff (d : Nat) (s : State) : kept false (domainOff d s) = kept false s := by simp [domainOff]

@[simp] theorem kept_domainsDown (m : Mode) (s : State) : kept false (domainsDown m s) = kept false s := by
  refine kept_foldl (fun s d => ?_) _ s
  split <;> simp

@[simp] theorem kept_comparePower (s : State) : kept false (comparePower s) = kept false s := by simp [comparePower]

/-! ### Machine/Modes -/

@[simp] theorem kept_learnPort (p : Nat) (s : State) : kept strict (learnPort p s) = kept strict s := by simp [learnPort]

@[simp] theorem kept_enterReady (s : State) : kept false (enterReady s) = kept false s := by simp [enterReady]

@[simp] theorem kept_endRunMode (s : State) : kept false (endRunMode s) = kept false s := by simp [endRunMode]

@[simp] theorem kept_enterRun (target : Mode) (s : State) : kept false (enterRun target s) = kept false s := by simp [enterRun]

@[simp] theorem kept_endActions (target : Mode) (s : State) : kept false (endActions target s) = kept false s := by
  unfold endActions
  split <;> simp only [kept_enterReady, kept_enterRun, kept_endRunMode, kept_motionResume]

@[simp] theorem kept_restartLevels (s : State) : kept strict (restartLevels s) = kept strict s := kept_mk ..

end

end Sys2Proof.Machine
end

section
/-!
PROOFS. MODE_REQUEST (01_architecture R25 to R28, Table 1.8, Table 1.9): how a request is judged, and what the start of a transition does.
-/
namespace Sys2Proof.Machine

/-! ### What each start changes -/

/-- READY to STANDBY changes the timing alone among the parts that `kept` shows: no program and no armed capture remain. -/
theorem kept_startStandby (s : State) : ∃ tim : Timing, tim.words = [] ∧ tim.armed = false ∧
    kept true (startStandby s) = kept true { s with tim := tim } := by
  obtain ⟨u, hu, hs⟩ : ∃ u, kept true u = kept true s ∧
      kept true (startStandby s) = kept true (discardLines (disarm { u with tim := { u.tim with words := [] } })) :=
    ⟨abandonMeasure (abandonCapture false (lampsOff s)), by simp, by simp [startStandby]⟩
  obtain ⟨hmodes, hotp, hflash, htw, hpwr, hdict, htim⟩ := kept_strict_iff.1 hu
  refine ⟨(discardLines (disarm { u with tim := { u.tim with words := [] } })).tim, rfl, rfl, hs.trans (kept_strict_iff.2 ?_)⟩
  exact ⟨hmodes, hotp, hflash, htw, hpwr, hdict, rfl⟩

/-- INLINE or SHEET to READY changes the timing alone among the parts that `kept` shows; in INLINE capture is disarmed. -/
theorem kept_startStop (s : State) : ∃ tim : Timing, (s.modes.mode = .inline → tim.armed = false) ∧
    kept true (startStop s) = kept true { s with tim := tim } := by
  have hu : kept true (abandonCapture false s) = kept true s := kept_abandonCapture ..
  obtain ⟨hmodes, hotp, hflash, htw, hpwr, hdict, htim⟩ := kept_strict_iff.1 hu
  by_cases h : s.modes.mode = .sheet
  · refine ⟨s.tim, by simp [h], ?_⟩
    simp [startStop, hmodes, h]
  · refine ⟨(disarm (abandonCapture false s)).tim, fun _ => rfl, ?_⟩
    simp only [startStop, hmodes, h, if_false]
    exact kept_strict_iff.2 ⟨hmodes, hotp, hflash, htw, hpwr, hdict, rfl⟩

/-- The wake of domains changes nothing but which of them power up. -/
theorem wakeDomains_frame (p : Nat → State → Bool) (l : List Nat) (s : State) : ∃ n,
    l.foldl (fun s d => if p d s then wakeDomain d s else s) s = { s with pwr := { s.pwr with powering := n } } := by
  induction l generalizing s with
  | nil => exact ⟨s.pwr.powering, rfl⟩
  | cons d l ih =>
    obtain ⟨m, hm⟩ : ∃ m, (if p d s then wakeDomain d s else s) = { s with pwr := { s.pwr with powering := m } } := by
      unfold wakeDomain
      repeat' split
      all_goals exact ⟨_, rfl⟩
    rw [List.foldl_cons, hm]
    exact ih _

theorem startReady_frame (s : State) : ∃ n, startReady s = { s with
    dict := { s.dict with atReady := s.dict.held, bulkAtReady := s.dict.bulk }, pwr := { s.pwr with powering := n } } := by
  unfold startReady
  generalize powerOrder = l
  exact wakeDomains_frame (domainIn .ready) l { s with dict := { s.dict with atReady := s.dict.held, bulkAtReady := s.dict.bulk } }

/-- Where a command logs nothing, the gathering of its events changes nothing. -/
theorem inOneCycle_quiet {f : State → State} {s : State}
    (h : (f { s with ev := { s.ev with held := some [] } }).ev = { s.ev with held := some [] }) :
    inOneCycle f s = { f { s with ev := { s.ev with held := some [] } } with ev := s.ev } := by
  unfold inOneCycle
  simp only [h, Option.getD_some, logEvents_nil]

theorem kept_startMc {strict : Bool} {s : State} (h : sectionOk 2 s = true) : kept strict (startMc s) = kept strict s := by
  rw [startMc, if_pos h, kept_mk]

/-- The actions of a start leave the modes, OTP, the flash and the two-wire unit, but for a bad section of the MC in FAULT. -/
theorem kept_startActions {target : Mode} {s : State} (h : s.modes.mode = .fault → sectionOk 2 s = true) :
    kept false (startActions target s) = kept false s := by
  unfold startActions
  split
  · obtain ⟨n, hn⟩ := startReady_frame s
    rw [hn, kept_mk_loose]
  · obtain ⟨tim, -, -, ht⟩ := kept_startStandby s
    exact (kept_loose_of_strict ht).trans (kept_mk_loose ..)
  · exact kept_abandonCapture ..
  · obtain ⟨tim, -, ht⟩ := kept_startStop s
    exact (kept_loose_of_strict ht).trans (kept_mk_loose ..)
  · obtain ⟨tim, -, ht⟩ := kept_startStop s
    exact (kept_loose_of_strict ht).trans (kept_mk_loose ..)
  · next hmode => exact kept_startMc (h hmode)
  · rfl

/-! ### The actions of each start (Table 1.9) -/

section
variable {s : State}

theorem startActions_standby_ready (h : s.modes.mode = .standby) : startActions .ready s = startReady s := by
  unfold startActions; rw [h]

theorem startActions_ready_standby (h : s.modes.mode = .ready) : startActions .standby s = startStandby s := by
  unfold startActions; rw [h]

theorem startActions_ready_inline (h : s.modes.mode = .ready) : startActions .inline s = abandonCapture false s := by
  unfold startActions; rw [h]

theorem startActions_ready_sheet (h : s.modes.mode = .ready) : startActions .sheet s = abandonCapture false s := by
  unfold startActions; rw [h]

theorem startActions_run {target : Mode} (h : s.modes.mode = .inline ∨ s.modes.mode = .sheet) :
    startActions target s = startStop s := by
  unfold startActions
  rcases h with h | h <;> rw [h]

theorem startActions_fault {target : Mode} (h : s.modes.mode = .fault) : startActions target s = startMc s := by
  unfold startActions; rw [h]

end

/-! ### The judgement of a request -/

/-- MODE_REQUEST holds the code of the requested mode. -/
def requested (target : Mode) (s : State) : State := { s with modes := { s.modes with request := target.code } }

/-- The judgement does not read MODE_REQUEST. -/
theorem judgeRequest_requested (target m : Mode) (s : State) : judgeRequest target (requested m s) = judgeRequest target s := rfl

section
variable {target : Mode} {s : State}

theorem writeModeRequest_current (hnone : s.modes.trans = none) (hmode : s.modes.mode = target) :
    writeModeRequest target s = .ok { s with modes := { s.modes with request := target.code, status := 0 } } := by
  simp [writeModeRequest, hnone, hmode]

theorem refuseMode_busy {code : Nat} (h : s.modes.trans.isSome = true) :
    refuseMode code s = { s with modes := { s.modes with refusal := code } } := by
  have hsome : s.modes.trans.isNone = false := by rw [← Option.not_isSome, h]; rfl
  simp [refuseMode, hsome]

theorem refuseMode_idle {code : Nat} (h : s.modes.trans = none) :
    refuseMode code s = { s with modes := { s.modes with refusal := code, status := code } } := by
  simp [refuseMode, h]

theorem writeModeRequest_busy (h : s.modes.trans.isSome = true) :
    writeModeRequest target s = .abort abortState { s with modes := { s.modes with refusal := 0x10 } } := by
  rw [writeModeRequest, if_pos h, refuseMode_busy h]

theorem writeModeInvalid_busy (h : s.modes.trans.isSome = true) :
    writeModeInvalid s = .abort abortState { s with modes := { s.modes with refusal := 0x10 } } := by
  rw [writeModeInvalid, if_pos h, refuseMode_busy h]

theorem writeModeInvalid_idle (h : s.modes.trans = none) :
    writeModeInvalid s = .abort abortRange { s with modes := { s.modes with refusal := 0x11, status := 0x11 } } := by
  rw [writeModeInvalid, if_neg (by simp [h]), refuseMode_idle h]

/-- A request for another mode comes to what its judgement says. -/
theorem writeModeRequest_judged (hnone : s.modes.trans = none) (hmode : s.modes.mode ≠ target) : writeModeRequest target s =
    (judgeRequest target s).elim (.ok (startTransition ⟨target, false, false⟩ (requested target s)))
      (fun code => .ok (refuseMode code (requested target s))) := by
  rw [← judgeRequest_requested target target, writeModeRequest, if_neg (by simp [hnone])]
  refine (if_neg hmode).trans ?_
  split <;> next h => rw [show judgeRequest target (requested target s) = _ from h]; rfl

theorem writeModeRequest_refused {code : Nat} (hnone : s.modes.trans = none) (hmode : s.modes.mode ≠ target)
    (hjudge : judgeRequest target s = some code) : writeModeRequest target s =
      .ok { s with modes := { s.modes with request := target.code, refusal := code, status := code } } := by
  rw [writeModeRequest_judged hnone hmode, hjudge]
  exact congrArg WriteOut.ok (refuseMode_idle (s := requested target s) hnone)

theorem writeModeRequest_starts (hnone : s.modes.trans = none) (hmode : s.modes.mode ≠ target)
    (hjudge : judgeRequest target s = none) :
    writeModeRequest target s = .ok (startTransition ⟨target, false, false⟩ (requested target s)) := by
  rw [writeModeRequest_judged hnone hmode, hjudge, Option.elim_none]

end

theorem writeCommand_ok {via : Path} {h : State → WriteOut} {s t : State} (hs : served via s = true) (ht : h s = .ok t) :
    writeCommand via h s = .next (answerWrite via 0 t) := by
  rw [writeCommand_served s via h hs, ht]; rfl

theorem writeCommand_abort {via : Path} {h : State → WriteOut} {c : Nat} {s t : State} (hs : served via s = true)
    (ht : h s = .abort c t) : writeCommand via h s = .next (answerWrite via c t) := by
  rw [writeCommand_served s via h hs, ht]; rfl

/-- A code other than 1 to 4 names no requestable mode (R28). -/
theorem writeMode_invalid {code : Nat} (h : code ∉ [1, 2, 3, 4]) (s : State) : writeMode code s = writeModeInvalid s := by
  have hcode : requestableMode code = none := by
    unfold requestableMode
    split <;> simp_all
  rw [writeMode, hcode]

/-- Every code is refused as busy while a transition runs (R27). -/
theorem writeMode_busy {s : State} (code : Nat) (h : s.modes.trans.isSome = true) :
    writeMode code s = .abort abortState { s with modes := { s.modes with refusal := 0x10 } } := by
  unfold writeMode
  split
  · exact writeModeRequest_busy h
  · exact writeModeInvalid_busy h

theorem writeCommand_starts {via : Path} {target : Mode} {s : State} (hs : served via s = true) (hnone : s.modes.trans = none)
    (hmode : s.modes.mode ≠ target) (hjudge : judgeRequest target s = none) :
    writeCommand via (writeModeRequest target) s =
      .next (answerWrite via 0 (startTransition ⟨target, false, false⟩ (requested target s))) :=
  writeCommand_ok hs (writeModeRequest_starts hnone hmode hjudge)

/-- The state in which the actions of a requested transition begin. -/
def starting (target : Mode) (s : State) : State :=
  { setTransition ⟨target, false, false⟩ (requested target s) with ev := { s.ev with held := some [] } }

/-- The modes of an accepted request. -/
def startedModes (target : Mode) (s : State) : Modes :=
  { s.modes with request := target.code, status := 1, trans := some ⟨target, false, false⟩ }

/-- A start whose actions change the timing alone among the parts that `kept` shows. -/
theorem startTransition_kept {target : Mode} {s : State} {tim : Timing}
    (h : kept true (startActions target (starting target s)) = kept true { starting target s with tim := tim }) :
    let t := startTransition ⟨target, false, false⟩ (requested target s)
    t.modes = startedModes target s ∧ t.otp = s.otp ∧ t.flash = s.flash ∧ t.pwr = s.pwr ∧ t.tw = s.tw ∧ t.dict = s.dict ∧
      t.tim = tim ∧ t.now = s.now ∧ t.clk = s.clk := by
  intro t
  have hclocks : clocks t = clocks s := (clocks_startTransition ..).trans rfl
  obtain ⟨hmodes, hotp, hflash, htw, hpwr, hdict, htim⟩ := kept_strict_iff.1 ((kept_inOneCycle_eq _ _).trans h)
  simp only [clocks, Prod.mk.injEq] at hclocks
  exact ⟨hmodes, hotp, hflash, hpwr, htw, hdict, htim, hclocks.1, hclocks.2.1⟩

/-- STANDBY to READY logs nothing: it puts the objects that wait for it into force and wakes domains, and that is all. -/
theorem startTransition_ready {s : State} (hmode : s.modes.mode = .standby) : ∃ n,
    startTransition ⟨.ready, false, false⟩ (requested .ready s) = { s with
      modes := startedModes .ready s,
      dict := { s.dict with atReady := s.dict.held, bulkAtReady := s.dict.bulk }, pwr := { s.pwr with powering := n } } := by
  obtain ⟨n, hn⟩ := startReady_frame (starting .ready s)
  have hstart : startActions .ready (starting .ready s) = startReady (starting .ready s) := startActions_standby_ready hmode
  rw [hn] at hstart
  have hev : (startActions .ready (starting .ready s)).ev = { s.ev with held := some [] } := congrArg State.ev hstart
  refine ⟨n, ?_⟩
  rw [startTransition, inOneCycle_quiet hev]
  exact congrArg (fun u : State => { u with ev := s.ev }) hstart

theorem hasSession_iff {s : State} : hasSession s = true ↔ s.ecat.al = 8 ∨ s.host.session ≠ 0 := by
  simp [hasSession, inOp]

theorem writeCommand_refused {via : Path} {target : Mode} {code : Nat} {s : State} (hs : served via s = true)
    (hnone : s.modes.trans = none) (hmode : s.modes.mode ≠ target) (hjudge : judgeRequest target s = some code) :
    writeCommand via (writeModeRequest target) s =
      .next (answerWrite via 0 { s with modes := { s.modes with request := target.code, refusal := code, status := code } }) :=
  writeCommand_ok hs (writeModeRequest_refused hnone hmode hjudge)

/-- The modes to which Table 1.9 has a transition from a mode other than FAULT. -/
def nextModes : Mode → List Mode
  | .standby => [.ready]
  | .ready => [.standby, .inline, .sheet]
  | .inline => [.ready]
  | .sheet => [.ready]
  | _ => []

theorem judgeRequest_unlisted {target : Mode} {s : State} (hfault : s.modes.mode ≠ .fault)
    (h : target ∉ nextModes s.modes.mode) : judgeRequest target s = some 0x11 := by
  unfold judgeRequest
  split <;> simp_all [nextModes]

theorem judgeRequest_noSession {target : Mode} {s : State} (hsession : hasSession s = false) (htarget : target ≠ .standby)
    (h : target ∈ nextModes s.modes.mode) (hmode : s.modes.mode = .standby ∨ s.modes.mode = .ready) :
    judgeRequest target s = some 0x12 := by
  rcases hmode with hmode | hmode
  · obtain rfl : target = .ready := by simpa [hmode, nextModes] using h
    simp [judgeRequest, hmode, hsession]
  · obtain rfl | rfl : target = .inline ∨ target = .sheet := by simpa [hmode, nextModes, htarget] using h
    · simp [judgeRequest, hmode, hsession]
    · simp [judgeRequest, hmode, hsession]

theorem judgeRequest_fault {target : Mode} {s : State} (hmode : s.modes.mode = .fault) : judgeRequest target s =
    if s.ev.first.isSome then some 0x14 else if causeActive s then some 0x15 else if target = .standby then none else some 0x11 := by
  unfold judgeRequest
  rw [hmode]

/-- The section of an image reads the booted slot of the flash. -/
theorem sectionOk_congr {s t : State} (hslot : t.boot.slot = s.boot.slot) (hflash : t.flash = s.flash) (i : Nat) :
    sectionOk i t = sectionOk i s := by
  simp only [sectionOk, slotImage, hslot, hflash]

section
variable {via : Path} {s : State} (hs : served via s = true) (hnone : s.modes.trans = none)
include hs hnone

theorem request_ready_from_standby (hmode : s.modes.mode = .standby) (hsession : s.ecat.al = 8 ∨ s.host.session ≠ 0) :
    ∃ t, exec (.modeRequestReady via) s = .next (answerWrite via 0 t) ∧ t.modes = startedModes .ready s ∧
      t.dict = { s.dict with atReady := s.dict.held, bulkAtReady := s.dict.bulk } ∧
      t = { s with modes := t.modes, dict := t.dict, pwr := { s.pwr with powering := t.pwr.powering } } := by
  rw [← hasSession_iff] at hsession
  obtain ⟨n, hn⟩ := startTransition_ready hmode
  refine ⟨_, writeCommand_starts hs hnone (by simp [hmode]) (by simp [judgeRequest, hmode, hsession]), ?_⟩
  rw [hn]
  exact ⟨rfl, rfl, rfl⟩

/-- READY to INLINE or SHEET: a reference capture is abandoned, and nothing else is done. -/
theorem request_run {target : Mode} (hjudge : judgeRequest target s = none)
    (hne : s.modes.mode ≠ target)
    (hstart : startActions target (starting target s) = abandonCapture false (starting target s)) :
    ∃ t, writeCommand via (writeModeRequest target) s = .next (answerWrite via 0 t) ∧ t.modes = startedModes target s ∧
      t.otp = s.otp ∧ t.flash = s.flash ∧ t.pwr = s.pwr ∧ t.tw = s.tw ∧ t.dict.held = s.dict.held ∧
      t.now = s.now ∧ t.clk = s.clk := by
  obtain ⟨hmodes, hotp, hflash, hpwr, htw, hdict, -, hnow, hclk⟩ :=
    startTransition_kept (tim := s.tim) ((congrArg (kept true) hstart).trans (kept_abandonCapture ..))
  exact ⟨_, writeCommand_starts hs hnone hne hjudge, hmodes, hotp, hflash, hpwr, htw, congrArg Dict.held hdict, hnow, hclk⟩

theorem request_standby_from_ready (hmode : s.modes.mode = .ready) :
    ∃ t, exec (.modeRequestStandby via) s = .next (answerWrite via 0 t) ∧ t.modes = startedModes .standby s ∧
      t.tim.words = [] ∧ t.tim.armed = false ∧ t.otp = s.otp ∧ t.flash = s.flash ∧ t.pwr = s.pwr ∧ t.tw = s.tw ∧
      t.dict.held = s.dict.held ∧ t.now = s.now ∧ t.clk = s.clk := by
  obtain ⟨tim, hwords, harmed, hkept⟩ := kept_startStandby (starting .standby s)
  obtain ⟨hmodes, hotp, hflash, hpwr, htw, hdict, htim, hnow, hclk⟩ :=
    startTransition_kept ((congrArg (kept true) (startActions_ready_standby (s := starting .standby s) hmode)).trans hkept)
  exact ⟨_, writeCommand_starts hs hnone (by simp [hmode]) (by simp [judgeRequest, hmode]), hmodes,
    (congrArg Timing.words htim).trans hwords, (congrArg Timing.armed htim).trans harmed, hotp, hflash, hpwr, htw,
    congrArg Dict.held hdict, hnow, hclk⟩

theorem request_ready_from_run (hmode : s.modes.mode = .inline ∨ s.modes.mode = .sheet) :
    ∃ t, exec (.modeRequestReady via) s = .next (answerWrite via 0 t) ∧ t.modes = startedModes .ready s ∧
      (s.modes.mode = .inline → t.tim.armed = false) ∧ t.otp = s.otp ∧ t.flash = s.flash ∧ t.pwr = s.pwr ∧ t.tw = s.tw ∧
      t.dict.held = s.dict.held ∧ t.now = s.now ∧ t.clk = s.clk := by
  have hne : s.modes.mode ≠ .ready := by rcases hmode with h | h <;> simp [h]
  have hjudge : judgeRequest .ready s = none := by rcases hmode with h | h <;> simp [judgeRequest, h]
  obtain ⟨tim, harmed, hkept⟩ := kept_startStop (starting .ready s)
  obtain ⟨hmodes, hotp, hflash, hpwr, htw, hdict, htim, hnow, hclk⟩ :=
    startTransition_kept ((congrArg (kept true) (startActions_run (s := starting .ready s) hmode)).trans hkept)
  exact ⟨_, writeCommand_starts hs hnone hne hjudge, hmodes, fun h => (congrArg Timing.armed htim).trans (harmed h), hotp, hflash,
    hpwr, htw, congrArg Dict.held hdict, hnow, hclk⟩

theorem request_standby_from_fault (hmode : s.modes.mode = .fault) (hfirst : s.ev.first = none) (hcause : causeActive s = false)
    (hsection : sectionOk 2 s = true) :
    ∃ t, exec (.modeRequestStandby via) s = .next (answerWrite via 0 t) ∧ t.modes = startedModes .standby s ∧
      t.otp = s.otp ∧ t.flash = s.flash ∧ t.pwr = s.pwr ∧ t.tw = s.tw ∧ t.dict = s.dict ∧ t.tim = s.tim ∧
      t.now = s.now ∧ t.clk = s.clk := by
  have hkept : kept true (startMc (starting .standby s)) = kept true { starting .standby s with tim := s.tim } :=
    kept_startMc ((sectionOk_congr rfl rfl 2).trans hsection)
  obtain ⟨hmodes, hotp, hflash, hpwr, htw, hdict, htim, hnow, hclk⟩ :=
    startTransition_kept ((congrArg (kept true) (startActions_fault (s := starting .standby s) hmode)).trans hkept)
  exact ⟨_, writeCommand_starts hs hnone (by simp [hmode]) (by simp [judgeRequest_fault hmode, hfirst, hcause]), hmodes, hotp,
    hflash, hpwr, htw, hdict, htim, hnow, hclk⟩

end

/-- Settles O2: a request is judged on the mode alone and what its row of Table 1.9 names, and each start changes the parts that `kept`
does not show, or the timing. -/
theorem modeRequestStartsTransition : Obligations.ModeRequestStartsTransition := by
  unfold Obligations.ModeRequestStartsTransition
  refine ⟨?_, ?_, ?_, fun via s => request_ready_from_standby, ?_, fun via s => request_standby_from_ready,
    fun via s => request_ready_from_run, fun via s => request_standby_from_fault, ?_⟩
  · -- the current mode
    intro via s hs hnone
    have current (target : Mode) (h : s.modes.mode = target) := writeCommand_ok hs (writeModeRequest_current hnone h)
    exact ⟨current .standby, current .ready, current .inline, current .sheet⟩
  · -- a transition runs
    intro via code s hs hbusy
    have busy (target : Mode) := writeCommand_abort hs (writeModeRequest_busy (target := target) hbusy)
    simp only [List.forall_mem_cons, List.not_mem_nil, false_implies, implies_true, and_true]
    exact ⟨busy .standby, busy .ready, busy .inline, busy .sheet, writeCommand_abort hs (writeMode_busy _ hbusy)⟩
  · -- a code that names no requestable mode
    intro via code s hs hnone hcode
    exact writeCommand_abort hs ((writeMode_invalid hcode s).trans (writeModeInvalid_idle hnone))
  · -- READY to INLINE or SHEET
    intro via s hs hnone hmode hsession hprogram
    rw [← hasSession_iff] at hsession
    exact ⟨request_run hs hnone (by simp [judgeRequest, hmode, hsession, hprogram]) (by simp [hmode])
        (startActions_ready_inline hmode),
      fun haxes => request_run hs hnone (by simp [judgeRequest, hmode, hsession, hprogram, haxes]) (by simp [hmode])
        (startActions_ready_sheet hmode)⟩
  · -- the refusals
    intro via s hs hnone refused nextOf all
    have hnext : nextOf = nextModes := by
      funext m
      cases m <;> rfl
    have hexec : ∀ x ∈ all, exec x.1 s = writeCommand via (writeModeRequest x.2) s := by
      simp only [all, List.forall_mem_cons, List.not_mem_nil, false_implies, implies_true, and_true]
      exact ⟨rfl, rfl, rfl, rfl⟩
    have hrefused (x : Instr × Mode) (hx : x ∈ all) {code : Nat} (hmode : s.modes.mode ≠ x.2)
        (hjudge : judgeRequest x.2 s = some code) : refused x.1 x.2 code :=
      (hexec x hx).trans (writeCommand_refused hs hnone hmode hjudge)
    have hfault (hmode : s.modes.mode = .fault) : ∀ x ∈ all, s.modes.mode ≠ x.2 := by simp [all, hmode]
    have hinline : (.modeRequestInline via, .inline) ∈ all := by simp [all]
    have hsheet : (.modeRequestSheet via, .sheet) ∈ all := by simp [all]
    rw [hnext]
    refine ⟨fun hnot x hx hmode hrow => ?_, fun hnot hsession x hx hstandby hrow hmode => ?_, fun hmode hsession hempty => ⟨?_, ?_⟩,
      fun hmode hsession hempty => ?_, fun hmode hfirst x hx => ?_, fun hmode hfirst hcause x hx => ?_,
      fun hmode hfirst hcause x hx htarget => ?_⟩
    · exact hrefused x hx hmode.symm (judgeRequest_unlisted hnot hrow)
    · refine hrefused x hx (fun he => ?_) (judgeRequest_noSession hsession hstandby hrow hmode)
      rw [← he] at hrow
      rcases hmode with hmode | hmode <;> simp [hmode, nextModes] at hrow
    · exact hrefused _ hinline (by simp [hmode]) (by simp [judgeRequest, hmode, hsession, hempty])
    · exact hrefused _ hsheet (by simp [hmode]) (by simp [judgeRequest, hmode, hsession, hempty])
    · exact hrefused _ hsheet (by simp [hmode]) (by simp [judgeRequest, hmode, hsession, hempty])
    · exact hrefused x hx (hfault hmode x hx) (by simp [judgeRequest_fault hmode, hfirst])
    · exact hrefused x hx (hfault hmode x hx) (by simp [judgeRequest_fault hmode, hfirst, hcause])
    · exact hrefused x hx (hfault hmode x hx) (by simp [judgeRequest_fault hmode, hfirst, hcause, htarget])

end Sys2Proof.Machine
end

section
/-! PROOFS. MODE_TRANSITION_DONE: what the end of a transition leaves (01_architecture R25, R31). -/
namespace Sys2Proof.Machine

theorem kept_loose_withModes {s t : State} (h : kept false t = kept false s) (m : Modes) :
    kept false { t with modes := m } = kept false { s with modes := m } := by
  obtain ⟨-, hotp, hflash, htw⟩ := kept_loose_iff.1 h
  exact kept_loose_iff.2 ⟨rfl, hotp, hflash, htw⟩

/-- The reached mode stands in MODE_STATE with its time. -/
theorem kept_reachMode (m : Mode) (s : State) :
    kept false (reachMode m s) = kept false { s with modes := { s.modes with mode := m, changeTime := s.now } } := by
  have hmode : kept false (govMode m { abandonCapture false s with modes := { s.modes with mode := m, changeTime := s.now } }) =
      kept false { s with modes := { s.modes with mode := m, changeTime := s.now } } :=
    (kept_govMode ..).trans (kept_loose_withModes (kept_abandonCapture ..) _)
  rw [← hmode]
  unfold reachMode
  split
  · simp
  · simp
  · simp
  · rfl

/-- The same after the actions that complete the transition, with their events logged. -/
theorem kept_reached (target : Mode) (s : State) :
    kept false (inOneCycle (fun s => reachMode target (endActions target s)) s) =
      kept false { s with modes := { s.modes with mode := target, changeTime := s.now } } := by
  have hend : kept false (endActions target { s with ev := { s.ev with held := some [] } }) = kept false s :=
    (kept_endActions ..).trans (kept_mk ..)
  have hclocks : clocks (endActions target { s with ev := { s.ev with held := some [] } }) = clocks s :=
    (clocks_endActions ..).trans rfl
  have hmodes := (kept_loose_iff.1 hend).1
  have hnow := congrArg Prod.fst hclocks
  simp only [clocks] at hnow
  rw [kept_inOneCycle_eq, kept_reachMode, hmodes, hnow]
  exact kept_loose_withModes hend _

theorem kept_startTransition {r : Transition} {s : State} (h : s.modes.mode ≠ .fault) :
    kept false (startTransition r s) = kept false (setTransition r s) := by
  rw [startTransition, kept_inOneCycle_eq]
  refine (kept_startActions fun hfault => ?_).trans (kept_mk ..)
  exact absurd hfault h

/-- What MODE_TRANSITION_DONE leaves of a transition that is ready. -/
def doneModes (r : Transition) (s : State) : Modes :=
  if r.thenStandby then
    { s.modes with mode := .ready, changeTime := s.now, trans := some ⟨.standby, false, r.abandoned⟩, status := 1 }
  else { s.modes with mode := r.target, changeTime := s.now, trans := none, status := if r.abandoned then 2 else 0 }

theorem kept_transitionDone {r : Transition} {s : State} (hr : s.modes.trans = some r)
    (hthen : r.thenStandby = true → r.target = .ready) (hready : transitionReady r s = true) :
    kept false (transitionDone s) = kept false { s with modes := doneModes r s } := by
  have hu := kept_reached r.target s
  unfold transitionDone
  simp only [hr, hready, Bool.not_true, Bool.false_eq_true, if_false]
  generalize inOneCycle _ s = u at hu ⊢
  obtain ⟨hmodes, hotp, hflash, htw⟩ := kept_loose_iff.1 hu
  split
  · next h =>
    rw [kept_startTransition (by simp [hmodes, hthen h])]
    exact kept_loose_iff.2 ⟨by simp [setTransition, doneModes, h, hmodes, hthen h], hotp, hflash, htw⟩
  · next h => exact kept_loose_iff.2 ⟨by simp [doneModes, h, hmodes], hotp, hflash, htw⟩

/-- Settles O3: the actions at the end of a transition leave the modes, OTP, the flash and the two-wire unit (`kept_endActions`), and READY
to STANDBY, where it follows at once, sets the modes and leaves the rest too. -/
theorem modeTransitionCompletes : Obligations.ModeTransitionCompletes := by
  unfold Obligations.ModeTransitionCompletes
  refine ⟨fun s hnone => ?_, fun s r hr _ hthen hready => ?_⟩
  · refine congrArg Host.Outcome.next ?_
    unfold transitionDone
    rw [hnone]
  · obtain ⟨hmodes, hotp, hflash, htw⟩ := kept_loose_iff.1 (kept_transitionDone hr hthen hready)
    have hclocks := clocks_transitionDone s
    simp only [clocks, Prod.mk.injEq] at hclocks
    exact ⟨_, rfl, hmodes, hotp, hflash, htw, hclocks.1, hclocks.2.1⟩

end Sys2Proof.Machine
end

section
/-!
PROOFS. Two statements that fail: the mode at the end of a boot (01_architecture R24) and the timing as a line leaves the hold
(06_colour_registration R142, R147).
-/
namespace Sys2Proof.Machine

/-! ### The end of a boot -/

/-- INLINE with the boot before its end. No run of the device comes here, since a boot is in OFF; the premise of the statement reads the
mode and its transition alone. -/
def bootingInInline : State :=
  { State.reset with
    modes := { Modes.reset with mode := .inline }
    boot := { Boot.reset with phase := .booting 3, trained := some (true, true), discovery := 2 } }

theorem bootActions_bootingInInline_mode : (bootActions bootingInInline).modes.mode = .standby := by decide

/-- Refutes O4: BOOT_ACTIONS ends a boot in STANDBY whatever the mode was (`bootEnd` does not read it), and from INLINE to STANDBY Table 1.9
has no row. The state runs no transition, so that it is fitting. -/
theorem not_modeChangesByTable : ¬ Obligations.ModeChangesByTable := by
  unfold Obligations.ModeChangesByTable
  intro h
  obtain ⟨-, hmode⟩ := h .bootActions bootingInInline (bootActions bootingInInline) (fun r hr => nomatch hr) rfl
  rw [bootActions_bootingInInline_mode] at hmode
  revert hmode
  decide

/-! ### The position breaks of the timing -/

/-- An image line that enters the stagger region takes the breaks of position up to its red slot with it. -/
theorem pushImage_posBreaks (l : Stage6Line) (s : State) : (pushImage l s).tim.posBreaks =
    (noteDiscontinuity (breaksBefore l s) s).tim.posBreaks.filter (fun w => decide (l.clk < w)) := rfl

theorem stage6Line_reference (l : LineRec) (s : State) : (stage6Line l s).1.reference = l.refPhase.isSome := rfl

theorem clk_lt_of_mem_posBreaks_passStages {l : LineRec} {s : State} (hl : l.refPhase = none) {w : Nat}
    (hw : w ∈ (passStages l s).tim.posBreaks) : (stage6Line l s).1.clk < w := by
  simp only [passStages, stage6Line_reference, hl, Option.isSome_none, Bool.false_eq_true, if_false, pushImage_posBreaks,
    List.mem_filter, decide_eq_true_eq] at hw
  exact hw.2

/-- The oldest line, where it is one of a run that has been read and held long enough, passes the stages. -/
theorem releaseLine_passStages {l : LineRec} {rest : List LineRec} {s : State} (hlines : s.tim.lines = l :: rest)
    (hread : lineIsRead l s = true) (hover : holdOver s = true) (hy : l.id.y.isSome = true) :
    ∃ u, releaseLine s = passStages l u := by
  simp only [releaseLine, hover, releaseOldest, hlines, hread, hy, if_true, Bool.not_true, Bool.false_eq_true, if_false]
  exact ⟨_, rfl⟩

/-- A line of a run, ended and read. -/
def lineOfRun : LineRec :=
  { id := ⟨0, some 0⟩, page := 0, pageStart := false, pageLine := 0, leadIn := false, gap := false, refPhase := none,
    counted := false, trigPos := 0, startTime := 0, slots := [], invalid := 0, settling := false, diagnostic := [],
    dropped := false, lin := none, hostDefects := none, chainSet := none, driftSet := none, pulsed := 0, ended := some 0 }

/-- INLINE with that line in the hold, after a write of ENC_POSITION. -/
def heldAfterPositionWrite : State :=
  { State.reset with
    modes := { Modes.reset with mode := .inline }, pwr := { Power.reset with domains := 0xFFFFF#20 }
    tim := { State.reset.tim with lines := [lineOfRun], posBreaks := [0] } }

/-- Refutes O20: the release of a line of a run changes the timing in more than the hold. The line ends the breaks of position that are not
later than its red slot (R142: a write of ENC_POSITION is a discontinuity before one line), so that `posBreaks` loses its entry. -/
theorem not_linesLeaveHoldAndCommit : ¬ Obligations.LinesLeaveHoldAndCommit := by
  unfold Obligations.LinesLeaveHoldAndCommit
  rintro ⟨h, -⟩
  have hread : lineIsRead lineOfRun heldAfterPositionWrite = true := by decide
  have hover : holdOver heldAfterPositionWrite = true := by decide
  obtain ⟨t, ht, htim, -⟩ := (h lineOfRun [] heldAfterPositionWrite (by decide) rfl).2 hread hover
  have hrow : exec .lineHoldRelease heldAfterPositionWrite = .next (releaseLine heldAfterPositionWrite) :=
    congrArg Host.Outcome.next (if_pos (by decide))
  obtain ⟨u, hu⟩ := releaseLine_passStages (rest := []) rfl hread hover rfl
  rw [hrow, hu, Host.Outcome.next.injEq] at ht
  have hbreak : 0 ∈ (passStages lineOfRun u).tim.posBreaks := by rw [ht, htim]; decide
  exact absurd (clk_lt_of_mem_posBreaks_passStages rfl hbreak) (Nat.not_lt_zero 0)

end Sys2Proof.Machine
end

section
/-! PROOFS. The state after reset (15_startup R377). -/
namespace Sys2Proof.Machine

theorem shaped_reset : Shaped State.reset = true := by decide

theorem canonical_reset : Canonical State.reset := ⟨by decide, by decide⟩

/-- Settles O57: no object holds a value of its own at reset, so that each reads its default, and the parts are those of `State.reset`. -/
theorem stateAfterReset : Obligations.StateAfterReset := by
  unfold Obligations.StateAfterReset
  refine ⟨⟨rfl, rfl, rfl, rfl, rfl, rfl, fun r => ⟨rfl, rfl, rfl, rfl, rfl⟩, ?_⟩, shaped_reset, canonical_reset⟩
  decide

end Sys2Proof.Machine
end

section
/-! PROOFS. The ports and the shared outputs of a group under the writes of the host (02_tile_front_end R56, R58, R59). -/
namespace Sys2Proof.Machine

variable {s : State}

/-! ### The parts of a shaped device, and a noted write -/

theorem ports_length_of_shaped (h : Shaped s = true) : s.fe.ports.length = 96 := by
  simp only [Shaped, Bool.and_eq_true, decide_eq_true_eq] at h
  omega

theorem groups_length_of_shaped (h : Shaped s = true) : s.fe.groups.length = 8 := by
  simp only [Shaped, Bool.and_eq_true, decide_eq_true_eq] at h
  omega

theorem calGroups_length_of_shaped (h : Shaped s = true) : s.lv.groups.length = 8 := by
  simp only [Shaped, Bool.and_eq_true, decide_eq_true_eq] at h
  omega

theorem noteWrite_of_cfg {t : State} (h : t.cfg = s.cfg) : noteWrite t = { t with cfg := (noteWrite s).cfg } := by
  unfold noteWrite
  rw [h]
  split
  · rfl
  · rw [← h]

@[simp] theorem val_noteWrite (r : Ref) (s : State) : val r (noteWrite s) = val r s := by rw [noteWrite_of_cfg rfl]; rfl

@[simp] theorem groupOf_noteWrite (k : Nat) (s : State) : groupOf k (noteWrite s) = groupOf k s := by rw [noteWrite_of_cfg rfl]; rfl

@[simp] theorem groupOf_setVal (k : Nat) (r : Ref) (v : Nat) (s : State) : groupOf k (setVal r v s) = groupOf k s := rfl

@[simp] theorem val_modGroup (r : Ref) (k : Nat) (f : Group → Group) (s : State) : val r (modGroup k f s) = val r s := rfl

/-! ### FAULT_CLEAR (R56) -/

theorem writeFaultClear_starts {p : Nat} (hlatched : (portOf p s).latched = true) (hidle : (portOf p s).clearing = none) :
    writeFaultClear p true s = .ok (modPort p (fun x => { x with clearing := some 0 }) s) := by
  simp [writeFaultClear, hlatched, hidle]

theorem writeFaultClear_unlatched {p : Nat} (hlatched : (portOf p s).latched = false) : writeFaultClear p true s = .ok s := by
  simp [writeFaultClear, hlatched]

/-! ### GROUP_VBIAS and GROUP_VRST (R58) -/

/-- The object of an output of group `k`: GROUP_VRST, or GROUP_VBIAS. -/
def outputRef (k : Nat) (vrst : Bool) : Ref := if vrst then Obj.GROUP_VRST k else Obj.GROUP_VBIAS k

/-- The group with a target that waits for the next line start. -/
def awaitTarget (vrst : Bool) (mv : Nat) (g : Group) : Group :=
  if vrst then { g with vrst := { g.vrst with waiting := some mv } } else { g with vbias := { g.vbias with waiting := some mv } }

/-- The state after an accepted write of an output: the target is held, and waits where the group's domain is on. -/
def withTarget (k : Nat) (vrst : Bool) (mv : Nat) (s : State) : State :=
  if domainOn (4 + k) s then modGroup k (awaitTarget vrst mv) (setVal (outputRef k vrst) mv s) else setVal (outputRef k vrst) mv s

@[simp] theorem val_withTarget_self (k : Nat) (vrst : Bool) (mv : Nat) (s : State) :
    val (outputRef k vrst) (withTarget k vrst mv s) = mv := by
  unfold withTarget
  split <;> simp

theorem val_withTarget_ne {r : Ref} {k : Nat} {vrst : Bool} (mv : Nat) (h : r.key ≠ (outputRef k vrst).key) :
    val r (withTarget k vrst mv s) = val r s := by
  unfold withTarget
  split <;> simp [val_setVal_ne _ _ _ _ h]

theorem groupOf_withTarget_self {k : Nat} (vrst : Bool) (mv : Nat) (h : k < s.fe.groups.length) :
    groupOf k (withTarget k vrst mv s) = if domainOn (4 + k) s then awaitTarget vrst mv (groupOf k s) else groupOf k s := by
  unfold withTarget
  split
  · exact groupOf_modGroup_self _ _ _ h
  · rfl

theorem groupOf_withTarget_ne {j k : Nat} (vrst : Bool) (mv : Nat) (h : j ≠ k) :
    groupOf j (withTarget k vrst mv s) = groupOf j s := by
  unfold withTarget
  split
  · exact groupOf_modGroup_ne _ _ _ _ h
  · rfl

theorem withTarget_frame (k : Nat) (vrst : Bool) (mv : Nat) (s : State) : ∃ held groups,
    withTarget k vrst mv s = { s with dict := { s.dict with held := held }, fe := { s.fe with groups := groups } } := by
  unfold withTarget
  split <;> exact ⟨_, _, rfl⟩

theorem writeGroupOutput_accepted {k mv : Nat} {vrst : Bool} (hlow : (if vrst then 300 else 500) ≤ mv)
    (hhigh : mv ≤ if vrst then 2500 else 3000) (hgrid : mv % 10 = 0) :
    writeGroupOutput k vrst mv s = .ok (withTarget k vrst mv s) := by
  have hrange : ¬(mv < (if vrst then 300 else 500) ∨ (if vrst then 2500 else 3000) < mv ∨ mv % 10 ≠ 0) := by omega
  simp only [writeGroupOutput, if_neg hrange]
  cases vrst <;> exact (apply_ite WriteOut.ok ..).symm

theorem writeGroupOutput_refused {k mv : Nat} {vrst : Bool}
    (h : mv % 10 ≠ 0 ∨ mv < (if vrst then 300 else 500) ∨ (if vrst then 2500 else 3000) < mv) :
    writeGroupOutput k vrst mv s = .abort abortRange s := by
  have hbad : mv < (if vrst then 300 else 500) ∨ (if vrst then 2500 else 3000) < mv ∨ mv % 10 ≠ 0 := or_assoc.1 h.symm
  exact if_pos hbad

theorem exec_groupOutputWrite (via : Path) (k : Fin 8) (vrst : Bool) (mv : BitVec 16) (s : State) :
    exec (.groupOutputWrite via k vrst mv) s = writeCommand via (fun s => (writeGroupOutput k vrst mv.toNat s).noted) s := rfl

/-- An accepted write of either output, with what it leaves. -/
theorem exec_groupOutputWrite_accepted {via : Path} {k : Fin 8} {vrst : Bool} {mv : BitVec 16} (hs : served via s = true)
    (hshaped : Shaped s = true) (hgrid : mv.toNat % 10 = 0) (hlow : (if vrst then 300 else 500) ≤ mv.toNat)
    (hhigh : mv.toNat ≤ if vrst then 2500 else 3000) :
    ∃ t, exec (.groupOutputWrite via k vrst mv) s = .next (answerWrite via 0 t) ∧
      val (outputRef k vrst) t = mv.toNat ∧
      groupOf k t = (if domainOn (4 + k) s then awaitTarget vrst mv.toNat (groupOf k s) else groupOf k s) ∧
      (∀ j, j ≠ k.val → groupOf j t = groupOf j s) ∧
      (∀ r : Ref, r.key ≠ (outputRef k vrst).key → val r t = val r s) ∧
      t = { s with dict := { s.dict with held := t.dict.held }, fe := { s.fe with groups := t.fe.groups },
                   cfg := (noteWrite s).cfg } := by
  have hk : k.val < s.fe.groups.length := (groups_length_of_shaped hshaped).symm ▸ k.isLt
  refine ⟨noteWrite (withTarget k vrst mv.toNat s), ?_, ?_, ?_, fun j hj => ?_, fun r hr => ?_, ?_⟩
  · rw [exec_groupOutputWrite]
    refine writeCommand_ok hs ?_
    simp only [writeGroupOutput_accepted hlow hhigh hgrid, WriteOut.noted]
  · rw [val_noteWrite, val_withTarget_self]
  · rw [groupOf_noteWrite, groupOf_withTarget_self _ _ hk]
  · rw [groupOf_noteWrite, groupOf_withTarget_ne _ _ hj]
  · rw [val_noteWrite, val_withTarget_ne _ hr]
  · obtain ⟨held, groups, hframe⟩ := withTarget_frame k vrst mv.toNat s
    have hnote : noteWrite (withTarget k vrst mv.toNat s) = { withTarget k vrst mv.toNat s with cfg := (noteWrite s).cfg } :=
      noteWrite_of_cfg (by rw [hframe])
    rw [hnote, hframe]

/-! ### The close of a settling window (R59) -/

theorem closeGroupWindow_settle (g : Group) : (closeGroupWindow g).settle = if g.settle = some 0 then none else g.settle := by
  unfold closeGroupWindow
  split <;> rfl

theorem closeGroupWindow_frame (g : Group) : closeGroupWindow g = { g with settle := (closeGroupWindow g).settle } := by
  unfold closeGroupWindow
  split <;> rfl

/-- Settles O5: each clause from the equation of its write, by the reads of a part after its update. -/
theorem portClearingAndGroupOutputs : Obligations.PortClearingAndGroupOutputs := by
  unfold Obligations.PortClearingAndGroupOutputs
  refine ⟨fun via p s hs hshaped => ⟨fun hlatched hidle => ?_, fun hlatched => ?_⟩, fun via k mv s hs hshaped hgrid => ⟨?_, ?_⟩,
    fun via k vrst mv s hs hbad => ?_, fun k s hshaped => ?_⟩
  · have hp : p.val < s.fe.ports.length := (ports_length_of_shaped hshaped).symm ▸ p.isLt
    exact ⟨_, writeCommand_ok hs (writeFaultClear_starts hlatched hidle), portOf_modPort_self s _ _ hp,
      fun q hq => portOf_modPort_ne s _ _ _ hq, rfl⟩
  · exact writeCommand_ok hs (writeFaultClear_unlatched hlatched)
  · exact exec_groupOutputWrite_accepted (vrst := false) hs hshaped hgrid
  · exact exec_groupOutputWrite_accepted (vrst := true) hs hshaped hgrid
  · rw [exec_groupOutputWrite]
    refine writeCommand_abort hs ?_
    rw [writeGroupOutput_refused hbad]
    rfl
  · have hk : k.val < s.fe.groups.length := (groups_length_of_shaped hshaped).symm ▸ k.isLt
    refine ⟨modGroup k closeGroupWindow s, rfl, ?_, ?_, fun j hj => groupOf_modGroup_ne s _ _ _ hj, rfl⟩
    · rw [groupOf_modGroup_self s _ _ hk, closeGroupWindow_settle]
    · rw [groupOf_modGroup_self s _ _ hk, ← closeGroupWindow_frame]

end Sys2Proof.Machine
end

section
/-!
PROOFS. Two statements that fail: the return of a port from the spare and the end of a short tone window change more than the
statements name (02_tile_front_end R47, R51).
-/
namespace Sys2Proof.Machine

variable {s : State}

/-- READY with all domains on and EtherCAT in Op. -/
def readyPowered : State :=
  { State.reset with
    modes := { Modes.reset with mode := .ready }, ecat := { Ecat.reset with al := 8 }
    pwr := { Power.reset with domains := 0xFFFFF#20 } }

/-! ### The return of the host's port (R47) -/

/-- A return that the host asked for waits for nothing of Leaven's. -/
theorem handoverWaits_host {k : Nat} (hdue : (groupOf k s).returnDue = true) (hhost : (groupOf k s).returnHost = true) :
    handoverWaits k s = false := by
  simp [handoverWaits, hdue, hhost]

theorem handover_return {k : Nat} (hopen : (groupOf k s).windowOpen = none) (hlive : groupLive k s = true)
    (hdue : (groupOf k s).returnDue = true) : handover k s = returnFromSpare k s := by
  simp [handover, hopen, hlive, hdue]

theorem groupOf_returnFromSpare {k : Nat} (hk : k < s.fe.groups.length) : groupOf k (returnFromSpare k s) =
    { groupOf k s with spare := .idle, port := none, returnDue := false, returnHost := false } := by
  simp only [returnFromSpare]
  cases (groupOf k s).port <;> exact groupOf_modGroup_self _ _ _ hk

theorem returnFromSpare_lv (k : Nat) (s : State) : (returnFromSpare k s).lv = s.lv := by
  simp only [returnFromSpare, modGroup_lv]
  cases (groupOf k s).port <;> rfl

theorem followHandover_noPass {k : Nat} (hpass : (calOf k s).pass = none) : followHandover k s = s := by
  simp [followHandover, hpass]

/-- The return that a write of 0xFF asked for is made, and the mark of who asked for it is cleared with it. -/
theorem groupOf_handoverEvent_return {k : Nat} (hshaped : Shaped s = true) (hk : k < 8) (hpass : (calOf k s).pass = none)
    (hopen : (groupOf k s).windowOpen = none) (hlive : groupLive k s = true) (hdue : (groupOf k s).returnDue = true)
    (hhost : (groupOf k s).returnHost = true) : groupOf k (handoverEvent k s) =
      { groupOf k s with spare := .idle, port := none, returnDue := false, returnHost := false } := by
  have hgroup := groupOf_returnFromSpare ((groups_length_of_shaped hshaped).symm ▸ hk)
  have hcal : k < (returnFromSpare k s).lv.groups.length := by
    rw [returnFromSpare_lv, calGroups_length_of_shaped hshaped]; exact hk
  have hpass' : (calOf k (returnFromSpare k s)).pass = none := by rw [calOf, returnFromSpare_lv]; exact hpass
  simp only [handoverEvent, handoverWaits_host hdue hhost, handover_return hopen hlive hdue, hgroup, if_true, Bool.false_eq_true,
    if_false]
  rw [followHandover_noPass (by rw [calOf_modCal_self _ _ _ hcal]; exact hpass')]
  exact hgroup

/-- READY with T95 on the spare of G7 for the host. -/
def heldByHost : State :=
  modGroup 7 (fun g => { g with spare := .host, port := some 95 }) (setVal (Obj.HOST_ASSIGN 7) 95 readyPowered)

/-- The same after a write of 0xFF to HOST_ASSIGN. -/
def returnAsked : State := (writeHostAssign 7 0xFF heldByHost).state heldByHost

/-- Refutes O6: the return of a port from the spare also clears the group's mark that the host asked for the return (`returnHost`), which
the statement leaves as it was. A write of 0xFF to HOST_ASSIGN sets that mark with the return that it asks for. -/
theorem not_handoverAtSlotBoundary : ¬ Obligations.HandoverAtSlotBoundary := by
  unfold Obligations.HandoverAtSlotBoundary
  rintro ⟨-, -, -, hreturn, -⟩
  have hshaped : Shaped returnAsked = true := by decide
  have hopen : (groupOf 7 returnAsked).windowOpen = none := by decide
  have hdue : (groupOf 7 returnAsked).returnDue = true := by decide
  have hlive : groupLive 7 returnAsked = true := by decide
  have hpass : (calOf 7 returnAsked).pass = none := by decide
  have hhost : (groupOf 7 returnAsked).returnHost = true := by decide
  obtain ⟨t, ht, hgroup, -⟩ := hreturn 7 95 returnAsked hshaped rfl hopen hdue (by decide) (by decide) hlive hpass
  have hrow : exec (.handover 7) returnAsked = .next (handoverEvent 7 returnAsked) := rfl
  rw [hrow, Host.Outcome.next.injEq] at ht
  have hcleared : (groupOf 7 t).returnHost = false := by
    rw [← ht, groupOf_handoverEvent_return hshaped (by decide) hpass hopen hlive hdue hhost]
  have hleft := congrArg Group.returnHost hgroup
  exact Bool.false_ne_true (hcleared.symm.trans (hleft.trans hhost))

/-! ### The windows open as a learning begins (R51) -/

/-- The port with no window left that began before its learning. -/
def clearSkip (x : Port) : Port := { x with learnSkip := false }

theorem learnSkip_clearSkip_self (p : Nat) (s : State) : (portOf p (modPort p clearSkip s)).learnSkip = false := by
  by_cases h : p < s.fe.ports.length
  · rw [portOf_modPort_self s _ _ h]; rfl
  · simp [portOf, modPort, modifyAt_out _ _ _ (Nat.le_of_not_lt h), h, Port.reset]

theorem learnSkip_clearSkip_of_cleared {p : Nat} (q : Nat) (h : (portOf p s).learnSkip = false) :
    (portOf p (modPort q clearSkip s)).learnSkip = false := by
  by_cases hq : p = q
  · rw [hq]; exact learnSkip_clearSkip_self q s
  · rw [portOf_modPort_ne s _ _ _ hq]; exact h

theorem learnSkip_foldl_clearSkip {p : Nat} (l : List Nat) (s : State) (h : p ∈ l ∨ (portOf p s).learnSkip = false) :
    (portOf p (l.foldl (fun s q => modPort q clearSkip s) s)).learnSkip = false := by
  induction l generalizing s with
  | nil => simpa using h
  | cons q l ih =>
    refine ih _ ?_
    rcases h with h | h
    · rcases List.mem_cons.1 h with rfl | h
      · exact .inr (learnSkip_clearSkip_self p s)
      · exact .inl h
    · exact .inr (learnSkip_clearSkip_of_cleared q h)

theorem learnSkip_clearSkips {k p : Nat} (h : p / 12 = k) (s : State) : (portOf p (clearSkips k s)).learnSkip = false := by
  refine learnSkip_foldl_clearSkip _ s (.inl ?_)
  exact List.mem_map.2 ⟨p % 12, List.mem_range.2 (Nat.mod_lt _ (by decide)), by omega⟩

/-- Every port of the group has its mark cleared as the window ends. -/
theorem learnSkip_endWindow {k p : Nat} {line : LineId} (h : p / 12 = k) (hopen : (groupOf k s).windowOpen = some line)
    (amps : Option (List (Fin 96 × Nat))) : (portOf p (endWindow k amps s)).learnSkip = false := by
  simp only [endWindow, hopen]
  exact learnSkip_clearSkips h _

theorem stopLatched_noPass {k : Nat} (hpass : (calOf k s).pass = none) : stopLatched k s = s := by
  simp [stopLatched, hpass]

/-- The same under the row, where the window's end leaves no pass of Leaven's in the group. -/
theorem learnSkip_toneWindowEnd {k p : Nat} {line : LineId} {amps : Option (List (Fin 96 × Nat))} (h : p / 12 = k)
    (hopen : (groupOf k s).windowOpen = some line)
    (hpass : (calOf k (endWindow k amps { s with ev := { s.ev with held := some [] } })).pass = none) :
    (portOf p (inOneCycle (fun s => stopLatched k (endWindow k amps s)) s)).learnSkip = false := by
  rw [inOneCycle_frame, stopLatched_noPass hpass]
  exact learnSkip_endWindow (s := { s with ev := { s.ev with held := some [] } }) h hopen amps

/-- READY with a window of less than 400 ns open on G7, in which T95 begins to learn its reference: that window is not to count. -/
def learningInWindow : State :=
  learnPort 95 (modGroup 7 (fun g => { g with window := 399999, windowOpen := some ⟨3, none⟩ }) readyPowered)

/-- Refutes O7: the end of a window also clears the mark of each port of the group whose learning began in that window (`learnSkip`, R51),
also where the window is too short for a check. The first clause says that such a port has TONE_SKIPPED alone changed. -/
theorem not_toneWindowJudgesPorts : ¬ Obligations.ToneWindowJudgesPorts := by
  unfold Obligations.ToneWindowJudgesPorts
  rintro ⟨hshort, -⟩
  have hopen : (groupOf 7 learningInWindow).windowOpen = some ⟨3, none⟩ := by decide
  obtain ⟨t, ht, hports, -⟩ := hshort 7 [] ⟨3, none⟩ learningInWindow (by decide) hopen (by decide) (by decide) (by decide)
  have hrow : exec (.toneWindowEnd 7 []) learningInWindow =
      .next (inOneCycle (fun s => stopLatched 7 (endWindow 7 (some []) s)) learningInWindow) := rfl
  rw [hrow, Host.Outcome.next.injEq] at ht
  have hcleared : (portOf 95 t).learnSkip = false := by
    rw [← ht]
    exact learnSkip_toneWindowEnd rfl hopen (by decide)
  have hleft : (portOf 95 t).learnSkip = true := by
    rw [hports 95]
    split <;> decide
  exact Bool.false_ne_true (hcleared.symm.trans hleft)

end Sys2Proof.Machine
end

section
/-!
PROOFS. The pattern engines of the indicators: what one instruction, one tick and the writes of ENGINE_RUN come to
(04_illumination R106 to R109, Table 4.6).
-/
namespace Sys2Proof.Machine

variable {s : State} {i : Nat}

/-! ### Updates of one place of a list -/

theorem modifyAt_modifyAt {α : Type} (f g : α → α) (i : Nat) (l : List α) :
    modifyAt g i (modifyAt f i l) = modifyAt (fun x => g (f x)) i l := by
  induction l generalizing i with
  | nil => cases i <;> rfl
  | cons x t ih => cases i <;> simp [modifyAt, ih]

/-- Only the value of an update at the element that stands there counts. -/
theorem modifyAt_congr {α : Type} {f g : α → α} {i : Nat} {l : List α} (d : α) (h : f (l.getD i d) = g (l.getD i d)) :
    modifyAt f i l = modifyAt g i l := by
  induction l generalizing i with
  | nil => cases i <;> rfl
  | cons x t ih =>
    cases i with
    | zero => exact congrArg (· :: t) h
    | succ i => exact congrArg (x :: ·) (ih h)

/-! ### One engine -/

theorem engines_length_of_shaped (h : Shaped s = true) : s.ind.engines.length = 4 := by
  simp only [Shaped, Bool.and_eq_true, decide_eq_true_eq] at h
  omega

/-- An engine that runs is one of the device's: past them every engine reads as stopped. -/
theorem lt_engines_length_of_running (h : (engineOf i s).state = 1) : i < s.ind.engines.length := by
  refine Nat.lt_of_not_le fun hout => ?_
  have hreset : engineOf i s = IndEngine.reset := by
    rw [engineOf, List.getD_eq_getElem?_getD, List.getElem?_eq_none hout, Option.getD_none]
  rw [hreset] at h
  exact absurd h (by decide)

theorem modEngine_modEngine (i : Nat) (f g : IndEngine → IndEngine) (s : State) :
    modEngine i g (modEngine i f s) = modEngine i (fun e => g (f e)) s := by
  simp only [modEngine, modifyAt_modifyAt]

theorem modEngine_congr {f g : IndEngine → IndEngine} (h : f (engineOf i s) = g (engineOf i s)) :
    modEngine i f s = modEngine i g s := by
  simp only [modEngine, modifyAt_congr IndEngine.reset h]

/-- The next word depends on the program and the present word alone. -/
theorem indNext_modEngine {f : IndEngine → IndEngine} (hi : i < s.ind.engines.length)
    (hpc : (f (engineOf i s)).pc = (engineOf i s).pc) : indNext i (modEngine i f s) = indNext i s := by
  simp only [indNext, engineOf_modEngine_self s i f hi, hpc]
  rfl

theorem indAdvance_modEngine {f : IndEngine → IndEngine} (hi : i < s.ind.engines.length)
    (hpc : (f (engineOf i s)).pc = (engineOf i s).pc) :
    indAdvance i (modEngine i f s) = modEngine i (fun e => { f e with pc := indNext i s }) s := by
  simp only [indAdvance, indNext_modEngine hi hpc, modEngine_modEngine]

theorem engineOf_indAdvance_self (hi : i < s.ind.engines.length) :
    engineOf i (indAdvance i s) = { engineOf i s with pc := indNext i s } := engineOf_modEngine_self s _ _ hi

theorem engineOf_indAdvance_ne {j : Nat} (h : j ≠ i) : engineOf j (indAdvance i s) = engineOf j s :=
  engineOf_modEngine_ne s _ _ _ h

/-! ### The levels of the sinks -/

theorem mem_ownedSinks {mask k : Nat} :
    k ∈ ownedSinks i mask s ↔ k < 12 ∧ (bitOf mask k = true ∧ sinkOwner k s = i) := by
  simp [ownedSinks]

theorem nodup_ownedSinks (i mask : Nat) (s : State) : (ownedSinks i mask s).Nodup := List.nodup_range.filter _

theorem levels_length_setLevels (l : List (Nat × Nat)) (s : State) :
    (setLevels l s).ind.levels.length = s.ind.levels.length := by
  induction l generalizing s with
  | nil => rfl
  | cons x t ih => exact (ih (setLevels [x] s)).trans (setAt_length _ _ _)

theorem indLevel_setLevels_of_notMem {l : List (Nat × Nat)} {k : Nat} (h : k ∉ l.map Prod.fst) :
    indLevel k (setLevels l s) = indLevel k s := by
  induction l generalizing s with
  | nil => rfl
  | cons x t ih =>
    rw [List.map_cons, List.mem_cons, not_or] at h
    exact (ih (s := setLevels [x] s) h.2).trans (setAt_getD_ne _ _ _ _ _ h.1)

/-- A sink that is listed once takes the level listed with it. -/
theorem indLevel_setLevels_of_mem {l : List (Nat × Nat)} {k v : Nat} (hnodup : (l.map Prod.fst).Nodup) (hmem : (k, v) ∈ l)
    (hk : k < s.ind.levels.length) : indLevel k (setLevels l s) = v := by
  induction l generalizing s with
  | nil => simp at hmem
  | cons x t ih =>
    rw [List.map_cons, List.nodup_cons] at hnodup
    rcases List.mem_cons.1 hmem with rfl | hmem
    · exact (indLevel_setLevels_of_notMem (s := setLevels [(k, v)] s) hnodup.1).trans (setAt_getD_self _ _ _ _ hk)
    · exact ih (s := setLevels [x] s) hnodup.2 hmem ((levels_length_setLevels [x] s).symm ▸ hk)

/-- The sinks of a mask that the engine owns take their levels, and every other sink keeps its own. -/
theorem indLevel_setLevels_ownedSinks (mask : Nat) (level : Nat → Nat) {k : Nat} (hlen : s.ind.levels.length = 12) (hk : k < 12) :
    indLevel k (setLevels ((ownedSinks i mask s).map (fun k => (k, level k))) s) =
      if bitOf mask k ∧ sinkOwner k s = i then level k else indLevel k s := by
  have hfst : ((ownedSinks i mask s).map (fun k => (k, level k))).map Prod.fst = ownedSinks i mask s := by
    simp [Function.comp_def]
  split
  · next h =>
    exact indLevel_setLevels_of_mem (hfst.symm ▸ nodup_ownedSinks i mask s)
      (List.mem_map_of_mem (mem_ownedSinks.2 ⟨hk, h⟩)) (hlen.symm ▸ hk)
  · next h => exact indLevel_setLevels_of_notMem (hfst.symm ▸ fun hmem => h (mem_ownedSinks.1 hmem).2)

theorem levels_eq_map_indLevel (hlen : s.ind.levels.length = 12) : s.ind.levels = (List.range 12).map (fun k => indLevel k s) := by
  refine List.ext_getElem (by simp [hlen]) fun k hk _ => ?_
  simp [indLevel, hk]

theorem setLevels_ownedSinks (mask : Nat) (level : Nat → Nat) (hlen : s.ind.levels.length = 12) :
    setLevels ((ownedSinks i mask s).map (fun k => (k, level k))) s = { s with ind := { s.ind with
      levels := (List.range 12).map (fun k => if bitOf mask k ∧ sinkOwner k s = i then level k else indLevel k s) } } := by
  have hlevels : (setLevels ((ownedSinks i mask s).map (fun k => (k, level k))) s).ind.levels =
      (List.range 12).map (fun k => if bitOf mask k ∧ sinkOwner k s = i then level k else indLevel k s) := by
    rw [levels_eq_map_indLevel ((levels_length_setLevels _ _).trans hlen)]
    exact List.map_congr_left fun k hk => indLevel_setLevels_ownedSinks mask level hlen (List.mem_range.1 hk)
  rw [← hlevels]
  rfl

@[simp] theorem length_rotated (levels : List Nat) (reverse : Bool) : (rotated levels reverse).length = levels.length := by
  unfold rotated
  split <;> simp only [List.length_append, List.length_drop, List.length_take] <;> omega

/-- Distinct sinks that take a list of levels read as that list. -/
theorem map_indLevel_setLevels_zip {ks vs : List Nat} (hnodup : ks.Nodup) (hlen : vs.length = ks.length)
    (hks : ∀ k ∈ ks, k < s.ind.levels.length) : ks.map (fun k => indLevel k (setLevels (ks.zip vs) s)) = vs := by
  refine List.ext_getElem (by simp [hlen]) fun n hn hn' => ?_
  have hnk : n < ks.length := hlen ▸ hn'
  rw [List.getElem_map]
  refine indLevel_setLevels_of_mem ?_ ?_ (hks _ (List.getElem_mem hnk))
  · rwa [List.map_fst_zip (Nat.le_of_eq hlen.symm)]
  · exact List.mem_iff_getElem.2 ⟨n, List.length_zip ▸ Nat.lt_min.2 ⟨hnk, hn'⟩, List.getElem_zip⟩

/-! ### One instruction (Table 4.6) -/

/-- The row that carries an instruction out; for a reserved word none does. -/
def indRow (i : Fin 4) : IndOp → Instr
  | .nop => .indNop i
  | .set _ _ => .set i
  | .ramp _ _ _ => .ramp i
  | .wait _ => .wait i
  | .loop _ _ _ => .indLoop i
  | .jump _ => .indJump i
  | .rotate _ _ => .rotate i
  | .test _ _ => .test i
  | .halt => .halt i
  | .reserved => .indNop i

/-- The kind of instruction that the row of an instruction carries out. -/
def indKind : IndOp → IndOp → Bool
  | .nop => isIndNop
  | .set _ _ => isSet
  | .ramp _ _ _ => isRamp
  | .wait _ => isWait
  | .loop _ _ _ => isIndLoop
  | .jump _ => isIndJump
  | .rotate _ _ => isRotate
  | .test _ _ => isTest
  | .halt => isHalt
  | .reserved => isIndNop

theorem exec_indRow_eq (i : Fin 4) (op : IndOp) (s : State) : exec (indRow i op) s = .next (indStep i (indKind op) s) := by
  cases op <;> rfl

/-- The row of the instruction that an engine stands before carries it out. -/
theorem exec_indRow {i : Fin 4} {op : IndOp} (h : indCurrent i s = some op) :
    exec (indRow i op) s = .next (indDo i op s) := by
  rw [exec_indRow_eq, indStep, h]
  cases op <;> rfl

theorem indDo_loop {c t n : Nat} (hi : i < s.ind.engines.length) :
    indDo i (.loop c t n) s = modEngine i (fun e => { e with
      cnt := setAt e.cnt c (loopCount (engineOf i s).cnt c n),
      pc := if loopCount (engineOf i s).cnt c n = 0 then indNext i s else t }) s := by
  simp only [indDo]
  split
  · rw [indAdvance_modEngine hi rfl]
  · rw [indGoto, modEngine_modEngine]

theorem indDo_test (c t : Nat) : indDo i (.test c t) s =
    modEngine i (fun e => { e with pc := if indCondition c s then t else indNext i s }) s := by
  simp only [indDo]
  split <;> rfl

/-! ### The instructions of one tick (R107) -/

theorem indRun_none {n : Nat} (h : indCurrent i s = none) : indRun i n s = s := by
  cases n with
  | zero => rfl
  | succ n => simp only [indRun, h]

theorem indRun_succ_some {n : Nat} {op : IndOp} (h : indCurrent i s = some op) :
    indRun i (n + 1) s = indRun i n (indDo i op s) := by
  simp only [indRun, h]

/-- A step that does what the engine's instruction does, and nothing where there is none, carried out once for each of a list. -/
theorem foldl_eq_indRun {α : Type} {one : State → State} (hnone : ∀ u, indCurrent i u = none → one u = u)
    (hsome : ∀ u op, indCurrent i u = some op → one u = indDo i op u) (l : List α) (u : State) :
    l.foldl (fun v _ => one v) u = indRun i l.length u := by
  induction l generalizing u with
  | nil => rfl
  | cons x t ih =>
    rw [List.foldl_cons, List.length_cons, ih]
    cases h : indCurrent i u with
    | none => rw [hnone u h, indRun_none h, indRun_none h]
    | some op => rw [hsome u op h, indRun_succ_some h]

theorem indCurrent_of_waiting (h : (engineOf i s).waiting ≠ 0) : indCurrent i s = none := by
  simp [indCurrent, h]

theorem indCurrent_of_ramp {r : IndRamp} (h : (engineOf i s).ramp = some r) : indCurrent i s = none := by
  simp [indCurrent, h]

/-! ### One tick (R106, R107, R108) -/

/-- IND_OWNER comes into force. -/
def takeOwner (s : State) : State := { s with ind := { s.ind with owner := val Obj.IND_OWNER s } }

section
variable (hmode : s.modes.mode ≠ .off)
include hmode

theorem engineTick_stopped (h : (engineOf i s).state ≠ 1) : engineTick i s = takeOwner s := by
  have hengine : (engineOf i (takeOwner s)).state ≠ 1 := h
  simp only [takeOwner] at hengine
  simp [engineTick, running, hmode, takeOwner, hengine]

theorem engineTick_running (h : (engineOf i s).state = 1) : engineTick i s = indRun i 64
    (if (engineOf i s).fresh then modEngine i IndEngine.start (takeOwner s) else rampTick i (waitTick i (takeOwner s))) := by
  have hengine : engineOf i (takeOwner s) = engineOf i s := rfl
  simp only [takeOwner] at hengine
  simp [engineTick, running, hmode, takeOwner, hengine, h]

theorem engineTick_fresh (h : (engineOf i s).state = 1) (hfresh : (engineOf i s).fresh = true) :
    engineTick i s = indRun i 64 (modEngine i IndEngine.start (takeOwner s)) := by
  rw [engineTick_running hmode h, if_pos hfresh]

theorem engineTick_goesOn (h : (engineOf i s).state = 1) (hfresh : (engineOf i s).fresh = false) :
    engineTick i s = indRun i 64 (rampTick i (waitTick i (takeOwner s))) := by
  rw [engineTick_running hmode h, hfresh]
  rfl

end

theorem waitTick_idle (h : (engineOf i s).waiting = 0) : waitTick i s = s := by simp [waitTick, h]

theorem waitTick_last (hi : i < s.ind.engines.length) (h : (engineOf i s).waiting = 1) :
    waitTick i s = modEngine i (fun e => { e with waiting := 0, pc := indNext i s }) s := by
  simp only [waitTick, h, Nat.sub_self, if_true, Nat.one_ne_zero, if_false]
  rw [indAdvance_modEngine hi rfl]

theorem waitTick_more (h : 2 ≤ (engineOf i s).waiting) :
    waitTick i s = modEngine i (fun e => { e with waiting := e.waiting - 1 }) s := by
  have h0 : (engineOf i s).waiting ≠ 0 := by omega
  have h1 : (engineOf i s).waiting ≠ 1 := by omega
  simp only [waitTick, h0, h1, if_false]
  exact modEngine_congr rfl

theorem rampTick_none (h : (engineOf i s).ramp = none) : rampTick i s = s := by simp [rampTick, h]

/-- The level of a sink at the next tick of a ramp: round(L0 + (target − L0) × k / d) (R108). -/
def rampLevel (r : IndRamp) (sink : Nat) : Nat :=
  ((Frac.ofNat (r.from0.getD sink 0)).add
    (Frac.mk' (((r.target : Int) - (r.from0.getD sink 0 : Nat)) * (r.done + 1 : Nat)) r.ticks)).round.toNat

/-- The sinks of a ramp's mask that the engine owns take the levels of its next tick. -/
def rampLit (i : Nat) (r : IndRamp) (s : State) : State := { s with ind := { s.ind with levels := (List.range 12).map (fun k =>
  if bitOf r.mask k ∧ sinkOwner k s = i then rampLevel r k else indLevel k s) } }

section
variable {r : IndRamp} (hlen : s.ind.levels.length = 12) (hr : (engineOf i s).ramp = some r)
include hlen hr

theorem rampTick_some : rampTick i s = if r.ticks ≤ r.done + 1
    then indAdvance i (modEngine i (fun e => { e with ramp := none }) (rampLit i r s))
    else modEngine i (fun e => { e with ramp := some { r with done := r.done + 1 } }) (rampLit i r s) := by
  rw [rampLit, ← setLevels_ownedSinks r.mask (rampLevel r) hlen]
  simp only [rampTick, hr]
  rfl

theorem rampTick_more (h : r.done + 1 < r.ticks) : rampTick i s =
    modEngine i (fun e => { e with ramp := some { r with done := r.done + 1 } }) (rampLit i r s) := by
  rw [rampTick_some hlen hr, if_neg (Nat.not_le.2 h)]

theorem rampTick_last (hi : i < s.ind.engines.length) (h : r.done + 1 = r.ticks) : rampTick i s =
    modEngine i (fun e => { e with ramp := none, pc := indNext i s }) (rampLit i r s) := by
  rw [rampTick_some hlen hr, if_pos (Nat.le_of_eq h.symm)]
  exact indAdvance_modEngine hi rfl

end

section
variable (hmode : s.modes.mode ≠ .off) (hrun : (engineOf i s).state = 1) (hfresh : (engineOf i s).fresh = false)
include hmode hrun hfresh

theorem engineTick_noRamp_idle (hramp : (engineOf i s).ramp = none) (hw : (engineOf i s).waiting = 0) :
    engineTick i s = indRun i 64 (takeOwner s) := by
  rw [engineTick_goesOn hmode hrun hfresh, waitTick_idle (s := takeOwner s) hw, rampTick_none (s := takeOwner s) hramp]

theorem engineTick_waitEnds (hramp : (engineOf i s).ramp = none) (hw : (engineOf i s).waiting = 1) :
    engineTick i s = indRun i 64 (modEngine i (fun e => { e with waiting := 0, pc := indNext i s }) (takeOwner s)) := by
  have hi := lt_engines_length_of_running hrun
  rw [engineTick_goesOn hmode hrun hfresh, waitTick_last (s := takeOwner s) hi hw, rampTick_none]
  · rfl
  · rw [engineOf_modEngine_self (takeOwner s) _ _ hi]
    exact hramp

theorem engineTick_waits (hramp : (engineOf i s).ramp = none) (hw : 2 ≤ (engineOf i s).waiting) :
    engineTick i s = modEngine i (fun e => { e with waiting := e.waiting - 1 }) (takeOwner s) := by
  have hi := lt_engines_length_of_running hrun
  have hengine := engineOf_modEngine_self (takeOwner s) i (fun e => { e with waiting := e.waiting - 1 }) hi
  rw [engineTick_goesOn hmode hrun hfresh, waitTick_more (s := takeOwner s) hw, rampTick_none, indRun_none]
  · apply indCurrent_of_waiting
    rw [hengine]
    exact Nat.sub_ne_zero_of_lt hw
  · rw [hengine]
    exact hramp

variable {r : IndRamp} (hlen : s.ind.levels.length = 12) (hw : (engineOf i s).waiting = 0) (hr : (engineOf i s).ramp = some r)
include hlen hw hr

theorem engineTick_ramps (h : r.done + 1 < r.ticks) : engineTick i s =
    modEngine i (fun e => { e with ramp := some { r with done := r.done + 1 } }) (rampLit i r (takeOwner s)) := by
  have hi := lt_engines_length_of_running hrun
  rw [engineTick_goesOn hmode hrun hfresh, waitTick_idle (s := takeOwner s) hw, rampTick_more (s := takeOwner s) hlen hr h, indRun_none]
  apply indCurrent_of_ramp
  rw [engineOf_modEngine_self (rampLit i r (takeOwner s)) _ _ hi]

theorem engineTick_rampEnds (h : r.done + 1 = r.ticks) : engineTick i s =
    indRun i 64 (modEngine i (fun e => { e with ramp := none, pc := indNext i s }) (rampLit i r (takeOwner s))) := by
  have hi := lt_engines_length_of_running hrun
  rw [engineTick_goesOn hmode hrun hfresh, waitTick_idle (s := takeOwner s) hw, rampTick_last (s := takeOwner s) hlen hr hi h]
  rfl

end

/-! ### ENGINE_RUN (R107, R109) -/

theorem exec_engineTick (i : Fin 4) (s : State) : exec (.engineTick i) s = .next (engineTick i s) := rfl

theorem exec_engineRun (via : Path) (i : Fin 4) (v : BitVec 8) (s : State) :
    exec (.engineRun via i v) s = writeCommand via (fun s => (writeEngineRun i v.toNat s).noted) s := rfl

/-- What an accepted write of ENGINE_RUN leaves: the object's value and an update of the engine. -/
def runWritten (i v : Nat) (f : IndEngine → IndEngine) (s : State) : State := modEngine i f (setVal (Obj.ENGINE_RUN i) v s)

theorem writeEngineRun_stop : writeEngineRun i 0 s = .ok (runWritten i 0 (fun e => { e with state := 0, fresh := false }) s) := rfl

theorem writeEngineRun_start (hwords : indWords i s ≠ []) (hok : ∀ w ∈ indWords i s, indWordOk (indWords i s).length w = true)
    (hstate : (engineOf i s).state ≠ 1) :
    writeEngineRun i 1 s = .ok (runWritten i 1 (fun e => { e with state := 1, fresh := true }) s) := by
  have hsound : ((indWords i s).isEmpty || !(indWords i s).all (indWordOk (indWords i s).length)) = false := by
    simpa [hwords] using hok
  simp only [writeEngineRun, hsound, Nat.lt_irrefl, Nat.one_ne_zero, if_false, Bool.false_eq_true]
  exact congrArg WriteOut.ok (modEngine_congr (if_neg hstate))

/-- An empty program, or one with a word that fails its check, is not run. -/
theorem writeEngineRun_refused (h : indWords i s = [] ∨ ∃ w ∈ indWords i s, indWordOk (indWords i s).length w = false) :
    writeEngineRun i 1 s = .abort abortContent s := by
  have hbad : ((indWords i s).isEmpty || !(indWords i s).all (indWordOk (indWords i s).length)) = true := by
    rcases h with hempty | ⟨w, hw, hbad⟩
    · simp [hempty]
    · simpa using .inr ⟨w, hw, hbad⟩
  simp only [writeEngineRun, hbad, Nat.lt_irrefl, Nat.one_ne_zero, if_false, if_true]

/-- An accepted write of ENGINE_RUN of either value, with what it leaves. -/
theorem exec_engineRun_accepted {via : Path} {i : Fin 4} {v : BitVec 8} {f : IndEngine → IndEngine} (hs : served via s = true)
    (hshaped : Shaped s = true) (h : writeEngineRun i v.toNat s = .ok (runWritten i v.toNat f s)) :
    ∃ t, exec (.engineRun via i v) s = .next (answerWrite via 0 t) ∧ val (Obj.ENGINE_RUN i) t = v.toNat ∧
      engineOf i t = f (engineOf i s) ∧ (∀ j, j ≠ i.val → engineOf j t = engineOf j s) ∧
      t = { s with dict := { s.dict with held := t.dict.held }, ind := { s.ind with engines := t.ind.engines },
                   cfg := (noteWrite s).cfg } := by
  have hi : i.val < s.ind.engines.length := (engines_length_of_shaped hshaped).symm ▸ i.isLt
  have hnote : noteWrite (runWritten i v.toNat f s) = { runWritten i v.toNat f s with cfg := (noteWrite s).cfg } :=
    noteWrite_of_cfg rfl
  refine ⟨noteWrite (runWritten i v.toNat f s), ?_, ?_, ?_, fun j hj => ?_, ?_⟩
  · rw [exec_engineRun]
    exact writeCommand_ok hs (congrArg WriteOut.noted h)
  · rw [val_noteWrite]
    exact val_setVal_self s _ _
  · rw [hnote]
    exact engineOf_modEngine_self (setVal _ _ s) _ _ hi
  · rw [hnote]
    exact engineOf_modEngine_ne (setVal _ _ s) _ _ _ hj
  · rw [hnote]
    rfl

/-- Settles O16: each of the named faults makes a word fail its check, and a TEST condition reads its source under the domain's bit. -/
theorem engineRunRefusesPrograms : Obligations.EngineRunRefusesPrograms := by
  unfold Obligations.EngineRunRefusesPrograms
  refine ⟨fun via i s hs hunsound => ⟨abortContent, by decide, ?_⟩, fun s => ⟨fun h12 => ?_, fun hports => ?_⟩⟩
  · rw [exec_engineRun]
    refine writeCommand_abort hs ?_
    rw [show (1#8).toNat = 1 from rfl, writeEngineRun_refused (hunsound.imp_right fun ⟨w, hw, hbad⟩ => ⟨w, hw, ?_⟩)]
    · rfl
    · rcases hbad with ⟨m, g, h⟩ | h | ⟨c, t, h⟩ | h | ⟨c, t, n, h, ht⟩ | ⟨t, h, ht⟩ | ⟨c, t, h, ht | ht⟩ <;>
        simp [indWordOk, h] <;> omega
  · simp [indCondition, h12]
  · have hnone : ∀ p < 96, ¬(domainOn (4 + groupOfPort p) s = true ∧ (portOf p s).latched = true) :=
      fun p hp ⟨hon, hlatched⟩ => Bool.false_ne_true ((hports p hp hon).symm.trans hlatched)
    simpa [indCondition] using hnone

/-- Settles O15: each row is the instruction that it names (`exec_indRow`), the levels follow from `setLevels` over the owned sinks, and a
tick is one of its cases followed by `indRun`, which the statement writes as its rows in turn (`foldl_eq_indRun`). -/
theorem indicatorEngines : Obligations.IndicatorEngines := by
  unfold Obligations.IndicatorEngines
  refine ⟨fun i s hshaped => ?instructions, fun via i s hs hshaped => ⟨fun hwords hok hstate => ?_, ?_⟩,
    fun i s hmode => ⟨fun hstate => ?_, fun hrun hfresh hramp hw => ?_⟩, fun i s hmode _ hlen hrun => ?ticks⟩
  case instructions =>
    have hi : i.val < s.ind.engines.length := (engines_length_of_shaped hshaped).symm ▸ i.isLt
    refine ⟨fun h => exec_indRow h, fun m l h hlen => ?_, fun m g d h => exec_indRow h, fun n h => exec_indRow h, fun c t n h => ?_,
      fun t h => exec_indRow h, fun m rev h hlen => ?_, fun c t h => ?_, fun h => exec_indRow h⟩
    · exact ⟨_, exec_indRow h, fun k hk => indLevel_setLevels_ownedSinks m (fun _ => l) hlen hk,
        engineOf_indAdvance_self (s := setLevels _ s) hi, fun j hj => engineOf_indAdvance_ne (s := setLevels _ s) hj, rfl⟩
    · exact (exec_indRow h).trans (congrArg _ (indDo_loop hi))
    · have hks : ∀ k ∈ ownedSinks i m s, k < s.ind.levels.length := fun k hk => hlen.symm ▸ (mem_ownedSinks.1 hk).1
      refine ⟨_, exec_indRow h, map_indLevel_setLevels_zip (nodup_ownedSinks i m s) (by simp) hks,
        fun k hk => indLevel_setLevels_of_notMem ?_, engineOf_indAdvance_self (s := setLevels _ s) hi,
        fun j hj => engineOf_indAdvance_ne (s := setLevels _ s) hj, rfl⟩
      rwa [List.map_fst_zip (by simp)]
    · exact (exec_indRow h).trans (congrArg _ (indDo_test c t))
  · exact exec_engineRun_accepted (v := 1#8) hs hshaped (writeEngineRun_start hwords hok hstate)
  · exact exec_engineRun_accepted (v := 0#8) hs hshaped writeEngineRun_stop
  · exact congrArg _ (engineTick_stopped hmode hstate)
  · exact congrArg _ (engineTick_waits hmode hrun hfresh hramp hw)
  case ticks =>
    intro s' one run
    have hnone : ∀ u, indCurrent i u = none → one u = u := fun u h => by simp only [one, h]
    have hsome : ∀ u op, indCurrent i u = some op → one u = indDo i op u := by
      intro u op h
      have hrow := exec_indRow h
      cases op <;> simp only [indRow] at hrow <;> simp only [one, h, hrow]
    have hrunEq : ∀ u, run u = indRun i 64 u := foldl_eq_indRun hnone hsome (List.range 64)
    simp only [hrunEq, exec_engineTick, Host.Outcome.next.injEq]
    exact ⟨fun hfresh => engineTick_fresh hmode hrun hfresh,
      fun hfresh hramp => ⟨engineTick_noRamp_idle hmode hrun hfresh hramp, engineTick_waitEnds hmode hrun hfresh hramp⟩,
      fun r hfresh hw hr => ⟨engineTick_ramps hmode hrun hfresh hlen hw hr, engineTick_rampEnds hmode hrun hfresh hlen hw hr⟩⟩

end Sys2Proof.Machine
end

section
/-!
PROOFS. A statement that fails: the flags of a chain with more than 16 chips in force are taken into the next chain's chips
(04_illumination R88, R92, R93).
-/
namespace Sys2Proof.Machine

variable {s : State}

/-- A latch that changes words opens a settling window; it leaves the map of open lamps. -/
theorem latchChanged_openMap (s : State) : (latchChanged s).lamps.openMap = s.lamps.openMap := by
  simp only [latchChanged, settleLastLine]
  repeat' split
  all_goals rfl

theorem flagsArrive_openMap (s : State) : (flagsArrive s).lamps.openMap = s.lamps.openMap := by
  simp only [flagsArrive]
  split <;> rfl

theorem latchWords_openMap (words : List (List Nat)) (steps : List (Nat × Option (Nat × Nat × Nat))) (s : State) :
    (latchWords words steps s).lamps.openMap = s.lamps.openMap := rfl

/-- The readback of the chains alone changes the map of open lamps in a latch cycle. -/
theorem latchCycle_openMap (returned : List (List (BitVec 208))) (s : State) : (latchCycle returned s).lamps.openMap =
    ((List.range 4).foldl (fun s n => readChain (returned.getD n []) n s) s).lamps.openMap := by
  simp only [latchCycle]
  split <;> simp only [latchChanged_openMap, latchWords_openMap, flagsArrive_openMap]

theorem foldl_readChain (r0 r1 r2 r3 : List (BitVec 208)) (s : State) :
    (List.range 4).foldl (fun s n => readChain ([r0, r1, r2, r3].getD n []) n s) s =
      readChain r3 3 (readChain r2 2 (readChain r1 1 (readChain r0 0 s))) := by
  simp [List.range_succ]

theorem inOneCycle_lamps (f : State → State) (s : State) :
    (inOneCycle f s).lamps = (f { s with ev := { s.ev with held := some [] } }).lamps := by
  rw [inOneCycle_frame]

theorem foldl_eq_self {α β : Type} {f : β → α → β} {b : β} {l : List α} (h : ∀ a ∈ l, f b a = b) : l.foldl f b = b := by
  induction l with
  | nil => rfl
  | cons x t ih => rw [List.foldl_cons, h x List.mem_cons_self, ih fun a ha => h a (List.mem_cons_of_mem x ha)]

/-- What one chip of a chain returns is taken (R93). -/
def takeChipFlags (returned : List (BitVec 208)) (n : Nat) (s : State) (j : Nat) : State :=
  let g := 16 * n + j
  let c := chipColour s g
  let l := lampOf c s
  let judged := decide (c < 3) && (decide (val Obj.OPEN_DETECT_MIN s * 1000 ≤ l.widestBefore) || l.diagnosedBefore)
  (List.range 16).foldl (fun s ch =>
    if judged && frameFlag (returned.getD j 0) ch && decide ((s.lamps.latched.getD g []).getD ch 0 ≠ 0) then
      takeOpenFlag g ch (if l.diagnosedBefore then
        { s with lamps := { s.lamps with diagResult := setBit s.lamps.diagResult 3 true } } else s)
    else s) s

theorem takeChainFlags_eq (returned : List (BitVec 208)) (n : Nat) (s : State) : takeChainFlags returned n s =
    (List.range (valReady (Obj.CHAIN_CHIPS n) s)).foldl (takeChipFlags returned n) s := rfl

theorem takeChipFlags_noFlag {returned : List (BitVec 208)} {n j : Nat} (h : returned.getD j 0 = 0) (s : State) :
    takeChipFlags returned n s j = s := by
  have hflag (ch : Nat) : frameFlag 0 ch = false := BitVec.getLsbD_zero
  simp only [takeChipFlags, h, hflag, Bool.and_false, Bool.false_and, Bool.false_eq_true, if_false]
  exact foldl_eq_self fun _ _ => rfl

/-- Where the last chip of a chain alone returns flags, its flags are taken. -/
theorem takeChainFlags_lastChip {returned : List (BitVec 208)} {n m : Nat} (hchips : valReady (Obj.CHAIN_CHIPS n) s = m + 1)
    (h : ∀ j < m, returned.getD j 0 = 0) : takeChainFlags returned n s = takeChipFlags returned n s m := by
  have hquiet : (List.range m).foldl (takeChipFlags returned n) s = s :=
    foldl_eq_self fun j hj => takeChipFlags_noFlag (h j (List.mem_range.1 hj)) s
  rw [takeChainFlags_eq, hchips, List.range_succ, List.foldl_append, hquiet]
  rfl

/-- A chain whose echo differs has its flags discarded (R92). -/
theorem readChain_mismatch_openMap {returned : List (BitVec 208)} {n : Nat} (h : chainMatches returned n s = false) :
    (readChain returned n s).lamps.openMap = s.lamps.openMap := by
  simp only [readChain, h, logOnce, Bool.false_eq_true, if_false]
  split
  · rfl
  · rw [logEvent_frame]

theorem readChain_match {returned : List (BitVec 208)} {n : Nat} (h : chainMatches returned n s = true) :
    readChain returned n s = takeChainFlags returned n s := if_pos h

theorem readChain_noChips {n : Nat} (h : valReady (Obj.CHAIN_CHIPS n) s = 0) (returned : List (BitVec 208)) :
    readChain returned n s = s := by
  simp [readChain, chainMatches, takeChainFlags, h]

theorem exec_latch_powered (returned : List (List (BitVec 208))) (h : domainOn 12 s = true) :
    exec (.latch returned) s = .next (inOneCycle (latchCycle returned) s) :=
  congrArg Host.Outcome.next (if_pos h)

/-- READY with 17 chips in force on LC0 and one on LC1. Channel 0 of chip 16 is red and holds a word of 1, and a
diagnostic line has lit the red lamps. -/
def chainTooLong : State := { readyPowered with
  dict := { readyPowered.dict with atReady := [((Obj.CHAIN_CHIPS 0).key, 17), ((Obj.CHAIN_CHIPS 1).key, 1)] }
  lamps := { readyPowered.lamps with
    colours := modifyAt (fun l => { l with diagnosedBefore := true }) 0 readyPowered.lamps.colours
    latched := setAt readyPowered.lamps.latched 16 (1 :: List.replicate 15 0)
    shiftColour := some (List.replicate 64 0) } }

/-- LC0 returns its 17 frames as latched, with the open flag of channel 0 of chip 16. -/
def returnedLC0 : List (BitVec 208) := List.replicate 16 0 ++ [0x10001]

/-- LC1 returns a word of 0 for the 1 that was latched. -/
def returnedLC1 : List (BitVec 208) := [0]

/-- That state with the events of a command being gathered. -/
def chainTooLongGathering : State := { chainTooLong with ev := { chainTooLong.ev with held := some [] } }

theorem readChain_chainTooLong :
    readChain returnedLC0 0 chainTooLongGathering = takeChipFlags returnedLC0 0 chainTooLongGathering 16 := by
  rw [readChain_match (by decide), takeChainFlags_lastChip rfl (by decide)]

/-- The flag that LC0 returns is taken into chip 0 of LC1, though the echo of LC1 differs. -/
theorem openMap_latch_chainTooLong :
    (inOneCycle (latchCycle [returnedLC0, returnedLC1, [], []]) chainTooLong).lamps.openMap.getD 16 0 = 1 := by
  rw [inOneCycle_lamps, latchCycle_openMap, foldl_readChain, ← chainTooLongGathering, readChain_chainTooLong,
    readChain_noChips (n := 3) (by decide), readChain_noChips (n := 2) (by decide), readChain_mismatch_openMap (by decide)]
  decide

/-- Refutes O14: the readback takes the flags of as many chips as CHAIN_CHIPS in force gives, which the statement does not bound by 16.
With 17 chips on LC0 (`chainTooLong`; a write of more than 16 is refused) the flags of the last
are those of chip 16, the first of LC1, whose own flags a mismatch of LC1 was to leave as they were. -/
theorem not_latchCycleLatchesLevels : ¬ Obligations.LatchCycleLatchesLevels := by
  unfold Obligations.LatchCycleLatchesLevels
  rintro ⟨hlatch, -⟩
  obtain ⟨t, ht, -, -, -, -, hdiscarded, -⟩ := hlatch [returnedLC0, returnedLC1, [], []] chainTooLong (by decide) (by decide)
  rw [exec_latch_powered _ (by decide), Host.Outcome.next.injEq] at ht
  obtain ⟨-, hleft⟩ := hdiscarded 1 (by decide) (by decide)
  have hkept : t.lamps.openMap.getD 16 0 = 0 := hleft 0 (by decide)
  rw [← ht, openMap_latch_chainTooLong] at hkept
  exact absurd hkept (by decide)

end Sys2Proof.Machine
end

section
/-!
PROOFS. The shading banks: the switch of the active bank and the end of a download (05_pixel_correction R119 to R121,
07_calibration R178).
-/
namespace Sys2Proof.Machine

variable {s : State}

/-! ### A byte string that returns to its default, and a bank that changes -/

@[simp] theorem bytesGet_erase_self (k : Nat) (m : SparseBytes) : bytesGet k (bytesErase k m) = none := by
  induction m with
  | nil => rfl
  | cons c t ih => by_cases h : c.1 = k <;> simp [bytesErase, bytesGet, h, ih]

theorem bytesGet_erase_ne {k j : Nat} (m : SparseBytes) (h : j ≠ k) : bytesGet j (bytesErase k m) = bytesGet j m := by
  induction m with
  | nil => rfl
  | cons c t ih =>
    by_cases hk : c.1 = k
    · simp [bytesErase, bytesGet, hk, ih, Ne.symm h]
    · simp [bytesErase, bytesGet, hk, ih]

theorem modifyAt_const {α : Type} (v : α) (i : Nat) (l : List α) : modifyAt (fun _ => v) i l = l.set i v := by
  induction l generalizing i with
  | nil => cases i <;> rfl
  | cons x t ih => cases i <;> simp [modifyAt, ih]

theorem bankOf_modBank_self {b : Nat} (f : Bank → Bank) (h : b < s.pipe.banks.length) :
    bankOf b (modBank b f s) = f (bankOf b s) :=
  modifyAt_getD_self f b _ _ h

theorem bankOf_modBank_ne {b j : Nat} (f : Bank → Bank) (h : j ≠ b) : bankOf j (modBank b f s) = bankOf j s :=
  modifyAt_getD_ne f b j _ _ h

/-! ### The switch (R121, R178) -/

theorem switchBank_pipe (s : State) :
    (switchBank s).pipe = { s.pipe with active := 1 - s.pipe.active, switchPending := false, lastFailed := false } := rfl

/-- A switch changes the stages' bank and sets PW_REF to its default. -/
theorem switchBank_frame (s : State) :
    switchBank s = { s with dict := { s.dict with bulk := (switchBank s).dict.bulk }, pipe := (switchBank s).pipe } := rfl

theorem bytesGet_switchBank_pwRef (s : State) : bytesGet (objKey 0x4501 0) (switchBank s).dict.bulk = none :=
  bytesGet_erase_self ..

theorem bytesGet_switchBank_ne {k : Nat} (h : k ≠ objKey 0x4501 0) :
    bytesGet k (switchBank s).dict.bulk = bytesGet k s.dict.bulk :=
  bytesGet_erase_ne _ h

theorem requestSwitch_ready (h : s.modes.mode = .ready) : requestSwitch s = switchBank s := if_pos h

theorem requestSwitch_later (h : s.modes.mode ≠ .ready) :
    requestSwitch s = { s with pipe := { s.pipe with switchPending := true } } := if_neg h

theorem mode_ne_ready_of_capturing (h : capturing s = true) : s.modes.mode ≠ .ready := by
  intro hmode
  simp [capturing, hmode] at h

/-- A switch that pends in INLINE or SHEET takes effect where the oldest line of the hold is one without SETTLING. -/
theorem switchEffect_capturing {l : LineRec} {rest : List LineRec} (hpending : s.pipe.switchPending = true)
    (hcapturing : capturing s = true) (hlines : s.tim.lines = l :: rest) :
    switchEffect s = if l.settling then s else switchBank s := by
  simp [switchEffect, nextAtStageB, hpending, hcapturing, hlines, mode_ne_ready_of_capturing hcapturing]

theorem switchEffect_none (h : s.pipe.switchPending = false) : switchEffect s = s := by simp [switchEffect, h]

/-! ### BANK_SWITCH -/

theorem exec_bankSwitch (via : Path) (s : State) : exec (.bankSwitch via) s = writeCommand via (writeBankSwitch true) s := rfl

theorem exec_bankSwitchEffect (s : State) : exec .bankSwitchEffect s = .next (switchEffect s) := rfl

theorem writeBankSwitch_refused (h : imaging s = false ∨ s.pipe.switchPending = true ∨ captureBusy s = true ∨
    (bankOf (1 - s.pipe.active) s).state = 3) : writeBankSwitch true s = .abort abortState s := by
  rcases h with h | h | h | h <;> simp [writeBankSwitch, h]

theorem writeBankSwitch_accepted (himaging : imaging s = true) (hpending : s.pipe.switchPending = false)
    (hidle : captureBusy s = false) (hbank : (bankOf (1 - s.pipe.active) s).state ≠ 3) :
    writeBankSwitch true s = .ok (requestSwitch s) := by
  simp [writeBankSwitch, himaging, hpending, hidle, hbank]

/-! ### The end of a download (R119, R120) -/

theorem exec_bulkDownloadComplete (via : Path) (index sub : Nat) (data : List Byte) (s : State) :
    exec (.bulkDownloadComplete via index sub data) s = writeCommand via (writeObject (.write via) index sub data) s := rfl

set_option maxRecDepth 20000 in
/-- The object of a bank is one that the host writes at any time. -/
theorem findRow_shadingBank (b : Fin 2) :
    (findRow (0x4300 + b.val) 0).map (fun r => (r.acc, r.ty)) = some (.rw, .domain 944708) := by
  revert b; decide

set_option maxRecDepth 20000 in
theorem keyInSets_shadingBank (b : Fin 2) : keyInSets (objKey (0x4300 + b.val) 0) = false := by
  revert b; decide

theorem writeBytes_shadingBank (w : Waiting) (b : Fin 2) (data : List Byte) (s : State) :
    writeBytes w (0x4300 + b.val) 0 data s = writeBank b.val data s := by
  match b with
  | 0 => rfl
  | 1 => rfl

/-- A whole content of at most the object's length goes to the bank. -/
theorem writeObject_shadingBank (w : Waiting) (b : Fin 2) {data : List Byte} (s : State) (hlen : data.length ≤ 944708) :
    writeObject w (0x4300 + b.val) 0 data s = writeBank b.val data s := by
  obtain ⟨r, hr, hrow⟩ := Option.map_eq_some_iff.1 (findRow_shadingBank b)
  obtain ⟨hacc, hty⟩ := Prod.mk.inj hrow
  have haccess : accessRefusal (0x4300 + b.val) 0 data.length s = none := by
    simp [accessRefusal, hr, hacc, hty, lengthOk, hlen]
  simp [writeObject, keyInSets_shadingBank, writeValue, haccess, hr, hty, ObjType.isBulk, writeBytes_shadingBank]

theorem writeBank_refused {b : Nat} {data : List Byte}
    (h : bankReached s = false ∨ b = s.pipe.active ∨ captureBusy s = true) : writeBank b data s = .abort abortState s := by
  rcases h with h | h | h <;> simp [writeBank, bankWritable, h]

theorem writeBank_accepted {b : Nat} {data : List Byte} (hreached : bankReached s = true) (hb : b ≠ s.pipe.active)
    (hidle : captureBusy s = false) : writeBank b data s = bankComplete b data s := by
  simp [writeBank, bankWritable, hreached, hb, hidle]

/-- Content that passes makes the bank HOST with the time base. -/
theorem bankComplete_good {b : Nat} {data : List Byte} (h : bankContent data = .good) :
    bankComplete b data s = .ok { s with pipe := { s.pipe with banks := s.pipe.banks.set b ⟨2, s.now, some data⟩ } } := by
  simp only [bankComplete, h, modBank, modifyAt_const]

theorem bankComplete_bad {b c : Nat} {data : List Byte} (h : bankContent data = .bad c) :
    bankComplete b data s = .abort c (bankArrive b 0 data s) := by
  simp only [bankComplete, h]

/-- Settles O17: a switch is refused or requested (`writeBankSwitch_accepted`) and is `switchBank` at once or at a line without SETTLING;
a download is a write of the bank (`writeObject_shadingBank`), judged on its content. -/
theorem banksSwitchAndAreDownloaded : Obligations.BanksSwitchAndAreDownloaded := by
  unfold Obligations.BanksSwitchAndAreDownloaded
  simp only [exec_bankSwitch, exec_bankSwitchEffect, exec_bulkDownloadComplete]
  refine ⟨fun via s hs => ⟨fun hrefused => ?_, fun himaging hpending hidle hbank => ?_⟩,
    fun l rest s hpending hcapturing hlines => ?effect, fun s hpending => ?_,
    fun via b data s hs hbanks hlen => ⟨fun hrefused => ?_, fun hreached hb hidle => ?_⟩⟩
  · exact writeCommand_abort hs (writeBankSwitch_refused hrefused)
  · have hok := writeBankSwitch_accepted himaging hpending hidle hbank
    refine ⟨fun hmode => ⟨switchBank s, ?_, ?_, bytesGet_switchBank_pwRef s, fun k hk => bytesGet_switchBank_ne hk,
      switchBank_frame s⟩, fun hmode => ?_⟩
    · exact writeCommand_ok hs (hok.trans (congrArg _ (requestSwitch_ready hmode)))
    · rw [switchBank_pipe, ← hpending]
    · exact writeCommand_ok hs (hok.trans (congrArg _ (requestSwitch_later hmode)))
  case effect =>
    rw [switchEffect_capturing hpending hcapturing hlines]
    refine ⟨fun hsettling => ?_, fun hsettling => ⟨switchBank s, ?_, switchBank_pipe s, bytesGet_switchBank_pwRef s,
      switchBank_frame s⟩⟩
    · rw [hsettling]; rfl
    · rw [hsettling]; rfl
  · exact congrArg _ (switchEffect_none hpending)
  · exact writeCommand_abort hs ((writeObject_shadingBank _ b s hlen).trans (writeBank_refused hrefused))
  · have hwrite := (writeObject_shadingBank (.write via) b s hlen).trans (writeBank_accepted hreached hb hidle)
    refine ⟨fun hgood => writeCommand_ok hs (hwrite.trans (bankComplete_good hgood)), fun code hbad =>
      ⟨bankArrive b.val 0 data s, writeCommand_abort hs (hwrite.trans (bankComplete_bad hbad)), ?_,
        fun j hj => bankOf_modBank_ne _ hj, rfl⟩⟩
    exact congrArg Bank.state (bankOf_modBank_self _ (Nat.lt_of_lt_of_eq b.isLt hbanks.symm))

end Sys2Proof.Machine
end

section
/-!
PROOFS. A capture that begins while the gap record of an earlier one is still to come (05_pixel_correction R123, 10_host_stream R477): the
record is made as the new capture begins, which the frame of REF_CAPTURE in READY leaves out.
-/
namespace Sys2Proof.Machine

theorem exec_refCapture (via : Path) (s : State) : exec (.refCapture via) s = writeCommand via (writeRefCapture true) s := rfl

/-- REF_CAPTURE that is not refused begins the capture at once in READY. -/
theorem writeRefCapture_ready {s : State} (hidle : captureBusy s = false) (hpending : s.pipe.switchPending = false)
    (hbank : bankDownloading s = false) (hmode : s.modes.mode = .ready) : writeRefCapture true s = .ok (captureBegins s) := by
  simp [writeRefCapture, imaging, hidle, hpending, hbank, hmode]

/-- READY in the black phase of a capture, two of whose reference lines found no free slot. -/
def capturingDropped : State :=
  { readyPowered with
    host := { readyPowered.host with refDropped := some (0, 1, 2) }
    pipe := { readyPowered.pipe with capture := { readyPowered.pipe.capture with state := .black, attempt := 1, pass := 1 } } }

/-- The same after a request of INLINE, whose start abandons the capture (R129) and leaves its gap record to the end of the transition. -/
def abandonedDropped : State := startTransition ⟨.inline, false, false⟩ capturingDropped

theorem abandonedDropped_takes_refCapture : served .sdo abandonedDropped = true ∧ imaging abandonedDropped = true ∧
    captureBusy abandonedDropped = false ∧ abandonedDropped.pipe.switchPending = false ∧
    bankDownloading abandonedDropped = false ∧ abandonedDropped.modes.mode = .ready := by decide

theorem captureBegins_abandonedDropped_linesDropped :
    (captureBegins abandonedDropped).host.linesDropped = 2 ∧ abandonedDropped.host.linesDropped = 0 := by decide

/-- Refutes O18: a capture that begins makes the gap record of an earlier one whose reference lines were dropped (`closeReference`), so that
LINES_DROPPED counts them and the record is queued, where the statement has the host's part change in `refDropped` alone. A capture that
the request of INLINE has abandoned (`abandonedDropped`) still has such lines while the device is in READY, where REF_CAPTURE is accepted. -/
theorem not_captureSteps : ¬ Obligations.CaptureSteps := by
  unfold Obligations.CaptureSteps
  rintro ⟨hrequest, -⟩
  obtain ⟨hserved, himaging, hidle, hpending, hbank, hmode⟩ := abandonedDropped_takes_refCapture
  obtain ⟨t, ht, -, -, -, -, -, -, hframe⟩ := ((hrequest .sdo abandonedDropped hserved).2 himaging hidle hpending hbank).2 hmode
  have hrow : exec (.refCapture .sdo) abandonedDropped = .next (answerWrite .sdo 0 (captureBegins abandonedDropped)) := by
    rw [exec_refCapture]
    exact writeCommand_ok hserved (writeRefCapture_ready hidle hpending hbank hmode)
  rw [hrow, Host.Outcome.next.injEq] at ht
  obtain ⟨hcounted, hbefore⟩ := captureBegins_abandonedDropped_linesDropped
  have hsame : (captureBegins abandonedDropped).host = t.host := by simpa using congrArg State.host ht
  have hleft : t.host.linesDropped = abandonedDropped.host.linesDropped := by rw [hframe]
  rw [← hsame, hcounted, hbefore] at hleft
  exact absurd hleft (by decide)

end Sys2Proof.Machine
end

section
/-!
PROOFS. What the commit of the lines and a move of the strip leave (05_pixel_correction R124, 10_host_stream R261 to R264, R477).

`outsideCommit` reads a state with the parts in which a line is committed, a move is made and an event is logged at their reset
values; of the image path it reads the banks, the switch and the capture. Each function that the end of a capture calls has one lemma, in
the order of the model's files.
-/
namespace Sys2Proof.Machine

/-- A state but for what the commit of a line, a move of the strip and an event change. -/
def outsideCommit (s : State) : State :=
  { s with
    ecat := State.reset.ecat, ev := State.reset.ev, mbox := State.reset.mbox, tim := State.reset.tim, cmp := State.reset.cmp
    cist := State.reset.cist, host := State.reset.host, mot := State.reset.mot
    pipe := { State.reset.pipe with
      banks := s.pipe.banks, active := s.pipe.active, switchPending := s.pipe.switchPending, capture := s.pipe.capture } }

theorem outsideCommit_iff {s t : State} : outsideCommit t = outsideCommit s ↔
    t = { s with ecat := t.ecat, ev := t.ev, mbox := t.mbox, tim := t.tim, pipe := t.pipe, cmp := t.cmp, cist := t.cist,
                 host := t.host, mot := t.mot } ∧
    t.pipe.banks = s.pipe.banks ∧ t.pipe.active = s.pipe.active ∧ t.pipe.switchPending = s.pipe.switchPending ∧
    t.pipe.capture = s.pipe.capture := by
  constructor
  · intro h
    have hparts : t = { outsideCommit t with
        ecat := t.ecat, ev := t.ev, mbox := t.mbox, tim := t.tim, pipe := t.pipe, cmp := t.cmp, cist := t.cist
        host := t.host, mot := t.mot } := rfl
    have hpipe : (outsideCommit t).pipe = (outsideCommit s).pipe := by rw [h]
    simp only [outsideCommit, Pipeline.mk.injEq, true_and, and_true] at hpipe
    exact ⟨hparts.trans (by rw [h]; rfl), hpipe⟩
  · rintro ⟨hframe, hbanks, hactive, hpending, hcapture⟩
    rw [hframe]
    simp only [outsideCommit, hbanks, hactive, hpending, hcapture]

/-- An update of parts that `outsideCommit` does not read. -/
@[simp] theorem outsideCommit_mk (s : State) (ecat ev mbox tim pipe cmp cist host mot) (hbanks : pipe.banks = s.pipe.banks)
    (hactive : pipe.active = s.pipe.active) (hpending : pipe.switchPending = s.pipe.switchPending)
    (hcapture : pipe.capture = s.pipe.capture) :
    outsideCommit ⟨s.now, s.clk, s.fresh, s.modes, s.dict, ecat, s.cfg, ev, s.pwr, s.boot, mbox, s.flash, s.upd, s.telem, s.otp, s.fe,
      tim, s.lamps, s.ind, pipe, s.lv, cmp, cist, host, mot, s.tw, s.pins, s.tap, s.bench, s.pending⟩ = outsideCommit s := by
  simp only [outsideCommit, hbanks, hactive, hpending, hcapture]

@[simp] theorem outsideCommit_ite (c : Prop) {_ : Decidable c} (s t : State) :
    outsideCommit (if c then s else t) = if c then outsideCommit s else outsideCommit t := apply_ite ..

@[simp] theorem outsideCommit_foldl {α : Type} {f : State → α → State} (h : ∀ s a, outsideCommit (f s a) = outsideCommit s)
    (l : List α) (s : State) : outsideCommit (l.foldl f s) = outsideCommit s := by
  induction l generalizing s with
  | nil => rfl
  | cons a l ih => rw [List.foldl_cons, ih, h]

/-! ### Machine/Ops -/

@[simp] theorem outsideCommit_modAxis (a : Nat) (f : Axis → Axis) (s : State) : outsideCommit (modAxis a f s) = outsideCommit s := by
  simp [modAxis]

/-! ### Machine/Events -/

@[simp] theorem outsideCommit_logEvent (e : Event) (s : State) : outsideCommit (logEvent e s) = outsideCommit s := by
  rw [logEvent_frame]; rfl

@[simp] theorem outsideCommit_logOnce (was i : Nat) (e : Event) (s : State) :
    outsideCommit (logOnce was i e s) = outsideCommit s := by
  simp [logOnce]

/-! ### Machine/Cistern -/

@[simp] theorem outsideCommit_noteOccupancy (i n : Nat) (s : State) : outsideCommit (noteOccupancy i n s) = outsideCommit s := rfl

@[simp] theorem outsideCommit_clearPoison (a n : Nat) (s : State) : outsideCommit (clearPoison a n s) = outsideCommit s := rfl

@[simp] theorem outsideCommit_eccUncorrectable (a : Nat) (s : State) : outsideCommit (eccUncorrectable a s) = outsideCommit s := by
  simp [eccUncorrectable]

@[simp] theorem outsideCommit_dataLost (s : State) : outsideCommit (dataLost s) = outsideCommit s := rfl

/-! ### Machine/Stream -/

@[simp] theorem outsideCommit_makeItem (k : ItemKind) (s : State) : outsideCommit (makeItem k s) = outsideCommit s := by
  simp [makeItem]

@[simp] theorem outsideCommit_releaseSlots (s : State) : outsideCommit (releaseSlots s) = outsideCommit s := rfl

@[simp] theorem outsideCommit_markSent (uid : Nat) (s : State) : outsideCommit (markSent uid s) = outsideCommit s := rfl

@[simp] theorem outsideCommit_commitTo (spill : Bool) (place : Nat) (l : LineSlot) (send : Bool) (s : State) :
    outsideCommit (commitTo spill place l send s) = outsideCommit s := by
  simp [commitTo]

@[simp] theorem outsideCommit_closePlace (s : State) : outsideCommit (closePlace s) = outsideCommit s := by
  simp only [closePlace]
  split <;> simp

@[simp] theorem outsideCommit_missLine (cause y : Nat) (s : State) : outsideCommit (missLine cause y s) = outsideCommit s := rfl

@[simp] theorem outsideCommit_tailDropped (y : Nat) (s : State) : outsideCommit (tailDropped y s) = outsideCommit s := by
  simp [tailDropped]

@[simp] theorem outsideCommit_closeReference (s : State) : outsideCommit (closeReference s) = outsideCommit s := by
  unfold closeReference
  split <;> simp

section
variable {taken left : State → State} (htaken : ∀ s, outsideCommit (taken s) = outsideCommit s)
  (hleft : ∀ s, outsideCommit (left s) = outsideCommit s)
include htaken

theorem outsideCommit_commitTaken (spill : Bool) (place : Nat) (l : LineSlot) (send : Bool) (s : State) :
    outsideCommit (commitTaken spill place l send taken s) = outsideCommit s := by
  simp [commitTaken, htaken]

theorem outsideCommit_commitReference (l : LineSlot) (s : State) :
    outsideCommit (commitReference l taken s) = outsideCommit s := by
  unfold commitReference
  repeat' split
  all_goals simp [outsideCommit_commitTaken htaken]

include hleft

theorem outsideCommit_commitInline (l : LineSlot) (dropped : Bool) (s : State) :
    outsideCommit (commitInline l dropped taken left s) = outsideCommit s := by
  simp only [commitInline]
  repeat' split
  all_goals simp [htaken, hleft, outsideCommit_commitTaken htaken]

end

/-! ### Machine/Compare -/

@[simp] theorem outsideCommit_makeCrop (p : CmpPage) (b : Blob) (s : State) :
    outsideCommit (makeCrop p b s).2.2 = outsideCommit s := by
  simp only [makeCrop]
  repeat' split
  all_goals simp

@[simp] theorem outsideCommit_modPage (n : PageKey) (f : CmpPage → CmpPage) (s : State) :
    outsideCommit (modPage n f s) = outsideCommit s := rfl

@[simp] theorem outsideCommit_closeBlob (page : PageKey) (b : Blob) (s : State) :
    outsideCommit (closeBlob page b s) = outsideCommit s := by
  unfold closeBlob
  split <;> simp

@[simp] theorem outsideCommit_finishPage (n : PageKey) (s : State) : outsideCommit (finishPage n s) = outsideCommit s := by
  simp only [finishPage]
  repeat' split
  all_goals simp

@[simp] theorem outsideCommit_skipBand (b : CmpBand) (s : State) : outsideCommit (skipBand b s) = outsideCommit s := by
  simp [skipBand]

@[simp] theorem outsideCommit_skipLate (s : State) : outsideCommit (skipLate s) = outsideCommit s := by
  unfold skipLate
  repeat' split
  all_goals simp

@[simp] theorem outsideCommit_closeBand (n : PageKey) (s : State) : outsideCommit (closeBand n s) = outsideCommit s := by
  unfold closeBand
  repeat' split
  all_goals simp

@[simp] theorem outsideCommit_endPage (n : PageKey) (partialEnd : Bool) (s : State) :
    outsideCommit (endPage n partialEnd s) = outsideCommit s := by
  simp [endPage]

@[simp] theorem outsideCommit_flushGroup (n : PageKey) (s : State) : outsideCommit (flushGroup n s) = outsideCommit s := by
  unfold flushGroup
  repeat' split
  all_goals simp

@[simp] theorem outsideCommit_groupLine (l : RegLine) (s : State) : outsideCommit (groupLine l s) = outsideCommit s := by
  simp only [groupLine]
  split <;> simp

@[simp] theorem outsideCommit_compareLine (l : RegLine) (s : State) : outsideCommit (compareLine l s) = outsideCommit s := by
  simp only [compareLine]
  repeat' split
  all_goals simp

/-! ### Machine/Pipeline -/

@[simp] theorem outsideCommit_readLead (y : Nat) (s : State) : outsideCommit (readLead y s) = outsideCommit s := by
  simp only [readLead]
  repeat' split
  all_goals simp

@[simp] theorem outsideCommit_measureLine (l : RegLine) (s : State) : outsideCommit (measureLine l s) = outsideCommit s := by
  unfold measureLine
  split <;> simp

@[simp] theorem outsideCommit_takeRows (rows : List RegLine) (alone : Bool) (s : State) :
    outsideCommit (takeRows rows alone s) = outsideCommit s := by
  simp [takeRows]

@[simp] theorem outsideCommit_breakGroup (discontinuity : Bool) (page : Nat) (s : State) :
    outsideCommit (breakGroup discontinuity page s) = outsideCommit s := by
  simp [breakGroup]

@[simp] theorem outsideCommit_leaveRows (rows : List RegLine) (s : State) : outsideCommit (leaveRows rows s) = outsideCommit s := by
  unfold leaveRows
  split <;> simp

@[simp] theorem outsideCommit_weirOverrun (s : State) : outsideCommit (weirOverrun s) = outsideCommit s := by simp [weirOverrun]

@[simp] theorem outsideCommit_endStop (s : State) : outsideCommit (endStop s) = outsideCommit s := by
  unfold endStop
  split <;> simp

@[simp] theorem outsideCommit_storeSpeculative (l : LineSlot) (s : State) :
    outsideCommit (storeSpeculative l s) = outsideCommit s := by
  simp [storeSpeculative]

section
variable {taken left : State → State} (htaken : ∀ s, outsideCommit (taken s) = outsideCommit s)
  (hleft : ∀ s, outsideCommit (left s) = outsideCommit s)
include htaken hleft

theorem outsideCommit_commitSlot (l : LineSlot) (s : State) : outsideCommit (commitSlot l taken left s) = outsideCommit s := by
  unfold commitSlot
  split
  · exact outsideCommit_commitTaken (fun s => (htaken _).trans (outsideCommit_endStop s)) ..
  · simp [hleft]

theorem outsideCommit_resumeUnmatched (l : LineSlot) (s : State) :
    outsideCommit (resumeUnmatched l taken left s) = outsideCommit s := by
  simp [resumeUnmatched, outsideCommit_commitSlot htaken hleft]

theorem outsideCommit_commitSheet (l : LineSlot) (s : State) : outsideCommit (commitSheet l taken left s) = outsideCommit s := by
  unfold commitSheet
  repeat' split
  all_goals simp [hleft, outsideCommit_commitSlot htaken hleft, outsideCommit_resumeUnmatched htaken hleft]

end

@[simp] theorem outsideCommit_commitRows (rows : List RegLine) (alone : Bool) (s : State) :
    outsideCommit (commitRows rows alone s) = outsideCommit s := by
  have htaken (rows : List RegLine) : ∀ s, outsideCommit (takeRows rows alone s) = outsideCommit s := outsideCommit_takeRows rows alone
  have hleft (rows : List RegLine) : ∀ s, outsideCommit (leaveRows rows s) = outsideCommit s := outsideCommit_leaveRows rows
  simp only [commitRows]
  repeat' split
  · exact outsideCommit_commitReference (htaken _) ..
  · exact outsideCommit_commitInline (htaken _) (hleft _) ..
  · exact outsideCommit_commitSheet (htaken _) (hleft _) ..
  · rfl

@[simp] theorem outsideCommit_closePair (s : State) : outsideCommit (closePair s) = outsideCommit s := by
  unfold closePair
  split <;> simp

@[simp] theorem outsideCommit_averagePairs (l : RegLine) (s : State) : outsideCommit (averagePairs l s) = outsideCommit s := by
  simp only [averagePairs]
  repeat' split
  all_goals simp

@[simp] theorem outsideCommit_passUncommitted (l : Stage6Line) (s : State) :
    outsideCommit (passUncommitted l s) = outsideCommit s := by
  simp [passUncommitted]

@[simp] theorem outsideCommit_noteShort (f : Formed) (s : State) : outsideCommit (noteShort f s) = outsideCommit s := by
  simp [noteShort]

@[simp] theorem outsideCommit_noteClamp (f : Formed) (s : State) : outsideCommit (noteClamp f s) = outsideCommit s := by
  simp [noteClamp]

@[simp] theorem outsideCommit_placeFormed (l : RegLine) (s : State) :
    outsideCommit (placeFormed l s).2 = outsideCommit s := by
  simp only [placeFormed]
  repeat' split
  all_goals simp

@[simp] theorem outsideCommit_takeSkip (s : State) : outsideCommit (takeSkip s) = outsideCommit s := rfl

@[simp] theorem outsideCommit_commitImage (f : Formed) (s : State) : outsideCommit (commitImage f s) = outsideCommit s := by
  simp [commitImage]

@[simp] theorem outsideCommit_commitNext (final : Bool) (s : State) : outsideCommit (commitNext final s) = outsideCommit s := by
  simp only [commitNext]
  repeat' split
  all_goals simp

@[simp] theorem outsideCommit_commitAll (n : Nat) (s : State) : outsideCommit (commitAll n s) = outsideCommit s := by
  induction n generalizing s with
  | zero => simp [commitAll]
  | succ n ih => simp [commitAll, ih]

@[simp] theorem outsideCommit_armPoint (s : State) : outsideCommit (armPoint s) = outsideCommit s := rfl

@[simp] theorem outsideCommit_disarm (s : State) : outsideCommit (disarm s) = outsideCommit s := rfl

@[simp] theorem outsideCommit_dropTriggers (s : State) : outsideCommit (dropTriggers s) = outsideCommit s := rfl

/-! ### Machine/Motion -/

@[simp] theorem outsideCommit_modSeg (a : Nat) (f : SegList → SegList) (s : State) :
    outsideCommit (modSeg a f s) = outsideCommit s := by
  simp [modSeg]

@[simp] theorem outsideCommit_energiseAxis (a : Nat) (s : State) : outsideCommit (energiseAxis a s) = outsideCommit s := by
  simp [energiseAxis]

@[simp] theorem outsideCommit_leaveFollow (a : Nat) (s : State) : outsideCommit (leaveFollow a s) = outsideCommit s := rfl

@[simp] theorem outsideCommit_normalStop (a : Nat) (s : State) : outsideCommit (normalStop a s) = outsideCommit s := by
  simp [normalStop]

@[simp] theorem outsideCommit_barOthers (a : Nat) (s : State) : outsideCommit (barOthers a s) = outsideCommit s := by
  unfold barOthers
  split <;> simp

@[simp] theorem outsideCommit_stopList (a reason : Nat) (s : State) : outsideCommit (stopList a reason s) = outsideCommit s := by
  simp [stopList]

@[simp] theorem outsideCommit_endRun (a reason : Nat) (s : State) : outsideCommit (endRun a reason s) = outsideCommit s := by
  simp [endRun]

@[simp] theorem outsideCommit_beginCaptureMove (a : Nat) (target : Int) (s : State) :
    outsideCommit (beginCaptureMove a target s) = outsideCommit s := by
  simp [beginCaptureMove, request11]

@[simp] theorem outsideCommit_captureMove (a : Nat) (target : Int) (s : State) :
    outsideCommit (captureMove a target s) = outsideCommit s := by
  simp [captureMove]

/-! ### Machine/Capture -/

/-- What `outsideCommit` reads of a capture that is changed. -/
theorem outsideCommit_setCapture (f : RefCapture → RefCapture) (s : State) :
    outsideCommit (setCapture f s) = setCapture f (outsideCommit s) := rfl

theorem now_outsideCommit (s : State) : (outsideCommit s).now = s.now := rfl

/-- A capture that has ended is IDLE with the time base, and a fail is counted; where image capture resumes is left open. -/
theorem outsideCommit_endCapture (s : State) : ∃ resumeAt, outsideCommit (endCapture s) = setCapture (fun c => { c with
      state := .idle, lastTime := s.now, fails := c.fails + b2n (decide (s.pipe.capture.result ≠ 1)), resumeAt := resumeAt })
    (outsideCommit s) := by
  generalize hu : closeReference (commitAll s.pipe.stage6.length s) = u
  have hcommitted : outsideCommit u = outsideCommit s := by simp [← hu]
  have hnow : u.now = s.now := by rw [← now_outsideCommit, hcommitted, now_outsideCommit]
  refine ⟨if u.modes.mode = .inline then some (pathPosition u) else none, ?_⟩
  simp [endCapture, hu, outsideCommit_setCapture, hcommitted, hnow]

theorem outsideCommit_moveStrip (a : Nat) (target : Int) (s : State) : outsideCommit (moveStrip a target s) =
    setCapture (fun c => { c with move := some (a, target) }) (outsideCommit s) := by
  simp [moveStrip, outsideCommit_setCapture]

/-- Step 6 changes the capture alone of what `outsideCommit` reads: it moves out, or has ended where no axis moves the strip. -/
theorem outsideCommit_moveOut (s : State) : ∃ c : RefCapture, outsideCommit (moveOut s) = outsideCommit (setCapture (fun _ => c) s) ∧
    c.state = (if (stripAxis s).isSome then .movingOut else .idle) ∧ c.result = s.pipe.capture.result ∧
    c.count = s.pipe.capture.count ∧ (s.pipe.capture.result = 1 → c.fails = s.pipe.capture.fails) := by
  unfold moveOut
  split
  next a haxis =>
    refine ⟨{ s.pipe.capture with state := .movingOut, move := some (a, sval 32 Obj.REF_POS_OUT s) }, ?_, by simp [haxis], rfl, rfl,
      fun _ => rfl⟩
    rw [outsideCommit_moveStrip]; rfl
  next haxis =>
    obtain ⟨resumeAt, hended⟩ := outsideCommit_endCapture s
    refine ⟨_, hended.trans rfl, by simp [haxis], rfl, rfl, fun haccepted => ?_⟩
    simp only [haccepted]; rfl

/-- What step 6 leaves, part by part. -/
theorem moveOut_frame (s : State) :
    moveOut s = { s with ecat := (moveOut s).ecat, ev := (moveOut s).ev, mbox := (moveOut s).mbox, tim := (moveOut s).tim,
                         pipe := (moveOut s).pipe, cmp := (moveOut s).cmp, cist := (moveOut s).cist, host := (moveOut s).host,
                         mot := (moveOut s).mot } ∧
    (moveOut s).pipe.banks = s.pipe.banks ∧ (moveOut s).pipe.active = s.pipe.active ∧
    (moveOut s).pipe.switchPending = s.pipe.switchPending ∧
    (moveOut s).pipe.capture.state = (if (stripAxis s).isSome then .movingOut else .idle) ∧
    (moveOut s).pipe.capture.result = s.pipe.capture.result ∧ (moveOut s).pipe.capture.count = s.pipe.capture.count ∧
    (s.pipe.capture.result = 1 → (moveOut s).pipe.capture.fails = s.pipe.capture.fails) := by
  obtain ⟨c, hout, hstate, hresult, hcount, hfails⟩ := outsideCommit_moveOut s
  obtain ⟨hframe, hbanks, hactive, hpending, hcapture⟩ := outsideCommit_iff.1 hout
  rw [hcapture]
  exact ⟨hframe, hbanks, hactive, hpending, hstate, hresult, hcount, hfails⟩

/-! ### The sums of an attempt that are lost (R226) -/

/-- The blocks of the capture's sums that are lost. -/
def lostSums (s : State) : List Nat := poisonedIn (regionBase rSums s) (regionSize rSums s) s

theorem attemptResult_lost {vs : List Verdict} {s : State} (h : lostSums s ≠ []) : attemptResult vs s = 3 := by
  simp only [lostSums] at h
  simp [attemptResult, h]

theorem noteLostSums_nil {s : State} (h : lostSums s = []) : noteLostSums s = s := by
  simp only [lostSums] at h
  simp [noteLostSums, h]

theorem noteLostSums_cons {s : State} {a : Nat} {l : List Nat} (h : lostSums s = a :: l) :
    noteLostSums s = dataLost (eccUncorrectable a s) := by
  simp only [lostSums] at h
  simp [noteLostSums, h]

theorem eventCount_logEvent (e : Event) (s : State) : eventCount (logEvent e s) = eventCount s + 1 := by
  cases h : s.ev.held with
  | none =>
    obtain ⟨hlogged, -, hheld⟩ := logEvent_count s e h
    simp [eventCount, hlogged, hheld, h]
  | some l =>
    simp [eventCount, logEvent_held s e l h, h, Nat.add_assoc]

/-- An uncorrectable error counts itself and logs one event. -/
theorem eccUncorrectable_frame (a : Nat) (s : State) :
    eccUncorrectable a s = { s with
      cist := { s.cist with poisoned := poison a s.cist.poisoned, uncorrectable := s.cist.uncorrectable + 1, lastAddress := a,
                            sticky := stick 6 s.cist.sticky }
      ecat := (eccUncorrectable a s).ecat, ev := (eccUncorrectable a s).ev, mbox := (eccUncorrectable a s).mbox } ∧
    eventCount (eccUncorrectable a s) = eventCount s + 1 := by
  simp only [eccUncorrectable]
  exact ⟨logEvent_frame .., eventCount_logEvent ..⟩

/-- Lost sums count one lost item and one uncorrectable error, logged, in an attempt. -/
theorem noteLostSums_lost {s : State} (h : lostSums s ≠ []) :
    (noteLostSums s).cist.dataLost = s.cist.dataLost + 1 ∧ (noteLostSums s).cist.uncorrectable = s.cist.uncorrectable + 1 ∧
    eventCount (noteLostSums s) = eventCount s + 1 := by
  obtain ⟨a, l, hlost⟩ := List.exists_cons_of_ne_nil h
  obtain ⟨hframe, hevents⟩ := eccUncorrectable_frame a s
  rw [noteLostSums_cons hlost]
  refine ⟨?_, ?_, hevents⟩ <;> (simp only [dataLost]; rw [hframe])

theorem noteLostSums_frame (s : State) : noteLostSums s = { s with
    cist := { s.cist with
      dataLost := (noteLostSums s).cist.dataLost, uncorrectable := (noteLostSums s).cist.uncorrectable,
      lastAddress := (noteLostSums s).cist.lastAddress, sticky := (noteLostSums s).cist.sticky,
      poisoned := (noteLostSums s).cist.poisoned }
    ecat := (noteLostSums s).ecat, ev := (noteLostSums s).ev, mbox := (noteLostSums s).mbox } := by
  cases h : lostSums s with
  | nil => rw [noteLostSums_nil h]
  | cons a l =>
    rw [noteLostSums_cons h, dataLost, (eccUncorrectable_frame a s).1]

/-! ### The evaluation of an attempt (R126) -/

theorem exec_captureEvaluate (s : State) : exec .captureEvaluate s = .next (captureEvaluate s) := rfl

theorem captureEvaluate_waits {s : State} (h : s.pipe.capture.state ≠ .evaluating ∨ ∃ l ∈ s.tim.lines, l.refPhase ≠ none) :
    captureEvaluate s = s := by
  refine if_pos ?_
  simpa [Option.isSome_iff_ne_none] using h

theorem val_noteLostSums (r : Ref) (s : State) : val r (noteLostSums s) = val r s := by rw [noteLostSums_frame]; rfl

theorem captureEvaluate_judges {s : State} (hstate : s.pipe.capture.state = .evaluating)
    (hlines : ∀ l ∈ s.tim.lines, l.refPhase = none) : captureEvaluate s =
    if attemptResult (verdicts s) s = 1 then acceptCapture (verdicts s) (noteLostSums s)
    else if s.pipe.capture.attempt ≤ val Obj.REF_RETRIES s then startAttempt (s.pipe.capture.attempt + 1) (noteLostSums s)
    else moveOut (setCapture (fun c => { c with result := attemptResult (verdicts s) s }) (noteLostSums s)) := by
  have hread : s.tim.lines.any (fun l => l.refPhase.isSome) = false := by simpa using hlines
  simp only [captureEvaluate, hstate, hread, val_noteLostSums]
  exact if_neg (by decide)

/-- An attempt starts with its triggers dropped, its sums empty and a settling window due. -/
theorem startAttempt_eq (n : Nat) (s : State) : startAttempt n s = { s with
    tim := { s.tim with pending := none, inFlight := [] }, lamps := { s.lamps with settleNext := true }
    pipe := { s.pipe with capture := { s.pipe.capture with
      state := .black, attempt := n, pass := 1, begun := 0, used := 0, marked := 0, phases := List.replicate 4 ⟨0, []⟩ } } } := rfl

/-- The inactive bank with what an accepted attempt writes, and the attempt counted. -/
def bankCaptured (vs : List Verdict) (s : State) : State :=
  setCapture (fun c => { c with result := 1, count := c.count + 1 })
    (modBank (1 - s.pipe.active) (fun _ => { state := 1, time := s.now, raw := some (capturedBank vs s) }) s)

theorem acceptCapture_eq (vs : List Verdict) (s : State) : acceptCapture vs s = moveOut (requestSwitch (bankCaptured vs s)) := rfl

/-- A requested switch changes the active bank in READY, and is pending otherwise. -/
theorem requestSwitch_pipe (s : State) :
    (requestSwitch s).pipe.active = (if s.modes.mode = .ready then 1 - s.pipe.active else s.pipe.active) ∧
    (s.modes.mode ≠ .ready → (requestSwitch s).pipe.switchPending = true) ∧
    (requestSwitch s).pipe.banks = s.pipe.banks ∧ (requestSwitch s).pipe.capture = s.pipe.capture := by
  by_cases h : s.modes.mode = .ready
  · rw [requestSwitch_ready h, if_pos h]
    exact ⟨rfl, fun hmode => absurd h hmode, rfl, rfl⟩
  · rw [requestSwitch_later h, if_neg h]
    exact ⟨rfl, fun _ => rfl, rfl, rfl⟩

theorem requestSwitch_frame (s : State) : requestSwitch s =
    { s with dict := { s.dict with bulk := (requestSwitch s).dict.bulk }, pipe := (requestSwitch s).pipe } := by
  by_cases h : s.modes.mode = .ready
  · rw [requestSwitch_ready h]; rfl
  · rw [requestSwitch_later h]

theorem stripAxis_requestSwitch (s : State) : stripAxis (requestSwitch s) = stripAxis s := by rw [requestSwitch_frame]; rfl

/-- An accepted attempt (R126, R121, R124 step 6). -/
theorem acceptCapture_frame (vs : List Verdict) {s : State} (hbanks : s.pipe.banks.length = 2) (hactive : s.pipe.active < 2) :
    bankOf (1 - s.pipe.active) (acceptCapture vs s) = ⟨1, s.now, some (capturedBank vs s)⟩ ∧
    bankOf s.pipe.active (acceptCapture vs s) = bankOf s.pipe.active s ∧
    (acceptCapture vs s).pipe.capture.result = 1 ∧ (acceptCapture vs s).pipe.capture.count = s.pipe.capture.count + 1 ∧
    (acceptCapture vs s).pipe.capture.fails = s.pipe.capture.fails ∧
    (acceptCapture vs s).pipe.active = (if s.modes.mode = .ready then 1 - s.pipe.active else s.pipe.active) ∧
    (s.modes.mode ≠ .ready → (acceptCapture vs s).pipe.switchPending = true) ∧
    (acceptCapture vs s).pipe.capture.state = (if (stripAxis s).isSome then .movingOut else .idle) ∧
    acceptCapture vs s = { s with
      dict := { s.dict with bulk := (acceptCapture vs s).dict.bulk }, ecat := (acceptCapture vs s).ecat
      ev := (acceptCapture vs s).ev, mbox := (acceptCapture vs s).mbox, tim := (acceptCapture vs s).tim
      pipe := (acceptCapture vs s).pipe, cmp := (acceptCapture vs s).cmp, cist := (acceptCapture vs s).cist
      host := (acceptCapture vs s).host, mot := (acceptCapture vs s).mot } := by
  obtain ⟨hswitched, hlater, hbanksKept, hcapture⟩ := requestSwitch_pipe (bankCaptured vs s)
  obtain ⟨hframe, hbanksOut, hactiveOut, hpendingOut, hstate, hresult, hcount, hfails⟩ :=
    moveOut_frame (requestSwitch (bankCaptured vs s))
  rw [← acceptCapture_eq] at hframe hbanksOut hactiveOut hpendingOut hstate hresult hcount hfails
  rw [hcapture] at hresult hcount hfails
  have hbank (b : Nat) : bankOf b (acceptCapture vs s) = bankOf b (bankCaptured vs s) := by
    simp only [bankOf, hbanksOut, hbanksKept]
  refine ⟨?_, ?_, hresult, hcount, hfails rfl, hactiveOut.trans hswitched, fun hmode => hpendingOut.trans (hlater hmode), ?_, ?_⟩
  · rw [hbank]
    exact bankOf_modBank_self _ (by omega)
  · rw [hbank]
    exact bankOf_modBank_ne _ (by omega)
  · rw [hstate, stripAxis_requestSwitch]; rfl
  · rw [hframe, requestSwitch_frame]; rfl

/-- Settles O19: an attempt is judged once its lines have left the hold (`captureEvaluate_judges`), after the count of lost sums
(`noteLostSums_lost`); it is accepted (`acceptCapture_frame`), followed by another, or ended by step 6 (`moveOut_frame`). -/
theorem captureIsEvaluated : Obligations.CaptureIsEvaluated := by
  unfold Obligations.CaptureIsEvaluated
  refine fun s => ⟨fun hwaits => congrArg _ (captureEvaluate_waits hwaits), fun hstate hlines hbanks hactive => ?_⟩
  simp only [exec_captureEvaluate, captureEvaluate_judges hstate hlines]
  refine ⟨noteLostSums_nil, fun hlost => ?_, fun haccepted => ?_, fun hfailed hretries => ?_, fun hfailed hretries => ?_⟩
  · obtain ⟨hdata, herrors, hevents⟩ := noteLostSums_lost hlost
    exact ⟨attemptResult_lost hlost, hdata, herrors, hevents, noteLostSums_frame s⟩
  · have hsums : lostSums s = [] := Decidable.byContradiction fun hlost => by
      rw [attemptResult_lost hlost] at haccepted
      exact absurd haccepted (by decide)
    rw [if_pos haccepted, noteLostSums_nil hsums]
    exact ⟨_, rfl, acceptCapture_frame (verdicts s) hbanks hactive⟩
  · rw [if_neg hfailed, if_pos hretries, startAttempt_eq, noteLostSums_frame]
  · rw [if_neg hfailed, if_neg (Nat.not_le.2 hretries)]
    obtain ⟨hframe, hbanksKept, hactiveKept, hpending, hended, hresult, -, -⟩ :=
      moveOut_frame (setCapture (fun c => { c with result := attemptResult (verdicts s) s }) (noteLostSums s))
    refine ⟨_, rfl, hresult, ?_, ?_, ?_, ?_, ?_⟩
    · rw [hbanksKept, noteLostSums_frame]; rfl
    · rw [hactiveKept, noteLostSums_frame]; rfl
    · rw [hpending, noteLostSums_frame]; rfl
    · rw [hended, noteLostSums_frame]; rfl
    · rw [hframe, noteLostSums_frame]; rfl

end Sys2Proof.Machine
end

section
/-!
PROOFS. A page assignment that comes after the start of its page (08_inspection_compare R192): the entry is removed without effect, in a
run that the compare engine sits out as in any other.
-/
namespace Sys2Proof.Machine

theorem exec_pageAssign (via : Path) (data : List Byte) (s : State) :
    exec (.pageAssign via data) s = writeCommand via (writePageAssign data) s := rfl

/-- INLINE without the compare engine (CMP_ENABLE 0), page 5 started and reference 7 READY. -/
def capturingPage5 : State :=
  { Tests.comparing [Tests.image4 2] [] [] with
    cmp := { (Tests.comparing [Tests.image4 2] [] []).cmp with active := false }
    tim := { (Tests.comparing [Tests.image4 2] [] []).tim with pageNumber := 5, pageFirstY := some 0 } }

/-- The entry that binds page 5 to reference 7 (`Tests.assignBytes`) meets every condition of R192 and R193 there. -/
theorem assignBytes_taken_capturingPage5 :
    served .sdo capturingPage5 = true ∧ Tests.assignBytes.length = 12 ∧ capturingPage5.cmp.assigns.length < 4096 ∧
    refState (fieldAt Tests.assignBytes 4 2) capturingPage5 = 2 ∧ fieldAt Tests.assignBytes 10 2 = 0 ∧
    (-64 ≤ toSigned 16 (fieldAt Tests.assignBytes 6 2) ∧ toSigned 16 (fieldAt Tests.assignBytes 6 2) ≤ 64 ∧
      -64 ≤ toSigned 16 (fieldAt Tests.assignBytes 8 2) ∧ toSigned 16 (fieldAt Tests.assignBytes 8 2) ≤ 64) ∧
    capturingPage5.cmp.assigns = [] ∧ capturingPage5.cmp.active = false ∧
    pageStarted (fieldAt Tests.assignBytes 0 4) capturingPage5 = true := by
  decide

/-- An entry that R192 and R193 accept is removed where its page has started. -/
theorem writePageAssign_started {data : List Byte} {s : State} (hlength : data.length = 12)
    (hid : refState (fieldAt data 4 2) s = 1 ∨ refState (fieldAt data 4 2) s = 2) (hreserved : fieldAt data 10 2 = 0)
    (hseed : -64 ≤ toSigned 16 (fieldAt data 6 2) ∧ toSigned 16 (fieldAt data 6 2) ≤ 64 ∧
      -64 ≤ toSigned 16 (fieldAt data 8 2) ∧ toSigned 16 (fieldAt data 8 2) ≤ 64)
    (hfirst : s.cmp.assigns = []) (hstarted : pageStarted (fieldAt data 0 4) s = true) : writePageAssign data s = .ok s := by
  have hfree : ¬ (refState (fieldAt data 4 2) s = 0 ∨ refState (fieldAt data 4 2) s = 3) := by omega
  obtain ⟨hdx, hdx', hdy, hdy'⟩ := hseed
  simp [writePageAssign, hlength, hfirst, hfree, hreserved, hdx, hdx', hdy, hdy', hstarted]

/-- Refutes O25: an entry whose page has already started is removed without effect (R192, `pageStarted`), where the statement has it join
the queue whenever the compare engine is inactive. In INLINE with CMP_ENABLE 0 the engine is inactive and pages start all the same
(`capturingPage5`). -/
theorem not_referencesAndAssignments : ¬ Obligations.ReferencesAndAssignments := by
  unfold Obligations.ReferencesAndAssignments
  rintro ⟨-, -, hassign, -⟩
  obtain ⟨hserved, hlength, hroom, hid, hreserved, hseed, hfirst, hinactive, hstarted⟩ := assignBytes_taken_capturingPage5
  obtain ⟨hdx, hdx', hdy, hdy'⟩ := hseed
  have hjoins := ((hassign .sdo Tests.assignBytes capturingPage5 hserved hlength).2 hroom (.inr hid) hreserved hdx hdx' hdy hdy').2
    (by simp [hfirst]) hinactive
  have hremoved : exec (.pageAssign .sdo Tests.assignBytes) capturingPage5 = .next (answerWrite .sdo 0 capturingPage5) := by
    rw [exec_pageAssign]
    exact writeCommand_ok hserved
      (writePageAssign_started hlength (.inr hid) hreserved ⟨hdx, hdx', hdy, hdy'⟩ hfirst hstarted)
  rw [hremoved, Host.Outcome.next.injEq] at hjoins
  have hqueue := congrArg (fun t => t.cmp.assigns.length) hjoins
  simp [hfirst] at hqueue

end Sys2Proof.Machine
end

section
/-!
PROOFS. The comparison of a band (08_inspection_compare R193, R195, R206, R209).

`bandView` reads a state but for what the close of a blob, the end of a page, an error in memory and an event change; of the compare
engine it reads the waiting bands, their counts, the offset last measured, the references and assignments, and BAND_SKIPPED. Each function
that the comparison of a band calls has one lemma, in the order of the model's files.
-/
namespace Sys2Proof.Machine

/-! ### Bits of sticky and status words -/

theorem bitOf_eq_testBit (v i : Nat) : bitOf v i = v.testBit i := by
  rw [bitOf, Nat.testBit_eq_decide_div_mod_eq]

/-- Setting a sticky bit that reads 0 adds its weight. -/
theorem stick_eq (i v : Nat) : stick i v = if v.testBit i then v else 2 ^ i + v := by
  simp [stick, setBit, bitOf_eq_testBit, Nat.add_comm]

@[simp] theorem bitOf_stick_self (i v : Nat) : bitOf (stick i v) i = true := by
  rw [bitOf_eq_testBit, stick_eq]
  split
  · assumption
  · next h => simp [Nat.testBit_two_pow_add_eq, h]

/-- A sticky bit leaves those below it. -/
theorem bitOf_stick_lower {i j : Nat} (h : j < i) (v : Nat) : bitOf (stick i v) j = bitOf v j := by
  rw [bitOf_eq_testBit, bitOf_eq_testBit, stick_eq]
  split
  · rfl
  · exact Nat.testBit_two_pow_add_gt h v

@[simp] theorem bitOf_stick_seven_four (v : Nat) : bitOf (stick 7 v) 4 = bitOf v 4 := bitOf_stick_lower (by decide) v

@[simp] theorem bitOf_stick_eight_four (v : Nat) : bitOf (stick 8 v) 4 = bitOf v 4 := bitOf_stick_lower (by decide) v

/-- BLOB_LOST, set or not, leaves BAND_SKIPPED. -/
@[simp] theorem bitOf_unless_stick_seven_four (c : Prop) {_ : Decidable c} (v : Nat) :
    bitOf (if c then v else stick 7 v) 4 = bitOf v 4 := by
  split <;> simp

/-- A status word reads each of its bits. -/
theorem bitOf_bitsOf (l : List Bool) (i : Nat) : bitOf (bitsOf l) i = l.getD i false := by
  induction l generalizing i with
  | nil => simp [bitsOf, bitOf]
  | cons b l ih =>
    have hb : b2n b < 2 := by cases b <;> decide
    cases i with
    | zero => cases b <;> simp [bitsOf, bitOf, b2n]
    | succ i =>
      have hhalf : (b2n b + 2 * bitsOf l) / 2 = bitsOf l := by omega
      rw [List.getD_cons_succ, ← ih, bitOf_eq_testBit, bitOf_eq_testBit, bitsOf, Nat.testBit_succ, hhalf]

/-! ### The view -/

/-- A state but for what the close of blobs and pages, errors in memory and events change, and BAND_SKIPPED. -/
def bandView (s : State) : State × Bool :=
  ({ s with
    cmp := { State.reset.cmp with
      queue := s.cmp.queue, bandsCompared := s.cmp.bandsCompared, bandsSkipped := s.cmp.bandsSkipped
      lastOffset := s.cmp.lastOffset, refs := s.cmp.refs, assigns := s.cmp.assigns }
    cist := State.reset.cist, host := State.reset.host, ecat := State.reset.ecat, ev := State.reset.ev, mbox := State.reset.mbox },
  bitOf s.cmp.sticky 4)

theorem bandView_iff {s t : State} : bandView t = bandView s ↔
    t = { s with cmp := t.cmp, cist := t.cist, host := t.host, ecat := t.ecat, ev := t.ev, mbox := t.mbox } ∧
    t.cmp.queue = s.cmp.queue ∧ t.cmp.bandsCompared = s.cmp.bandsCompared ∧ t.cmp.bandsSkipped = s.cmp.bandsSkipped ∧
    t.cmp.lastOffset = s.cmp.lastOffset ∧ t.cmp.refs = s.cmp.refs ∧ t.cmp.assigns = s.cmp.assigns ∧
    bitOf t.cmp.sticky 4 = bitOf s.cmp.sticky 4 := by
  constructor
  · intro h
    have hparts : t = { (bandView t).1 with
        cmp := t.cmp, cist := t.cist, host := t.host, ecat := t.ecat, ev := t.ev, mbox := t.mbox } := rfl
    have hcmp : (bandView t).1.cmp = (bandView s).1.cmp := by rw [h]
    have hbit : (bandView t).2 = (bandView s).2 := by rw [h]
    simp only [bandView, Compare.mk.injEq, true_and, and_true] at hcmp
    obtain ⟨hqueue, hrefs, hassigns, hoffset, hcompared, hskipped⟩ := hcmp
    exact ⟨hparts.trans (by rw [h]; rfl), hqueue, hcompared, hskipped, hoffset, hrefs, hassigns, hbit⟩
  · rintro ⟨hframe, hqueue, hcompared, hskipped, hoffset, hrefs, hassigns, hbit⟩
    rw [hframe]
    simp only [bandView, hqueue, hcompared, hskipped, hoffset, hrefs, hassigns, hbit]

/-- An update of parts that `bandView` does not read. -/
@[simp] theorem bandView_mk (s : State) (ecat ev mbox cmp cist host) (hqueue : cmp.queue = s.cmp.queue)
    (hcompared : cmp.bandsCompared = s.cmp.bandsCompared) (hskipped : cmp.bandsSkipped = s.cmp.bandsSkipped)
    (hoffset : cmp.lastOffset = s.cmp.lastOffset) (hrefs : cmp.refs = s.cmp.refs) (hassigns : cmp.assigns = s.cmp.assigns)
    (hbit : bitOf cmp.sticky 4 = bitOf s.cmp.sticky 4) :
    bandView ⟨s.now, s.clk, s.fresh, s.modes, s.dict, ecat, s.cfg, ev, s.pwr, s.boot, mbox, s.flash, s.upd, s.telem, s.otp, s.fe,
      s.tim, s.lamps, s.ind, s.pipe, s.lv, cmp, cist, host, s.mot, s.tw, s.pins, s.tap, s.bench, s.pending⟩ = bandView s := by
  simp only [bandView, hqueue, hcompared, hskipped, hoffset, hrefs, hassigns, hbit]

@[simp] theorem bandView_ite (c : Prop) {_ : Decidable c} (s t : State) :
    bandView (if c then s else t) = if c then bandView s else bandView t := apply_ite ..

@[simp] theorem bandView_foldl {α : Type} {f : State → α → State} (h : ∀ s a, bandView (f s a) = bandView s) (l : List α)
    (s : State) : bandView (l.foldl f s) = bandView s := by
  induction l generalizing s with
  | nil => rfl
  | cons a l ih => rw [List.foldl_cons, ih, h]

/-! ### Machine/Events -/

@[simp] theorem bandView_logEvent (e : Event) (s : State) : bandView (logEvent e s) = bandView s := by
  rw [logEvent_frame]; rfl

@[simp] theorem bandView_logOnce (was i : Nat) (e : Event) (s : State) : bandView (logOnce was i e s) = bandView s := by
  simp [logOnce]

/-- A state whose events are gathered from now on, as a command begins (18 R438). -/
def eventsGathered (s : State) : State := { s with ev := { s.ev with held := some [] } }

/-- The events that a command gathers and logs are outside the view. -/
theorem bandView_inOneCycle (f : State → State) (s : State) :
    bandView (inOneCycle f s) = bandView (f (eventsGathered s)) := by
  rw [inOneCycle_frame]; rfl

/-! ### Machine/Cistern -/

@[simp] theorem bandView_noteOccupancy (i n : Nat) (s : State) : bandView (noteOccupancy i n s) = bandView s := rfl

@[simp] theorem bandView_clearPoison (a n : Nat) (s : State) : bandView (clearPoison a n s) = bandView s := rfl

@[simp] theorem bandView_eccUncorrectable (a : Nat) (s : State) : bandView (eccUncorrectable a s) = bandView s := by
  simp [eccUncorrectable]

@[simp] theorem bandView_dataLost (s : State) : bandView (dataLost s) = bandView s := rfl

/-! ### Machine/Stream -/

@[simp] theorem bandView_makeItem (k : ItemKind) (s : State) : bandView (makeItem k s) = bandView s := by
  simp [makeItem]

@[simp] theorem bandView_releaseSlots (s : State) : bandView (releaseSlots s) = bandView s := rfl

/-! ### Machine/Compare -/

@[simp] theorem bandView_makeCrop (p : CmpPage) (b : Blob) (s : State) : bandView (makeCrop p b s).2.2 = bandView s := by
  simp only [makeCrop]
  repeat' split
  all_goals simp

@[simp] theorem bandView_modPage (n : PageKey) (f : CmpPage → CmpPage) (s : State) : bandView (modPage n f s) = bandView s := rfl

@[simp] theorem bandView_closeBlob (page : PageKey) (b : Blob) (s : State) : bandView (closeBlob page b s) = bandView s := by
  unfold closeBlob
  split <;> simp

@[simp] theorem bandView_finishPage (n : PageKey) (s : State) : bandView (finishPage n s) = bandView s := by
  simp only [finishPage]
  repeat' split
  all_goals simp

@[simp] theorem bandView_usePrefetch (p : CmpPage) (b : CmpBand) (s : State) : bandView (usePrefetch p b s) = bandView s := by
  unfold usePrefetch
  split <;> simp

/-! ### A band leaves the queue -/

/-- The bands that wait besides those of b's page and number. -/
def waitingBut (b : CmpBand) (l : List CmpBand) : List CmpBand :=
  l.filter (fun x => !(decide (x.page = b.page) && decide (x.band = b.band)))

/-- The oldest waiting band has left, and no band has joined. -/
theorem mem_rest_of_mem_waitingBut {b x : CmpBand} {rest : List CmpBand} (h : x ∈ waitingBut b (b :: rest)) : x ∈ rest := by
  obtain ⟨hmem, hother⟩ := List.mem_filter.1 h
  obtain rfl | hrest := List.mem_cons.1 hmem
  · simp at hother
  · exact hrest

/-- The rows of a band that take part in its comparison (R188). -/
def rowsCompared (b : CmpBand) (s : State) : List CmpRow := b.rows.filter (fun x => !rowSettles s x)

/-- The offset that the alignment of a band gives (R195). -/
def bandOffset (p : CmpPage) (b : CmpBand) (r : RefImage) (s : State) : Int × Int :=
  (alignBand (sampleUnit p.half) (val Obj.ALIGN_MIN_PIXELS s) (val Obj.ALIGN_CONTRAST s) (rowsCompared b s) r (refHead r.bytes)
    p.centreX p.centreY).1

theorem rowsCompared_eq (b : CmpBand) (s : State) :
    rowsCompared b s = b.rows.filter (fun x => !bitOf x.flags 0 || decide (val Obj.CMP_SETTLING_MODE s = 1)) := by
  simp [rowsCompared, rowSettles]

theorem bandView_judge (p : CmpPage) (b : CmpBand) (r : RefImage) (s : State) :
    bandView (judge p b r s) = bandView { s with cmp := { s.cmp with
      queue := waitingBut b s.cmp.queue, bandsCompared := s.cmp.bandsCompared + 1, lastOffset := bandOffset p b r s } } := by
  simp only [judge, bandView_releaseSlots, bandView_finishPage, bandView_foldl, bandView_closeBlob, implies_true]
  simp [bandView, modPage, waitingBut, bandOffset, rowsCompared]

theorem bandView_skipBand (b : CmpBand) (s : State) :
    bandView (skipBand b s) = bandView { s with cmp := { s.cmp with
      queue := waitingBut b s.cmp.queue, bandsSkipped := s.cmp.bandsSkipped + 1, sticky := stick 4 s.cmp.sticky } } := by
  simp only [skipBand, bandView_finishPage, bandView_logOnce]
  rfl

/-- The objects that the comparison reads are in the view. -/
theorem val_of_bandView {s t : State} (h : bandView t = bandView s) (r : Ref) : val r t = val r s := by
  obtain ⟨hframe, -⟩ := bandView_iff.1 h
  rw [hframe]; rfl

theorem bandOffset_of_bandView {s t : State} (h : bandView t = bandView s) (p : CmpPage) (b : CmpBand) (r : RefImage) :
    bandOffset p b r t = bandOffset p b r s := by
  simp only [bandOffset, rowsCompared_eq, val_of_bandView h]

/-- A compared band leaves the queue, whatever becomes of the windows fetched ahead. -/
theorem bandView_judge_usePrefetch (p : CmpPage) (b : CmpBand) (r : RefImage) (s : State) :
    bandView (judge p b r (usePrefetch p b s)) = bandView { s with cmp := { s.cmp with
      queue := waitingBut b s.cmp.queue, bandsCompared := s.cmp.bandsCompared + 1, lastOffset := bandOffset p b r s } } := by
  obtain ⟨hframe, hqueue, hcompared, hskipped, -, hrefs, hassigns, hbit⟩ := bandView_iff.1 (bandView_usePrefetch p b s)
  rw [bandView_judge, bandOffset_of_bandView (bandView_usePrefetch p b s), hqueue, hcompared]
  refine bandView_iff.2 ⟨?_, rfl, rfl, hskipped, rfl, hrefs, hassigns, hbit⟩
  rw [hframe]

/-! ### Events of one cycle -/

theorem length_insertEvent (e : Event) (l : List Event) : (insertEvent e l).length = l.length + 1 := by
  induction l with
  | nil => rfl
  | cons x l ih => unfold insertEvent; split <;> simp [ih]

theorem length_sortEvents (l : List Event) : (sortEvents l).length = l.length := by
  have hfold : ∀ acc : List Event, (l.foldl (fun acc e => insertEvent e acc) acc).length = acc.length + l.length := by
    induction l with
    | nil => exact fun _ => rfl
    | cons e l ih => intro acc; rw [List.foldl_cons, ih, length_insertEvent, List.length_cons]; omega
  simpa [sortEvents] using hfold []

theorem eventCount_logEvents (l : List Event) (s : State) : eventCount (logEvents l s) = eventCount s + l.length := by
  cases hheld : s.ev.held with
  | some h => simp [eventCount, logEvents, hheld, Nat.add_assoc]
  | none =>
    obtain ⟨-, hlogged, hkept⟩ := recordEvents_frame s (sortEvents l) 0
    simp only [logEvents, hheld]
    split
    · next hnil => simp [List.isEmpty_iff.1 hnil]
    · rw [fillMailbox_frame]
      simp [eventCount, hlogged, hkept, hheld, length_sortEvents]

/-- The events that a command gathers are those it logs. -/
theorem eventCount_inOneCycle (f : State → State) {s : State} (h : s.ev.held = none) :
    eventCount (inOneCycle f s) = eventCount (f (eventsGathered s)) := by
  simp only [inOneCycle, eventCount_logEvents, h]
  rfl

theorem eventCount_eventsGathered {s : State} (h : s.ev.held = none) : eventCount (eventsGathered s) = eventCount s := by
  simp [eventCount, eventsGathered, h]

theorem eventCount_logOnce (was i : Nat) (e : Event) (s : State) :
    eventCount (logOnce was i e s) = eventCount s + if bitOf was i then 0 else 1 := by
  unfold logOnce
  split
  · rfl
  · exact eventCount_logEvent e s

/-- Where a command does nothing, neither does its cycle. -/
theorem inOneCycle_eq_self {f : State → State} {s : State} (h : f (eventsGathered s) = eventsGathered s) : inOneCycle f s = s := by
  have hquiet := inOneCycle_quiet (f := f) (s := s) (congrArg State.ev h)
  rw [hquiet]
  exact congrArg (fun t : State => { t with ev := s.ev }) h

/-! ### A skipped band logs one event -/

/-- A page without open blobs ends without an event. -/
theorem ev_finishPage {n : PageKey} {s : State} (h : ∀ p, cmpPageOf n s = some p → p.blobs = []) : (finishPage n s).ev = s.ev := by
  unfold finishPage
  split
  · rfl
  · next p hp =>
    simp only [h p hp, List.foldl_nil, hp]
    split <;> rfl

/-- A change of the page n that keeps its key is found under its key. -/
theorem cmpPageOf_modPage {n : PageKey} {f : CmpPage → CmpPage} (hf : ∀ p, (f p).page = p.page) (s : State) :
    cmpPageOf n (modPage n f s) = (cmpPageOf n s).map f := by
  have hkey : (fun p : CmpPage => decide (p.page = n)) ∘ (fun p => if p.page = n then f p else p) = fun p => decide (p.page = n) := by
    funext p
    by_cases h : p.page = n <;> simp [h, hf]
  simp only [cmpPageOf, modPage, List.find?_map, hkey]
  cases hfound : s.cmp.pages.find? (fun p => decide (p.page = n)) with
  | none => rfl
  | some p =>
    have hpage : p.page = n := by simpa using List.find?_some hfound
    simp [hpage]

theorem cmpPageOf_logOnce (n : PageKey) (was i : Nat) (e : Event) (s : State) :
    cmpPageOf n (logOnce was i e s) = cmpPageOf n s := by
  unfold logOnce
  split
  · rfl
  · rw [logEvent_frame]; rfl

/-- The event is that of the band: BAND_SKIPPED where it was clear. -/
theorem eventCount_skipBand {b : CmpBand} {p : CmpPage} {s : State} (hpage : cmpPageOf b.page s = some p) (hblobs : p.blobs = []) :
    eventCount (skipBand b s) = eventCount s + if bitOf s.cmp.sticky 4 then 0 else 1 := by
  simp only [skipBand]
  generalize hu : modPage b.page _ s = u
  have hkept : ∀ q, cmpPageOf b.page u = some q → q.blobs = [] := by
    intro q hq
    rw [← hu, cmpPageOf_modPage, hpage] at hq
    · cases hq
      exact hblobs
    · exact fun _ => rfl
  have hev : u.ev = s.ev := by rw [← hu]; rfl
  rw [eventCount, ev_finishPage (by rw [cmpPageOf_logOnce]; exact hkept), ← eventCount, eventCount_logOnce]
  simp [eventCount, hev]

/-! ### The row BAND_COMPARE -/

theorem exec_bandCompare (e : Ecc) (s : State) :
    exec (.bandCompare e) s = .next (if domainOn 14 s then inOneCycle (compareBand e) s else s) := rfl

section
variable {b : CmpBand} {rest : List CmpBand} {p : CmpPage} {s : State}

theorem skipLate_room (hroom : s.cmp.queue.length < val Obj.CMP_QUEUE_BANDS s) : skipLate s = s := by
  unfold skipLate
  split
  · exact if_neg (Nat.not_le.2 hroom)
  · rfl

theorem skipLate_full (hqueue : s.cmp.queue = b :: rest) (hpage : cmpPageOf b.page s = some p)
    (hfull : val Obj.CMP_QUEUE_BANDS s ≤ s.cmp.queue.length) (href : readyRef p s = none) : skipLate s = skipBand b s := by
  simp only [skipLate, hqueue, hpage, href, Option.isNone_none, if_true]
  exact if_pos (hqueue ▸ hfull)

theorem readyRef_loading {id : Nat} {r : RefImage} (hid : p.ref = some id) (href : refOf id s = some r) (hstate : r.state = 1) :
    readyRef p s = none := by
  simp [readyRef, hid, href, hstate]

variable (hqueue : s.cmp.queue = b :: rest) (hpage : cmpPageOf b.page s = some p)
include hqueue hpage

section
variable {id : Nat} {r : RefImage} (hid : p.ref = some id) (href : refOf id s = some r)
include hid href

theorem waitingRef_loading (hstate : r.state = 1) : waitingRef s = true := by
  simp [waitingRef, hqueue, hpage, hid, refState, href, hstate]

variable (hsound : p.failed = false)
include hsound

/-- A band whose reference is READY and whose memory reads without error is compared. -/
theorem compareBand_ready (hstate : r.state = 2)
    (hreference : poisonedIn (r.base + (windowSpan (refHead r.bytes) b p.centreY).1) (windowSpan (refHead r.bytes) b p.centreY).2 s = [])
    (hrows : poisonedIn (regionBase rCompare s + b.place) (117504 * b.rows.length) s = []) :
    compareBand .clean s = judge p b r (usePrefetch p b s) := by
  simp [compareBand, hqueue, hpage, hsound, hid, href, hstate, hrows, eccRead, hreference]

/-- A band whose reference is LOADING is left to the queue's length. -/
theorem compareBand_loading (e : Ecc) (hstate : r.state = 1) : compareBand e s = skipLate s := by
  simp [compareBand, hqueue, hpage, hsound, hid, href, hstate]

end

/-- Why a due band cannot be compared (R193, R209): its page has failed, its reference is gone or not READY, or it is LOADING and the
queue is full. -/
def BandIsSkipped (p : CmpPage) (s : State) : Prop :=
  p.failed = true ∨ p.ref.bind (fun id => refOf id s) = none ∨ ∃ r, p.ref.bind (fun id => refOf id s) = some r ∧
    (r.state ≠ 1 ∧ r.state ≠ 2 ∨ r.state = 1 ∧ val Obj.CMP_QUEUE_BANDS s ≤ s.cmp.queue.length)

theorem compareBand_skips (e : Ecc) (h : BandIsSkipped p s) : compareBand e s = skipBand b s := by
  cases hfailed : p.failed with
  | true => simp [compareBand, hqueue, hpage, hfailed]
  | false =>
    obtain h | hgone | ⟨r, href, ⟨hloading, hready⟩ | ⟨hloading, hfull⟩⟩ := h
    · rw [hfailed] at h; cases h
    · simp [compareBand, hqueue, hpage, hfailed, hgone]
    · simp [compareBand, hqueue, hpage, hfailed, href, hloading, hready]
    · obtain ⟨id, hid, hof⟩ := Option.bind_eq_some_iff.1 href
      rw [compareBand_loading hqueue hpage hid hof hfailed e hloading]
      exact skipLate_full hqueue hpage hfull (readyRef_loading hid hof hloading)

end

/-! ### The window fetched ahead (R206) -/

theorem exec_prefetchFetch (s : State) : exec .prefetchFetch s = .next (if domainOn 14 s then fetchWindow s else s) := rfl

/-- A window joins the prefetch buffer, or nothing changes; with the buffer full nothing does. -/
theorem fetchWindow_frame (s : State) : ∃ ws : List Prefetch, ws.length ≤ 1 ∧
    fetchWindow s = { s with cmp := { s.cmp with prefetch := s.cmp.prefetch ++ ws } } ∧
    (val Obj.PREFETCH_BANDS s ≤ s.cmp.prefetch.length → ws = []) := by
  simp only [fetchWindow]
  split
  next => exact ⟨[], by simp, by simp, fun _ => rfl⟩
  next hruns =>
    split
    next => exact ⟨[], by simp, by simp, fun _ => rfl⟩
    next =>
      split
      next => exact ⟨[], by simp, by simp, fun _ => rfl⟩
      next => exact ⟨[_], by simp, rfl, fun hfull => by simp [hfull] at hruns⟩

/-- Settles O24: a due band is compared (`compareBand_ready`, `bandView_judge_usePrefetch`), waits (`compareBand_loading`,
`skipLate_room`) or is skipped (`compareBand_skips`, `bandView_skipBand`, `eventCount_skipBand`), and a window fetched ahead joins the
prefetch buffer alone (`fetchWindow_frame`). -/
theorem bandsAreComparedWaitOrAreSkipped : Obligations.BandsAreComparedWaitOrAreSkipped := by
  unfold Obligations.BandsAreComparedWaitOrAreSkipped
  refine ⟨fun b rest p id r s hon hqueue hpage hsound hid href => ⟨fun hstate hreference hrows => ?_, fun hstate hroom => ?_⟩,
    fun e b rest p s hon hheld hqueue hpage hskips => ?_, fun e s hidle => ?_, fun s => ?_⟩
  · have hdone := compareBand_ready (s := eventsGathered s) hqueue hpage hid href hsound hstate hreference hrows
    obtain ⟨hframe, hleft, hcompared, hskipped, hoffset, hrefs, hassigns, -⟩ :=
      bandView_iff.1 ((bandView_inOneCycle _ s).trans ((congrArg bandView hdone).trans (bandView_judge_usePrefetch ..)))
    rw [exec_bandCompare, if_pos hon]
    refine ⟨_, rfl, hcompared, hskipped, fun x hx => ?_, hoffset.trans ?_, hrefs, hassigns, hframe⟩
    · rw [hleft] at hx
      exact mem_rest_of_mem_waitingBut (hqueue ▸ hx)
    · simp only [bandOffset, rowsCompared_eq]
      rfl
  · have hwaits : compareBand .clean (eventsGathered s) = eventsGathered s :=
      (compareBand_loading (s := eventsGathered s) hqueue hpage hid href hsound .clean hstate).trans (skipLate_room hroom)
    refine ⟨?_, ?_⟩
    · rw [exec_bandCompare, if_pos hon, inOneCycle_eq_self hwaits]
    · rw [cmpStatus, bitOf_bitsOf]
      exact waitingRef_loading hqueue hpage hid href hstate
  · have hdone : compareBand e (eventsGathered s) = skipBand b (eventsGathered s) :=
      compareBand_skips (s := eventsGathered s) hqueue hpage e hskips
    obtain ⟨hframe, hleft, hcompared, hskipped, -, -, -, hbit⟩ :=
      bandView_iff.1 ((bandView_inOneCycle _ s).trans ((congrArg bandView hdone).trans (bandView_skipBand ..)))
    rw [exec_bandCompare, if_pos hon]
    refine ⟨_, rfl, hskipped, hcompared, hbit.trans (bitOf_stick_self ..), fun x hx => ?_, fun hblobs => ?_, hframe⟩
    · rw [hleft] at hx
      exact mem_rest_of_mem_waitingBut (hqueue ▸ hx)
    · rw [eventCount_inOneCycle _ hheld, hdone, eventCount_skipBand (s := eventsGathered s) hpage hblobs,
        eventCount_eventsGathered hheld]
      rfl
  · rw [exec_bandCompare]
    split
    next hon =>
      have hempty : s.cmp.queue = [] := hidle.resolve_left (by simp [hon])
      rw [inOneCycle_eq_self (by simp [compareBand, eventsGathered, hempty])]
    next => rfl
  · rw [exec_prefetchFetch]
    split
    next =>
      obtain ⟨ws, hone, hjoined, hfull⟩ := fetchWindow_frame s
      refine ⟨_, rfl, ?_, fun h => ?_, ws, ?_, hone⟩
      · rw [hjoined]
      · rw [hjoined, hfull h, List.append_nil]
      · rw [hjoined]
    next => exact ⟨s, rfl, rfl, fun _ => rfl, [], by simp, by simp⟩

end Sys2Proof.Machine
end

section
/-!
PROOFS. REGION_SIZE, scrubbing and errors in memory (09_cistern_dma R218, R225, R226, R228, R229, R241).
-/
namespace Sys2Proof.Machine

variable {s : State}

/-! ### REGION_SIZE (R218) -/

theorem exec_regionSizeWrite (via : Path) (i : Fin 9) (v : BitVec 64) (s : State) :
    exec (.regionSizeWrite via i v) s = writeCommand via (fun s => (writeRegionSize i v.toNat s).noted) s := rfl

theorem writeRegionSize_breaksRule {i v : Nat} (h : regionSizeOk i v = false) (s : State) :
    writeRegionSize i v s = .abort abortRange s := by
  simp [writeRegionSize, h]

theorem writeRegionSize_doesNotFit {i v : Nat} (hrule : regionSizeOk i v = true)
    (hfit : layoutOf (setAt (requestedSizes s) i v) (configuredCapacity s) = none) :
    writeRegionSize i v s = .abort abortContent s := by
  simp [writeRegionSize, hrule, hfit]

/-- A size taken is the requested one, leaves a layout pending and is noted. -/
theorem noted_writeRegionSize_taken {i v : Nat} (hrule : regionSizeOk i v = true)
    (hfit : layoutOf (setAt (requestedSizes s) i v) (configuredCapacity s) ≠ none) :
    (writeRegionSize i v s).noted = .ok { setVal (Obj.REGION_SIZE i) v s with
      cist := { s.cist with layoutPending := true }, cfg := (noteWrite s).cfg } := by
  simp only [writeRegionSize, hrule, Option.isNone_iff_eq_none, hfit]
  exact congrArg WriteOut.ok (noteWrite_of_cfg rfl)

/-! ### Errors in memory (R225, R226) -/

/-- A corrected error counts itself; whether it logs an event depends on the time since the last. -/
theorem eccCorrected_frame (a : Nat) (s : State) :
    eccCorrected a s = { s with
      cist := { s.cist with corrected := s.cist.corrected + 1, lastAddress := a, sticky := stick 5 s.cist.sticky
                            correctedAt := (eccCorrected a s).cist.correctedAt }
      ecat := (eccCorrected a s).ecat, ev := (eccCorrected a s).ev, mbox := (eccCorrected a s).mbox } := by
  unfold eccCorrected
  extract_lets recent u
  split
  · rfl
  · rw [logEvent_frame]

theorem mem_poison (a : Nat) (l : List Nat) : a / 64 * 64 ∈ poison a l := by
  unfold poison
  split
  next h => exact List.contains_iff_mem.1 h
  next => simp

theorem eccRead_clean {a n : Nat} (h : poisonedIn a n s = []) : eccRead a n .clean s = (none, s) := by simp only [eccRead, h]

theorem eccRead_corrected {a n : Nat} (h : poisonedIn a n s = []) (x : Nat) :
    eccRead a n (.corrected x) s = (none, eccCorrected x s) := by simp only [eccRead, h]

theorem eccRead_uncorrectable {a n : Nat} (h : poisonedIn a n s = []) (x : Nat) :
    eccRead a n (.uncorrectable x) s = (some x, eccUncorrectable x s) := by simp only [eccRead, h]

theorem eccRead_poisoned {a n b : Nat} {l : List Nat} (h : poisonedIn a n s = b :: l) (e : Ecc) :
    eccRead a n e s = (some b, eccUncorrectable b s) := by simp only [eccRead, h]

/-- A read changes what the errors it meets change: their counts and address, the sticky bits, the poisoned blocks and the events. -/
theorem eccRead_frame (a n : Nat) (e : Ecc) (s : State) : (eccRead a n e s).2 = { s with
    cist := { s.cist with
      corrected := (eccRead a n e s).2.cist.corrected, uncorrectable := (eccRead a n e s).2.cist.uncorrectable
      lastAddress := (eccRead a n e s).2.cist.lastAddress, sticky := (eccRead a n e s).2.cist.sticky
      poisoned := (eccRead a n e s).2.cist.poisoned, correctedAt := (eccRead a n e s).2.cist.correctedAt }
    ecat := (eccRead a n e s).2.ecat, ev := (eccRead a n e s).2.ev, mbox := (eccRead a n e s).2.mbox } := by
  cases h : poisonedIn a n s with
  | cons b l => rw [eccRead_poisoned h, (eccUncorrectable_frame b s).1]
  | nil =>
    cases e with
    | clean => rw [eccRead_clean h]
    | corrected x => rw [eccRead_corrected h, eccCorrected_frame]
    | uncorrectable x => rw [eccRead_uncorrectable h, (eccUncorrectable_frame x s).1]

/-! ### Scrubbing (R228, R229) -/

theorem exec_scrubStep (e : Ecc) (s : State) : exec (.scrubStep e) s =
    .next (if (domainOn 15 s || domainOn 16 s) && !backgroundDeferred s && decide (s.cist.capacity ≠ 0)
      then scrubBlock e s else s) := rfl

/-- A block scrubbed is one read, and the pass moves on to the next block or begins again. -/
theorem scrubBlock_eq (e : Ecc) (s : State) :
    let u := (eccRead s.cist.scrubAddress 64 e s).2
    scrubBlock e s = { u with cist := { u.cist with
      scrubAddress := if s.cist.scrubAddress + 64 < s.cist.capacity then s.cist.scrubAddress + 64 else 0
      scrubPasses := if s.cist.scrubAddress + 64 < s.cist.capacity then s.cist.scrubPasses else s.cist.scrubPasses + 1 } } := by
  intro u
  have hu : u.cist.capacity = s.cist.capacity ∧ u.cist.scrubPasses = s.cist.scrubPasses := by
    simp only [u]
    rw [eccRead_frame]
    exact ⟨rfl, rfl⟩
  obtain ⟨hcapacity, hpasses⟩ := hu
  simp only [scrubBlock, ← hcapacity, ← hpasses]
  split <;> rfl

/-! ### DRAM_STATUS_CLEAR (R241) -/

theorem exec_dramStatusClear (via : Path) (v : BitVec 16) (s : State) :
    exec (.dramStatusClear via v) s = writeCommand via (writeDramStatusClear v.toNat) s := rfl

/-- Settles O26: a size is refused or taken (`writeRegionSize_breaksRule`, `writeRegionSize_doesNotFit`, `noted_writeRegionSize_taken`),
and a block scrubbed advances the pass and counts what its read finds (`scrubBlock_eq`, `eccRead_corrected`, `eccRead_uncorrectable`,
`eccRead_frame`). -/
theorem cisternLayoutAndMemoryErrors : Obligations.CisternLayoutAndMemoryErrors := by
  unfold Obligations.CisternLayoutAndMemoryErrors
  refine ⟨fun via i v s hserved => ⟨fun hrule => ?_, fun hrule hfit => ?_, fun hrule hfit => ?_⟩,
    fun e s hon hruns hcapacity => ?_, fun e s hidle => ?_, fun via v s hserved => ?_⟩
  · rw [exec_regionSizeWrite]
    exact writeCommand_abort hserved (by rw [writeRegionSize_breaksRule hrule]; rfl)
  · rw [exec_regionSizeWrite]
    exact writeCommand_abort hserved (by rw [writeRegionSize_doesNotFit hrule hfit]; rfl)
  · rw [exec_regionSizeWrite]
    exact ⟨_, writeCommand_ok hserved (noted_writeRegionSize_taken hrule hfit), val_setVal_self ..,
      fun r hr => val_setVal_ne _ _ _ _ hr, rfl⟩
  · have hstep : exec (.scrubStep e) s = .next (scrubBlock e s) := by
      rw [exec_scrubStep, if_pos (by simpa [hruns, hcapacity] using hon)]
    rw [hstep, scrubBlock_eq]
    refine ⟨_, rfl, rfl, rfl, fun _ hsound => ?_, ?_⟩
    · refine ⟨?_, ?_, ?_⟩
      · rintro rfl
        rw [eccRead_clean hsound]
        exact ⟨rfl, rfl, rfl⟩
      · rintro a rfl
        rw [eccRead_corrected hsound, eccCorrected_frame]
        exact ⟨rfl, rfl, bitOf_stick_self .., rfl⟩
      · rintro a rfl
        obtain ⟨hframe, hevents⟩ := eccUncorrectable_frame a s
        rw [eccRead_uncorrectable hsound]
        refine ⟨?_, ?_, ?_, ?_, hevents⟩ <;> rw [hframe]
        · exact bitOf_stick_self ..
        · exact mem_poison ..
    · rw [eccRead_frame]
  · rw [exec_scrubStep, if_neg]
    rcases hidle with ⟨h15, h16⟩ | hdeferred
    · simp [h15, h16]
    · simp [hdeferred]
  · exact writeCommand_ok hserved rfl

end Sys2Proof.Machine
end

section
/-!
PROOFS. The fetch and the end of a descriptor (09_cistern_dma R231, R234 to R238).

A sound descriptor writes its elements at its destination (`delivered`); every descriptor that can be written back then writes bytes 16 to
31 and moves its channel on (`endChannel`). `MemoryWritten` says what such writes keep, and `Descriptor.unwritten` what a write-back keeps
of the descriptor in memory.
-/
namespace Sys2Proof.Machine

variable {s t u : State}

/-! ### Little-endian numbers -/

theorem length_leBytes (n v : Nat) : (leBytes n v).length = n := by
  induction n generalizing v with
  | zero => rfl
  | succ n ih => rw [leBytes, List.length_cons, ih]

theorem leNat_leBytes (n v : Nat) : leNat (leBytes n v) = v % 256 ^ n := by
  induction n generalizing v with
  | zero => simp [leBytes, leNat, Nat.mod_one]
  | succ n ih => rw [leBytes, leNat, ih, Nat.pow_succ', BitVec.toNat_ofNat, Nat.mod_mul]

/-! ### Reads of HOST_SCRATCH -/

/-- The byte of HOST_SCRATCH at an address. -/
def scratchByte (a : Nat) (s : State) : Byte := cellGet (scratchDefault s) a s.cist.scratch

theorem scratchRead_eq_map (a n : Nat) (s : State) :
    scratchRead a n s = (List.range n).map (fun i => scratchByte (a + i) s) := by
  unfold scratchRead
  induction n generalizing a with
  | zero => rfl
  | succ n ih =>
    rw [cellsRead, ih, List.range_succ_eq_map, List.map_cons, List.map_map]
    simp [scratchByte, Function.comp_def, Nat.add_left_comm, Nat.add_comm]

@[simp] theorem length_scratchRead (a n : Nat) (s : State) : (scratchRead a n s).length = n := by simp [scratchRead_eq_map]

theorem scratchRead_congr {a n : Nat} (h : ∀ i < n, scratchByte (a + i) t = scratchByte (a + i) s) :
    scratchRead a n t = scratchRead a n s := by
  rw [scratchRead_eq_map, scratchRead_eq_map]
  exact List.map_congr_left fun i hi => h i (List.mem_range.1 hi)

/-- Reads see the bytes listed and what an unlisted byte reads, and nothing else of the state. -/
theorem scratchByte_of_memory (hscratch : t.cist.scratch = s.cist.scratch) (hfree : t.cist.scratchFree = s.cist.scratchFree) (a : Nat) :
    scratchByte a t = scratchByte a s := by
  have hdefault : scratchDefault t = scratchDefault s := by funext x; simp only [scratchDefault, hfree]
  rw [scratchByte, hdefault, hscratch, scratchByte]

theorem scratchRead_eq_of_bytes {a : Nat} {l : List Byte} (h : ∀ i < l.length, scratchByte (a + i) s = l.getD i 0) :
    scratchRead a l.length s = l := by
  refine List.ext_getElem (by simp) fun i _ hi => ?_
  simp [scratchRead_eq_map, h i hi, hi]

theorem scratchRead_add (a m n : Nat) (s : State) : scratchRead a (m + n) s = scratchRead a m s ++ scratchRead (a + m) n s := by
  simp [scratchRead_eq_map, List.range_add, Function.comp_def, Nat.add_assoc]

theorem slice_scratchRead {a off n len : Nat} (h : off + n ≤ len) : slice (scratchRead a len s) off n = scratchRead (a + off) n s := by
  obtain ⟨k, rfl⟩ := Nat.exists_eq_add_of_le h
  rw [Nat.add_assoc, scratchRead_add, scratchRead_add]
  simp [slice]

/-! ### Writes of HOST_SCRATCH -/

/-- `t` is `s` after writes of bytes of HOST_SCRATCH: they change its bytes, the poisoned blocks and the occupancy of HOST_SCRATCH. -/
structure MemoryWritten (s t : State) : Prop where
  frame : t = { s with cist := { s.cist with
    scratch := t.cist.scratch, poisoned := t.cist.poisoned, highWater := t.cist.highWater } }
  occupancy : ∀ r, r ≠ rScratch → t.cist.highWater.getD r 0 = s.cist.highWater.getD r 0
  canonical : Memory.wf (scratchDefault s) s.cist.scratch = true → Memory.wf (scratchDefault t) t.cist.scratch = true

theorem MemoryWritten.refl (s : State) : MemoryWritten s s := ⟨rfl, fun _ _ => rfl, id⟩

theorem MemoryWritten.trans (h : MemoryWritten s t) (h' : MemoryWritten t u) : MemoryWritten s u where
  frame := by rw [h'.frame, h.frame]
  occupancy r hr := (h'.occupancy r hr).trans (h.occupancy r hr)
  canonical := h'.canonical ∘ h.canonical

theorem memoryWritten_scratchWriteAt (a : Nat) (l : List Byte) (s : State) : MemoryWritten s (scratchWriteAt a l s) where
  frame := rfl
  occupancy _ hr := modifyAt_getD_ne _ _ _ _ _ hr
  canonical := wf_cellsWrite _ a l _

theorem scratchByte_scratchWriteAt_ne {a x : Nat} {l : List Byte} (h : x < a ∨ a + l.length ≤ x) (s : State) :
    scratchByte x (scratchWriteAt a l s) = scratchByte x s := cellGet_write_ne _ a x l _ h

theorem scratchRead_scratchWriteAt_self (a : Nat) (l : List Byte) (h : Memory.wf (scratchDefault s) s.cist.scratch = true) :
    scratchRead a l.length (scratchWriteAt a l s) = l :=
  scratchRead_eq_of_bytes fun i hi => cellGet_write_self _ a i l _ h hi

/-! ### The destination of a descriptor (R236) -/

/-- The bytes of a transfer written at the destination, and the blocks that they cover no longer poisoned. -/
def delivered (d : Descriptor) (l : List Byte) (s : State) : State := coverDest d l.length (writeDest d 0 l s)

theorem memoryWritten_writeDest (d : Descriptor) (l : List Byte) (j : Nat) (s : State) : MemoryWritten s (writeDest d j l s) := by
  induction l generalizing j s with
  | nil => exact .refl s
  | cons b l ih => exact (memoryWritten_scratchWriteAt ..).trans (ih ..)

theorem scratchByte_writeDest_ne {d : Descriptor} {l : List Byte} {j x : Nat}
    (h : ∀ i < l.length, x ≠ dmaAddress d.dstAddr d.dstWrap d.dstInc (j + i)) (s : State) :
    scratchByte x (writeDest d j l s) = scratchByte x s := by
  induction l generalizing j s with
  | nil => rfl
  | cons b l ih =>
    have hfirst : x ≠ dmaAddress d.dstAddr d.dstWrap d.dstInc j := h 0 (Nat.succ_pos _)
    rw [writeDest, ih fun i hi => by rw [Nat.add_right_comm]; exact h (i + 1) (Nat.succ_lt_succ hi)]
    exact scratchByte_scratchWriteAt_ne (by rw [List.length_singleton]; omega) s

/-- Without a wrap the bytes of a transfer lie one after another. -/
theorem scratch_writeDest_run {d : Descriptor} (hinc : d.dstInc = true) (hwrap : d.dstWrap = 0) (l : List Byte) (j : Nat) (s : State) :
    (writeDest d j l s).cist.scratch = cellsWrite (scratchDefault s) (d.dstAddr + j) l s.cist.scratch := by
  induction l generalizing j s with
  | nil => rfl
  | cons b l ih =>
    have haddress : dmaAddress d.dstAddr d.dstWrap d.dstInc j = d.dstAddr + j := by simp [dmaAddress, hinc, hwrap]
    rw [writeDest, ih, haddress]
    rfl

theorem memoryWritten_delivered (d : Descriptor) (l : List Byte) (s : State) : MemoryWritten s (delivered d l s) :=
  (memoryWritten_writeDest d l 0 s).trans ⟨rfl, fun _ _ => rfl, id⟩

theorem scratchByte_delivered_ne {d : Descriptor} {l : List Byte} {x : Nat}
    (h : ∀ j < l.length, x ≠ dmaAddress d.dstAddr d.dstWrap d.dstInc j) (s : State) :
    scratchByte x (delivered d l s) = scratchByte x s := scratchByte_writeDest_ne (j := 0) (by simpa using h) s

theorem chanOf_delivered (ch : Nat) (d : Descriptor) (l : List Byte) (s : State) : chanOf ch (delivered d l s) = chanOf ch s := by
  rw [(memoryWritten_delivered d l s).frame]
  rfl

theorem scratchRead_delivered_run {d : Descriptor} (hinc : d.dstInc = true) (hwrap : d.dstWrap = 0) (l : List Byte)
    (h : Memory.wf (scratchDefault s) s.cist.scratch = true) : scratchRead d.dstAddr l.length (delivered d l s) = l := by
  refine scratchRead_eq_of_bytes fun i hi => ?_
  have hdefault : scratchDefault (delivered d l s) = scratchDefault s := by rw [(memoryWritten_delivered d l s).frame]; rfl
  have hscratch : (delivered d l s).cist.scratch = cellsWrite (scratchDefault s) d.dstAddr l s.cist.scratch :=
    scratch_writeDest_run hinc hwrap l 0 s
  rw [scratchByte, hdefault, hscratch]
  exact cellGet_write_self _ _ i l _ h hi

/-! ### The move of a sound descriptor (R236) -/

/-- The bytes that a descriptor without a bus error delivers. -/
def elementsMoved (d : Descriptor) (s : State) : List Byte :=
  packElements d.dstBits ((sourceElements d d.count s).map (convertElement d.srcBits d.dstBits))

theorem Descriptor.dstBits_pos (d : Descriptor) : 0 < d.dstBits := by
  unfold Descriptor.dstBits elementBits
  split <;> decide

theorem le_eight_mul_spanOf (w n : Nat) : n * w ≤ 8 * spanOf w n := by
  rw [spanOf, ceilDiv, if_neg (by decide)]
  omega

/-- The bytes that `n` elements span hold them whole. -/
theorem le_wholeElements_spanOf {w : Nat} (hw : 0 < w) (n : Nat) : n ≤ wholeElements w (spanOf w n) :=
  (Nat.le_div_iff_mul_le hw).2 (le_eight_mul_spanOf w n)

theorem le_ceilDiv_spanOf {w : Nat} (hw : 0 < w) (n : Nat) : n ≤ ceilDiv (8 * spanOf w n) w := by
  have hspan := le_eight_mul_spanOf w n
  rw [ceilDiv, if_neg (by omega), Nat.le_div_iff_mul_le hw]
  omega

theorem length_elementsMoved (d : Descriptor) (s : State) : (elementsMoved d s).length = spanOf d.dstBits d.count := by
  have hsource : (sourceElements d d.count s).length = d.count := by
    unfold sourceElements
    split <;> simp
  rw [elementsMoved, packElements, length_leBytes, List.length_map, hsource, spanOf, Nat.mul_comm]

theorem moveData_sound {d : Descriptor} (hsource : sourceFault d .clean (spanOf d.srcBits d.count) s = none)
    (hport : d.dstAddr ≠ uploadPort) (hdest : destFault d (spanOf d.dstBits d.count) s = none) :
    moveData d .clean (spanOf d.dstBits d.count) s = (d.count, none, delivered d (elementsMoved d s) s) := by
  have hcount : min d.count (ceilDiv (8 * spanOf d.dstBits d.count) d.dstBits) = d.count :=
    Nat.min_eq_left (le_ceilDiv_spanOf d.dstBits_pos _)
  have hwhole : min d.count (wholeElements d.dstBits (spanOf d.dstBits d.count)) = d.count :=
    Nat.min_eq_left (le_wholeElements_spanOf d.dstBits_pos _)
  have herror : firstError d .clean d.count s = (d.count, none) := by simp [firstError, hsource, hdest]
  have hbytes : (elementsMoved d s).take (spanOf d.dstBits d.count) = elementsMoved d s :=
    List.take_of_length_le (Nat.le_of_eq (length_elementsMoved d s))
  simp only [elementsMoved] at hbytes
  simp [moveData, hcount, herror, hwhole, hport, hbytes, countEcc, delivered, elementsMoved]

/-! ### The write-back (R235) -/

/-- What a write-back keeps of the words that it writes: COUNT, and Q3 but for RESULT and OWN. -/
def Descriptor.unwritten (d : Descriptor) : Nat × Nat × Nat := (d.count, bits d.q3 55 0, bits d.q3 62 59)

theorem backBytes_congr {x y : Descriptor} (h : x.unwritten = y.unwritten) (done result : Nat) (own : Bool) :
    backBytes x done result own = backBytes y done result own := by
  simp only [Descriptor.unwritten, Prod.mk.injEq] at h
  obtain ⟨hcount, hlow, hhigh⟩ := h
  simp only [backBytes, hcount, hlow, hhigh]

theorem last_of_unwritten {x y : Descriptor} (h : x.unwritten = y.unwritten) : x.last = y.last := by
  simp only [Descriptor.unwritten, bits, Prod.mk.injEq] at h
  simp only [Descriptor.last, bitOf, decide_eq_decide]
  omega

theorem nextAddr_of_unwritten {x y : Descriptor} (h : x.unwritten = y.unwritten) : x.nextAddr = y.nextAddr := by
  simp only [Descriptor.unwritten, bits, Prod.mk.injEq] at h
  simp only [Descriptor.nextAddr, bits]
  omega

theorem length_backBytes (d : Descriptor) (done result : Nat) (own : Bool) : (backBytes d done result own).length = 16 := by
  simp [backBytes, length_leBytes]

/-- Q2 and Q3 of a descriptor in memory are its bytes 16 to 31. -/
theorem heldDescriptor_words {a : Nat} {x y : List Byte} (h : scratchRead (a + 16) 16 s = x ++ y) (hx : x.length = 8) :
    (heldDescriptor a s).q2 = leNat x ∧ (heldDescriptor a s).q3 = leNat y := by
  obtain ⟨hq2, hq3⟩ : scratchRead (a + 16) 8 s = x ∧ scratchRead (a + 24) 8 s = y :=
    List.append_inj ((scratchRead_add (a + 16) 8 8 s).symm.trans h) (by simp [hx])
  rw [← hq2, ← hq3, ← slice_scratchRead (len := 32) (by decide), ← slice_scratchRead (len := 32) (by decide)]
  exact ⟨rfl, rfl⟩

theorem unwritten_heldDescriptor_congr {a : Nat} (h : scratchRead (a + 16) 16 t = scratchRead (a + 16) 16 s) :
    (heldDescriptor a t).unwritten = (heldDescriptor a s).unwritten := by
  have hsplit := scratchRead_add (a + 16) 8 8 s
  obtain ⟨hq2, hq3⟩ := heldDescriptor_words hsplit (length_scratchRead ..)
  obtain ⟨hq2', hq3'⟩ := heldDescriptor_words (h.trans hsplit) (length_scratchRead ..)
  simp only [Descriptor.unwritten, Descriptor.count, hq2, hq3, hq2', hq3']

/-- A descriptor just written back is the one it was but for DONE, RESULT and OWN. -/
theorem unwritten_heldDescriptor_of_back {a done result : Nat} {d : Descriptor} {own : Bool} (hresult : result < 8)
    (h : scratchRead (a + 16) 16 s = backBytes d done result own) : (heldDescriptor a s).unwritten = d.unwritten := by
  obtain ⟨hq2, hq3⟩ := heldDescriptor_words h (length_leBytes ..)
  rw [leNat_leBytes] at hq2 hq3
  have hown : b2n own ≤ 1 := by cases own <;> decide
  simp only [Descriptor.unwritten, Descriptor.count, hq2, hq3, bits, Prod.mk.injEq]
  omega

/-! ### The channels -/

theorem lt_channels_length_of_shaped (h : Shaped s = true) (ch : Fin 32) : ch.val < s.cist.channels.length := by
  simp only [Shaped, Bool.and_eq_true, decide_eq_true_eq] at h
  omega

theorem modChan_modChan (ch : Nat) (f g : DmaChan → DmaChan) (s : State) :
    modChan ch g (modChan ch f s) = modChan ch (fun c => g (f c)) s := by
  simp only [modChan, modifyAt_modifyAt]

theorem modifyAt_id {α : Type} (i : Nat) (l : List α) : modifyAt id i l = l := by
  induction l generalizing i with
  | nil => cases i <;> rfl
  | cons x l ih => cases i <;> simp [modifyAt, ih]

theorem modChan_ite (p : Prop) [Decidable p] (ch : Nat) (f g : DmaChan → DmaChan) (s : State) :
    (if p then modChan ch f s else modChan ch g s) = modChan ch (fun c => if p then f c else g c) s := by
  split <;> rfl

/-- An update of a channel under a condition is a conditional update of it. -/
theorem modChan_ite_self (p : Prop) [Decidable p] (ch : Nat) (f : DmaChan → DmaChan) (s : State) :
    (if p then modChan ch f s else s) = modChan ch (fun c => if p then f c else c) s := by
  have hsame : modChan ch id s = s := by simp only [modChan, modifyAt_id]
  exact (congrArg (fun t => if p then modChan ch f s else t) hsame.symm).trans (modChan_ite p ch f id s)

/-- How a channel goes on after a descriptor that memory holds as `held` at its end (R235, R238). -/
def endChannel (d held : Descriptor) (result : Nat) (c : DmaChan) : DmaChan :=
  let c := if result = resultDone then { c with doneCount := c.doneCount + 1 } else c
  let c := if d.notify then { c with notices := c.notices + 1 } else c
  if result = resultBadDescriptor && d.badNext then { c with state := .stopped, desc := none }
  else if held.last then { c with state := .idle, desc := none }
  else { c with desc := none, current := held.nextAddr, fetching := true }

theorem modChan_withMbox (ch : Nat) (f : DmaChan → DmaChan) (s : State) (mbox : Mailbox) :
    modChan ch f { s with mbox := mbox } = { modChan ch f s with mbox := mbox } := rfl

/-- A notice counts in its channel and goes into the ring of the MP. -/
theorem sendNotice_ite (p : Prop) [Decidable p] (ch result done a : Nat) (s : State) :
    ∃ mbox, (if p then sendNotice ch result done a s else s) =
      { modChan ch (fun c => if p then { c with notices := c.notices + 1 } else c) s with mbox := mbox } := by
  rw [← modChan_ite_self]
  split
  · exact ⟨_, mpMessage_frame ..⟩
  · exact ⟨_, rfl⟩

/-- A descriptor that can be written back ends with its write-back, its channel gone on, and its notice in the ring of the MP. -/
theorem endDescriptor_eq {ch : Nat} (d : Descriptor) (done result : Nat)
    (hin : inScratch ((chanOf ch s).current + 16) 16 s = true) (hon : cisternOn (chanOf ch s).current s = true) :
    let held := heldDescriptor (chanOf ch s).current s
    ∃ mbox, endDescriptor ch d done result s = { modChan ch (endChannel d held result)
      (scratchWriteAt ((chanOf ch s).current + 16) (backBytes held done result false) s) with mbox := mbox } := by
  intro held
  simp only [endDescriptor, hin, hon, Bool.not_true, Bool.false_eq_true, if_false, modChan_ite_self]
  obtain ⟨mbox, hnotice⟩ := sendNotice_ite (d.notify = true) ch result done (chanOf ch s).current
    (modChan ch (fun c => if result = resultDone then { c with doneCount := c.doneCount + 1 } else c)
      (scratchWriteAt ((chanOf ch s).current + 16) (backBytes held done result false) s))
  refine ⟨mbox, ?_⟩
  rw [hnotice]
  simp only [modChan_ite]
  rw [modChan_withMbox, modChan_modChan, modChan_modChan]
  rfl

/-- `t` is `s` after the end of a descriptor at `a`, held there as `held`: its write-back, its channel and its notice. -/
structure Ended (ch a : Nat) (d held : Descriptor) (done result : Nat) (s t : State) : Prop where
  back : scratchRead (a + 16) 16 t = backBytes held done result false
  channel : chanOf ch t = endChannel d held result (chanOf ch s)
  others : ∀ j, j ≠ ch → chanOf j t = chanOf j s
  bytes : ∀ x, x < a + 16 ∨ a + 32 ≤ x → scratchByte x t = scratchByte x s
  occupancy : ∀ r, r ≠ rScratch → t.cist.highWater.getD r 0 = s.cist.highWater.getD r 0
  frame : t = { s with
    cist := { s.cist with
      channels := t.cist.channels, scratch := t.cist.scratch, poisoned := t.cist.poisoned, highWater := t.cist.highWater }
    mbox := t.mbox }

theorem ended_of_written {ch a done result : Nat} {d held : Descriptor} {mbox : Mailbox} (hch : ch < s.cist.channels.length)
    (hwritten : MemoryWritten s t) (hback : scratchRead (a + 16) 16 t = backBytes held done result false)
    (hbytes : ∀ x, x < a + 16 ∨ a + 32 ≤ x → scratchByte x t = scratchByte x s) :
    Ended ch a d held done result s { modChan ch (endChannel d held result) t with mbox := mbox } := by
  have hchannels : t.cist.channels = s.cist.channels := by rw [hwritten.frame]
  have hchan (j : Nat) : chanOf j t = chanOf j s := by rw [chanOf, hchannels, chanOf]
  constructor
  · exact (scratchRead_congr fun i _ => scratchByte_of_memory rfl rfl _).trans hback
  · exact (chanOf_modChan_self t ch _ (hchannels ▸ hch)).trans (congrArg _ (hchan ch))
  · exact fun j hj => (chanOf_modChan_ne t ch j _ hj).trans (hchan j)
  · exact fun x hx => (scratchByte_of_memory rfl rfl x).trans (hbytes x hx)
  · exact hwritten.occupancy
  · rw [hwritten.frame]
    rfl

theorem ended_endDescriptor {ch a : Nat} (d : Descriptor) (done result : Nat) (ha : (chanOf ch s).current = a)
    (hch : ch < s.cist.channels.length) (hin : inScratch (a + 16) 16 s = true) (hon : cisternOn a s = true)
    (hwf : Memory.wf (scratchDefault s) s.cist.scratch = true) :
    Ended ch a d (heldDescriptor a s) done result s (endDescriptor ch d done result s) := by
  subst ha
  obtain ⟨mbox, hend⟩ := endDescriptor_eq d done result hin hon
  have hlength := length_backBytes (heldDescriptor (chanOf ch s).current s) done result false
  have hback := scratchRead_scratchWriteAt_self ((chanOf ch s).current + 16)
    (backBytes (heldDescriptor (chanOf ch s).current s) done result false) hwf
  rw [hlength] at hback
  rw [hend]
  exact ended_of_written hch (memoryWritten_scratchWriteAt ..) hback fun x hx =>
    scratchByte_scratchWriteAt_ne (hlength ▸ hx) s

theorem Ended.unwritten {ch a done result : Nat} {d held : Descriptor} (h : Ended ch a d held done result s t) (hresult : result < 8) :
    (heldDescriptor a t).unwritten = held.unwritten := unwritten_heldDescriptor_of_back hresult h.back

theorem endChannel_done {c : DmaChan} (hstate : c.state = .running) (d held : Descriptor) :
    endChannel d held resultDone c = { c with
      state := if held.last then .idle else .running, desc := none, doneCount := c.doneCount + 1
      current := if held.last then c.current else held.nextAddr, fetching := c.fetching || !held.last
      notices := if d.notify then c.notices + 1 else c.notices } := by
  have hdone : ¬ (resultDone = resultBadDescriptor && d.badNext) = true := by simp [resultDone, resultBadDescriptor]
  simp only [endChannel, if_pos, if_neg hdone]
  cases hnotify : d.notify
  · cases held.last <;> simp [hstate]
  · cases held.last <;> simp [hstate]

/-- A bad descriptor does not count as done, and one bad by its NEXT_ADDR stops the channel. -/
theorem endChannel_bad (d held : Descriptor) (c : DmaChan) :
    let c' := endChannel d held resultBadDescriptor c
    c'.badCount = c.badCount ∧ c'.doneCount = c.doneCount ∧ (d.badNext = true → c'.state = .stopped) := by
  have hbad : ¬ resultBadDescriptor = resultDone := by decide
  simp only [endChannel, if_neg hbad, apply_ite DmaChan.badCount, apply_ite DmaChan.doneCount, apply_ite DmaChan.state, ite_self,
    true_and]
  exact fun hnext => if_pos (by simp [hnext])

/-! ### Bad descriptors and errors of the fetch (R237) -/

/-- A bad descriptor counts in its channel and sets its bit of DMA_STATUS. -/
theorem noteBad_frame (ch err : Nat) (s : State) : noteBad ch err s = { s with
    cist := { s.cist with
      channels := modifyAt (fun c => { c with badCount := c.badCount + 1, lastError := err }) ch s.cist.channels
      dmaStatus := stick ch s.cist.dmaStatus }
    ecat := (noteBad ch err s).ecat, ev := (noteBad ch err s).ev, mbox := (noteBad ch err s).mbox } := by
  unfold noteBad logOnce
  simp only
  split
  · rfl
  · rw [logEvent_frame]
    rfl

theorem chanOf_noteBad_self {ch : Nat} (hch : ch < s.cist.channels.length) (err : Nat) :
    chanOf ch (noteBad ch err s) = { chanOf ch s with badCount := (chanOf ch s).badCount + 1, lastError := err } := by
  rw [noteBad_frame]
  exact chanOf_modChan_self s _ _ hch

theorem chanOf_noteBad_ne {ch j : Nat} (h : j ≠ ch) (err : Nat) (s : State) : chanOf j (noteBad ch err s) = chanOf j s := by
  rw [noteBad_frame]
  exact chanOf_modChan_ne s _ _ _ h

theorem scratchByte_noteBad (ch err a : Nat) (s : State) : scratchByte a (noteBad ch err s) = scratchByte a s :=
  scratchByte_of_memory (by rw [noteBad_frame]) (by rw [noteBad_frame]) a

/-- An error of a fetch or a write-back stops the channel, sets its bit of DMA_STATUS and logs one event. -/
theorem fetchError_frame (ch a cause : Nat) (s : State) :
    fetchError ch a cause s = { s with
      cist := { s.cist with
        channels := modifyAt (fun c => { c with
          state := .stopped, fetching := false, desc := none, lastError := busError a 2 cause }) ch s.cist.channels
        dmaStatus := stick ch s.cist.dmaStatus }
      ecat := (fetchError ch a cause s).ecat, ev := (fetchError ch a cause s).ev, mbox := (fetchError ch a cause s).mbox } ∧
    eventCount (fetchError ch a cause s) = eventCount s + 1 := by
  unfold fetchError
  simp only
  exact ⟨logEvent_frame .., eventCount_logEvent ..⟩

/-! ### DESCRIPTOR_FETCH (R234) -/

theorem exec_descriptorFetch (ch : Fin 32) (e : Ecc) (s : State) : exec (.descriptorFetch ch e) s =
    .next (if (chanOf ch s).fetching then fetchDescriptor ch e s else s) := rfl

theorem fetchDescriptor_sound {ch : Nat} (hin : inScratch (chanOf ch s).current 32 s = true)
    (hon : cisternOn (chanOf ch s).current s = true) (hsound : poisonedIn (chanOf ch s).current 32 s = []) :
    let d := Descriptor.ofBytes (scratchRead (chanOf ch s).current 32 s)
    fetchDescriptor ch .clean s = modChan ch (fun c => { c with
      fetching := false, state := if d.own then .running else .waiting, desc := if d.own then some d else none }) s := by
  simp [fetchDescriptor, hin, hon, eccRead_clean hsound]

theorem fetchDescriptor_outside {ch : Nat} (h : inScratch (chanOf ch s).current 32 s = false) (e : Ecc) :
    fetchDescriptor ch e s = fetchError ch (chanOf ch s).current 0 s := by
  simp [fetchDescriptor, h]

/-! ### DESCRIPTOR_DONE (R235) -/

theorem exec_descriptorDone (ch : Fin 32) (e : Ecc) (s : State) : exec (.descriptorDone ch e) s = execDescriptorDone ch e s := rfl

theorem exec_descriptorDone_running {ch : Fin 32} {d : Descriptor} (hstate : (chanOf ch s).state = .running)
    (hdesc : (chanOf ch s).desc = some d) (e : Ecc) : exec (.descriptorDone ch e) s = .next (finishDescriptor ch d e s) := by
  rw [exec_descriptorDone]
  simp only [execDescriptorDone, hstate, hdesc]

theorem exec_descriptorDone_idle {ch : Fin 32} (h : (chanOf ch s).state ≠ .running ∨ (chanOf ch s).desc = none) (e : Ecc) :
    exec (.descriptorDone ch e) s = .next s := by
  rw [exec_descriptorDone, execDescriptorDone]
  split
  next hstate hdesc => simp [hstate, hdesc] at h
  next => rfl

theorem finishDescriptor_bad {ch : Nat} {d : Descriptor} (h : d.bad = true) (e : Ecc) (s : State) :
    finishDescriptor ch d e s = endDescriptor ch d 0 resultBadDescriptor (noteBad ch (chanOf ch s).lastError s) := by
  simp [finishDescriptor, h]

theorem finishDescriptor_sound {ch : Nat} {d : Descriptor} (h : d.bad = false)
    (hsource : sourceFault d .clean (spanOf d.srcBits d.count) s = none) (hport : d.dstAddr ≠ uploadPort)
    (hdest : destFault d (spanOf d.dstBits d.count) s = none) :
    finishDescriptor ch d .clean s = endDescriptor ch d d.count resultDone (delivered d (elementsMoved d s) s) := by
  simp [finishDescriptor, h, moveData_sound hsource hport hdest]

section
variable {ch a : Nat} {d : Descriptor} (ha : (chanOf ch s).current = a) (hch : ch < s.cist.channels.length)
  (hin : inScratch (a + 16) 16 s = true) (hon : cisternOn a s = true) (hwf : Memory.wf (scratchDefault s) s.cist.scratch = true)
include ha hch hin hon hwf

/-- A sound descriptor ends with its count and RESULT DONE, once its elements are delivered. -/
theorem ended_sound (hgood : d.bad = false) (hsource : sourceFault d .clean (spanOf d.srcBits d.count) s = none)
    (hport : d.dstAddr ≠ uploadPort) (hdest : destFault d (spanOf d.dstBits d.count) s = none) :
    let v := delivered d (elementsMoved d s) s
    Ended ch a d (heldDescriptor a v) d.count resultDone v (finishDescriptor ch d .clean s) := by
  intro v
  have hmoved : MemoryWritten s v := memoryWritten_delivered ..
  rw [finishDescriptor_sound hgood hsource hport hdest]
  exact ended_endDescriptor d d.count resultDone ((congrArg DmaChan.current (chanOf_delivered ..)).trans ha)
    (by rw [hmoved.frame]; exact hch) (by rw [hmoved.frame]; exact hin) (by rw [hmoved.frame]; exact hon) (hmoved.canonical hwf)

/-- A bad descriptor ends with DONE 0 and RESULT BAD_DESCRIPTOR, once it is noted. -/
theorem ended_bad (hbad : d.bad = true) (e : Ecc) :
    let u := noteBad ch (chanOf ch s).lastError s
    Ended ch a d (heldDescriptor a u) 0 resultBadDescriptor u (finishDescriptor ch d e s) := by
  intro u
  have hnoted : u = _ := noteBad_frame ..
  rw [finishDescriptor_bad hbad]
  exact ended_endDescriptor d 0 resultBadDescriptor ((congrArg DmaChan.current (chanOf_noteBad_self hch _)).trans ha)
    (by rw [hnoted]; simpa using hch) (by rw [hnoted]; exact hin) (by rw [hnoted]; exact hon) (by rw [hnoted]; exact hwf)

end

/-- Settles O28: a fetch gives the descriptor or an error (`fetchDescriptor_sound`, `fetchError_frame`); a sound descriptor ends once its
elements are delivered (`ended_sound`, `memoryWritten_delivered`), and a bad one once it is noted (`ended_bad`, `noteBad_frame`). -/
theorem descriptorsAreFetchedAndMoved : Obligations.DescriptorsAreFetchedAndMoved := by
  unfold Obligations.DescriptorsAreFetchedAndMoved
  refine ⟨fun ch e s hidle => ?_, fun ch s hshaped hfetching => ?_, fun ch e s hidle => exec_descriptorDone_idle hidle e,
    fun ch d s hshaped hstate hdesc hin hon hwf => ?_⟩
  · rw [exec_descriptorFetch, hidle]
    rfl
  · have hch := lt_channels_length_of_shaped hshaped ch
    rw [exec_descriptorFetch, hfetching, if_pos rfl]
    refine ⟨fun hin hon hsound => ?_, fun hout => ?_⟩
    · rw [fetchDescriptor_sound hin hon hsound]
      exact ⟨_, rfl, chanOf_modChan_self _ _ _ hch, fun j hj => chanOf_modChan_ne _ _ _ _ hj, rfl⟩
    · obtain ⟨hframe, hevents⟩ := fetchError_frame ch (chanOf ch s).current 0 s
      rw [fetchDescriptor_outside hout]
      refine ⟨_, rfl, ?_, ?_, hevents, fun j hj => ?_, ?_⟩ <;> rw [hframe]
      · exact chanOf_modChan_self _ _ _ hch
      · exact bitOf_stick_self ..
      · exact chanOf_modChan_ne _ _ _ _ hj
  · have hch := lt_channels_length_of_shaped hshaped ch
    refine ⟨fun hgood hsource hport hdest => ?_, fun hbad => ?_⟩
    · have hmoved := memoryWritten_delivered d (elementsMoved d s) s
      have hend := ended_sound rfl hch hin hon hwf hgood hsource hport hdest
      have hheld := hend.unwritten (by decide)
      refine ⟨_, exec_descriptorDone_running hstate hdesc _, hend.back.trans (backBytes_congr hheld.symm ..), fun havoids => ?_, ?_,
        fun j hj => (hend.others j hj).trans (chanOf_delivered ..), fun hinc hwrap happart => ?_,
        fun x hx hmiss => (hend.bytes x hx).trans (scratchByte_delivered_ne hmiss s),
        fun r hr => (hend.occupancy r hr).trans (hmoved.occupancy r hr), by rw [hend.frame, hmoved.frame]⟩
      · refine backBytes_congr (hheld.trans (unwritten_heldDescriptor_congr (scratchRead_congr fun i hi => ?_))) ..
        exact scratchByte_delivered_ne (fun j hj heq => by have := havoids j hj; omega) s
      · rw [hend.channel, chanOf_delivered, endChannel_done hstate, last_of_unwritten hheld, nextAddr_of_unwritten hheld]
      · refine (scratchRead_congr fun i (hi : i < (elementsMoved d s).length) => hend.bytes _ ?_).trans
          (scratchRead_delivered_run hinc hwrap (elementsMoved d s) hwf)
        exact happart.imp (Nat.lt_of_lt_of_le (Nat.add_lt_add_left hi _)) (fun h => Nat.le_trans h (Nat.le_add_right ..))
    · have hnoted := noteBad_frame ch (chanOf ch s).lastError s
      have hself := chanOf_noteBad_self hch (chanOf ch s).lastError
      have hend := ended_bad rfl hch hin hon hwf hbad .clean
      obtain ⟨hbadCount, hdoneCount, hstopped⟩ := endChannel_bad d
        (heldDescriptor (chanOf ch s).current (noteBad ch (chanOf ch s).lastError s)) (chanOf ch (noteBad ch (chanOf ch s).lastError s))
      refine ⟨_, exec_descriptorDone_running hstate hdesc _, ?_, ?_, ?_, ?_, fun hnext => ?_,
        fun j hj => (hend.others j hj).trans (chanOf_noteBad_ne hj ..), fun x hx => (hend.bytes x hx).trans (scratchByte_noteBad ..),
        fun r hr => (hend.occupancy r hr).trans (by rw [hnoted]), by rw [hend.frame, hnoted]⟩
      · exact hend.back.trans (backBytes_congr (unwritten_heldDescriptor_congr (scratchRead_congr fun i _ => scratchByte_noteBad ..)) ..)
      · rw [hend.channel, hbadCount, hself]
      · rw [hend.channel, hdoneCount, hself]
      · rw [hend.frame, hnoted]
        exact bitOf_stick_self ..
      · rw [hend.channel, hstopped hnext]

end Sys2Proof.Machine
end

section
/-!
PROOFS. The lanes of the host stream (10_host_stream R245, R246): what a read of a lane gives after a frame heard, dropped or sent, and
when a packet is served.
-/
namespace Sys2Proof.Machine

variable {s : State} {n : Nat}

theorem lanes_length_of_shaped (h : Shaped s = true) : s.host.lanes.length = 16 := by
  simp only [Shaped, Bool.and_eq_true, decide_eq_true_eq] at h
  omega

theorem lt_lanes_length_of_shaped (h : Shaped s = true) (n : Fin 16) : n.val < s.host.lanes.length := by
  rw [lanes_length_of_shaped h]
  exact n.isLt

/-! ### Frames that start on a lane (R246) -/

/-- A frame starts at once, or waits for the end of the pause of its lane. -/
theorem emitFrame_eq (n : Nat) (x : Sent) (s : State) : emitFrame n x s =
    if (laneOf n s).pausedUntil = none then { s with host := { s.host with out := x :: s.host.out } }
    else modLane n (fun l => { l with delayed := l.delayed ++ [x] }) s := by
  split
  next h => exact emitFrame_sent s n x h
  next h => exact emitFrame_delayed s n x h

/-! ### Packets of the session (R245, R254) -/

theorem laneOf_heard_self {f : Frame} (h : f.lane.val < s.host.lanes.length) :
    laneOf f.lane.val (heard f s) = { laneOf f.lane.val s with host := some (frameSource f) } := laneOf_modLane_self _ _ _ h

theorem laneOf_heard_ne {f : Frame} (h : n ≠ f.lane.val) : laneOf n (heard f s) = laneOf n s := laneOf_modLane_ne _ _ _ _ h

section
variable {f : Frame} (hon : laneReceives f.lane.val s = true)
include hon

theorem sessionPacket_served (h : frameInSession f s = true) (g : State → State) : sessionPacket f g s = g (heard f s) := by
  simp [sessionPacket, hon, h]

theorem sessionPacket_dropped (h : frameInSession f s = false) (g : State → State) :
    sessionPacket f g s = dropFrame f.lane.val s := by
  simp [sessionPacket, hon, h]

end

end Sys2Proof.Machine
end

section
/-!
PROOFS. CREDIT, PAUSE, block lock, STATUS and the clear of the sticky bits (10_host_stream R246, R256, R257, R260, R278).
-/
namespace Sys2Proof.Machine

variable {s : State} {n : Nat}

/-! ### The rows -/

theorem exec_credit (f : Frame) (mask : BitVec 16) (limits : List (BitVec 64)) (s : State) :
    exec (.credit f mask limits) s = .next (sessionPacket f (takeCredit mask.toNat limits) s) := rfl

theorem exec_pauseFrame (n : Fin 16) (q : BitVec 16) (s : State) : exec (.pauseFrame n q) s = .next (takePause n.val q.toNat s) := rfl

theorem exec_pauseEnd (n : Fin 16) (s : State) : exec (.pauseEnd n) s = .next (endPause n.val s) := rfl

theorem exec_blockLockGained (n : Fin 16) (s : State) : exec (.blockLockGained n) s =
    .next (if laneOn n.val s && laneEnabled n.val s && s.pwr.pllLocked.getLsbD (5 + n.val / 8)
      then modLane n.val (fun l => { l with blockLock := true }) s else s) := rfl

theorem exec_laneDown (n : Fin 16) (s : State) : exec (.laneDown n) s = .next (loseLock n.val s) := rfl

theorem exec_statusSend (s : State) : exec .statusSend s =
    .next (if s.host.session ≠ 0 then sendPacket 0 0x07 0 0 0 0 (statusPayload s) s else s) := rfl

theorem exec_streamStatusClear (via : Path) (v : BitVec 16) (s : State) :
    exec (.streamStatusClear via v) s = writeCommand via (writeStreamStatusClear v.toNat) s := rfl

/-! ### CREDIT (R256) -/

theorem getD_of_lt {α : Type} {l : List α} {i : Nat} (h : i < l.length) (d : α) : l.getD i d = l[i] := by
  rw [List.getD_eq_getElem?_getD, List.getElem?_eq_getElem h, Option.getD_some]

/-- A credit raises the limits of the data lanes of its mask and lowers none. -/
theorem laneOf_takeCredit {mask : Nat} {limits : List (BitVec 64)} (hn : n < s.host.lanes.length) :
    laneOf n (takeCredit mask limits s) = { laneOf n s with
      creditLimit := if bitOf mask n = true ∧ bitOf s.host.dataLanes n = true
        then max (laneOf n s).creditLimit (limits.getD n 0).toNat else (laneOf n s).creditLimit } := by
  have hread : laneOf n s = s.host.lanes[n] := getD_of_lt hn _
  have hcredit : laneOf n (takeCredit mask limits s) =
      if (bitOf mask n && bitOf s.host.dataLanes n && decide ((laneOf n s).creditLimit < (limits.getD n 0).toNat)) = true
      then { laneOf n s with creditLimit := (limits.getD n 0).toNat } else laneOf n s := by
    rw [hread]
    simp only [takeCredit, laneOf]
    rw [getD_of_lt (by simpa using hn)]
    simp
  rw [hcredit]
  generalize (limits.getD n 0).toNat = v
  by_cases hmask : bitOf mask n = true ∧ bitOf s.host.dataLanes n = true
  · by_cases hless : (laneOf n s).creditLimit < v
    · simp [hmask, hless, Nat.max_eq_right (Nat.le_of_lt hless)]
    · simp [hmask, hless, Nat.max_eq_left (Nat.le_of_not_lt hless)]
  · rw [if_neg (by simp only [Bool.and_eq_true]; exact fun h => hmask h.1), if_neg hmask]

/-! ### PAUSE (R246) -/

/-- A lane after a PAUSE of `q` quanta at the local count `clk`: it counts, and on a lane that honours it begins or ends a pause. -/
def afterPause (honours : Bool) (q clk : Nat) (l : Lane) : Lane :=
  { l with
    pauseCount := l.pauseCount + 1
    pausedUntil := if honours = false then l.pausedUntil else if q = 0 then none else some (clk + ceilDiv (512 * q) 10)
    delayed := if honours = true ∧ q = 0 then [] else l.delayed }

theorem takePause_eq {q : Nat} (hon : laneReceives n s = true) (hn : n < s.host.lanes.length) : takePause n q s =
    { s with host := { s.host with
        lanes := modifyAt (afterPause (bitOf (val Obj.PAUSE_HONOUR s) n) q s.clk) n s.host.lanes
        out := if bitOf (val Obj.PAUSE_HONOUR s) n = true ∧ q = 0 then (laneOf n s).delayed.reverse ++ s.host.out
          else s.host.out } } := by
  have hval : val Obj.PAUSE_HONOUR (modLane n (fun l => { l with pauseCount := l.pauseCount + 1 }) s) = val Obj.PAUSE_HONOUR s := rfl
  simp only [takePause, hon, hval, if_true]
  cases bitOf (val Obj.PAUSE_HONOUR s) n with
  | false => rfl
  | true =>
    unfold afterPause
    by_cases hq : q = 0
    · simp only [endPause, laneOf_modLane_self _ _ _ hn]
      simp [hq, modLane, modifyAt_modifyAt]
    · simp [hq, modLane, modifyAt_modifyAt]

/-! ### Block lock (R257) -/

/-- Lost block lock logs one event where the lane had it and items wait there. -/
theorem loseLock_eq (n : Nat) (s : State) : loseLock n s =
    if (laneOf n s).blockLock = true ∧ laneWaits n s = true
    then logEvent ⟨0x0801, n, []⟩ (modLane n (fun l => { l with blockLock := false }) s)
    else modLane n (fun l => { l with blockLock := false }) s := by
  simp [loseLock]

theorem loseLock_frame (n : Nat) (s : State) : loseLock n s = { s with
    host := { s.host with lanes := modifyAt (fun l => { l with blockLock := false }) n s.host.lanes }
    ecat := (loseLock n s).ecat, ev := (loseLock n s).ev, mbox := (loseLock n s).mbox } := by
  rw [loseLock_eq]
  split
  · rw [logEvent_frame]; rfl
  · rfl

/-- Settles O30: each clause from the equation of its row (`takeCredit`, `takePause`, `endPause`, `loseLock`), by the reads of a lane after
an update of one. -/
theorem creditPauseAndLink : Obligations.CreditPauseAndLink := by
  unfold Obligations.CreditPauseAndLink
  refine ⟨fun f mask limits s hshaped hon => ⟨fun hsession => ?_, fun hsession => ?_⟩, fun n q s hshaped hon => ?_,
    fun n s hshaped => ?_, fun dest s hsession hdest => ?_, fun s hsession => ?_, fun via v s hserved => ?_⟩
  · have hlane := lt_lanes_length_of_shaped hshaped f.lane
    refine ⟨_, by rw [exec_credit, sessionPacket_served hon hsession], fun n hn => ?_, rfl⟩
    have hlen : n < (heard f s).host.lanes.length := by
      rw [heard, modLane_lanes_length, lanes_length_of_shaped hshaped]
      exact hn
    rw [laneOf_takeCredit hlen]
    by_cases hself : n = f.lane.val
    · subst hself
      rw [laneOf_heard_self hlane, if_pos rfl]
      rfl
    · rw [laneOf_heard_ne hself, if_neg hself]
      rfl
  · rw [exec_credit, sessionPacket_dropped hon hsession]
    rfl
  · have hlane := lt_lanes_length_of_shaped hshaped n
    have hzero : q.toNat = 0 ↔ q = 0 := by rw [← BitVec.toNat_inj]; rfl
    rw [exec_pauseFrame, takePause_eq hon hlane]
    refine ⟨_, rfl, ?_, fun j hj => modifyAt_getD_ne _ _ _ _ _ hj, by simp only [hzero]⟩
    refine (modifyAt_getD_self _ _ _ _ hlane).trans ?_
    simp only [afterPause, hzero]
    rfl
  · have hlane := lt_lanes_length_of_shaped hshaped n
    refine ⟨⟨_, exec_pauseEnd n s, laneOf_modLane_self _ _ _ hlane, fun j hj => laneOf_modLane_ne _ _ _ _ hj, rfl⟩,
      fun hpower henabled hpll => ⟨modLane n.val (fun l => { l with blockLock := true }) s, ?_, laneOf_modLane_self _ _ _ hlane,
        fun j hj => laneOf_modLane_ne _ _ _ _ hj, rfl⟩,
      ⟨_, exec_laneDown n s, ?_, fun j hj => ?_, ?_, ?_⟩⟩
    · rw [exec_blockLockGained, if_pos (by simp [hpower, henabled, hpll])]
    · rw [loseLock_frame]
      exact laneOf_modLane_self _ _ _ hlane
    · rw [loseLock_frame]
      exact laneOf_modLane_ne _ _ _ _ hj
    · rw [loseLock_eq]
      split
      · rw [eventCount_logEvent]; rfl
      · rfl
    · rw [loseLock_frame]
  · rw [exec_statusSend, if_pos hsession]
    refine ⟨packetTo 0 dest 7 0 s.host.session 0 0 0 (statusPayload s) s, ?_, rfl, rfl, rfl, rfl, rfl, rfl⟩
    simp only [sendPacket, hdest, sendTo, emitFrame_eq]
  · rw [exec_statusSend, if_neg (not_not_intro hsession)]
  · rw [exec_streamStatusClear]
    exact writeCommand_ok hserved rfl

end Sys2Proof.Machine
end

section
/-!
PROOFS. The end of a session while a line waits that the stream took as it was written to its slot (09_cistern_dma R223,
10_host_stream R254): the line is read from its slot after all, which the frame of SESSION_CLOSE leaves out.
-/
namespace Sys2Proof.Machine

theorem exec_sessionClose (f : Frame) (s : State) :
    exec (.sessionClose f) s = .next (sessionPacket f (fun s => sessionLost (clearSession s)) s) := rfl

/-- Without a transition the loss of the last session moves READY, INLINE and SHEET alone (01_architecture R31). -/
theorem sessionLost_atRest {s : State} (hmode : s.modes.mode ∉ [.ready, .inline, .sheet]) (htrans : s.modes.trans = none) :
    sessionLost s = s := by
  simp only [List.mem_cons, List.not_mem_nil, or_false, not_or] at hmode
  obtain ⟨hready, hinline, hsheet⟩ := hmode
  unfold sessionLost
  rw [htrans]
  cases h : s.modes.mode <;> simp_all

/-- A state in whose slots the stream has taken every line as it was written. -/
def linesTaken (s : State) : State :=
  { s with host := { s.host with slots := s.host.slots.map (fun l => { l with cut := true }) } }

/-- STANDBY with session 9 open and a line taken that still waits for its lane. -/
def takenInStandby : State := { linesTaken Tests.lineWaiting with modes := Tests.standby.modes }

theorem takenInStandby_closes : laneReceives (Tests.packet 0 9 0).lane takenInStandby = true ∧
    frameInSession (Tests.packet 0 9 0) takenInStandby = true ∧ takenInStandby.modes.mode ∉ [.ready, .inline, .sheet] ∧
    takenInStandby.modes.trans = none := by decide

/-- Refutes O29: the end of a session has the lines that the stream took as they were written read from their slots (`uncut`), where the
statement has the host's part change in the session, its lanes and the time it was heard alone. In STANDBY with such a line waiting
(`takenInStandby`) SESSION_CLOSE changes the slot. -/
theorem not_sessionsOpenAndEnd : ¬ Obligations.SessionsOpenAndEnd := by
  unfold Obligations.SessionsOpenAndEnd
  rintro ⟨-, hclose, -⟩
  obtain ⟨hon, hsession, hmode, htrans⟩ := takenInStandby_closes
  obtain ⟨t, ht, -, -, -, hframe⟩ := hclose (Tests.packet 0 9 0) takenInStandby hon hsession hmode htrans
  have hrow : exec (.sessionClose (Tests.packet 0 9 0)) takenInStandby =
      .next (clearSession (heard (Tests.packet 0 9 0) takenInStandby)) := by
    rw [exec_sessionClose, sessionPacket_served hon hsession]
    exact congrArg _ (sessionLost_atRest hmode htrans)
  rw [hrow, Host.Outcome.next.injEq] at ht
  have hleft : t.host.slots.map (·.cut) = [true] := by rw [hframe]; rfl
  have hread : t.host.slots.map (·.cut) = [false] := by rw [← ht]; rfl
  rw [hread] at hleft
  exact absurd hleft (by decide)

end Sys2Proof.Machine
end

section
/-!
PROOFS. The sending of a line that the stream took as it was written to its slot (09_cistern_dma R223, 10_host_stream R265): its bytes
are not read from the slot, so that no error of the memory can lose them.
-/
namespace Sys2Proof.Machine

theorem exec_itemSend (n : Fin 16) (e : Ecc) (s : State) : exec (.itemSend n e) s = .next (itemSendOn n.val e s) := rfl

/-- A line taken as it was written is sent without a read of its slot. -/
theorem readItem_cut {i : Item} {u : Nat} {l : LineSlot} {s : State} (hkind : i.kind = .line u) (hslot : slotOf u s = some l)
    (hcut : l.cut = true) (e : Ecc) : readItem i e s = (i, s) := by
  simp [readItem, hkind, hslot, hcut]

theorem emitFrame_cist (n : Nat) (x : Sent) (s : State) : (emitFrame n x s).cist = s.cist := by
  rw [emitFrame_frame]

theorem sendPacket_cist (lane typ flags itemBytes item offset : Nat) (payload : List Byte) (s : State) :
    (sendPacket lane typ flags itemBytes item offset payload s).cist = s.cist := by
  unfold sendPacket
  split
  · exact emitFrame_cist ..
  · rfl

theorem sendPieces_cist (lane typ item size mtu n off : Nat) (rest : List Byte) (s : State) :
    (sendPieces lane typ item size mtu n off rest s).cist = s.cist := by
  induction n generalizing off rest s with
  | zero => rfl
  | succ n ih =>
    simp only [sendPieces]
    split
    · exact sendPacket_cist ..
    · rw [ih, sendPacket_cist]

theorem sendItem_cist (lane : Nat) (i : Item) (s : State) : (sendItem lane i s).cist = s.cist := sendPieces_cist ..

/-- A line taken as it was written is sent with the memory as it was. -/
theorem itemSendOn_cut_cist {n u : Nat} {i : Item} {l : LineSlot} {s : State} (hnext : nextOnLane n s = some i)
    (hbegin : mayBegin n i s = true) (hkind : i.kind = .line u) (hslot : slotOf u s = some l) (hcut : l.cut = true) (e : Ecc) :
    (itemSendOn n e s).cist = s.cist := by
  simp only [itemSendOn, hnext, hbegin, if_true, readItem_cut hkind hslot hcut, hkind]
  exact sendItem_cist n i s

theorem slotOf_linesTaken_cut {u : Nat} {l : LineSlot} {s : State} (h : slotOf u (linesTaken s) = some l) : l.cut = true := by
  obtain ⟨l, -, rfl⟩ := List.mem_map.1 (List.mem_of_find?_eq_some h)
  rfl

/-- INLINE with a line taken that waits as item 0. -/
def takenInInline : State := linesTaken Tests.lineWaiting

theorem takenInInline_sends : Shaped takenInInline = true ∧ nextOnLane 0 takenInInline = some ⟨0, .line 0, 0⟩ ∧
    (slotOf 0 takenInInline).isSome = true ∧ takenInInline.cist.poisoned = [] := by decide

theorem takenInInline_mayBegin : mayBegin 0 ⟨0, .line 0, 0⟩ takenInInline = true ∧ 32 ≤ packetBytes takenInInline := by decide

/-- Refutes O31: a line that the stream took as it was written is not read from its slot, so that an uncorrectable error there does not
lose it, where the statement has a gap record go in its place and DRAM_DATA_LOST count. In INLINE with such a line waiting
(`takenInInline`) its sending leaves the memory and its counts as they were. -/
theorem not_itemsAreSent : ¬ Obligations.ItemsAreSent := by
  unfold Obligations.ItemsAreSent
  rintro ⟨-, -, -, hlost, -⟩
  obtain ⟨hshaped, hnext, hsome, hpoisoned⟩ := takenInInline_sends
  obtain ⟨hbegin, hroom⟩ := takenInInline_mayBegin
  obtain ⟨l, hslot⟩ := Option.isSome_iff_exists.1 hsome
  obtain ⟨t, p, ht, -, -, -, -, hcount⟩ := hlost 0 0 0 l _ takenInInline hshaped hnext hbegin rfl hslot hroom
    (by rw [poisonedIn, hpoisoned]; rfl)
  rw [exec_itemSend, Host.Outcome.next.injEq] at ht
  have hkept : t.cist = takenInInline.cist := by
    rw [← ht]
    exact itemSendOn_cut_cist hnext hbegin rfl hslot (slotOf_linesTaken_cut hslot) _
  rw [hkept] at hcount
  exact absurd hcount (Nat.succ_ne_self _).symm

end Sys2Proof.Machine
end

section
/-!
PROOFS. The Weir, the stop and the steps of a restart (10_host_stream R267, R268, R270 to R273).
-/
namespace Sys2Proof.Machine

variable {s : State}

/-! ### The rows -/

theorem exec_weirEvaluate (s : State) : exec .weirEvaluate s = .next (weirEvaluate s) := rfl

theorem exec_restartBegin (s : State) : exec .restartBegin s = .next (restartBegin s) := rfl

theorem exec_backupTargetReached (s : State) : exec .backupTargetReached s = .next (backupReached s) := rfl

theorem exec_restartDecision (s : State) : exec .restartDecision s = .next (inOneCycle restartDecision s) := rfl

theorem exec_restartAttemptFailed (s : State) : exec .restartAttemptFailed s = .next (attemptFailed s) := rfl

/-! ### The speed request (R267) -/

theorem restarting_of_idle (h : s.host.restart.phase = .none ∨ s.host.restart.phase = .formed) : restarting s = false := by
  rcases h with h | h <;> simp [restarting, h]

/-- Between stops the Weir stops at WEIR_HIGH, and requests the speed of its row of Table 10.6 below. -/
theorem weirEvaluate_running (hmode : s.modes.mode = .sheet) (hstopped : s.host.stopped = false)
    (hphase : s.host.restart.phase = .none ∨ s.host.restart.phase = .formed) : weirEvaluate s =
      if fillAtLeast (val Obj.WEIR_HIGH s) s then weirStop s
      else { s with host := { s.host with request := (fillRow s).2, weir := (fillRow s).1 } } := by
  have hidle := restarting_of_idle hphase
  rcases hphase with h | h <;> simp [weirEvaluate, hmode, hstopped, h, hidle]

theorem fillAtLeast_of_le {p : Nat} (h : p * slotsTotal s ≤ 100 * slotsHeld s) : fillAtLeast p s = true := decide_eq_true h

theorem fillAtLeast_of_lt {p : Nat} (h : 100 * slotsHeld s < p * slotsTotal s) : fillAtLeast p s = false :=
  decide_eq_false (Nat.not_le.2 h)

theorem fillRow_full (h : 100 * slotsHeld s ≤ val Obj.WEIR_LOW s * slotsTotal s) : fillRow s = (.fullSpeed, nominalSpeed s) :=
  if_pos (decide_eq_true h)

theorem fillRow_slowing (h : val Obj.WEIR_LOW s * slotsTotal s < 100 * slotsHeld s) : fillRow s = (.slowing,
    (nominalSpeed s).mul (Frac.one.sub ((Frac.one.sub (Frac.mk' (val Obj.WEIR_MIN_SPEED s) 100)).mul
      (((Frac.mk' (100 * slotsHeld s) (slotsTotal s)).sub (Frac.ofInt (val Obj.WEIR_LOW s : Int))).div
        (Frac.ofInt ((val Obj.WEIR_HIGH s : Int) - (val Obj.WEIR_LOW s : Int))))))) :=
  if_neg (by simpa [fillAtMost] using h)

/-! ### The stop (R268) -/

/-- A stop outside a restart: from now on standstill is commanded. -/
theorem weirStop_first (hmode : s.modes.mode = .sheet) (hstopped : s.host.stopped = false) (hidle : restarting s = false) :
    weirStop s = { s with
      host := { s.host with stopped := true, weir := .stopping, request := Frac.zero, restart := Restart.reset }
      mot := { s.mot with transport := { s.mot.transport with standstill := true, moveWaits := false } } } := by
  simp [weirStop, hmode, hstopped, hidle, setTransport]

/-! ### The begin of a restart (R270) -/

/-- A backup that begins, or that waits to, changes the transport alone. -/
theorem startBackup_frame (s : State) :
    startBackup s = { s with mot := { s.mot with transport := (startBackup s).mot.transport } } := by
  unfold startBackup
  split <;> rfl

/-- The restart that begins at a stop at standstill: its base is the last committed line. -/
def begunRestart (s : State) : Restart :=
  { Restart.reset with
    phase := .backup, attempts := 1, pc := stopPosition s, yc := (s.host.overlap.head?.map (·.y)).getD 0
    page := (s.host.overlap.head?.map (·.page)).getD s.tim.pageNumber
    pageLine := (s.host.overlap.head?.map (·.pageLine)).getD 0 }

section
variable (hmode : s.modes.mode = .sheet) (htrans : s.modes.trans = none) (hstopped : s.host.stopped = true)
  (hstands : groupStands s = true) (hhold : holding s = false) (hcapture : captureRuns s = false)
include hmode htrans hstopped hstands hhold hcapture

theorem restartBegin_begins (hphase : s.host.restart.phase = .none) (hweir : s.host.weir = .stopped)
    (hfill : 100 * slotsHeld s ≤ val Obj.WEIR_RESUME s * slotsTotal s) :
    restartBegin s = startBackup { s with host := { s.host with restart := begunRestart s, weir := .restarting } } := by
  have hresume : fillAtMost (val Obj.WEIR_RESUME s) s = true := decide_eq_true hfill
  simp [restartBegin, begunRestart, hmode, htrans, hstopped, hstands, hhold, hcapture, hphase, hweir, hresume]

theorem restartBegin_repeats (hphase : s.host.restart.phase = .again) : restartBegin s = startBackup { s with
    host := { s.host with restart := { s.host.restart with
      phase := .backup, attempts := s.host.restart.attempts + 1, lines := [] } } } := by
  simp [restartBegin, hmode, htrans, hstopped, hstands, hhold, hcapture, hphase]

end

/-! ### The restart record (R271, R273) -/

/-- A restart record is one item more, and the result counts. -/
theorem recordRestart_eq (result : Nat) (offset epsilon : Int) (score : Nat) (s : State) :
    ∃ b place store highWater poisoned, recordRestart result offset epsilon score s = { s with
      host := { s.host with
        items := s.host.items ++ [⟨s.host.nextItem, .restart b, place⟩], nextItem := s.host.nextItem + 1, nextStore := store
        restarts := s.host.restarts + 1, lastResult := result, lastOffset := offset }
      cist := { s.cist with highWater := highWater, poisoned := poisoned } } := ⟨_, _, _, _, _, rfl⟩

theorem logEvent_host (e : Event) (s : State) : (logEvent e s).host = s.host := by rw [logEvent_frame]

/-- An unmatched restart makes its record and logs one event. -/
theorem restartUnmatched_frame (s : State) : restartUnmatched s = { s with
    host := (restartUnmatched s).host, cist := (restartUnmatched s).cist, ecat := (restartUnmatched s).ecat
    ev := (restartUnmatched s).ev, mbox := (restartUnmatched s).mbox } := by
  obtain ⟨b, place, store, highWater, poisoned, hrecord⟩ := recordRestart_eq 3 0 0 0 s
  simp only [restartUnmatched, hrecord]
  rw [logEvent_frame]

/-- What the host's part shows of a restart that could not be matched (R273). -/
structure Unmatched (before after : HostStream) : Prop where
  restart : after.restart = { before.restart with phase := .unmatched, lines := [], epsilon := 0 }
  unmatched : after.unmatched = before.unmatched + 1
  nextItem : after.nextItem = before.nextItem + 1
  sticky : after.sticky = stick 7 before.sticky

theorem unmatched_restartUnmatched (s : State) : Unmatched s.host (restartUnmatched s).host := by
  unfold restartUnmatched
  rw [logEvent_host]
  exact ⟨rfl, rfl, rfl, rfl⟩

/-! ### The backup target (R270) -/

/-- Capture armed anew at the backup target, with no speculative line. -/
def rearmed (s : State) : State := armPoint { s with
  tim := { s.tim with
    armed := true, pending := none, inFlight := [], webHalt := false, highest := pathPosition s, roseAt := s.clk }
  pipe := { s.pipe with stage6 := [], afterBreak := true, lastRed := none }
  host := { s.host with overrun := false, restart := { s.host.restart with phase := .speculative, lines := [] } } }

theorem backupReached_reached (hphase : s.host.restart.phase = .backup) (htrans : s.modes.trans = none)
    (hwaits : s.mot.transport.moveWaits = false) (hmove : s.mot.transport.move = .none) (hstands : groupStands s = true) :
    backupReached s = if matchPossible s = true then rearmed s else restartUnmatched (rearmed s) := by
  have hmatch : matchPossible (rearmed s) = matchPossible s := rfl
  simp only [backupReached, hphase, htrans, hwaits, hmove, hstands, ne_eq, not_true_eq_false, Option.isSome_none, Bool.false_eq_true,
    Bool.not_true, or_self, if_false]
  rw [← hmatch]
  rfl

/-! ### The decision (R271, R272) -/

/-- Lines of which none is lost are read without an error. -/
theorem readSpeculative_sound (h : ∀ l ∈ s.host.restart.lines, speculativeLost l s = false) (lo hi : Nat) :
    readSpeculative lo hi s = s := by
  have hnone : ((s.host.restart.lines.take (hi + 1)).drop lo).filterMap (fun l => speculativePoison l s) = [] := by
    refine List.filterMap_eq_nil_iff.2 fun l hl => ?_
    simpa [speculativeLost] using h l (List.mem_of_mem_take (List.mem_of_mem_drop hl))
  rw [readSpeculative, hnone]
  rfl

theorem length_formedTaps_le (k n : Nat) (s : State) : (formedTaps k n s).length ≤ n :=
  Nat.le_trans (List.length_filterMap_le ..) (Nat.le_of_eq List.length_range)

/-- The taps of a formed line are speculative lines. -/
theorem mem_lines_of_mem_taps {k n : Nat} {x : Nat × LineSlot × List LineSlot} {l : LineSlot} (hx : x ∈ formedTaps k n s)
    (hl : l ∈ x.2.2) : l ∈ s.host.restart.lines := by
  obtain ⟨i, -, hi⟩ := List.mem_filterMap.1 hx
  dsimp only at hi
  split at hi
  · split at hi
    · obtain rfl := Option.some.inj hi
      obtain ⟨j, -, hj⟩ := List.mem_filterMap.1 hl
      exact List.mem_of_getElem? hj
    · cases hi
  · cases hi

/-- No formed line lies on a lost line where none is lost. -/
theorem noneLost_of_sound (h : ∀ l ∈ s.host.restart.lines, speculativeLost l s = false) (k n q : Nat) :
    (formedTaps k n s).any (fun p => ((kernel q).zip p.2.2).any (fun x => decide (x.1 ≠ 0) && speculativeLost x.2 s)) = false := by
  refine List.any_eq_false.2 fun p hp => ?_
  rw [Bool.not_eq_true]
  refine List.any_eq_false.2 fun x hx => ?_
  simp [h x.2 (mem_lines_of_mem_taps hp (List.of_mem_zip hx).2)]

theorem restartDecision_early (h : s.host.restart.phase ≠ .speculative ∨
    s.host.restart.lines.length ≤ (decideMatch s).j0 + val Obj.RESTART_SEARCH s + 63) : restartDecision s = s := by
  unfold restartDecision
  extract_lets r m
  split
  · rfl
  · next hphase => rw [if_pos (h.resolve_left hphase)]

/-- ε of the restart correction at the phase `q` (R272). -/
def correctionAt (q : Nat) (s : State) : Int := -(roundDiv (256 * (val Obj.LINE_DIVIDER s : Int) * (128 - q)) 64)

/-- The restart recorded with the result of its match (R271). -/
def matchRecorded (q : Nat) (s : State) : State :=
  let m := decideMatch s
  recordRestart m.result ((m.u.sub (Frac.ofNat (m.j0 + 63))).mul (Frac.ofNat 64)).round (correctionAt q s)
    ((m.score.mul (Frac.ofNat 256)).div (Frac.ofNat meanScale)).round.toNat s

/-- The restart correction in force, for a match at the whole part `k` and the phase `q` (R272). -/
def corrected (k q : Nat) (s : State) : State :=
  let t := matchRecorded q s
  { t with host := { t.host with restart := { t.host.restart with
      phase := .formed, lines := [], epsilon := correctionAt q s, phiQ := q
      m := heldLines k s.host.restart.lines.length + 1, skip := triggersToSkip k s.host.restart.lines.length } } }

/-- The lines formed from held speculative lines. -/
def formedLines (k q : Nat) (s : State) : List LineSlot :=
  (formedTaps k (heldLines k s.host.restart.lines.length) s).map
    (fun p => formSpeculative p.2.2 p.2.1 q p.1 (matchRecorded q s))

/-- The decision: its record, the correction in force, and the formed lines committed. -/
theorem restartDecision_due {k q : Nat} (hphase : s.host.restart.phase = .speculative)
    (hdue : (decideMatch s).j0 + val Obj.RESTART_SEARCH s + 63 < s.host.restart.lines.length)
    (hk : k = (decideMatch s).u.floor.toNat)
    (hq : q = (((decideMatch s).u.sub (Frac.ofInt (decideMatch s).u.floor)).mul (Frac.ofNat 64)).round.toNat) (hq64 : q < 64)
    (hsound : ∀ l ∈ s.host.restart.lines, speculativeLost l s = false) :
    restartDecision s = (formedLines k q s).foldl (fun x l => commitSpeculative l x) (corrected k q s) := by
  have hnot : q ≠ 64 := by omega
  simp only [restartDecision, hphase, ne_eq, not_true_eq_false, Nat.not_le.2 hdue, ← hk, ← hq, hnot, if_false,
    readSpeculative_sound hsound, noneLost_of_sound hsound, Bool.false_eq_true]
  rfl

theorem bitOf_setBit_false_self (v i : Nat) : bitOf (setBit v i false) i = false := by
  unfold setBit
  split
  · assumption
  · next h =>
    have hset : v / 2 ^ i % 2 = 1 := by simpa [bitOf] using h
    have hless : (v - 2 ^ i) / 2 ^ i = v / 2 ^ i - 1 := by simpa using Nat.sub_mul_div v (2 ^ i) 1
    simp only [Bool.false_eq_true, if_false, bitOf, hless, decide_eq_false_iff_not]
    omega

/-- A formed line is marked RESAMPLED, and not GAP (Table 10.3). -/
theorem flags_formSpeculative (taps : List LineSlot) (b : LineSlot) (q m : Nat) (s : State) :
    bitOf (formSpeculative taps b q m s).flags 5 = true ∧ bitOf (formSpeculative taps b q m s).flags 3 = false :=
  ⟨bitOf_stick_self .., (bitOf_stick_lower (by decide) _).trans (bitOf_setBit_false_self ..)⟩

theorem flags_of_mem_formedLines {k q : Nat} {l : LineSlot} (h : l ∈ formedLines k q s) :
    bitOf l.flags 5 = true ∧ bitOf l.flags 3 = false := by
  obtain ⟨p, -, rfl⟩ := List.mem_map.1 h
  exact flags_formSpeculative ..

theorem length_formedLines_le (k q : Nat) (s : State) : (formedLines k q s).length ≤ s.host.restart.lines.length - 3 - k := by
  rw [formedLines, List.length_map]
  exact length_formedTaps_le ..

/-- The match reads no event. -/
theorem decideMatch_eventsGathered (s : State) : decideMatch (eventsGathered s) = decideMatch s := rfl

theorem inOneCycle_restartDecision_early (h : s.host.restart.phase ≠ .speculative ∨
    s.host.restart.lines.length ≤ (decideMatch s).j0 + val Obj.RESTART_SEARCH s + 63) : inOneCycle restartDecision s = s := by
  have hstays : restartDecision (eventsGathered s) = eventsGathered s :=
    restartDecision_early (by rwa [decideMatch_eventsGathered])
  rw [inOneCycle_quiet (congrArg State.ev hstays)]
  exact congrArg (fun t => { t with ev := s.ev }) hstays

/-- What a decided match leaves before its formed lines are committed: the record and the correction. -/
theorem corrected_eq (k q : Nat) (s : State) : ∃ b place store highWater poisoned, corrected k q s = { s with
    host := { s.host with
      items := s.host.items ++ [⟨s.host.nextItem, .restart b, place⟩], nextItem := s.host.nextItem + 1, nextStore := store
      restarts := s.host.restarts + 1, lastResult := (decideMatch s).result
      lastOffset := (((decideMatch s).u.sub (Frac.ofNat ((decideMatch s).j0 + 63))).mul (Frac.ofNat 64)).round
      restart := { s.host.restart with
        phase := .formed, lines := [], epsilon := correctionAt q s, phiQ := q
        m := heldLines k s.host.restart.lines.length + 1, skip := triggersToSkip k s.host.restart.lines.length } }
    cist := { s.cist with highWater := highWater, poisoned := poisoned } } := by
  obtain ⟨b, place, store, highWater, poisoned, hrecord⟩ := recordRestart_eq (decideMatch s).result
    (((decideMatch s).u.sub (Frac.ofNat ((decideMatch s).j0 + 63))).mul (Frac.ofNat 64)).round (correctionAt q s)
    (((decideMatch s).score.mul (Frac.ofNat 256)).div (Frac.ofNat meanScale)).round.toNat s
  exact ⟨b, place, store, highWater, poisoned, by simp only [corrected, matchRecorded, hrecord]⟩

/-! ### A failed attempt (R273) -/

theorem attemptFails_again (h : s.host.restart.attempts ≤ val Obj.RESTART_RETRIES s) : attemptFails s =
    setTransport (fun t => { t with standstill := true }) { discardLines (disarm s) with host := { s.host with
      restart := { s.host.restart with phase := .again, lines := [] } } } := if_pos h

theorem attemptFails_unmatched (h : val Obj.RESTART_RETRIES s < s.host.restart.attempts) : attemptFails s = restartUnmatched s :=
  if_neg (Nat.not_le.2 h)

theorem attemptFails_frame (s : State) : attemptFails s = { s with
    tim := (attemptFails s).tim, pipe := (attemptFails s).pipe
    mot := { s.mot with transport := (attemptFails s).mot.transport }, host := (attemptFails s).host
    cist := (attemptFails s).cist, ecat := (attemptFails s).ecat, ev := (attemptFails s).ev, mbox := (attemptFails s).mbox } := by
  rcases Nat.lt_or_ge (val Obj.RESTART_RETRIES s) s.host.restart.attempts with h | h
  · rw [attemptFails_unmatched h, restartUnmatched_frame]
  · rw [attemptFails_again h]
    rfl

theorem attemptFailed_early (h : s.host.restart.phase ≠ .speculative ∨ s.host.restart.lines.length < slotsIn rSpeculative s) :
    attemptFailed s = s :=
  if_neg fun hfull => h.elim (fun hphase => hphase hfull.1) (fun hroom => Nat.not_lt.2 hfull.2 hroom)

theorem attemptFailed_full (hphase : s.host.restart.phase = .speculative)
    (hfull : slotsIn rSpeculative s ≤ s.host.restart.lines.length) : attemptFailed s = attemptFails s := if_pos ⟨hphase, hfull⟩

/-- Settles O33: the request follows the rows of Table 10.6 (`weirEvaluate_running`, `fillRow_full`, `fillRow_slowing`) up to the stop
(`weirStop_first`); a restart begins or repeats with a backup (`restartBegin_begins`, `restartBegin_repeats`), arms capture at its target
(`backupReached_reached`), is decided by its match (`restartDecision_due`, `corrected_eq`), or fails (`attemptFails_again`,
`unmatched_restartUnmatched`). -/
theorem weirStopsAndRestarts : Obligations.WeirStopsAndRestarts := by
  unfold Obligations.WeirStopsAndRestarts
  refine ⟨fun s hmode => ⟨?_, ?_⟩, fun s hmode hstopped hphase hlowhigh => ?_,
    fun s hmode htrans hstopped hstands hhold hcapture => ⟨fun hphase hweir hfill => ?_, fun hphase => ?_⟩,
    fun s hphase => ?_, fun s hphase htrans hwaits hmove hstands => ?_, fun s hearly => ?_,
    fun k q s hphase hdue hk hq hq64 hsound => ?_, fun s hearly => ?_, fun s hphase hfull => ?_⟩
  · rw [exec_weirEvaluate, weirEvaluate, if_pos hmode]
  · rw [exec_restartBegin, restartBegin, if_pos (.inl hmode)]
  · rw [exec_weirEvaluate, weirEvaluate_running hmode hstopped hphase]
    refine ⟨fun hlow htotal => ?_, fun hlow hhigh => ?_, fun hhigh => ?_⟩
    · have hbelow := Nat.lt_of_le_of_lt hlow (Nat.mul_lt_mul_of_pos_right hlowhigh htotal)
      rw [fillAtLeast_of_lt hbelow, fillRow_full hlow]
      rfl
    · rw [fillAtLeast_of_lt hhigh, fillRow_slowing hlow]
      rfl
    · rw [fillAtLeast_of_le hhigh, if_pos rfl, weirStop_first hmode hstopped (restarting_of_idle hphase)]
  · rw [exec_restartBegin, restartBegin_begins hmode htrans hstopped hstands hhold hcapture hphase hweir hfill]
    refine ⟨_, rfl, ?_⟩
    rw [startBackup_frame]
    exact ⟨rfl, rfl, rfl, rfl, fun l hl => by simp [begunRestart, hl], rfl⟩
  · rw [exec_restartBegin, restartBegin_repeats hmode htrans hstopped hstands hhold hcapture hphase]
    refine ⟨_, rfl, ?_⟩
    rw [startBackup_frame]
    exact ⟨rfl, rfl⟩
  · rw [exec_backupTargetReached, backupReached, if_pos (.inl hphase)]
  · rw [exec_backupTargetReached, backupReached_reached hphase htrans hwaits hmove hstands]
    refine ⟨_, rfl, ?_⟩
    split
    · exact ⟨rfl, rfl, rfl, rfl, rfl, rfl, rfl, rfl⟩
    · obtain ⟨hrestart, hunmatched, hitem, -⟩ := unmatched_restartUnmatched (rearmed s)
      rw [restartUnmatched_frame] at hrestart hunmatched hitem ⊢
      exact ⟨rfl, rfl, rfl, by rw [hrestart], by rw [hrestart], hunmatched, hitem, rfl⟩
  · rw [exec_restartDecision, inOneCycle_restartDecision_early hearly]
  · have hdecided := restartDecision_due (s := eventsGathered s) hphase hdue hk hq hq64 hsound
    obtain ⟨b, place, _, _, _, hcorrected⟩ := corrected_eq k q (eventsGathered s)
    refine ⟨_, formedLines k q (eventsGathered s), corrected k q (eventsGathered s), b, exec_restartDecision s, ?_,
      fun l hl => flags_of_mem_formedLines hl, length_formedLines_le .., ?_⟩
    · rw [← hdecided]
      exact inOneCycle_frame ..
    · rw [hcorrected]
      exact ⟨⟨place, rfl⟩, rfl, rfl, rfl, rfl, rfl, rfl⟩
  · rw [exec_restartAttemptFailed, attemptFailed_early hearly]
  · rw [exec_restartAttemptFailed, attemptFailed_full hphase hfull]
    refine ⟨_, rfl, ?_, fun hretry => ?_, fun hover => ?_, attemptFails_frame s⟩
    · rcases Nat.lt_or_ge (val Obj.RESTART_RETRIES s) s.host.restart.attempts with hover | hretry
      · rw [attemptFails_unmatched hover, (unmatched_restartUnmatched s).restart]
      · rw [attemptFails_again hretry]
        rfl
    · rw [attemptFails_again hretry]
      exact ⟨rfl, rfl, rfl⟩
    · obtain ⟨hrestart, hunmatched, -, hsticky⟩ := unmatched_restartUnmatched s
      rw [attemptFails_unmatched hover, hrestart, hunmatched, hsticky]
      exact ⟨rfl, rfl, bitOf_stick_self .., rfl⟩

end Sys2Proof.Machine
end

section
/-!
PROOFS. The requests of a TSP session: their answers and their frames (10_host_stream R274 to R277, 12_control_dictionary R324, R328).

`Listening f s v` says that `v` has heard the packet `f` since `s` and has sent nothing on its lane; an answer in such a state is `Answered`.
`outsideUpload` reads a state but for what the bytes of a reference upload change; each function that takes them has one lemma.
-/
namespace Sys2Proof.Machine

variable {f : Frame} {s v w : State}

/-! ### Served requests (R275) -/

section
variable (hserved : requestServed f s = true)
include hserved

theorem requestServed_parts : laneReceives f.lane.val s = true ∧ frameInSession f s = true ∧
    ∀ a ∈ (laneOf f.lane.val s).answers, a.1 ≠ f.item.toNat := by
  simpa [requestServed, and_assoc] using hserved

theorem request_served (hshaped : Shaped s = true) (g : State → State) : request f g s = g (heard f s) := by
  obtain ⟨hon, hsession, hnew⟩ := requestServed_parts hserved
  have hnone : (laneOf f.lane.val s).answers.find? (fun a => decide (a.1 = f.item.toNat)) = none :=
    List.find?_eq_none.2 fun a ha => by simpa using hnew a ha
  rw [request, sessionPacket_served hon hsession, laneOf_heard_self (lt_lanes_length_of_shaped hshaped f.lane), hnone]

theorem controlWrite_served (h : State → WriteOut) : controlWrite f h s = (h (heard f s)).tspOutcome f := if_pos hserved

end

/-! ### The answer (R274, R275) -/

/-- The answer of a request in `t`, after a pause of its lane where one runs in `s`, and kept. -/
def Answered (f : Frame) (typ code : Nat) (data : List Byte) (s t : State) : Prop :=
  ∃ p, (if (laneOf f.lane.val s).pausedUntil = none then t.host.out = .tsp p :: s.host.out
      else t.host.out = s.host.out ∧ (laneOf f.lane.val t).delayed = (laneOf f.lane.val s).delayed ++ [.tsp p]) ∧
    p.typ = 8 ∧ p.lane = f.lane.val ∧ p.item = f.item.toNat ∧
    p.payload = responsePayload code typ data ∧ (laneOf f.lane.val t).answers.head? = some (f.item.toNat, p)

/-- `v` knows the addresses of the lane of `f`, on which nothing has been sent since `s`. -/
structure Listening (f : Frame) (s v : State) : Prop where
  lane : f.lane.val < v.host.lanes.length
  known : (laneOf f.lane.val v).host = some (frameSource f)
  paused : (laneOf f.lane.val v).pausedUntil = (laneOf f.lane.val s).pausedUntil
  delayed : (laneOf f.lane.val v).delayed = (laneOf f.lane.val s).delayed
  out : v.host.out = s.host.out

theorem listening_heard (hshaped : Shaped s = true) : Listening f s (heard f s) := by
  have hlane := lt_lanes_length_of_shaped hshaped f.lane
  have hself := laneOf_heard_self hlane
  exact ⟨by rwa [heard, modLane_lanes_length], by rw [hself], by rw [hself], by rw [hself], rfl⟩

/-- What leaves the lanes and the packets sent leaves the lane listening. -/
theorem Listening.congr (h : Listening f s v) (hlanes : w.host.lanes = v.host.lanes) (hout : w.host.out = v.host.out) :
    Listening f s w := by
  have hlane : laneOf f.lane.val w = laneOf f.lane.val v := by rw [laneOf, hlanes, laneOf]
  exact ⟨hlanes ▸ h.lane, hlane ▸ h.known, hlane ▸ h.paused, hlane ▸ h.delayed, hout.trans h.out⟩

theorem Listening.modLane (h : Listening f s v) {g : Lane → Lane} (hhost : ∀ l, (g l).host = l.host)
    (hpaused : ∀ l, (g l).pausedUntil = l.pausedUntil) (hdelayed : ∀ l, (g l).delayed = l.delayed) :
    Listening f s (modLane f.lane.val g v) := by
  have hlane := laneOf_modLane_self v f.lane.val g h.lane
  exact ⟨by rw [modLane_lanes_length]; exact h.lane, by rw [hlane, hhost, h.known], by rw [hlane, hpaused, h.paused],
    by rw [hlane, hdelayed, h.delayed], h.out⟩

/-- The packet of an answer. -/
def answerPacket (f : Frame) (typ code : Nat) (data : List Byte) (v : State) : Packet :=
  packetTo f.lane.val (frameSource f) 0x08 0 v.host.session 0 f.item.toNat 0 (responsePayload code typ data) v

theorem respond_listening (h : Listening f s v) (typ code : Nat) (data : List Byte) : respond f typ code data v =
    modLane f.lane.val (fun l => { l with answers := ((f.item.toNat, answerPacket f typ code data v) :: l.answers).take 8 })
      (emitFrame f.lane.val (.tsp (answerPacket f typ code data v)) v) := by
  simp only [respond, h.known]
  rfl

theorem lanes_length_emitFrame (n : Nat) (x : Sent) (s : State) : (emitFrame n x s).host.lanes.length = s.host.lanes.length := by
  rw [emitFrame_eq]
  split
  · rfl
  · exact modLane_lanes_length ..

theorem respond_frame (f : Frame) (typ code : Nat) (data : List Byte) (s : State) :
    respond f typ code data s = { s with host := (respond f typ code data s).host } := by
  simp only [respond]
  split
  · rw [emitFrame_frame]
    rfl
  · rfl

theorem laneOf_emitFrame {n : Nat} (x : Sent) (h : n < s.host.lanes.length) :
    laneOf n (emitFrame n x s) = { laneOf n s with delayed := (laneOf n (emitFrame n x s)).delayed } := by
  rw [emitFrame_eq]
  split
  · rfl
  · rw [laneOf_modLane_self _ _ _ h]

/-- A frame leaves on the lane at once, or waits there for the end of a pause. -/
theorem emitFrame_listening (h : Listening f s v) (x : Sent) :
    if (laneOf f.lane.val s).pausedUntil = none then (emitFrame f.lane.val x v).host.out = x :: s.host.out
    else (emitFrame f.lane.val x v).host.out = s.host.out ∧
      (laneOf f.lane.val (emitFrame f.lane.val x v)).delayed = (laneOf f.lane.val s).delayed ++ [x] := by
  split
  next hopen => rw [emitFrame_sent v _ _ (h.paused.trans hopen), ← h.out]
  next hpaused =>
    rw [emitFrame_delayed v _ _ (by rwa [h.paused]), laneOf_modLane_self _ _ _ h.lane, ← h.delayed, ← h.out]
    exact ⟨rfl, rfl⟩

theorem laneOf_respond (h : Listening f s v) (typ code : Nat) (data : List Byte) : laneOf f.lane.val (respond f typ code data v) =
    { laneOf f.lane.val v with
      delayed := (laneOf f.lane.val (emitFrame f.lane.val (.tsp (answerPacket f typ code data v)) v)).delayed
      answers := ((f.item.toNat, answerPacket f typ code data v) :: (laneOf f.lane.val v).answers).take 8 } := by
  rw [respond_listening h, laneOf_modLane_self _ _ _ (by rw [lanes_length_emitFrame]; exact h.lane), laneOf_emitFrame _ h.lane]

theorem answered_respond (h : Listening f s v) (typ code : Nat) (data : List Byte) :
    Answered f typ code data s (respond f typ code data v) := by
  have hsent := emitFrame_listening h (.tsp (answerPacket f typ code data v))
  have hout : (respond f typ code data v).host.out =
      (emitFrame f.lane.val (.tsp (answerPacket f typ code data v)) v).host.out := by
    rw [respond_listening h]
    rfl
  exact ⟨answerPacket f typ code data v, by rw [hout, laneOf_respond h]; exact hsent, rfl, rfl, rfl, rfl, by
    rw [laneOf_respond h]; rfl⟩

/-- The answer of a CONTROL request changes the reply shown and the host's part. -/
theorem answerTsp_frame (f : Frame) (code : Nat) (data : List Byte) (s : State) : answerTsp f code data s = { s with
    dict := { s.dict with reply := some ⟨.tsp, code, data⟩ }, host := (answerTsp f code data s).host } := by
  unfold answerTsp
  rw [respond_frame]

theorem answered_answerTsp (h : Listening f s v) (code : Nat) (data : List Byte) :
    Answered f 0x84 code data s (answerTsp f code data v) := by
  unfold answerTsp
  refine answered_respond ?_ ..
  exact h.congr rfl rfl

/-- `t` is `s` but for the answer of a CONTROL request. -/
def AnswerLeaves (s t : State) : Prop := t = { s with dict := { s.dict with reply := t.dict.reply }, host := t.host }

theorem answerLeaves_answerTsp {host : HostStream} (code : Nat) (data : List Byte) (h : v = { s with host := host }) :
    AnswerLeaves s (answerTsp f code data v) := by
  rw [AnswerLeaves, answerTsp_frame, h]

/-! ### READ (R274) -/

theorem exec_read (f : Frame) (index sub : Nat) (s : State) : exec (.read f index sub) s = .next (request f (controlRead f index sub) s) :=
  rfl

theorem freeValue_frame {index sub : Nat} {x : Nat × State} (h : freeValue index sub s = some x) :
    ∃ n links, x.2 = { s with fresh := n, pins := { s.pins with links := links } } := by
  unfold freeValue at h
  split at h
  · obtain rfl := Option.some.inj h
    exact ⟨_, _, rfl⟩
  · split at h
    · obtain rfl := Option.some.inj h
      exact ⟨_, _, rfl⟩
    · split at h
      · obtain rfl := Option.some.inj h
        exact ⟨_, _, rfl⟩
      · cases h

theorem readNumber_frame (index sub : Nat) (r : Row) (s : State) :
    ∃ n links, (readNumber index sub r s).2 = { s with fresh := n, pins := { s.pins with links := links } } := by
  unfold readNumber
  split
  · exact ⟨_, _, rfl⟩
  · split
    next hfree => exact freeValue_frame hfree
    next => split <;> exact ⟨_, _, rfl⟩

/-- A read takes free values at most, and the levels of PORT_LINK. -/
theorem readObject_frame (index sub : Nat) (s : State) :
    ∃ n links, (readObject index sub s).2.2 = { s with fresh := n, pins := { s.pins with links := links } } := by
  unfold readObject
  split
  · split <;> exact ⟨_, _, rfl⟩
  · split
    · exact ⟨_, _, rfl⟩
    · split
      · exact ⟨_, _, rfl⟩
      · split
        · exact ⟨_, _, rfl⟩
        · exact readNumber_frame ..

theorem Listening.readObject (h : Listening f s v) (index sub : Nat) : Listening f s (readObject index sub v).2.2 := by
  obtain ⟨_, _, hread⟩ := readObject_frame index sub v
  rw [hread]
  exact h.congr rfl rfl

section
variable {index sub : Nat}

theorem controlRead_refused (h : (readObject index sub v).1 ≠ 0) :
    controlRead f index sub v = answerTsp f (readObject index sub v).1 [] (readObject index sub v).2.2 := if_pos h

theorem controlRead_tooLong (h : (readObject index sub v).1 = 0) (hlong : responseRoom v < (readObject index sub v).2.1.length) :
    controlRead f index sub v = answerTsp f abortCommand [] v := by
  simp [controlRead, h, hlong]

theorem controlRead_fits (h : (readObject index sub v).1 = 0) (hfits : (readObject index sub v).2.1.length ≤ responseRoom v) :
    controlRead f index sub v = answerTsp f 0 (readObject index sub v).2.1 (readObject index sub v).2.2 := by
  simp [controlRead, h, Nat.not_lt.2 hfits]

end

/-- `t` is `s` but for the answer of a read. -/
def ReadLeaves (s t : State) : Prop :=
  t = { s with
    fresh := t.fresh, pins := { s.pins with links := t.pins.links }, dict := { s.dict with reply := t.dict.reply }, host := t.host }

theorem readLeaves_answerTsp {n : Nat} {links : Nat} {host : HostStream} (code : Nat) (data : List Byte)
    (h : v = { s with fresh := n, pins := { s.pins with links := links }, host := host }) : ReadLeaves s (answerTsp f code data v) := by
  rw [ReadLeaves, answerTsp_frame, h]

/-- A read of an object after its packet is heard leaves the rest of the state. -/
theorem readLeaves_answerTsp_readObject (index sub code : Nat) (data : List Byte) :
    ReadLeaves s (answerTsp f code data (readObject index sub (heard f s)).2.2) := by
  obtain ⟨_, _, hread⟩ := readObject_frame index sub (heard f s)
  exact readLeaves_answerTsp code data hread

theorem readLeaves_controlRead (index sub : Nat) : ReadLeaves s (controlRead f index sub (heard f s)) := by
  unfold controlRead
  extract_lets x
  split
  · exact readLeaves_answerTsp_readObject ..
  · split
    · exact readLeaves_answerTsp _ _ rfl
    · exact readLeaves_answerTsp_readObject ..

/-! ### WRITE (R274, R328) -/

theorem exec_write (f : Frame) (index sub : Nat) (data : List Byte) (s : State) :
    exec (.write f index sub data) s = controlWrite f (writeObject (.tsp f) index sub data) s := rfl

section
variable {index sub : Nat} {r : Row} {data : List Byte}

theorem writeObject_readOnly (hrow : findRow index sub = some r) (hro : r.acc = .ro) (x : Waiting) :
    writeObject x index sub data s = .abort abortReadOnly s := by
  simp only [writeObject, writeValue, accessRefusal, hrow, hro, if_true, WriteOut.noted, ite_self]

theorem afterValue_plain {key : Nat} (h : hasEffect key = false) (old : State) : afterValue key old s = s := by
  simp only [hasEffect, Bool.or_eq_false_iff, decide_eq_false_iff_not, List.any_eq_false, decide_eq_true_eq] at h
  obtain ⟨⟨⟨⟨⟨⟨hcmp, hhold⟩, henable⟩, hlevel⟩, htone⟩, hjog⟩, hslew⟩ := h
  have hports : (List.range 96).find? (fun p => decide (key = (Obj.TONE_REF p).key ∨ key = (Obj.FS_RANGE p).key)) = none :=
    List.find?_eq_none.2 fun p hp => by simpa using htone p hp
  have hjogs : (List.range 6).find? (fun a => decide (key = (Obj.JOG_VELOCITY a).key)) = none :=
    List.find?_eq_none.2 fun a ha => by simpa using hjog a ha
  have hslews : (List.range 8).find? (fun k => decide (key = (Obj.GROUP_SLEW k).key)) = none :=
    List.find?_eq_none.2 fun k hk => by simpa using hslew k hk
  rw [afterValue, if_neg hcmp, if_neg hhold, if_neg henable, if_neg hlevel, hports, hjogs, hslews]

/-- A value that passes the checks of R328 and has no effect of its own is held. -/
theorem writeObject_plain (hplain : PlainWrite index sub r (leNat data) s) (heffect : hasEffect (objKey index sub) = false)
    (hlength : data.length = r.ty.size) (x : Waiting) : writeObject x index sub data s = .ok (Written index sub (leNat data) s) := by
  obtain ⟨hrow, hacc, hbulk, hhandler, hrange, hreserved, hbindings⟩ := hplain
  have hlengthOk : lengthOk r.ty data.length = true := by
    unfold lengthOk
    split
    next h => rw [h] at hbulk; cases hbulk
    next => simpa using hlength
  have hro : r.acc ≠ .ro := by rcases hacc with h | ⟨h, -⟩ <;> simp [h]
  have hpre : r.acc ≠ .preOp := by rcases hacc with h | ⟨h, -⟩ <;> simp [h]
  have hopen : (decide (r.acc = .rwp) && !rwpOpen s) = false := by rcases hacc with h | ⟨-, h⟩ <;> simp [h]
  have haccess : accessRefusal index sub data.length s = none := by
    simp [accessRefusal, hrow, hro, hlengthOk, hopen]
  have hheld : writeNumber index sub r (leNat data) s = .ok (setKey (objKey index sub) (leNat data) s) := by
    simp [writeNumber, hhandler, hrange, hreserved, writeHeld, hbindings, afterValue_plain heffect]
  simp only [writeObject, writeValue, haccess, hrow, hbulk, hpre, hheld, Bool.false_eq_true, if_false]
  unfold Written
  split <;> rfl

end

/-! ### The stored answers (R275) -/

theorem exec_read_stored {a : Nat × Packet} {index sub : Nat} (hshaped : Shaped s = true)
    (hon : laneReceives f.lane.val s = true) (hsession : frameInSession f s = true)
    (hstored : (laneOf f.lane.val s).answers.find? (fun x => decide (x.1 = f.item.toNat)) = some a) :
    exec (.read f index sub) s = .next (emitFrame f.lane.val (.tsp (packetTo f.lane.val (frameSource f) a.2.typ a.2.flags
      s.host.session 0 f.item.toNat 0 a.2.payload (heard f s))) (heard f s)) := by
  rw [exec_read, request, sessionPacket_served hon hsession, laneOf_heard_self (lt_lanes_length_of_shaped hshaped f.lane), hstored]
  simp only [sendPacket, (listening_heard hshaped).known]
  rfl

/-- A request whose id is stored is answered again, and nothing else changes. -/
theorem read_stored {a : Nat × Packet} {index sub : Nat} (hshaped : Shaped s = true)
    (hon : laneReceives f.lane.val s = true) (hsession : frameInSession f s = true)
    (hstored : (laneOf f.lane.val s).answers.find? (fun x => decide (x.1 = f.item.toNat)) = some a) :
    ∃ (t : State) (p : Packet), exec (.read f index sub) s = .next t ∧
      (if (laneOf f.lane.val s).pausedUntil = none then t.host.out = .tsp p :: s.host.out
        else t.host.out = s.host.out ∧ (laneOf f.lane.val t).delayed = (laneOf f.lane.val s).delayed ++ [.tsp p]) ∧
      p.payload = a.2.payload ∧ t = { s with host := t.host } ∧
      (laneOf f.lane.val t).answers = (laneOf f.lane.val s).answers := by
  have hlisten := listening_heard (f := f) hshaped
  refine ⟨_, _, exec_read_stored hshaped hon hsession hstored, emitFrame_listening hlisten _, rfl, ?_, ?_⟩
  · rw [emitFrame_frame]
    rfl
  · rw [laneOf_emitFrame _ hlisten.lane, laneOf_heard_self (lt_lanes_length_of_shaped hshaped f.lane)]

/-! ### What a held value leaves (R328) -/

/-- What a held value changes. -/
theorem written_frame (index sub v : Nat) (s : State) : Written index sub v s = { s with
    dict := { s.dict with held := sparseSet (objKey index sub) (keyDefault (objKey index sub)) v s.dict.held }
    cfg := if keyInSets (objKey index sub) then (noteWrite s).cfg else s.cfg } := by
  unfold Written
  split
  · exact noteWrite_of_cfg rfl
  · rfl

theorem cfg_noteWrite_heard : (noteWrite (heard f s)).cfg = (noteWrite s).cfg := by
  rw [noteWrite_of_cfg (s := s) (t := heard f s) rfl]

/-! ### READ_SEGMENT -/

section
variable {index sub offset len : Nat}

theorem readSegmentOf_start (h : (readObject index sub v).1 = 0) (hdomain : isDomain index sub = true) :
    readSegmentOf f index sub 0 len v = serveUpload f index sub 0 len (readObject index sub v).2.1 (readObject index sub v).2.2 := by
  simp [readSegmentOf, h, hdomain]

/-- No content is being read in segments: a later part of one is refused. -/
theorem readSegmentOf_noUpload (hoffset : 0 < offset) (hbank : isBank index = false) (hup : (laneOf f.lane.val v).up = none) :
    readSegmentOf f index sub offset len v = answerTsp f (if accessOf index sub ≠ 0 then accessOf index sub
      else if isDomain index sub = true then 0x05030000 else 0x05040001) [] v := by
  rw [readSegmentOf, if_neg (Nat.ne_of_gt hoffset), hup, hbank]
  split
  · rfl
  · cases isDomain index sub <;> rfl

theorem responseRoom_readObject : responseRoom (readObject index sub v).2.2 = responseRoom v := by
  obtain ⟨_, _, hread⟩ := readObject_frame index sub v
  rw [hread]
  rfl

theorem answered_serveUpload (h : Listening f s v) (content : List Byte) :
    Answered f 0x84 0 (content.take (min len (responseRoom v))) s (serveUpload f index sub 0 len content v) := by
  simp only [serveUpload, List.drop_zero]
  refine answered_answerTsp (h.modLane ?_ ?_ ?_) .. <;> exact fun _ => rfl

theorem readLeaves_serveUpload (content : List Byte) :
    ReadLeaves s (serveUpload f index sub 0 len content (readObject index sub (heard f s)).2.2) := by
  obtain ⟨_, _, hread⟩ := readObject_frame index sub (heard f s)
  unfold serveUpload
  rw [hread]
  exact readLeaves_answerTsp _ _ rfl

/-! ### WRITE_SEGMENT -/

variable {data got : List Byte} {final : Bool}

section
variable (hdomain : isDomain index sub = true) (hupdate : index ≠ 0x2E70)
  (haccess : accessRefusal index sub (offset + data.length) v = none)
include hdomain hupdate haccess

theorem writeSegmentOf_refused (hnext : downloadSoFar f.lane.val index sub offset v = none) :
    writeSegmentOf f index sub offset data final v = .abort abortToggle v := by
  simp [writeSegmentOf, hdomain, hupdate, haccess, hnext]

theorem writeSegmentOf_gathers (hbank : isBank index = false) (hnext : downloadSoFar f.lane.val index sub offset v = some got) :
    writeSegmentOf f index sub offset data false v = .ok (setDown f.lane.val (some (index, sub, got ++ data)) v) := by
  simp [writeSegmentOf, hdomain, hbank, hupdate, haccess, hnext]

end

end

theorem down_answerTsp (h : Listening f s v) (code : Nat) (data : List Byte) :
    (laneOf f.lane.val (answerTsp f code data v)).down = (laneOf f.lane.val v).down := by
  have hreplied : Listening f s { v with dict := { v.dict with reply := some ⟨.tsp, code, data⟩ } } := h.congr rfl rfl
  unfold answerTsp
  rw [laneOf_respond hreplied]
  rfl

/-! ### HOST_SCRATCH (R276, R277) -/

theorem poisonedIn_of_none (h : v.cist.poisoned = []) (a n : Nat) : poisonedIn a n v = [] := by rw [poisonedIn, h, List.filter_nil]

theorem readBlocks_clean (h : v.cist.poisoned = []) (l : List Nat) : readBlocks .clean l v = (true, v) := by
  induction l with
  | nil => rfl
  | cons b l ih =>
    rw [readBlocks, eccInBlock, eccRead_clean (poisonedIn_of_none h b 64)]
    exact ih

theorem clearPoison_of_none (h : v.cist.poisoned = []) (a n : Nat) : clearPoison a n v = v := by
  unfold clearPoison
  rw [h, List.filter_nil, ← h]

/-- The extent that a write of `data` at an offset of HOST_SCRATCH notes. -/
theorem noteExtent (offset : Nat) (data : List Byte) (v : State) :
    modifyAt (fun n => max n (if data.isEmpty then 0 else regionBase rScratch v + offset + data.length - regionBase rScratch v))
      rScratch v.cist.highWater =
    if data = [] then v.cist.highWater else modifyAt (fun n => max n (offset + data.length)) rScratch v.cist.highWater := by
  cases data with
  | nil =>
    simp only [List.isEmpty_nil, if_true, Nat.max_zero]
    exact modifyAt_id rScratch v.cist.highWater
  | cons b data => simp [Nat.add_assoc]

theorem scratchWriteAt_frame (h : v.cist.poisoned = []) (offset : Nat) (data : List Byte) :
    scratchWriteAt (regionBase rScratch v + offset) data v = { v with cist := { v.cist with
      scratch := (scratchWriteAt (regionBase rScratch v + offset) data v).cist.scratch
      highWater := if data = [] then v.cist.highWater
        else modifyAt (fun n => max n (offset + data.length)) rScratch v.cist.highWater } } := by
  rw [← noteExtent]
  unfold scratchWriteAt
  rw [clearPoison_of_none h]
  rfl

/-- A span inside HOST_SCRATCH without an error is written. -/
theorem scratchWriteOf_inside {offset : Nat} {data : List Byte} (himaging : imaging v = true)
    (hinside : inScratch (regionBase rScratch v + offset) data.length v = true) (hclean : v.cist.poisoned = []) :
    scratchWriteOf f offset data .clean v = respond f 0x85 0 [] (scratchWriteAt (regionBase rScratch v + offset) data v) := by
  simp [scratchWriteOf, himaging, hinside, readBlocks_clean hclean]

theorem scratchReadOf_inside {offset len : Nat} (himaging : imaging v = true)
    (hinside : inScratch (regionBase rScratch v + offset) len v = true) (hroom : len ≤ responseRoom v) (hclean : v.cist.poisoned = []) :
    scratchReadOf f offset len .clean v = respond f 0x86 0 (scratchRead (regionBase rScratch v + offset) len v) v := by
  simp [scratchReadOf, himaging, hinside, Nat.not_lt.2 hroom, eccRead_clean (poisonedIn_of_none hclean _ len)]

theorem scratchReadOf_outside {offset len : Nat} {e : Ecc} (himaging : imaging v = true)
    (houtside : inScratch (regionBase rScratch v + offset) len v = false) :
    scratchReadOf f offset len e v = respond f 0x86 abortRange [] v := by
  simp [scratchReadOf, himaging, houtside]

theorem scratchWriteOf_outside {offset : Nat} {data : List Byte} {e : Ecc} (himaging : imaging v = true)
    (houtside : inScratch (regionBase rScratch v + offset) data.length v = false) :
    scratchWriteOf f offset data e v = respond f 0x85 abortRange [] v := by
  simp [scratchWriteOf, himaging, houtside]

theorem scratchWriteOf_notImaging {offset : Nat} {data : List Byte} {e : Ecc} (himaging : imaging v = false) :
    scratchWriteOf f offset data e v = respond f 0x85 abortState [] v := by
  simp [scratchWriteOf, himaging]

theorem referenceOf_notImaging {offset : Nat} {data : List Byte} (himaging : imaging v = false) :
    referenceOf f offset data v = respond f 0x87 abortState [] v := by
  simp [referenceOf, himaging]

section
variable {offset : Nat} {data : List Byte} (himaging : imaging v = true) (hopen : v.cmp.upload.isSome = true)
include himaging hopen

theorem referenceOf_notNext (h : offset ≠ uploadBytes v) : referenceOf f offset data v = respond f 0x87 abortToggle [] v := by
  simp [referenceOf, himaging, Option.isNone_eq_false_iff.2 hopen, h]

theorem referenceOf_next (h : offset = uploadBytes v) :
    referenceOf f offset data v = respond f 0x87 0 [] (appendUpload data v).2 := by
  simp [referenceOf, himaging, Option.isNone_eq_false_iff.2 hopen, h]

end

/-! ### REFERENCE (R190) -/

/-- A state but for what the bytes of an upload change, the lanes and the packets sent among what stays. -/
def outsideUpload (s : State) : State :=
  { s with
    ecat := State.reset.ecat, ev := State.reset.ev, mbox := State.reset.mbox, cmp := State.reset.cmp, cist := State.reset.cist
    host := { State.reset.host with lanes := s.host.lanes, out := s.host.out } }

theorem outsideUpload_iff : outsideUpload v = outsideUpload s ↔
    v = { s with host := v.host, cmp := v.cmp, cist := v.cist, ecat := v.ecat, ev := v.ev, mbox := v.mbox } ∧
    v.host.lanes = s.host.lanes ∧ v.host.out = s.host.out := by
  constructor
  · intro h
    have hparts : v = { outsideUpload v with
        host := v.host, cmp := v.cmp, cist := v.cist, ecat := v.ecat, ev := v.ev, mbox := v.mbox } := rfl
    have hlanes : (outsideUpload v).host.lanes = (outsideUpload s).host.lanes := by rw [h]
    have hout : (outsideUpload v).host.out = (outsideUpload s).host.out := by rw [h]
    exact ⟨hparts.trans (by rw [h]; rfl), hlanes, hout⟩
  · rintro ⟨hframe, hlanes, hout⟩
    rw [hframe]
    simp only [outsideUpload, hlanes, hout]

/-- An update of parts that `outsideUpload` does not read. -/
@[simp] theorem outsideUpload_mk (s : State) (ecat ev mbox cmp cist host) (hlanes : host.lanes = s.host.lanes)
    (hout : host.out = s.host.out) :
    outsideUpload ⟨s.now, s.clk, s.fresh, s.modes, s.dict, ecat, s.cfg, ev, s.pwr, s.boot, mbox, s.flash, s.upd, s.telem, s.otp, s.fe,
      s.tim, s.lamps, s.ind, s.pipe, s.lv, cmp, cist, host, s.mot, s.tw, s.pins, s.tap, s.bench, s.pending⟩ = outsideUpload s := by
  simp only [outsideUpload, hlanes, hout]

@[simp] theorem outsideUpload_ite (c : Prop) {_ : Decidable c} (s v : State) :
    outsideUpload (if c then s else v) = if c then outsideUpload s else outsideUpload v := apply_ite ..

@[simp] theorem outsideUpload_foldl {α : Type} {g : State → α → State} (h : ∀ s a, outsideUpload (g s a) = outsideUpload s)
    (l : List α) (s : State) : outsideUpload (l.foldl g s) = outsideUpload s := by
  induction l generalizing s with
  | nil => rfl
  | cons a l ih => rw [List.foldl_cons, ih, h]

@[simp] theorem outsideUpload_logEvent (e : Event) (s : State) : outsideUpload (logEvent e s) = outsideUpload s := by
  rw [logEvent_frame]; rfl

@[simp] theorem outsideUpload_logOnce (was i : Nat) (e : Event) (s : State) : outsideUpload (logOnce was i e s) = outsideUpload s := by
  simp [logOnce]

@[simp] theorem outsideUpload_noteOccupancy (i n : Nat) (s : State) : outsideUpload (noteOccupancy i n s) = outsideUpload s := rfl

@[simp] theorem outsideUpload_clearPoison (a n : Nat) (s : State) : outsideUpload (clearPoison a n s) = outsideUpload s := rfl

@[simp] theorem outsideUpload_eccUncorrectable (a : Nat) (s : State) : outsideUpload (eccUncorrectable a s) = outsideUpload s := by
  simp [eccUncorrectable]

@[simp] theorem outsideUpload_dataLost (s : State) : outsideUpload (dataLost s) = outsideUpload s := rfl

@[simp] theorem outsideUpload_makeItem (k : ItemKind) (s : State) : outsideUpload (makeItem k s) = outsideUpload s := by
  simp [makeItem]

@[simp] theorem outsideUpload_releaseSlots (s : State) : outsideUpload (releaseSlots s) = outsideUpload s := rfl

@[simp] theorem outsideUpload_makeCrop (p : CmpPage) (b : Blob) (s : State) :
    outsideUpload (makeCrop p b s).2.2 = outsideUpload s := by
  simp only [makeCrop]
  repeat' split
  all_goals simp

@[simp] theorem outsideUpload_modPage (n : PageKey) (g : CmpPage → CmpPage) (s : State) :
    outsideUpload (modPage n g s) = outsideUpload s := outsideUpload_mk _ _ _ _ _ _ _ rfl rfl

@[simp] theorem outsideUpload_closeBlob (page : PageKey) (b : Blob) (s : State) :
    outsideUpload (closeBlob page b s) = outsideUpload s := by
  unfold closeBlob
  split <;> simp

@[simp] theorem outsideUpload_finishPage (n : PageKey) (s : State) : outsideUpload (finishPage n s) = outsideUpload s := by
  simp only [finishPage]
  repeat' split
  all_goals simp

@[simp] theorem outsideUpload_skipBand (b : CmpBand) (s : State) : outsideUpload (skipBand b s) = outsideUpload s := by
  simp [skipBand]

@[simp] theorem outsideUpload_modRef (id : Nat) (g : RefImage → RefImage) (s : State) :
    outsideUpload (modRef id g s) = outsideUpload s := rfl

@[simp] theorem outsideUpload_noteReference (s : State) : outsideUpload (noteReference s) = outsideUpload s := rfl

@[simp] theorem outsideUpload_failReference (id : Nat) (s : State) : outsideUpload (failReference id s) = outsideUpload s := by
  refine (outsideUpload_foldl (fun s n => ?_) _ _).trans (by simp)
  split <;> simp

@[simp] theorem outsideUpload_refBad (id : Nat) (s : State) : outsideUpload (refBad id s) = outsideUpload s := by
  simp [refBad]

@[simp] theorem outsideUpload_checkHeader (id : Nat) (r : RefImage) (s : State) :
    outsideUpload (checkHeader id r s) = outsideUpload s := by
  unfold checkHeader
  repeat' split
  all_goals simp

@[simp] theorem outsideUpload_checkBody (id : Nat) (r : RefImage) (s : State) :
    outsideUpload (checkBody id r s) = outsideUpload s := by
  simp [checkBody]

@[simp] theorem outsideUpload_takeUpTo (id total : Nat) (data : List Byte) (s : State) :
    outsideUpload (takeUpTo id total data s).2 = outsideUpload s := by
  unfold takeUpTo
  split <;> simp

theorem outsideUpload_appendUpload (data : List Byte) (s : State) : outsideUpload (appendUpload data s).2 = outsideUpload s := by
  simp only [appendUpload]
  repeat' split
  all_goals simp

/-! ### The requests served (R274 to R277) -/

theorem exec_readSegment (f : Frame) (index sub offset len : Nat) (s : State) :
    exec (.readSegment f index sub offset len) s = .next (request f (readSegmentOf f index sub offset len) s) := rfl

theorem exec_writeSegment (f : Frame) (index sub offset : Nat) (data : List Byte) (final : Bool) (s : State) :
    exec (.writeSegment f index sub offset data final) s = controlWrite f (writeSegmentOf f index sub offset data final) s := rfl

theorem exec_scratchWrite (f : Frame) (offset : Nat) (data : List Byte) (e : Ecc) (s : State) :
    exec (.scratchWrite f offset data e) s = .next (request f (scratchWriteOf f offset data e) s) := rfl

theorem exec_reference (f : Frame) (offset : Nat) (data : List Byte) (s : State) :
    exec (.reference f offset data) s = .next (request f (referenceOf f offset data) s) := rfl

/-- An answer that is no CONTROL answer changes the host's part alone. -/
theorem respond_leaves {host : HostStream} (typ code : Nat) (data : List Byte) (h : v = { s with host := host }) :
    respond f typ code data v = { s with host := (respond f typ code data v).host } := by
  rw [respond_frame, h]

section
variable (hshaped : Shaped s = true) (hserved : requestServed f s = true)
include hshaped hserved

theorem read_served (index sub : Nat) : ∃ t, exec (.read f index sub) s = .next t ∧
    ((readObject index sub (heard f s)).1 ≠ 0 → Answered f 0x84 (readObject index sub (heard f s)).1 [] s t) ∧
    ((readObject index sub (heard f s)).1 = 0 → (readObject index sub (heard f s)).2.1.length ≤ responseRoom s →
      Answered f 0x84 0 (readObject index sub (heard f s)).2.1 s t) ∧
    ((readObject index sub (heard f s)).1 = 0 → responseRoom s < (readObject index sub (heard f s)).2.1.length →
      Answered f 0x84 0x05040001 [] s t) ∧
    ReadLeaves s t := by
  have hlisten := listening_heard (f := f) hshaped
  refine ⟨controlRead f index sub (heard f s), by rw [exec_read, request_served hserved hshaped], fun h => ?_, fun h hfits => ?_,
    fun h hlong => ?_, readLeaves_controlRead ..⟩
  · rw [controlRead_refused h]
    exact answered_answerTsp (hlisten.readObject ..) ..
  · rw [controlRead_fits h hfits]
    exact answered_answerTsp (hlisten.readObject ..) ..
  · rw [controlRead_tooLong h hlong]
    exact answered_answerTsp hlisten ..

theorem write_readOnly {index sub : Nat} {r : Row} (data : List Byte) (hrow : findRow index sub = some r) (hro : r.acc = .ro) :
    ∃ t, exec (.write f index sub data) s = .next t ∧ Answered f 0x84 0x06010002 [] s t ∧ AnswerLeaves s t :=
  ⟨answerTsp f abortReadOnly [] (heard f s), by rw [exec_write, controlWrite_served hserved, writeObject_readOnly hrow hro]; rfl,
    answered_answerTsp (listening_heard hshaped) .., answerLeaves_answerTsp _ _ rfl⟩

theorem write_plain {index sub : Nat} {data : List Byte} {r : Row} (hplain : PlainWrite index sub r (leNat data) (heard f s))
    (heffect : hasEffect (objKey index sub) = false) (hlength : data.length = r.ty.size) :
    ∃ t, exec (.write f index sub data) s = .next t ∧ Answered f 0x84 0 [] s t ∧
      sparseGet (objKey index sub) (keyDefault (objKey index sub)) t.dict.held = leNat data ∧
      (∀ k d, k ≠ objKey index sub → sparseGet k d t.dict.held = sparseGet k d s.dict.held) ∧
      t = { s with dict := { s.dict with reply := t.dict.reply, held := t.dict.held }, host := t.host,
                   cfg := if keyInSets (objKey index sub) then (noteWrite s).cfg else s.cfg } := by
  have hlisten : Listening f s (Written index sub (leNat data) (heard f s)) := by
    rw [written_frame]
    exact (listening_heard hshaped).congr rfl rfl
  have hheld : (answerTsp f 0 [] (Written index sub (leNat data) (heard f s))).dict.held =
      sparseSet (objKey index sub) (keyDefault (objKey index sub)) (leNat data) s.dict.held := by
    rw [answerTsp_frame, written_frame]
    rfl
  refine ⟨answerTsp f 0 [] (Written index sub (leNat data) (heard f s)), ?_, answered_answerTsp hlisten .., ?_, fun k d hne => ?_, ?_⟩
  · rw [exec_write, controlWrite_served hserved, writeObject_plain hplain heffect hlength]
    rfl
  · rw [hheld, sparseGet_set_self]
  · rw [hheld, sparseGet_set_ne _ _ _ _ _ _ hne]
  · rw [answerTsp_frame, written_frame, cfg_noteWrite_heard]
    rfl

theorem readSegment_start {index sub : Nat} (len : Nat) (h : (readObject index sub (heard f s)).1 = 0)
    (hdomain : isDomain index sub = true) :
    ∃ t, exec (.readSegment f index sub 0 len) s = .next t ∧
      Answered f 0x84 0 ((readObject index sub (heard f s)).2.1.take (min len (responseRoom s))) s t ∧ ReadLeaves s t := by
  have hroom : responseRoom (readObject index sub (heard f s)).2.2 = responseRoom s := responseRoom_readObject
  refine ⟨serveUpload f index sub 0 len (readObject index sub (heard f s)).2.1 (readObject index sub (heard f s)).2.2, ?_, ?_,
    readLeaves_serveUpload _⟩
  · rw [exec_readSegment, request_served hserved hshaped, readSegmentOf_start h hdomain]
  · rw [← hroom]
    exact answered_serveUpload ((listening_heard hshaped).readObject ..) _

theorem readSegment_noUpload {index sub offset : Nat} (len : Nat) (hoffset : 0 < offset) (hbank : isBank index = false)
    (hup : (laneOf f.lane.val s).up = none) : ∃ t, exec (.readSegment f index sub offset len) s = .next t ∧
      Answered f 0x84 (if accessOf index sub ≠ 0 then accessOf index sub
        else if isDomain index sub = true then 0x05030000 else 0x05040001) [] s t ∧ AnswerLeaves s t := by
  have hup' : (laneOf f.lane.val (heard f s)).up = none := by
    rw [laneOf_heard_self (lt_lanes_length_of_shaped hshaped f.lane)]
    exact hup
  rw [exec_readSegment, request_served hserved hshaped, readSegmentOf_noUpload hoffset hbank hup']
  exact ⟨_, rfl, answered_answerTsp (listening_heard hshaped) .., answerLeaves_answerTsp _ _ rfl⟩

section
variable {index sub offset : Nat} {data : List Byte} (hdomain : isDomain index sub = true) (hupdate : index ≠ 0x2E70)
  (haccess : accessRefusal index sub (offset + data.length) (heard f s) = none)
include hdomain hupdate haccess

theorem writeSegment_refused (final : Bool) (hnext : downloadSoFar f.lane.val index sub offset (heard f s) = none) :
    ∃ t, exec (.writeSegment f index sub offset data final) s = .next t ∧ Answered f 0x84 0x05030000 [] s t ∧ AnswerLeaves s t :=
  ⟨answerTsp f abortToggle [] (heard f s),
    by rw [exec_writeSegment, controlWrite_served hserved, writeSegmentOf_refused hdomain hupdate haccess hnext]; rfl,
    answered_answerTsp (listening_heard hshaped) .., answerLeaves_answerTsp _ _ rfl⟩

theorem writeSegment_gathers {got : List Byte} (hbank : isBank index = false)
    (hnext : downloadSoFar f.lane.val index sub offset (heard f s) = some got) :
    ∃ t, exec (.writeSegment f index sub offset data false) s = .next t ∧ Answered f 0x84 0 [] s t ∧
      (laneOf f.lane.val t).down = some (index, sub, got ++ data) ∧ AnswerLeaves s t := by
  have hlisten := listening_heard (f := f) hshaped
  have hset : Listening f s (setDown f.lane.val (some (index, sub, got ++ data)) (heard f s)) := by
    refine hlisten.modLane ?_ ?_ ?_ <;> exact fun _ => rfl
  refine ⟨answerTsp f 0 [] (setDown f.lane.val (some (index, sub, got ++ data)) (heard f s)), ?_, answered_answerTsp hset .., ?_,
    answerLeaves_answerTsp _ _ rfl⟩
  · rw [exec_writeSegment, controlWrite_served hserved, writeSegmentOf_gathers hdomain hupdate haccess hbank hnext]
    rfl
  · rw [down_answerTsp hset, setDown, laneOf_modLane_self _ _ _ hlisten.lane]

end

/-- A request that is answered, and changes nothing else. -/
theorem responds_only {g : State → State} {typ code : Nat} {data : List Byte} (h : g (heard f s) = respond f typ code data (heard f s)) :
    ∃ t, Host.Outcome.next (request f g s) = (.next t : Host.Outcome State Fault Refusal) ∧ Answered f typ code data s t ∧
      t = { s with host := t.host } :=
  ⟨_, congrArg _ ((request_served hserved hshaped g).trans h), answered_respond (listening_heard hshaped) .., respond_leaves _ _ _ rfl⟩

theorem scratchWrite_inside {offset : Nat} {data : List Byte} (himaging : imaging s = true)
    (hinside : inScratch (regionBase rScratch s + offset) data.length s = true) (hclean : s.cist.poisoned = [])
    (hwf : Memory.wf (scratchDefault s) s.cist.scratch = true) :
    ∃ t, exec (.scratchWrite f offset data .clean) s = .next t ∧ Answered f 0x85 0 [] s t ∧
      scratchRead (regionBase rScratch s + offset) data.length t = data ∧
      (∀ b, (b < regionBase rScratch s + offset ∨ regionBase rScratch s + offset + data.length ≤ b) →
        cellGet (scratchDefault t) b t.cist.scratch = cellGet (scratchDefault s) b s.cist.scratch) ∧
      t = { s with cist := { s.cist with
                     scratch := t.cist.scratch,
                     highWater := if data = [] then s.cist.highWater
                       else modifyAt (fun n => max n (offset + data.length)) rScratch s.cist.highWater },
                   host := t.host } := by
  obtain ⟨x, hx⟩ : ∃ x, x = scratchWriteAt (regionBase rScratch s + offset) data (heard f s) := ⟨_, rfl⟩
  obtain ⟨m, hframe⟩ : ∃ m, x = { heard f s with cist := { s.cist with
      scratch := m
      highWater := if data = [] then s.cist.highWater
        else modifyAt (fun n => max n (offset + data.length)) rScratch s.cist.highWater } } :=
    ⟨_, hx.trans (scratchWriteAt_frame (v := heard f s) hclean offset data)⟩
  have hlisten : Listening f s x := by
    rw [hframe]
    exact (listening_heard hshaped).congr rfl rfl
  have hcist : (respond f 0x85 0 [] x).cist = x.cist := by rw [respond_frame]
  have hbyte (b : Nat) : scratchByte b (respond f 0x85 0 [] x) = scratchByte b x :=
    scratchByte_of_memory (by rw [hcist]) (by rw [hcist]) b
  refine ⟨respond f 0x85 0 [] x, ?_, answered_respond hlisten .., ?_, fun b hb => ?_, by rw [respond_frame, hframe]; rfl⟩
  · rw [exec_scratchWrite, request_served hserved hshaped, scratchWriteOf_inside (v := heard f s) himaging hinside hclean, hx]
    rfl
  · rw [scratchRead_congr fun i _ => hbyte _, hx]
    exact scratchRead_scratchWriteAt_self _ _ hwf
  · refine (hbyte b).trans ?_
    rw [hx]
    exact scratchByte_scratchWriteAt_ne hb _

theorem reference_next {offset : Nat} {data : List Byte} (himaging : imaging s = true) (hopen : s.cmp.upload.isSome = true)
    (hoffset : offset = uploadBytes s) : ∃ t, exec (.reference f offset data) s = .next t ∧ Answered f 0x87 0 [] s t ∧
      t.cmp = (appendUpload data (heard f s)).2.cmp ∧
      t = { s with host := t.host, cmp := t.cmp, cist := t.cist, ecat := t.ecat, ev := t.ev, mbox := t.mbox } := by
  obtain ⟨hframe, hlanes, hout⟩ := outsideUpload_iff.1 (outsideUpload_appendUpload data (heard f s))
  refine ⟨respond f 0x87 0 [] (appendUpload data (heard f s)).2, ?_,
    answered_respond ((listening_heard hshaped).congr hlanes hout) .., by rw [respond_frame], ?_⟩
  · rw [exec_reference, request_served hserved hshaped, referenceOf_next (v := heard f s) himaging hopen hoffset]
  · rw [respond_frame, hframe]
    rfl

end

/-- Settles O32: each request hears its packet, acts, and answers on its lane. -/
theorem tspRequests : Obligations.TspRequests := by
  unfold Obligations.TspRequests
  intro answered
  refine ⟨fun f s hshaped hserved => ?_, fun f a index sub s => read_stored⟩
  intro u
  refine ⟨read_served hshaped hserved, fun index sub data r => ?_, fun index sub offset len => ?_,
    fun index sub offset data final hdomain hbank hupdate haccess => ?_, fun offset data => ?_, fun offset len => ?_,
    fun offset data => ?_⟩
  · exact ⟨write_readOnly hshaped hserved data, write_plain hshaped hserved⟩
  · exact ⟨readSegment_start hshaped hserved len, readSegment_noUpload hshaped hserved len⟩
  · exact ⟨writeSegment_refused hshaped hserved hdomain hupdate haccess final,
      fun got => writeSegment_gathers hshaped hserved hdomain hupdate haccess hbank⟩
  · exact ⟨scratchWrite_inside hshaped hserved,
      fun himaging houtside => responds_only hshaped hserved (scratchWriteOf_outside himaging houtside),
      fun himaging => responds_only hshaped hserved (scratchWriteOf_notImaging himaging)⟩
  · exact ⟨fun himaging hinside hroom hclean => responds_only hshaped hserved (scratchReadOf_inside himaging hinside hroom hclean),
      fun himaging houtside => responds_only hshaped hserved (scratchReadOf_outside himaging houtside)⟩
  · exact ⟨fun himaging => responds_only hshaped hserved (referenceOf_notImaging himaging),
      fun himaging hopen h => responds_only hshaped hserved (referenceOf_notNext himaging hopen h),
      reference_next hshaped hserved⟩

end Sys2Proof.Machine
end

section
/-!
PROOFS. What the functions of motion leave outside the axes (11_motion R283 to R316).

`apart` reads a state but for its axes, of which it keeps the number; for `errors` also but for the sticky bits of motion, and for `update`
also but for the transport group and the mailbox of the MP. Each function that the commands and the updates of an axis call has one lemma,
in the order of the model's files.
-/
namespace Sys2Proof.Machine

/-- A state but for what the functions of motion change. -/
def apart (errors update : Bool) (s : State) : State :=
  { s with
    mbox := if update then State.reset.mbox else s.mbox
    mot := { s.mot with
      axes := s.mot.axes.map (fun _ => Axis.reset)
      sticky := if errors then 0 else s.mot.sticky
      transport := if update then Transport.reset else s.mot.transport } }

section
variable {s t : State}

theorem apart_axes_iff : apart false false t = apart false false s ↔
    t = { s with mot := { s.mot with axes := t.mot.axes } } ∧ t.mot.axes.length = s.mot.axes.length := by
  constructor
  · intro h
    have hparts : t = { apart false false t with mot := { (apart false false t).mot with axes := t.mot.axes } } := rfl
    have hlength := congrArg (fun x => x.mot.axes.length) h
    exact ⟨hparts.trans (by rw [h]; rfl), by simpa [apart] using hlength⟩
  · rintro ⟨hframe, hlength⟩
    rw [hframe]
    simp only [apart, List.map_const', hlength]

theorem apart_errors_iff : apart true false t = apart true false s ↔
    t = { s with mot := { s.mot with axes := t.mot.axes, sticky := t.mot.sticky } } ∧
    t.mot.axes.length = s.mot.axes.length := by
  constructor
  · intro h
    have hparts : t = { apart true false t with
        mot := { (apart true false t).mot with axes := t.mot.axes, sticky := t.mot.sticky } } := rfl
    have hlength := congrArg (fun x => x.mot.axes.length) h
    exact ⟨hparts.trans (by rw [h]; rfl), by simpa [apart] using hlength⟩
  · rintro ⟨hframe, hlength⟩
    rw [hframe]
    simp only [apart, List.map_const', hlength, if_true]

/-- The frame of an update of an axis. -/
theorem frame_of_apart_update (h : apart true true t = apart true true s) : t = { s with
    mbox := t.mbox
    mot := { s.mot with axes := t.mot.axes, sticky := t.mot.sticky, transport := t.mot.transport } } := by
  have hparts : t = { apart true true t with
      mbox := t.mbox
      mot := { (apart true true t).mot with
        axes := t.mot.axes, sticky := t.mot.sticky, transport := t.mot.transport } } := rfl
  exact hparts.trans (by rw [h]; rfl)

variable {e u : Bool} (h : apart e u t = apart e u s)
include h

theorem dict_of_apart : t.dict = s.dict := by simpa [apart] using congrArg State.dict h

theorem val_of_apart (r : Ref) : val r t = val r s := by rw [val, val, dict_of_apart h]

end

variable {e u : Bool}

@[simp] theorem apart_ite (c : Prop) {_ : Decidable c} (s t : State) :
    apart e u (if c then s else t) = if c then apart e u s else apart e u t := apply_ite ..

@[simp] theorem apart_foldl {α : Type} {f : State → α → State} (h : ∀ s a, apart e u (f s a) = apart e u s) (l : List α)
    (s : State) : apart e u (l.foldl f s) = apart e u s := by
  induction l generalizing s with
  | nil => rfl
  | cons a l ih => rw [List.foldl_cons, ih, h]

/-! ### Machine/Ops and Machine/Events -/

@[simp] theorem apart_modAxis (a : Nat) (f : Axis → Axis) (s : State) : apart e u (modAxis a f s) = apart e u s := by
  simp [apart, modAxis]

@[simp] theorem apart_stick (i : Nat) (s : State) :
    apart true u { s with mot := { s.mot with sticky := stick i s.mot.sticky } } = apart true u s := rfl

@[simp] theorem apart_mpMessage (typ : Nat) (payload : List Byte) (s : State) :
    apart e true (mpMessage typ payload s) = apart e true s := rfl

/-! ### Machine/Motion -/

@[simp] theorem apart_setTransport (f : Transport → Transport) (s : State) :
    apart e true (setTransport f s) = apart e true s := rfl

@[simp] theorem apart_modSeg (a : Nat) (f : SegList → SegList) (s : State) : apart e u (modSeg a f s) = apart e u s := by
  simp [modSeg]

@[simp] theorem apart_gatesLow (a : Nat) (s : State) : apart e u (gatesLow a s) = apart e u s := by simp [gatesLow]

@[simp] theorem apart_standStill (st : AxisState) (a : Nat) (s : State) : apart e u (standStill st a s) = apart e u s := by
  simp [standStill]

@[simp] theorem apart_energiseAxis (a : Nat) (s : State) : apart e u (energiseAxis a s) = apart e u s := by simp [energiseAxis]

@[simp] theorem apart_axisOff (a : Nat) (s : State) : apart e u (axisOff a s) = apart e u s := by simp [axisOff]

@[simp] theorem apart_currentStep (a : Nat) (s : State) : apart e u (currentStep a s) = apart e u s := by
  simp only [currentStep, apart_ite]
  split
  · rfl
  · split <;> simp

@[simp] theorem apart_request11 (a : Nat) (g : AxisGoal) (s : State) : apart e u (request11 a g s) = apart e u s := by
  simp [request11]

@[simp] theorem apart_leaveFollow (a : Nat) (s : State) : apart e u (leaveFollow a s) = apart e u s := by simp [leaveFollow]

@[simp] theorem apart_normalStop (a : Nat) (s : State) : apart e u (normalStop a s) = apart e u s := by simp [normalStop]

@[simp] theorem apart_emergencyStop (a : Nat) (s : State) : apart e u (emergencyStop a s) = apart e u s := by
  simp [emergencyStop]

@[simp] theorem apart_barOthers (a : Nat) (s : State) : apart e u (barOthers a s) = apart e u s := by
  unfold barOthers
  split <;> simp

@[simp] theorem apart_stopList (a reason : Nat) (s : State) : apart e u (stopList a reason s) = apart e u s := by
  simp [stopList]

@[simp] theorem apart_endRun (a reason : Nat) (s : State) : apart e u (endRun a reason s) = apart e u s := by simp [endRun]

@[simp] theorem apart_enterError (a : Nat) (s : State) : apart true u (enterError a s) = apart true u s := by
  simp only [enterError, apart_stick, apart_modAxis, apart_gatesLow, apart_stopList]

@[simp] theorem apart_gateShutdown (a bit : Nat) (s : State) : apart true u (gateShutdown a bit s) = apart true u s := by
  simp [gateShutdown]

@[simp] theorem apart_parkFade (a : Nat) (s : State) : apart e u (parkFade a s) = apart e u s := by simp [parkFade]

@[simp] theorem apart_parkAxis (a : Nat) (s : State) : apart e u (parkAxis a s) = apart e u s := by simp [parkAxis]

@[simp] theorem apart_deEnergiseAxis (a : Nat) (s : State) : apart e u (deEnergiseAxis a s) = apart e u s := by
  simp [deEnergiseAxis]

@[simp] theorem apart_retainAfterFault (a : Nat) (s : State) : apart e u (retainAfterFault a s) = apart e u s := by
  simp [retainAfterFault]

@[simp] theorem apart_beginCaptureMove (a : Nat) (target : Int) (s : State) :
    apart e u (beginCaptureMove a target s) = apart e u s := by
  simp [beginCaptureMove]

/-! ### Machine/Segments -/

@[simp] theorem apart_startList (a : Nat) (s : State) : apart e u (startList a s) = apart e u s := by simp [startList]

@[simp] theorem apart_tieFollowers (m : SegMove) (s : State) : apart e u (tieFollowers m s) = apart e u s := by
  simp [tieFollowers]

@[simp] theorem apart_startNext (a : Nat) (s : State) : apart e u (startNext a s) = apart e u s := by
  simp only [startNext]
  split <;> simp

@[simp] theorem apart_sendNotices (a : Nat) (codes : List Nat) (s : State) :
    apart e true (sendNotices a codes s) = apart e true s := by
  simp [sendNotices]

@[simp] theorem apart_reachFront (a : Nat) (s : State) : apart e true (reachFront a s) = apart e true s := by
  unfold reachFront
  split <;> simp

@[simp] theorem apart_endPart (a : Nat) (part : PlanPart) (s : State) : apart e true (endPart a part s) = apart e true s := by
  unfold endPart
  split
  · rfl
  · simp only [apart_ite]
    split
    · split
      · split <;> simp
      · simp
    · simp

@[simp] theorem apart_afterStandstill (a : Nat) (s : State) : apart true u (afterStandstill a s) = apart true u s := by
  unfold afterStandstill
  extract_lets x wasEmergency s₁ s₂ s₃ reached s₄
  have h₂ : apart true u s₂ = apart true u s := by
    simp only [s₂, s₁]
    split <;> simp
  have h₃ : apart true u s₃ = apart true u s := (apart_modAxis ..).trans h₂
  have h₄ : apart true u s₄ = apart true u s := (apart_modAxis ..).trans h₂
  repeat' split
  all_goals simp [h₂, h₃, h₄]

@[simp] theorem apart_comeToRest (a : Nat) (s : State) : apart true u (comeToRest a s) = apart true u s := by simp [comeToRest]

@[simp] theorem apart_followUpdate (a : Nat) (s : State) : apart e u (followUpdate a s) = apart e u s := by simp [followUpdate]

@[simp] theorem apart_segGoto (a pc : Nat) (s : State) : apart e u (segGoto a pc s) = apart e u s := by simp [segGoto]

@[simp] theorem apart_segAdvance (a : Nat) (s : State) : apart e u (segAdvance a s) = apart e u s := by simp [segAdvance]

@[simp] theorem apart_segPause (a : Nat) (s : State) : apart e u (segPause a s) = apart e u s := by simp [segPause]

@[simp] theorem apart_segWaits (a : Nat) (s : State) : apart e u (segWaits a s) = apart e u s := by simp [segWaits]

@[simp] theorem apart_takeIn (a mask leader : Nat) (target : Int) (turn : Bool) (s : State) :
    apart e u (takeIn a mask leader target turn s) = apart e u s := by
  simp [takeIn]

@[simp] theorem apart_holdBarred (k : Nat × Option Nat) (a : Nat) (s : State) : apart e u (holdBarred k a s) = apart e u s := by
  simp [holdBarred]

@[simp] theorem apart_linkedMove (a mask : Nat) (s : State) : apart e u (linkedMove a mask s) = apart e u s := by
  simp [linkedMove]

@[simp] theorem apart_syncAll (a mask tag : Nat) (s : State) : apart e u (syncAll a mask tag s) = apart e u s := by
  simp [syncAll]

@[simp] theorem apart_segEnd (a : Nat) (s : State) : apart e u (segEnd a s) = apart e u s := by simp [segEnd]

@[simp] theorem apart_segDo (a : Nat) (op : SegOp) (s : State) : apart e true (segDo a op s) = apart e true s := by
  simp only [segDo]
  repeat' split
  all_goals simp

@[simp] theorem apart_segUpdate (a : Nat) (s : State) : apart e true (segUpdate a s) = apart e true s := by
  simp only [segUpdate]
  repeat' split
  all_goals simp

@[simp] theorem apart_profileUpdate (a : Nat) (s : State) : apart true true (profileUpdate a s) = apart true true s := by
  simp only [profileUpdate]
  split <;> simp

@[simp] theorem apart_captureUpdate (a : Nat) (s : State) : apart e u (captureUpdate a s) = apart e u s := by
  unfold captureUpdate
  split <;> simp

/-! ### Machine/Pacer -/

@[simp] theorem apart_pacerLeft (s : State) : apart e true (pacerLeft s) = apart e true s := by simp [pacerLeft]

@[simp] theorem apart_groupTakeUp (s : State) : apart e true (groupTakeUp s) = apart e true s := by simp [groupTakeUp]

@[simp] theorem apart_paceAxis (v : Frac) (a : Nat) (s : State) : apart e u (paceAxis v s a) = apart e u s := by simp [paceAxis]

@[simp] theorem apart_groupRests (s : State) : apart true true (groupRests s) = apart true true s := by
  unfold groupRests
  extract_lets t wasEmergency s₁ s₂
  have h : apart true true s₂ = apart true true s := by
    refine (apart_foldl (fun s a => ?_) _ _).trans (apart_setTransport ..)
    simp only
    repeat' split
    all_goals simp
  split
  · simp [h]
  · split
    · exact h
    · split <;> simp [h]

@[simp] theorem apart_groupUpdate (s : State) : apart true true (groupUpdate s) = apart true true s := by simp [groupUpdate]

@[simp] theorem apart_axisUpdate (a : Nat) (s : State) : apart true true (axisUpdate a s) = apart true true s := by
  simp [axisUpdate]

end Sys2Proof.Machine
end

section
/-!
PROOFS. One axis: its reads after an update, and what its commands change (11_motion R283, R289 to R292, R306, R307).
-/
namespace Sys2Proof.Machine

variable {a b : Nat} {s t : State}

/-! ### Reads after updates -/

theorem axes_length_of_shaped (h : Shaped s = true) : s.mot.axes.length = 6 := by
  simp only [Shaped, Bool.and_eq_true, decide_eq_true_eq] at h
  omega

theorem axis_lt_of_shaped (h : Shaped s = true) (a : Fin 6) : a.val < s.mot.axes.length := by
  rw [axes_length_of_shaped h]
  exact a.isLt

@[simp] theorem val_modAxis (r : Ref) (a : Nat) (f : Axis → Axis) (s : State) : val r (modAxis a f s) = val r s := rfl

@[simp] theorem sval_modAxis (w : Nat) (r : Ref) (a : Nat) (f : Axis → Axis) (s : State) :
    sval w r (modAxis a f s) = sval w r s := rfl

/-- What an update of one axis leaves of that axis it leaves of every axis. -/
theorem axisOf_modAxis_of_eq {β : Type} (v : Axis → β) {f : Axis → Axis} (h : v (f (axisOf a s)) = v (axisOf a s)) (b : Nat) :
    v (axisOf b (modAxis a f s)) = v (axisOf b s) := by
  by_cases hb : b = a
  · subst hb
    by_cases hlt : b < s.mot.axes.length
    · rw [axisOf_modAxis_self s b f hlt, h]
    · rw [modAxis, modifyAt_out f b _ (Nat.le_of_not_lt hlt)]
  · rw [axisOf_modAxis_ne s a b f hb]

/-- An update that leaves the axis as it is leaves the state as it is. -/
theorem modAxis_eq_self {f : Axis → Axis} (h : f (axisOf a s) = axisOf a s) : modAxis a f s = s := by
  have haxes : modifyAt f a s.mot.axes = s.mot.axes := by
    refine List.ext_getElem (modifyAt_length ..) fun i hi hi' => ?_
    have hread := axisOf_modAxis_of_eq id h i
    simpa [axisOf, modAxis, List.getD_eq_getElem?_getD, hi, hi'] using hread
  rw [modAxis, haxes]

/-- `t` is `s` but for the axis `a`. -/
structure OnlyAxis (a : Nat) (s t : State) : Prop where
  others : ∀ j, j ≠ a → axisOf j t = axisOf j s
  apart : apart false false t = apart false false s

theorem OnlyAxis.frame (h : OnlyAxis a s t) : t = { s with mot := { s.mot with axes := t.mot.axes } } :=
  (apart_axes_iff.1 h.apart).1

/-- The frame as the statements write it. -/
theorem OnlyAxis.and (h : OnlyAxis a s t) :
    (∀ j, j ≠ a → axisOf j t = axisOf j s) ∧ t = { s with mot := { s.mot with axes := t.mot.axes } } := ⟨h.others, h.frame⟩

theorem OnlyAxis.length (h : OnlyAxis a s t) : t.mot.axes.length = s.mot.axes.length := (apart_axes_iff.1 h.apart).2

theorem OnlyAxis.refl (a : Nat) (s : State) : OnlyAxis a s s := ⟨fun _ _ => rfl, rfl⟩

theorem OnlyAxis.trans {u : State} (h : OnlyAxis a s t) (h' : OnlyAxis a t u) : OnlyAxis a s u :=
  ⟨fun j hj => (h'.others j hj).trans (h.others j hj), h'.apart.trans h.apart⟩

theorem onlyAxis_modAxis (a : Nat) (f : Axis → Axis) (s : State) : OnlyAxis a s (modAxis a f s) :=
  ⟨fun j hj => axisOf_modAxis_ne s a j f hj, apart_modAxis ..⟩

theorem OnlyAxis.modAxis (h : OnlyAxis a s t) (f : Axis → Axis) : OnlyAxis a s (modAxis a f t) :=
  h.trans (onlyAxis_modAxis a f t)

theorem axisOf_modAxis_only (h : OnlyAxis a s t) (ha : a < s.mot.axes.length) (f : Axis → Axis) :
    axisOf a (modAxis a f t) = f (axisOf a t) :=
  axisOf_modAxis_self t a f (by rwa [h.length])

/-! ### Axes that move together (R297, R310) -/

theorem leaderOf_of_link (h : (axisOf b t).link = (axisOf b s).link) : leaderOf b t = leaderOf b s := by
  simp only [leaderOf, h]

theorem leaderOf_self (h : (axisOf a s).link = none) : leaderOf a s = a := by simp only [leaderOf, h]

/-- The group of an axis that is not the pacer's. -/
theorem groupAxes_of_owner (h : (axisOf a s).owner ≠ .pacer) :
    groupAxes a s = axisNumbers.filter (fun b => decide (leaderOf b s = leaderOf a s)) := by
  simp [groupAxes, h]

theorem groupAxes_congr (hs : (axisOf a s).owner ≠ .pacer) (ht : (axisOf a t).owner ≠ .pacer)
    (hlinks : ∀ b, (axisOf b t).link = (axisOf b s).link) : groupAxes a t = groupAxes a s := by
  simp only [groupAxes_of_owner hs, groupAxes_of_owner ht, leaderOf_of_link (hlinks _)]

theorem leaveFollow_eq_self (h : (axisOf a s).owner ≠ .follow) : leaveFollow a s = s := modAxis_eq_self (if_neg h)

/-! ### The start of an axis (R307) -/

/-- An axis but for what a start or a request changes. -/
def startKept (x : Axis) : Axis :=
  { x with
    state := .off, energised := false, stillSince := none, holdDelayOver := false, currentTarget := 0, fade := none
    parkAfterFade := false, task := .none, goal := none, atTarget := false, target := none, link := none }

theorem onlyAxis_energiseAxis (a : Nat) (s : State) : OnlyAxis a s (energiseAxis a s) := by
  unfold energiseAxis
  simp only
  repeat' split
  all_goals first | exact onlyAxis_modAxis .. | exact OnlyAxis.refl ..

theorem startKept_energiseAxis (a b : Nat) (s : State) :
    startKept (axisOf b (energiseAxis a s)) = startKept (axisOf b s) := by
  unfold energiseAxis
  simp only
  repeat' split
  all_goals first | exact axisOf_modAxis_of_eq startKept rfl b | rfl

theorem axisOf_energiseAxis_off (ha : a < s.mot.axes.length) (h : (axisOf a s).state = .off) :
    axisOf a (energiseAxis a s) = { axisOf a s with
      state := .holding, energised := true, stillSince := some s.clk, holdDelayOver := false
      currentTarget := 100 * val (Obj.HOLD_CURRENT a) s } := by
  simp only [energiseAxis, h, if_true, axisOf_modAxis_self s a _ ha, milli]

theorem axisOf_energiseAxis_parked (ha : a < s.mot.axes.length) (h : (axisOf a s).state = .parked) :
    axisOf a (energiseAxis a s) = { axisOf a s with
      state := .holding, energised := true, stillSince := some s.clk, holdDelayOver := false
      currentTarget := 100 * val (Obj.HOLD_CURRENT a) s
      fade := some (0, 100 * val (Obj.HOLD_CURRENT a) s, 100 * val (Obj.PARK_FADE a) s, 0) } := by
  simp [energiseAxis, h, axisOf_modAxis_self s a _ ha, milli]

theorem energiseAxis_carrying (hoff : (axisOf a s).state ≠ .off) (hparked : (axisOf a s).state ≠ .parked)
    (hfade : (axisOf a s).parkAfterFade = false) : energiseAxis a s = s := by
  simp [energiseAxis, hoff, hparked, hfade]

/-- An energised axis holds, or is in the state it was in. -/
theorem state_energiseAxis (ha : a < s.mot.axes.length) :
    (axisOf a (energiseAxis a s)).state = .holding ∨ (axisOf a (energiseAxis a s)).state = (axisOf a s).state := by
  simp only [energiseAxis]
  repeat' split
  all_goals simp [axisOf_modAxis_self s a _ ha]

/-! ### Requests (R286, R289) -/

theorem onlyAxis_request11 (a : Nat) (g : AxisGoal) (s : State) : OnlyAxis a s (request11 a g s) :=
  (onlyAxis_energiseAxis a s).modAxis _

theorem startKept_request11 (a : Nat) (g : AxisGoal) (b : Nat) (s : State) :
    startKept (axisOf b (request11 a g s)) = startKept (axisOf b s) :=
  (axisOf_modAxis_of_eq startKept rfl b).trans (startKept_energiseAxis a b s)

theorem axisOf_request11 (ha : a < s.mot.axes.length) (g : AxisGoal) (herror : (axisOf a s).state ≠ .error)
    (hdisabled : (axisOf a s).state ≠ .disabled) : axisOf a (request11 a g s) = { axisOf a (energiseAxis a s) with
      goal := some g, state := .moving, atTarget := false, holdDelayOver := false, stillSince := none } := by
  have hstate : ¬ ((axisOf a (energiseAxis a s)).state = .error ∨ (axisOf a (energiseAxis a s)).state = .disabled) := by
    rcases state_energiseAxis ha with h | h <;> simp [h, herror, hdisabled]
  rw [request11, axisOf_modAxis_only (onlyAxis_energiseAxis a s) ha, if_neg hstate]

theorem onlyAxis_command11 (a : Nat) (task : AxisTask) (target : Option Int) (g : AxisGoal) (s : State) :
    OnlyAxis a s (command11 a task target g s) :=
  (onlyAxis_request11 a g s).modAxis _

/-- An axis that runs a command: it moves for its request, from where it stands, and carries its current. -/
structure Runs (task : AxisTask) (target : Option Int) (g : AxisGoal) (x y : Axis) : Prop where
  goal : y.goal = some g
  task : y.task = task
  target : y.target = target
  state : y.state = .moving
  pos : y.pos = x.pos
  referenced : y.referenced = x.referenced
  owner : y.owner = x.owner
  energised : x.state = .off ∨ x.state = .parked → y.energised = true

theorem runs_command11 (ha : a < s.mot.axes.length) (herror : (axisOf a s).state ≠ .error)
    (hdisabled : (axisOf a s).state ≠ .disabled) (task : AxisTask) (target : Option Int) (g : AxisGoal) :
    Runs task target g (axisOf a s) (axisOf a (command11 a task target g s)) := by
  have hkept := startKept_energiseAxis a a s
  rw [command11, axisOf_modAxis_only (onlyAxis_request11 a g s) ha, axisOf_request11 ha g herror hdisabled]
  refine ⟨rfl, rfl, rfl, rfl, congrArg (·.pos) hkept, congrArg (·.referenced) hkept, congrArg (·.owner) hkept, ?_⟩
  rintro (h | h)
  · simp only [axisOf_energiseAxis_off ha h]
  · simp only [axisOf_energiseAxis_parked ha h]

/-! ### The rows of AXIS_COMMAND (R290, R291) -/

/-- The row of a command of Table 11.6. -/
def AxisCommand.row (via : Path) (a : Fin 6) : AxisCommand → Instr
  | .moveAbs => .moveAbs via a
  | .moveRel => .moveRel via a
  | .velocity => .velocity via a
  | .stop => .stop via a
  | .home => .home via a
  | .runList => .runList via a
  | .follow => .follow via a
  | .energise => .energise via a
  | .deEnergise => .deEnergise via a
  | .clearError => .clearError via a

/-- The code of a command of Table 11.6. -/
def AxisCommand.code : AxisCommand → Nat
  | .moveAbs => 1
  | .moveRel => 2
  | .velocity => 3
  | .stop => 4
  | .home => 5
  | .runList => 6
  | .follow => 7
  | .energise => 8
  | .deEnergise => 9
  | .clearError => 10

/-- What an accepted command of Table 11.6 does. -/
def AxisCommand.effect (a : Nat) (s : State) : AxisCommand → State
  | .moveAbs => commandMoveAbs a s
  | .moveRel => commandMoveRel a s
  | .velocity => commandVelocity a s
  | .stop => commandStop a s
  | .home => commandHome a s
  | .runList => startList a s
  | .follow => commandFollow a s
  | .energise => energiseAxis a s
  | .deEnergise => deEnergiseAxis a s
  | .clearError => commandClearError a s

theorem ofCode_code (c : AxisCommand) : AxisCommand.ofCode c.code = some c := by cases c <;> rfl

theorem exec_row (via : Path) (a : Fin 6) (c : AxisCommand) (s : State) :
    exec (c.row via a) s = writeCommand via (writeAxisCommand a.val c.code) s := by
  cases c <;> rfl

theorem commandRefused_iff (a : Nat) (c : AxisCommand) (s : State) : commandRefused a c s = true ↔
    axisEnabled a s = false ∨ s.modes.mode = .fault ∨ mstopActive s = true ∧ c ≠ .clearError ∨
    (axisOf a s).state = .error ∧ c ≠ .clearError ∨ (axisOf a s).owner = .pacer ∨ (axisOf a s).owner = .capture ∨
    ((axisOf a s).owner = .list ∨ (axisOf a s).owner = .follow) ∧ c ≠ .stop ∨
    (c = .home ∨ c = .runList ∨ c = .follow ∨ c = .deEnergise) ∧ (axisOf a s).moving = true ∨
    (axisOf a s).emergency = true ∧ c ≠ .clearError ∨ (axisOf a s).stopRamp = true ∧ c.motion = true := by
  simp only [commandRefused, Bool.or_eq_true, Bool.and_eq_true, Bool.not_eq_true', decide_eq_true_eq, decide_eq_false_iff_not,
    or_assoc, ne_eq]

section
variable {via : Path} {a : Fin 6} {c : AxisCommand} (hserved : served via s = true)
include hserved

theorem exec_row_refused (h : commandRefused a.val c s = true) :
    exec (c.row via a) s = .next (answerWrite via abortState s) := by
  rw [exec_row, writeCommand_served _ _ _ hserved, writeAxisCommand, ofCode_code]
  simp only [h, if_true]
  rfl

/-- Each of a list of commands that are refused. -/
theorem exec_rows_refused (l : List AxisCommand) (h : ∀ c ∈ l, commandRefused a.val c s = true) :
    ∀ i ∈ l.map (AxisCommand.row via a), exec i s = .next (answerWrite via abortState s) := by
  intro i hi
  obtain ⟨c, hc, rfl⟩ := List.mem_map.1 hi
  exact exec_row_refused hserved (h c hc)

theorem exec_row_accepted (h : commandRefused a.val c s = false) (hlist : c = .runList → segListOk a.val s = true) :
    exec (c.row via a) s = .next (answerWrite via 0 (c.effect a.val s)) := by
  rw [exec_row, writeCommand_served _ _ _ hserved, writeAxisCommand, ofCode_code]
  simp only [h, Bool.false_eq_true, if_false]
  cases c with
  | runList => simp only [hlist rfl, if_true]; rfl
  | _ => rfl

end

end Sys2Proof.Machine
end

section
/-!
PROOFS. The refusals of AXIS_COMMAND, AXIS_POSITION and the clears of the sticky bits (11_motion R289, R291, R292, R296, R317).
-/
namespace Sys2Proof.Machine

variable {via : Path} {s : State}

theorem exec_axisPositionWrite (hserved : served via s = true) (a : Fin 6) (v : BitVec 32) :
    exec (.axisPositionWrite via a v) s = (writeAxisPosition a.val v.toNat s).outcome via :=
  writeCommand_served _ _ _ hserved

theorem exec_motionStatusClear (hserved : served via s = true) (v : BitVec 16) :
    exec (.motionStatusClear via v) s = (writeMotionClear v.toNat s).outcome via := writeCommand_served _ _ _ hserved

theorem exec_axisStatusClear (hserved : served via s = true) (a : Fin 6) (v : BitVec 16) :
    exec (.axisStatusClear via a v) s = (writeAxisClear a.val v.toNat s).outcome via := writeCommand_served _ _ _ hserved

theorem toSigned_toNat (v : BitVec 32) : toSigned 32 v.toNat = v.toInt := by
  rw [toSigned, BitVec.toInt_eq_toNat_cond]
  split <;> split <;> omega

theorem exec_runList_badList (hserved : served via s = true) {a : Fin 6} (h : commandRefused a.val .runList s = false)
    (hlist : segListOk a.val s = false) : exec (.runList via a) s = .next (answerWrite via abortContent s) := by
  rw [show Instr.runList via a = AxisCommand.runList.row via a from rfl, exec_row, writeCommand_served _ _ _ hserved,
    writeAxisCommand, ofCode_code]
  simp only [h, hlist, Bool.false_eq_true, if_false]
  rfl

/-- Settles O34: each row that the state refuses is answered without effect (`commandRefused_iff`, `exec_rows_refused`), and a write of
AXIS_POSITION or of a clear changes its axis alone (`onlyAxis_modAxis`). -/
theorem axisCommandsAreRefused : Obligations.AxisCommandsAreRefused := by
  unfold Obligations.AxisCommandsAreRefused
  refine ⟨fun via a s hserved => ?_, fun via a v s hserved hshaped => ?_, fun via v a s hserved hshaped => ?_⟩
  · dsimp only
    have hrows := exec_rows_refused (a := a) hserved
    simp only [commandRefused_iff] at hrows
    refine ⟨fun h => ?_, fun h => ?_, fun h => ?_, fun h => ?_, fun h => ?_, exec_runList_badList hserved⟩
    · refine hrows [.moveAbs, .moveRel, .velocity, .stop, .home, .runList, .follow, .energise, .deEnergise, .clearError]
        fun c _ => ?_
      rcases h with h | h | h | h <;> simp [h]
    · refine hrows [.moveAbs, .moveRel, .velocity, .stop, .home, .runList, .follow, .energise, .deEnergise] fun c hc => ?_
      have hclear : c ≠ .clearError := by rintro rfl; simp at hc
      rcases h with h | h <;> simp [h, hclear]
    · refine hrows [.moveAbs, .moveRel, .velocity, .home, .runList, .follow, .energise, .deEnergise, .clearError] fun c hc => ?_
      have hstop : c ≠ .stop := by rintro rfl; simp at hc
      simp [h, hstop]
    · refine hrows [.home, .runList, .follow, .deEnergise] fun c hc => ?_
      have hmoves : c = .home ∨ c = .runList ∨ c = .follow ∨ c = .deEnergise := by simpa using hc
      simp [h, hmoves]
    · refine hrows [.moveAbs, .moveRel, .velocity, .stop] fun c hc => ?_
      have hclear : c ≠ .clearError := by rintro rfl; simp at hc
      simp [h, hclear]
  · rw [exec_axisPositionWrite hserved]
    refine ⟨fun h => ?_, fun howner hmoving => ?_⟩
    · rw [writeAxisPosition, if_pos (by simpa using h)]
      rfl
    · have honly := onlyAxis_modAxis a.val (fun y => { y with pos := toSigned 32 v.toNat, referenced := true }) s
      refine ⟨_, by rw [writeAxisPosition, if_neg (by simp [howner, hmoving])]; rfl, ?_, honly.and⟩
      rw [axisOf_modAxis_self s _ _ (axis_lt_of_shaped hshaped a), toSigned_toNat]
  · refine ⟨exec_motionStatusClear hserved v, _, exec_axisStatusClear hserved a v, ?_, (onlyAxis_modAxis ..).and⟩
    rw [axisOf_modAxis_self s _ _ (axis_lt_of_shaped hshaped a)]

end Sys2Proof.Machine
end

section
/-!
PROOFS. What the accepted commands of an axis do (11_motion R290, R294, R300, R306 to R309, Table 11.6).
-/
namespace Sys2Proof.Machine

variable {a : Nat} {s : State}

/-! ### STOP and de-energising -/

/-- A request that ends the motion of an axis. -/
def ending (g : AxisGoal) (x : Axis) : Axis := { x with goal := some g, target := none }

/-- The group of an axis that is not the pacer's stays as its motion ends. -/
theorem groupAxes_ending (g : AxisGoal) (ha : a < s.mot.axes.length) (howner : (axisOf a s).owner ≠ .pacer) :
    groupAxes a (modAxis a (ending g) s) = groupAxes a s := by
  refine groupAxes_congr howner ?_ (axisOf_modAxis_of_eq (·.link) (f := ending g) rfl)
  rw [axisOf_modAxis_self s _ _ ha]
  exact howner

/-- The normal ramp of an axis that moves alone. -/
theorem normalStop_alone (howner : (axisOf a s).owner = .host) (hmoving : (axisOf a s).moving = true)
    (hemergency : (axisOf a s).emergency = false) (hlink : (axisOf a s).link = none) (hgroup : groupAxes a s = [a])
    (ha : a < s.mot.axes.length) : normalStop a s =
      modAxis a (fun x => { x with state := .stopping, stopRamp := true }) (modAxis a (ending (haltGoal a s)) s) := by
  have hgroup' := (groupAxes_ending (haltGoal a s) ha (by simp [howner])).trans hgroup
  simp only [normalStop, leaderOf_self hlink, leaveFollow_eq_self (show (axisOf a s).owner ≠ .follow by simp [howner]), hmoving,
    hemergency, Bool.not_true, Bool.or_self, Bool.false_eq_true, if_false]
  rw [show (fun x : Axis => { x with goal := some (haltGoal a s), target := none }) = ending (haltGoal a s) from rfl, hgroup']
  rfl

/-- STOP of an axis that moves alone, without a list. -/
theorem commandStop_alone (howner : (axisOf a s).owner = .host) (hmoving : (axisOf a s).moving = true)
    (hemergency : (axisOf a s).emergency = false) (hlink : (axisOf a s).link = none) (hlist : (axisOf a s).seg.live = false)
    (hgroup : groupAxes a s = [a]) (ha : a < s.mot.axes.length) :
    OnlyAxis a s (commandStop a s) ∧ axisOf a (commandStop a s) = { axisOf a s with
      goal := some (haltGoal a s), target := none, state := .stopping, stopRamp := true, task := .none } := by
  have hstop := normalStop_alone howner hmoving hemergency hlink hgroup ha
  have honly : OnlyAxis a s (normalStop a s) := hstop ▸ (onlyAxis_modAxis a _ s).modAxis _
  have haxis : axisOf a (normalStop a s) = { axisOf a s with
      goal := some (haltGoal a s), target := none, state := .stopping, stopRamp := true } := by
    rw [hstop, axisOf_modAxis_only (onlyAxis_modAxis a _ s) ha, axisOf_modAxis_self s _ _ ha]
    rfl
  have hend : stopList a 1 (normalStop a s) = normalStop a s := by simp [stopList, haxis, hlist]
  rw [commandStop, endRun, hend]
  refine ⟨honly.modAxis _, ?_⟩
  rw [axisOf_modAxis_only honly ha, haxis]
  simp [howner]

theorem onlyAxis_gatesLow (a : Nat) (s : State) : OnlyAxis a s (gatesLow a s) := onlyAxis_modAxis ..

theorem onlyAxis_axisOff (a : Nat) (s : State) : OnlyAxis a s (axisOff a s) := (onlyAxis_gatesLow a s).modAxis _

theorem axisOf_gatesLow (ha : a < s.mot.axes.length) : axisOf a (gatesLow a s) = { axisOf a s with
    energised := false, current := 0, currentTarget := 0, fade := none, parkAfterFade := false, loadValid := false
    lastCurrents := none, stallSince := none, chopA := ChopCycle.reset, chopB := ChopCycle.reset } :=
  axisOf_modAxis_self s a _ ha

/-- An axis that is off: its gates low, its profile ended, its position lost. -/
structure IsOff (x y : Axis) : Prop where
  state : y.state = .off
  energised : y.energised = false
  referenced : y.referenced = false
  current : y.current = 0
  pos : y.pos = x.pos

theorem isOff_axisOff (ha : a < s.mot.axes.length) : IsOff (axisOf a s) (axisOf a (axisOff a s)) := by
  rw [axisOff, axisOf_modAxis_only (onlyAxis_gatesLow a s) ha, axisOf_gatesLow ha]
  exact ⟨rfl, rfl, rfl, rfl, rfl⟩

/-- RETAIN_MODE NONE (Table 11.8). -/
theorem deEnergiseAxis_none (hstate : (axisOf a s).state = .holding) (hfade : (axisOf a s).parkAfterFade = false)
    (hretain : val (Obj.RETAIN_MODE a) s = 0) : deEnergiseAxis a s = axisOff a s := by
  simp [deEnergiseAxis, hstate, hfade, hretain]

/-- PARK and HOLD at a parked angle (Table 11.8). -/
theorem deEnergiseAxis_parked (hstate : (axisOf a s).state = .holding) (hfade : (axisOf a s).parkAfterFade = false)
    (hretain : val (Obj.RETAIN_MODE a) s ≠ 0) (hpos : parkPosition (axisOf a s).pos = (axisOf a s).pos) :
    deEnergiseAxis a s = parkFade a s := by
  simp [deEnergiseAxis, parkAxis, hstate, hfade, hretain, hpos]

/-! ### The commands that are accepted -/

theorem not_refused {c : AxisCommand} (henabled : axisEnabled a s = true) (hmode : s.modes.mode ≠ .fault)
    (howner : (axisOf a s).owner = .host)
    (hclear : c = .clearError ∨ mstopActive s = false ∧ (axisOf a s).state ≠ .error ∧ (axisOf a s).emergency = false)
    (hrest : c = .home ∨ c = .runList ∨ c = .follow ∨ c = .deEnergise → (axisOf a s).moving = false)
    (hramp : c.motion = true → (axisOf a s).stopRamp = false) : commandRefused a c s = false := by
  rw [← Bool.not_eq_true, commandRefused_iff]
  rintro (h | h | ⟨h, hc⟩ | ⟨h, hc⟩ | h | h | ⟨h, hc⟩ | ⟨hc, h⟩ | ⟨h, hc⟩ | ⟨h, hc⟩)
  · simp [henabled] at h
  · exact hmode h
  · simp [(hclear.resolve_left hc).1] at h
  · exact (hclear.resolve_left hc).2.1 h
  · simp [howner] at h
  · simp [howner] at h
  · simp [howner] at h
  · simp [hrest hc] at h
  · simp [(hclear.resolve_left hc).2.2] at h
  · simp [hramp hc] at h

/-- Settles O35: each command is accepted (`not_refused`, `exec_row_accepted`) and changes its axis alone: a request runs from where the
axis stands (`runs_command11`), STOP takes the normal ramp (`commandStop_alone`), and the others by the equations of their functions. -/
theorem axisCommandsAct : Obligations.AxisCommandsAct := by
  unfold Obligations.AxisCommandsAct
  intro via a s hserved hshaped henabled hmode howner
  have ha := axis_lt_of_shaped hshaped a
  dsimp only
  refine ⟨?_, fun hmstop herror hdisabled hemergency hramp => ?_⟩
  · exact ⟨_, exec_row_accepted (c := .clearError) hserved (not_refused henabled hmode howner (.inl rfl) (by simp)
      (by simp [AxisCommand.motion])) (by simp), (onlyAxis_modAxis ..).and, axisOf_modAxis_self s _ _ ha⟩
  have haccepts (c : AxisCommand) (hrest : c = .home ∨ c = .runList ∨ c = .follow ∨ c = .deEnergise → (axisOf a s).moving = false)
      (hlist : c = .runList → segListOk a s = true) : exec (c.row via a) s = .next (answerWrite via 0 (c.effect a s)) :=
    exec_row_accepted hserved
      (not_refused henabled hmode howner (.inr ⟨hmstop, herror, hemergency⟩) hrest fun _ => hramp) hlist
  have hmoves (c : AxisCommand) (task : AxisTask) (target : Option Int) (goal : AxisGoal)
      (hrest : c = .home ∨ c = .runList ∨ c = .follow ∨ c = .deEnergise → (axisOf a s).moving = false)
      (hlist : c = .runList → segListOk a s = true) (heffect : c.effect a s = command11 a task target goal s) :
      ∃ t, exec (c.row via a) s = .next (answerWrite via 0 t) ∧
        ((∀ j, j ≠ a.val → axisOf j t = axisOf j s) ∧ t = { s with mot := { s.mot with axes := t.mot.axes } }) ∧
        (axisOf a t).goal = some goal ∧ (axisOf a t).task = task ∧ (axisOf a t).target = target ∧
        (axisOf a t).state = .moving ∧ (axisOf a t).pos = (axisOf a s).pos ∧
        (axisOf a t).referenced = (axisOf a s).referenced ∧ (axisOf a t).owner = .host ∧
        ((axisOf a s).state = .off ∨ (axisOf a s).state = .parked → (axisOf a t).energised = true) := by
    have hruns := runs_command11 ha herror hdisabled task target goal
    exact ⟨_, heffect ▸ haccepts c hrest hlist, (onlyAxis_command11 ..).and, hruns.goal, hruns.task, hruns.target, hruns.state,
      hruns.pos, hruns.referenced, hruns.owner.trans howner, hruns.energised⟩
  refine ⟨hmoves .moveAbs _ _ _ (by simp) (by simp) rfl, hmoves .moveRel _ _ _ (by simp) (by simp) rfl,
    hmoves .velocity _ _ _ (by simp) (by simp) rfl, fun hoff => ?_, fun hparked => ?_, fun hholding hfade => ?_,
    fun hmoving hlink hlive hgroup => ?_, fun hstill => ⟨?_, fun hlist => ?_, ?_, fun hholding hfade hretain => ?_,
      fun hholding hfade hretain hpos => ?_⟩⟩
  · exact ⟨_, haccepts .energise (by simp) (by simp), (onlyAxis_energiseAxis ..).and, axisOf_energiseAxis_off ha hoff⟩
  · refine ⟨_, haccepts .energise (by simp) (by simp), (onlyAxis_energiseAxis ..).and, ?_⟩
    rw [AxisCommand.effect, axisOf_energiseAxis_parked ha hparked]
    exact ⟨rfl, rfl, rfl, rfl⟩
  · refine (haccepts .energise (by simp) (by simp)).trans ?_
    rw [AxisCommand.effect, energiseAxis_carrying (by simp [hholding]) (by simp [hholding]) hfade]
  · obtain ⟨honly, haxis⟩ := commandStop_alone howner hmoving hemergency hlink hlive hgroup ha
    exact ⟨_, haccepts .stop (by simp) (by simp), honly.and, haxis⟩
  · split
    · next hmref => exact hmoves .home _ _ _ (fun _ => hstill) (by simp) (if_pos hmref)
    · next hmref => exact hmoves .home _ _ _ (fun _ => hstill) (by simp) (if_neg hmref)
  · refine ⟨_, haccepts .runList (fun _ => hstill) (fun _ => hlist), (onlyAxis_modAxis ..).and, ?_⟩
    rw [AxisCommand.effect, startList, axisOf_modAxis_self s _ _ ha]
    exact ⟨rfl, rfl⟩
  · have hpos : (axisOf a (energiseAxis a s)).pos = (axisOf a s).pos := congrArg (·.pos) (startKept_energiseAxis a a s)
    refine ⟨_, haccepts .follow (fun _ => hstill) (by simp), ((onlyAxis_energiseAxis a s).modAxis _).and, ?_⟩
    rw [AxisCommand.effect, commandFollow, axisOf_modAxis_only (onlyAxis_energiseAxis a s) ha]
    exact ⟨rfl, hpos, rfl, hpos⟩
  · obtain ⟨hstate, henergised, hreferenced, hcurrent, hpos⟩ := isOff_axisOff ha
    refine ⟨_, haccepts .deEnergise (fun _ => hstill) (by simp), ?_⟩
    rw [AxisCommand.effect, deEnergiseAxis_none hholding hfade hretain]
    exact ⟨(onlyAxis_axisOff ..).and, hstate, henergised, hreferenced, hcurrent, hpos⟩
  · refine ⟨_, haccepts .deEnergise (fun _ => hstill) (by simp), ?_⟩
    rw [AxisCommand.effect, deEnergiseAxis_parked hholding hfade hretain hpos, parkFade, axisOf_modAxis_self s _ _ ha]
    exact ⟨(onlyAxis_modAxis ..).and, rfl, rfl⟩

end Sys2Proof.Machine
end

section
/-! PROOFS. STANDSTILL_OFF of an axis while MSTOP is active (11_motion R306, R314). -/
namespace Sys2Proof.Machine

/-- A device whose MC runs, with axis 0 holding without a position to retain and STANDSTILL_OFF set, and with MSTOP active. -/
def stoppedHolding : State :=
  setVal (Obj.STANDSTILL_OFF 0) 1 { State.reset with
    pwr := { State.reset.pwr with domains := 8 }
    mot := { State.reset.mot with
      mstop := true, mcHeld := false, axes := modifyAt (fun x => { x with state := .holding }) 0 State.reset.mot.axes } }

theorem mstopActive_stoppedHolding : mstopActive stoppedHolding = true := by decide

/-- MSTOP keeps the axis energised (R314). -/
theorem exec_standstillOffExpire_stoppedHolding : exec (.standstillOffExpire 0) stoppedHolding = .next stoppedHolding := by
  have hkept : standstillOff 0 stoppedHolding = stoppedHolding := by
    rw [standstillOff, mstopActive_stoppedHolding]
    simp only [Bool.not_true, Bool.and_false, Bool.false_eq_true, if_false]
  exact congrArg Host.Outcome.next hkept

/-- Refutes O39: where MSTOP is active STANDSTILL_OFF does not de-energise an axis (R314), so that a holding axis stays HOLDING, where the
statement has it OFF. -/
theorem not_standstillHomeFollowPacerAndMstop : ¬ Obligations.StandstillHomeFollowPacerAndMstop := by
  unfold Obligations.StandstillHomeFollowPacerAndMstop
  rintro ⟨haxis, -⟩
  obtain ⟨-, -, hoff, -⟩ := haxis 0 stoppedHolding (by decide) (by decide)
  obtain ⟨t, ht, -, hstate, -⟩ := hoff (by decide) (by decide) (by decide) (by decide) (by decide)
  obtain rfl := Host.Outcome.next.inj (exec_standstillOffExpire_stoppedHolding.symm.trans ht)
  exact absurd hstate (by decide)

end Sys2Proof.Machine
end

section
/-!
PROOFS. A step: the front command, or a tick of an empty queue with what equipment outside brings (11_motion R301, 19_pins_package R454,
R457, R458; log entries 3, 115 and 172).
-/
namespace Sys2Proof.Machine

variable {a : Nat} {s t : State}

theorem step_command {c : Instr} {rest : List Instr} (h : s.pending = c :: rest) : step s = exec c { s with pending := rest } := by
  simp only [step, h]

theorem step_empty (h : s.pending = []) : step s = .next (tick s) := by simp only [step, h]

/-! ### Parts of a tick with nothing to do -/

theorem outsideTick_none (h : s.bench.acts = []) : outsideTick s = s := by simp only [outsideTick, h]

theorem tapTick_none (h : s.bench.tap = []) : tapTick s = s := by simp only [tapTick, h]

theorem programTick_none (h : s.bench.program = none) : programTick s = s := by simp only [programTick, h]

theorem chopTick_calm (h : ∀ a < 6, (axisOf a s).energised = false) : chopTick s = s := by
  have hfold : ∀ l : List Nat, (∀ a ∈ l, (axisOf a s).energised = false) → l.foldl (fun s a => chopAxis a s) s = s := by
    intro l hl
    induction l with
    | nil => rfl
    | cons a l ih =>
      rw [List.foldl_cons, chopAxis_off s a (hl a List.mem_cons_self)]
      exact ih fun b hb => hl b (List.mem_cons_of_mem a hb)
  exact hfold _ fun a ha => h a (List.mem_range.1 ha)

/-- A tick in which no axis carries a current: what equipment outside does, and one nanosecond. -/
theorem step_calm {u v w : State} (hempty : s.pending = []) (hcalm : ∀ a < 6, (axisOf a s).energised = false)
    (hout : outsideTick s = u) (htap : tapTick u = v) (hprogram : programTick v = w) (hmot : w.mot = s.mot) :
    step s = .next (idle w) := by
  have hchop : chopTick w = w := chopTick_calm fun a ha => by rw [axisOf, hmot]; exact hcalm a ha
  rw [step_empty hempty, tick, hout, htap, hprogram, hchop]

/-! ### The chopper cycles -/

theorem chopStep_of_dict (h : t.dict = s.dict) (a : Nat) (target i : Int) (c : ChopCycle) :
    chopStep a target i t c = chopStep a target i s c := by
  have hreads : chopStep a target i t c = chopStep a target i { s with dict := t.dict } c := rfl
  rw [hreads, h]

theorem phaseTargets_of_dict (h : t.dict = s.dict) (haxis : axisOf a t = axisOf a s) : phaseTargets a t = phaseTargets a s := by
  simp only [phaseTargets, valReady, h, haxis]

/-- One nanosecond of an axis that carries a current. -/
theorem chopAxis_on (h : (axisOf a s).energised = true) : ∃ (i j : Int) (n : Nat), chopAxis a s = modAxis a (fun x => { x with
    chopA := chopStep a (phaseTargets a s).1 i s x.chopA
    chopB := chopStep a (phaseTargets a s).2 j s x.chopB }) { s with fresh := n } := by
  rw [chopAxis, h]
  exact ⟨_, _, _, rfl⟩

/-- `t` is `s` with one more nanosecond of the chopper cycles of the axes `l`. -/
structure Chopped (l : List Nat) (s t : State) : Prop where
  dict : t.dict = s.dict
  length : t.mot.axes.length = s.mot.axes.length
  others : ∀ b, b ∉ l → axisOf b t = axisOf b s
  off : ∀ b, (axisOf b s).energised = false → axisOf b t = axisOf b s
  on : ∀ b ∈ l, b < s.mot.axes.length → (axisOf b s).energised = true → ∃ i j : Int, axisOf b t = { axisOf b s with
    chopA := chopStep b (phaseTargets b s).1 i s (axisOf b s).chopA
    chopB := chopStep b (phaseTargets b s).2 j s (axisOf b s).chopB }

theorem chopped_chopAxis (a : Nat) (s : State) : Chopped [a] s (chopAxis a s) := by
  cases hon : (axisOf a s).energised with
  | false =>
    rw [chopAxis_off s a hon]
    refine ⟨rfl, rfl, fun _ _ => rfl, fun _ _ => rfl, fun b hb _ h => ?_⟩
    obtain rfl := List.mem_singleton.1 hb
    simp [hon] at h
  | true =>
    obtain ⟨i, j, n, hchop⟩ := chopAxis_on hon
    rw [hchop]
    refine ⟨rfl, modAxis_axes_length .., fun b hb => ?_, fun b hb => ?_, fun b hb hlt _ => ⟨i, j, ?_⟩⟩
    · exact axisOf_modAxis_ne _ a b _ (by simpa using hb)
    · refine axisOf_modAxis_ne _ a b _ fun h => ?_
      simp [h, hon] at hb
    · obtain rfl := List.mem_singleton.1 hb
      exact axisOf_modAxis_self _ b _ hlt

theorem chopped_foldl (l : List Nat) (hl : l.Nodup) (s : State) : Chopped l s (l.foldl (fun s a => chopAxis a s) s) := by
  induction l generalizing s with
  | nil => exact ⟨rfl, rfl, fun _ _ => rfl, fun _ _ => rfl, by simp⟩
  | cons a l ih =>
    obtain ⟨ha, hl⟩ := List.nodup_cons.1 hl
    have hfirst := chopped_chopAxis a s
    have hrest := ih hl (chopAxis a s)
    refine ⟨hrest.dict.trans hfirst.dict, hrest.length.trans hfirst.length, fun b hb => ?_, fun b hb => ?_, fun b hb hlt hon => ?_⟩
    · obtain ⟨hba, hbl⟩ : b ≠ a ∧ b ∉ l := by simpa using hb
      exact (hrest.others b hbl).trans (hfirst.others b (by simpa using hba))
    · have hsame := hfirst.off b hb
      exact (hrest.off b (by rw [hsame, hb])).trans hsame
    · rcases List.mem_cons.1 hb with rfl | hbl
      · obtain ⟨i, j, h⟩ := hfirst.on b List.mem_cons_self hlt hon
        exact ⟨i, j, (hrest.others b ha).trans h⟩
      · have hsame : axisOf b (chopAxis a s) = axisOf b s := hfirst.others b fun h => ha (List.mem_singleton.1 h ▸ hbl)
        obtain ⟨i, j, h⟩ := hrest.on b hbl (by rwa [hfirst.length]) (by rwa [hsame])
        refine ⟨i, j, h.trans ?_⟩
        rw [hsame, phaseTargets_of_dict hfirst.dict hsame, chopStep_of_dict hfirst.dict, chopStep_of_dict hfirst.dict]

theorem axisOf_idle (a : Nat) (s : State) : axisOf a (idle s) = axisOf a s := rfl

theorem chopped_chopTick (s : State) : Chopped axisNumbers s (chopTick s) := by
  have hnodup : axisNumbers.Nodup := List.nodup_range
  rw [chopTick]
  exact chopped_foldl axisNumbers hnodup s

/-! ### The test access port -/

theorem ballLevel_fresh (n : Nat) (x : Signal) (m : Nat) (s : State) : ballLevel n x { s with fresh := m } = ballLevel n x s := rfl

theorem scanDrives_fresh (n : Nat) (x : Signal) (m : Nat) (s : State) :
    scanDrives n x { s with fresh := m } = scanDrives n x s := rfl

/-- A captured cell has the level of its ball, where that is known and EXTEST does not drive it. -/
theorem captureCells_level {l : List Signal} {n i : Nat} {x : Signal} {b : Bool} (hx : l[i]? = some x)
    (hdrives : scanDrives (n + i) x s = none) (hlevel : ballLevel (n + i) x s = some b) :
    (captureCells l n s).1.getD i false = b := by
  induction l generalizing s n i with
  | nil => simp at hx
  | cons y l ih =>
    cases i with
    | zero =>
      obtain rfl : y = x := by simpa using hx
      simp only [Nat.add_zero] at hdrives hlevel
      simp [captureCells, hdrives, hlevel]
    | succ i =>
      have hplace : n + (i + 1) = n + 1 + i := by omega
      rw [hplace] at hdrives hlevel
      rw [captureCells, List.getElem?_cons_succ] at *
      dsimp only
      rw [List.getD_cons_succ]
      cases (scanDrives n y s).orElse (fun _ => ballLevel n y s) with
      | some v => exact ih hx hdrives hlevel
      | none => exact ih hx hdrives hlevel

theorem tapClock_shiftBypass (hstate : s.tap.state = .shiftDr) (hinstr : s.tap.instr = .bypass) (tdi : Bool) :
    tapClock false tdi s = { s with tap := { s.tap with bypass := tdi, tdo := some s.tap.bypass } } := by
  have hacts : tapActs s = .bypass := by simp [tapActs, hinstr]
  have hnext : TapState.next .shiftDr false = .shiftDr := rfl
  simp [tapClock, tapAct, setTap, TapState.shifts, hstate, hacts, hnext]

/-- A capture: the cells of the chain hold what the balls have (R457). -/
theorem tapClock_captureChain (hstate : s.tap.state = .captureDr) (hacts : tapActs s ≠ .bypass) (tms tdi : Bool) :
    ∃ n p, tapClock tms tdi s = { s with fresh := n, tap := p } ∧ p.chain = (captureCells scanSignals 0 s).1 := by
  obtain ⟨n, hn⟩ := (captureCells_frame s scanSignals 0).1
  have hshifts : TapState.shifts .captureDr = false := rfl
  have hnext : TapState.next .captureDr tms ≠ .testLogicReset := by cases tms <;> decide
  simp only [tapClock, tapAct, hstate, hacts, if_false]
  generalize captureCells scanSignals 0 s = r at hn ⊢
  obtain ⟨l, t⟩ := r
  dsimp only at hn
  subst hn
  simp only [setTap, hshifts, hnext, Bool.false_eq_true, if_false]
  exact ⟨_, _, rfl, rfl⟩

/-- The input that captures the chain: each ball whose level the spec gives, and that EXTEST does not drive, has its level there. -/
theorem tapTick_captureChain {tms tdi : Bool} (htap : s.bench.tap = [.clock tms tdi]) (hpowered : s.boot.phase ≠ .unpowered)
    (hstate : s.tap.state = .captureDr) (hinstr : s.tap.instr ≠ .bypass)
    (hextest : s.tap.instr = .extest → s.boot.phase = .pinHeld) :
    ∃ n p, tapTick s = { s with fresh := n, tap := p, bench := { s.bench with tap := [] } } ∧
      p.chain.length = scanSignals.length ∧
      ∀ (m : Nat) (x : Signal) (b : Bool), scanSignals[m]? = some x →
        (s.tap.instr = .extest → x.drives = false ∨ s.tap.update.length ≤ m) → ballLevel m x s = some b →
        p.chain.getD m false = b := by
  have hacts : tapActs { s with bench := { s.bench with tap := [] } } = s.tap.instr := by
    by_cases he : s.tap.instr = .extest
    · simp [tapActs, he, resetLow, hextest he]
    · simp [tapActs, he]
  obtain ⟨n, p, hclock, hchain⟩ := tapClock_captureChain (s := { s with bench := { s.bench with tap := [] } }) hstate
    (by rw [hacts]; exact hinstr) tms tdi
  refine ⟨n, p, ?_, hchain ▸ (captureCells_frame _ scanSignals 0).2, fun m x b hx hdrives hlevel => ?_⟩
  · simp only [tapTick, htap, hpowered, if_false]
    exact hclock
  · rw [hchain]
    refine captureCells_level hx ?_ (by rw [Nat.zero_add]; exact hlevel)
    rw [Nat.zero_add, scanDrives, hacts]
    by_cases he : s.tap.instr = .extest
    · rcases hdrives he with h | h
      · simp [h]
      · simp [he, h]
    · simp [he]

/-! ### The changes outside -/

/-- The balls that equipment outside drives, after it drives a ball or drives it no longer. -/
def ballsAfter (cell : Nat) (level : Option Bool) (balls : List (Nat × Bool)) : List (Nat × Bool) :=
  (level.map (fun v => (cell, v))).toList ++ balls.filter (fun y => decide (y.1 ≠ cell))

theorem benchLevel_ballsAfter {cell : Nat} {level : Option Bool} {balls : List (Nat × Bool)}
    (h : t.bench.balls = ballsAfter cell level balls) (hs : s.bench.balls = balls) :
    benchLevel cell t = level ∧ ∀ j ≠ cell, benchLevel j t = benchLevel j s := by
  have hself : (balls.filter (fun y => decide (y.1 ≠ cell))).find? (fun y => decide (y.1 = cell)) = none :=
    List.find?_eq_none.2 fun y hy => by simpa using (List.mem_filter.1 hy).2
  have hother (j : Nat) (hj : j ≠ cell) : (balls.filter (fun y => decide (y.1 ≠ cell))).find? (fun y => decide (y.1 = j)) =
      balls.find? (fun y => decide (y.1 = j)) := by
    rw [List.find?_filter]
    refine congrArg (fun p => balls.find? p) (funext fun y => ?_)
    by_cases hy : y.1 = j <;> simp [hy, hj]
  cases level with
  | some v =>
    refine ⟨by simp [benchLevel, h, ballsAfter], fun j hj => ?_⟩
    have hcell : decide (cell = j) = false := decide_eq_false (Ne.symm hj)
    simp only [benchLevel, h, hs, ballsAfter, Option.map_some, Option.toList_some, List.cons_append, List.nil_append,
      List.find?_cons, hcell, hother j hj]
  | none =>
    simp only [ballsAfter, Option.map_none, Option.toList_none, List.nil_append] at h
    exact ⟨by simp only [benchLevel, h, hself], fun j hj => by simp only [benchLevel, h, hs, hother j hj]⟩

/-- Settles O1: the front command runs (`step_command`); on an empty queue the parts of a tick that have nothing to do leave the state, the
chopper cycles go on (`chopped_foldl`), the test access port clocks (`tapClock_shiftBypass`, `tapClock_captureChain`), a programmer acts
or waits (`programTick_waits`), and the next change outside is made (`benchLevel_ballsAfter`). -/
theorem stepRunsFrontCommand : Obligations.StepRunsFrontCommand := by
  unfold Obligations.StepRunsFrontCommand
  intro calm idleBench
  refine ⟨fun c rest s h => step_command h, fun s hempty ⟨htap, hprogram, hacts⟩ hcalm => ?_,
    fun s hempty ⟨htap, hprogram, hacts⟩ hsix => ?_,
    fun tdi rest s hempty htap hprogram hacts hcalm hpowered hstate hinstr => ?_,
    fun f s hempty htap hprogram hacts hcalm hheld hdriven => ?_,
    fun f s hempty htap hprogram hacts hcalm hheld hpowered => ?_,
    fun x rest s hempty htap hprogram hacts hcalm => ?_,
    fun tms tdi s hempty htap hprogram hacts hcalm hpowered hstate hinstr hextest => ?_⟩
  · exact step_calm hempty hcalm (outsideTick_none hacts) (tapTick_none htap) (programTick_none hprogram) rfl
  · obtain ⟨n, axes, hframe⟩ := chopTick_frame s
    have hchopped := chopped_chopTick s
    refine ⟨idle (chopTick s), ?_, fun a _ hoff => (axisOf_idle ..).trans (hchopped.off a hoff), fun a ha hon => ?_, ?_⟩
    · rw [step_empty hempty, tick, outsideTick_none hacts, tapTick_none htap, programTick_none hprogram]
    · rw [axisOf_idle]
      exact hchopped.on a (List.mem_range.2 ha) (by omega) hon
    · rw [hframe]
      rfl
  · have hinput : tapTick s = { s with
        bench := { s.bench with tap := rest }, tap := { s.tap with bypass := tdi, tdo := some s.tap.bypass } } := by
      simp only [tapTick, htap, hpowered, if_false]
      exact tapClock_shiftBypass (s := { s with bench := { s.bench with tap := rest } }) hstate hinstr tdi
    exact step_calm hempty hcalm (outsideTick_none hacts) hinput (programTick_none hprogram) rfl
  · have hconfig (h : f.config.length = 4) : (f.config ++ List.replicate 4 ConfigSlot.empty).take 4 = f.config := by
      rw [List.take_append_of_le_length (by omega), List.take_of_length_le (by omega)]
    have hprogrammed : programTick s = { s with
        flash := { f with
          size := s.flash.size, config := (f.config ++ List.replicate 4 ConfigSlot.empty).take 4
          sticky := s.flash.sticky, patrolBad := s.flash.patrolBad }
        bench := { s.bench with program := none } } := by
      simp [programTick, hprogram, resetLow, hheld, hdriven]
    exact ⟨_, step_calm hempty hcalm (outsideTick_none hacts) (tapTick_none htap) hprogrammed rfl,
      rfl, rfl, rfl, rfl, rfl, hconfig, rfl⟩
  · exact step_calm hempty hcalm (outsideTick_none hacts) (tapTick_none htap)
      (programTick_waits s hpowered (by simp [resetLow, hheld])) rfl
  · have hstep (b : Bench) (hout : outsideTick s = { s with bench := b }) (hb : b.tap = []) (hp : b.program = none) :
        step s = .next { s with now := s.now + 1, clk := s.clk + 1, bench := b } :=
      step_calm hempty hcalm hout (tapTick_none hb) (programTick_none hp) rfl
    have hframe := outsideTick_frame s
    cases x with
    | load k vrst ua =>
      have hbench : (outsideTick s).bench =
          { s.bench with acts := rest, loads := setAt s.bench.loads (2 * k + b2n vrst) ua } := by
        simp only [outsideTick, hacts]
      rw [hbench] at hframe
      exact ⟨_, hstep _ hframe htap hprogram, rfl, htap, hprogram, rfl, rfl, rfl, rfl⟩
    | ball cell level =>
      have hbench : (outsideTick s).bench = { s.bench with acts := rest, balls := ballsAfter cell level s.bench.balls } := by
        simp only [outsideTick, hacts]
        cases level <;> rfl
      rw [hbench] at hframe
      exact ⟨_, hstep _ hframe htap hprogram, rfl, htap, hprogram, rfl, rfl, rfl,
        fun t ht => benchLevel_ballsAfter (by rw [ht]) rfl⟩
    | chains r =>
      have hbench : (outsideTick s).bench = { s.bench with acts := rest, chains := r } := by simp only [outsideTick, hacts]
      rw [hbench] at hframe
      exact ⟨_, hstep _ hframe htap hprogram, rfl, htap, hprogram, rfl, rfl, rfl, rfl⟩
  · obtain ⟨n, p, htick, hlength, hlevel⟩ := tapTick_captureChain htap hpowered hstate hinstr hextest
    exact ⟨_, step_calm hempty hcalm (outsideTick_none hacts) htick (programTick_none hprogram) rfl, hlength, rfl, hlevel⟩

end Sys2Proof.Machine
end

section
/-!
PROOFS. The update of an axis (11_motion R283, R284, R304, R306, R316).
-/
namespace Sys2Proof.Machine

variable {a : Nat} {s u : State} {v : Frac}

theorem exec_axisUpdate (a : Fin 6) (s : State) : exec (.axisUpdate a) s = .next (speedReached (axisUpdate a.val s)) := rfl

/-- The speed reached changes the governor alone. -/
theorem speedReached_eq (s : State) : ∃ g, speedReached s = { s with pwr := { s.pwr with gov := g } } := by
  simp only [speedReached, govEffect]
  repeat' split
  all_goals exact ⟨_, rfl⟩

theorem axisOf_speedReached (a : Nat) (s : State) : axisOf a (speedReached s) = axisOf a s := by
  obtain ⟨g, hg⟩ := speedReached_eq s
  simp only [hg, axisOf]

theorem axisUpdate_held (h : mcRuns s = false) : axisUpdate a s = s := by simp [axisUpdate, h]

/-! ### The parts of an update of an axis under HOST -/

theorem currentStep_off (h : (axisOf a s).energised = false) : currentStep a s = s := by simp [currentStep, h]

/-- Without a fade the current slews and nothing else changes. -/
theorem currentStep_slews (ha : a < s.mot.axes.length) (hfade : (axisOf a s).fade = none) : OnlyAxis a s (currentStep a s) ∧
    ∃ i goal, axisOf a (currentStep a s) = { axisOf a s with current := i, currentTarget := goal } := by
  cases hon : (axisOf a s).energised with
  | false =>
    rw [currentStep_off hon]
    exact ⟨OnlyAxis.refl a s, _, _, rfl⟩
  | true =>
    obtain ⟨i, goal, hstep⟩ : ∃ i goal,
        currentStep a s = modAxis a (fun y => { y with current := i, currentTarget := goal }) s := by
      simp only [currentStep, hon, hfade, Bool.not_true, Bool.false_eq_true, if_false]
      exact ⟨_, _, rfl⟩
    rw [hstep]
    exact ⟨onlyAxis_modAxis .., i, goal, axisOf_modAxis_self s a _ ha⟩

theorem captureUpdate_none (h : (axisOf a s).captureNext = none) : captureUpdate a s = s := by simp only [captureUpdate, h]

theorem segUpdate_notLive (h : (axisOf a s).seg.live = false) : segUpdate a s = s := by simp [segUpdate, h]

/-- After its current an axis under HOST, outside a group, runs its profile if it moves; no capture and no list follows. -/
theorem axisUpdate_host (hruns : mcRuns s = true) (hcurrent : currentStep a s = u) (howns : u.mot.transport.owns = false)
    (howner : (axisOf a u).owner = .host) (hlink : (axisOf a u).link = none) : axisUpdate a s =
      segUpdate a (captureUpdate a (if (axisOf a u).moving then profileUpdate a u else u)) := by
  simp [axisUpdate, hruns, hcurrent, howns, paced, howner, hlink]

/-! ### A constant velocity -/

theorem advance_hold {p : Profile} (h : p.parts = [⟨[.hold v], none⟩]) :
    p.advance = ({ p with done := p.done + 1, vel := v, acc := Frac.zero }, none) := by
  simp [Profile.advance, h, Phase.length, Phase.vel, Phase.acc]

theorem middle_hold {p : Profile} (h : p.parts = [⟨[.hold v], none⟩]) : p.middle = v := by
  simp [Profile.middle, h, Phase.vel]

theorem writeVelocity_forward {x : Axis} (h : decide (0 ≤ v.num) = x.forward) :
    writeVelocity v x = { x with vw := velocityWord v } := by
  simp [writeVelocity, h]

theorem followersOf_unlinked (h : ∀ b < 6, (axisOf b s).link = none) : followersOf a s = [] := by
  refine List.filter_eq_nil_iff.2 fun b hb => ?_
  simp [h b (List.mem_range.1 hb)]

theorem takeGoal_none {x : Axis} (hgoal : x.goal = none) (hblending : x.blending = none) : takeGoal a s x = x := by
  simp only [takeGoal, hgoal, hblending]

/-- The accumulator and the velocity of an axis one period on. -/
def cruised (v : Frac) (x : Axis) : Axis :=
  { runAccumulator x with
    vw := velocityWord v
    profile := { x.profile with done := x.profile.done + 1, vel := v, acc := Frac.zero } }

theorem cruised_acc (v : Frac) (x : Axis) : (cruised v x).acc = (x.acc + 1000 * x.vw) % 2 ^ 48 := rfl

theorem cruised_pos (v : Frac) (x : Axis) : (cruised v x).pos =
    wrap32 (if x.forward = true then x.pos + ((x.acc + 1000 * x.vw) / 2 ^ 48 : Nat)
      else x.pos - ((x.acc + 1000 * x.vw) / 2 ^ 48 : Nat)) := rfl

/-- One update of an axis that runs at a constant velocity. -/
theorem profileUpdate_cruises (ha : a < u.mot.axes.length) (hlinks : ∀ b < 6, (axisOf b u).link = none)
    (hgoal : (axisOf a u).goal = none) (hblending : (axisOf a u).blending = none)
    (hparts : (axisOf a u).profile.parts = [⟨[.hold v], none⟩]) (hforward : decide (0 ≤ v.num) = (axisOf a u).forward) :
    OnlyAxis a u (profileUpdate a u) ∧ ∃ valid currents since, axisOf a (profileUpdate a u) = { cruised v (axisOf a u) with
      loadValid := valid, lastCurrents := currents, stallSince := since } := by
  have hadvance : (axisOf a (modAxis a runAccumulator u)).profile.advance =
      ({ (axisOf a u).profile with done := (axisOf a u).profile.done + 1, vel := v, acc := Frac.zero }, none) := by
    rw [axisOf_modAxis_self u a _ ha]
    exact advance_hold hparts
  -- the profile one period on: it has no end and no followers
  have h₁ := (onlyAxis_modAxis a runAccumulator u).modAxis fun x => { x with
    profile := { (axisOf a u).profile with done := (axisOf a u).profile.done + 1, vel := v, acc := Frac.zero } }
  have hx₁ := axisOf_modAxis_only (onlyAxis_modAxis a runAccumulator u) ha fun x => { x with
    profile := { (axisOf a u).profile with done := (axisOf a u).profile.done + 1, vel := v, acc := Frac.zero } }
  rw [axisOf_modAxis_self u a _ ha] at hx₁
  have hlinks₁ : followersOf a (modAxis a (fun x => { x with
      profile := { (axisOf a u).profile with done := (axisOf a u).profile.done + 1, vel := v, acc := Frac.zero } })
      (modAxis a runAccumulator u)) = [] := by
    refine followersOf_unlinked fun b hb => ?_
    rw [axisOf_modAxis_of_eq (·.link) rfl b, axisOf_modAxis_of_eq (·.link) rfl b, hlinks b hb]
  simp only [profileUpdate, hadvance]
  rw [hlinks₁]
  generalize modAxis a _ (modAxis a runAccumulator u) = w at h₁ hx₁ ⊢
  have htake : modAxis a (takeGoal a w) w = w :=
    modAxis_eq_self (takeGoal_none (by rw [hx₁]; exact hgoal) (by rw [hx₁]; exact hblending))
  have hmoves : (axisOf a w).profile.parts.isEmpty = false := by rw [hx₁]; simp [hparts]
  simp only [List.foldl_nil, htake, hmoves, Bool.false_and, Bool.false_eq_true, if_false]
  have hx₂ := axisOf_modAxis_only h₁ ha fun y => writeVelocity y.profile.middle y
  have hcruised : writeVelocity (axisOf a w).profile.middle (axisOf a w) = cruised v (axisOf a u) := by
    have hmiddle : (axisOf a w).profile.middle = v := by rw [hx₁]; exact middle_hold hparts
    rw [hmiddle, writeVelocity_forward (by rw [hx₁]; exact hforward), hx₁]
    rfl
  rw [hcruised] at hx₂
  split
  · refine ⟨(h₁.modAxis _).modAxis _, false, none, none, ?_⟩
    rw [axisOf_modAxis_only (h₁.modAxis _) ha, hx₂]
  · exact ⟨h₁.modAxis _, _, _, _, hx₂⟩

/-- Settles O36: every function of an update leaves the parts outside the axes (`apart_axisUpdate`, `speedReached_eq`), a constant velocity
runs on its accumulator (`profileUpdate_cruises`), and an axis at rest without a current has nothing to do. -/
theorem axisUpdateMoves : Obligations.AxisUpdateMoves := by
  unfold Obligations.AxisUpdateMoves
  refine ⟨fun a s => ?_, fun a s hheld => ?_,
    fun a v s hshaped hruns howns howner hstate hlink hlinks hgoal hblending hparts hcapture hlive hfade hforward => ?_,
    fun a s hshaped hruns howns howner hmoving hlink hcapture hlive hoff => ?_⟩
  · obtain ⟨g, hg⟩ := speedReached_eq (axisUpdate a s)
    refine ⟨_, exec_axisUpdate a s, ?_⟩
    rw [hg]
    exact congrArg (fun t => { t with pwr := { t.pwr with gov := g } })
      (frame_of_apart_update (apart_axisUpdate a.val s))
  · obtain ⟨g, hg⟩ := speedReached_eq s
    exact ⟨_, by rw [exec_axisUpdate, axisUpdate_held hheld, hg], rfl⟩
  · have ha := axis_lt_of_shaped hshaped a
    obtain ⟨honly, i, goal, hx⟩ := currentStep_slews ha hfade
    have hlinks' (b : Nat) (hb : b < 6) : (axisOf b (currentStep a s)).link = none := by
      by_cases hba : b = a
      · rw [hba, hx]
        exact hlink
      · rw [honly.others b hba]
        exact hlinks b hb
    obtain ⟨honly', valid, currents, since, hx'⟩ := profileUpdate_cruises (v := v) (by rwa [honly.length]) hlinks'
      (by rw [hx]; exact hgoal) (by rw [hx]; exact hblending) (by rw [hx]; exact hparts) (by rw [hx]; exact hforward)
    have hmoving : (axisOf a (currentStep a s)).moving = true := by rw [hx]; simp [Axis.moving, hstate]
    have hupdate : axisUpdate a s = profileUpdate a (currentStep a s) := by
      rw [axisUpdate_host hruns rfl (by rw [honly.frame]; exact howns) (by rw [hx]; exact howner) (by rw [hx]; exact hlink),
        if_pos hmoving, captureUpdate_none (by rw [hx', hx]; exact hcapture), segUpdate_notLive (by rw [hx', hx]; exact hlive)]
    refine ⟨_, exec_axisUpdate a s, ?_⟩
    simp only [axisOf_speedReached, hupdate, hx', hx, cruised_acc, cruised_pos]
    exact ⟨trivial, trivial, rfl, hstate, rfl, fun j hj => (honly'.others j hj).trans (honly.others j hj)⟩
  · obtain ⟨g, hg⟩ := speedReached_eq s
    have hupdate : axisUpdate a s = s := by
      rw [axisUpdate_host hruns (currentStep_off hoff) howns howner hlink, if_neg (by simp [hmoving]),
        captureUpdate_none hcapture, segUpdate_notLive hlive]
    exact ⟨_, by rw [exec_axisUpdate, hupdate, hg], rfl⟩

end Sys2Proof.Machine
end

section
/-!
PROOFS. The instructions of a segment list (11_motion R294 to R299, Table 11.7).

`SegSet a l s t` says that a function of one list leaves all but the list of the axis `a`, which it leaves as `l`; the instructions are
made of such functions. SYNC and a linked MOVE act on the axes of their mask in turn (`foldl_each`).
-/
namespace Sys2Proof.Machine

variable {a : Nat} {s t : State}

/-! ### Functions of one list -/

/-- `t` is `s` with the list of the axis `a` as `l`. -/
structure SegSet (a : Nat) (l : SegList) (s t : State) : Prop where
  only : OnlyAxis a s t
  axis : axisOf a t = { axisOf a s with seg := l }

theorem SegSet.refl (a : Nat) (s : State) : SegSet a (axisOf a s).seg s s := ⟨OnlyAxis.refl a s, rfl⟩

theorem SegSet.seg {l : SegList} (h : SegSet a l s t) : (axisOf a t).seg = l := by rw [h.axis]

theorem SegSet.modSeg {l : SegList} (h : SegSet a l s t) (ha : a < s.mot.axes.length) (f : SegList → SegList) :
    SegSet a (f l) s (modSeg a f t) := by
  refine ⟨h.only.modAxis _, ?_⟩
  rw [Machine.modSeg, axisOf_modAxis_only h.only ha, h.axis]

theorem SegSet.goto {l : SegList} (h : SegSet a l s t) (ha : a < s.mot.axes.length) (pc : Nat) :
    SegSet a { l with pc := pc, state := .running, budget := l.budget - 1 } s (segGoto a pc t) :=
  h.modSeg ha fun l => { l with pc := pc, state := .running, budget := l.budget - 1 }

theorem SegSet.advance {l : SegList} (h : SegSet a l s t) (ha : a < s.mot.axes.length) :
    SegSet a { l with pc := l.pc + 1, state := .running, budget := l.budget - 1 } s (segAdvance a t) := by
  rw [segAdvance, h.seg]
  exact h.goto ha _

/-- A list that waits at its word. -/
theorem segSet_segWaits (ha : a < s.mot.axes.length) :
    SegSet a { (axisOf a s).seg with state := .waiting, barrier := true } s (segWaits a s) :=
  (SegSet.refl a s).modSeg ha fun l => { l with state := .waiting, barrier := true }

theorem SegSet.holdBarred {l : SegList} (h : SegSet a l s t) (ha : a < s.mot.axes.length) (k : Nat × Option Nat) :
    SegSet a { l with blocked := l.blocked || l.barred.contains k } s (holdBarred k a t) := by
  rw [Machine.holdBarred, h.seg]
  cases hbarred : l.barred.contains k with
  | true => simpa [hbarred] using h.modSeg ha fun l => { l with blocked := true }
  | false => simpa [hbarred] using h

/-- What the statements ask of an instruction that changes its list alone. -/
theorem SegSet.result {l : SegList} (h : SegSet a l s t) {o : Host.Outcome State Fault Refusal} (ho : o = .next t) :
    ∃ t, o = .next t ∧ ((∀ j, j ≠ a → axisOf j t = axisOf j s) ∧ t = { s with mot := { s.mot with axes := t.mot.axes } }) ∧
      axisOf a t = { axisOf a s with seg := l } := ⟨t, ho, h.only.and, h.axis⟩

/-! ### The rows -/

theorem segStep_of_current {op : SegOp} (h : segCurrent a s = some op) {is : SegOp → Bool} (his : is op = true) :
    segStep a is s = segDo a op s := by
  simp only [segStep, h, his, if_true]

theorem segStep_of_none (h : segCurrent a s = none) (is : SegOp → Bool) : segStep a is s = s := by
  simp only [segStep, h]

/-! ### Functions of several axes in turn -/

theorem nodup_setBits (v n : Nat) : (setBits v n).Nodup := List.nodup_range.filter _

theorem mem_setBits {v n b : Nat} : b ∈ setBits v n ↔ b < n ∧ bitOf v b = true := by
  simp [setBits]

/-- A function that acts on one axis at a time acts on each of a list of axes: on each it has what the function gives it there, and it
leaves the others. -/
theorem foldl_each {e u : Bool} {l : List Nat} (hl : l.Nodup) {f : State → Nat → State}
    (hothers : ∀ t b j, j ≠ b → axisOf j (f t b) = axisOf j t) (hparts : ∀ t b, apart e u (f t b) = apart e u t)
    {P : Nat → Axis → Prop} (hP : ∀ t b, b ∈ l → apart e u t = apart e u s → axisOf b t = axisOf b s →
      P b (axisOf b (f t b))) :
    (∀ b ∈ l, P b (axisOf b (l.foldl f s))) ∧ (∀ b, b ∉ l → axisOf b (l.foldl f s) = axisOf b s) := by
  induction l generalizing s with
  | nil => exact ⟨by simp, fun _ _ => rfl⟩
  | cons a l ih =>
    obtain ⟨ha, hl⟩ := List.nodup_cons.1 hl
    have hne {b : Nat} (hb : b ∈ l) : b ≠ a := fun h => ha (h ▸ hb)
    obtain ⟨hin, hout⟩ := ih (s := f s a) hl fun t b hb happart haxis =>
      hP t b (List.mem_cons_of_mem a hb) (happart.trans (hparts s a)) (haxis.trans (hothers s a b (hne hb)))
    refine ⟨fun b hb => ?_, fun b hb => ?_⟩
    · rcases List.mem_cons.1 hb with rfl | hbl
      · rw [List.foldl_cons, hout b ha]
        exact hP s b hb rfl rfl
      · exact hin b hbl
    · obtain ⟨hba, hbl⟩ : b ≠ a ∧ b ∉ l := by simpa using hb
      exact (hout b hbl).trans (hothers s a b hba)

theorem foldl_keeps {α β : Type} (v : Axis → β) {f : State → α → State} {b : Nat}
    (hf : ∀ t x, v (axisOf b (f t x)) = v (axisOf b t)) (l : List α) (s : State) :
    v (axisOf b (l.foldl f s)) = v (axisOf b s) := by
  induction l generalizing s with
  | nil => rfl
  | cons x l ih => rw [List.foldl_cons, ih, hf]

theorem apart_length {e u : Bool} (h : apart e u t = apart e u s) : t.mot.axes.length = s.mot.axes.length := by
  simpa [apart] using congrArg (fun x : State => x.mot.axes.length) h

/-! ### SYNC (R299) -/

theorem syncAll_passes {mask tag : Nat}
    (h : (setBits mask 6).all (fun b => decide (standsAt b s = some (.sync mask tag)) && listAtRest b s &&
      mayPass (mask, some tag) b s) = true) :
    syncAll a mask tag s = (setBits mask 6).foldl (fun s b => segAdvance b (modSeg b (fun l => { l with barrier := true }) s)) s :=
  if_pos h

theorem syncAll_waits {mask tag : Nat}
    (h : (setBits mask 6).all (fun b => decide (standsAt b s = some (.sync mask tag)) && listAtRest b s &&
      mayPass (mask, some tag) b s) = false) :
    syncAll a mask tag s = holdBarred (mask, some tag) a (segWaits a s) := if_neg (by simp [h])

theorem onlyAxis_segAdvance (a : Nat) (s : State) : OnlyAxis a s (segAdvance a s) := onlyAxis_modAxis ..

/-- Each list of the mask goes on from its SYNC. -/
theorem axisOf_syncAll {mask tag : Nat} (hsix : s.mot.axes.length = 6)
    (h : (setBits mask 6).all (fun b => decide (standsAt b s = some (.sync mask tag)) && listAtRest b s &&
      mayPass (mask, some tag) b s) = true) {b : Nat} (hb : b < 6) :
    axisOf b (syncAll a mask tag s) = if bitOf mask b = true then { axisOf b s with seg := { (axisOf b s).seg with
      pc := (axisOf b s).seg.pc + 1, state := .running, barrier := true, budget := (axisOf b s).seg.budget - 1 } }
      else axisOf b s := by
  obtain ⟨hin, hout⟩ := foldl_each (s := s) (nodup_setBits mask 6)
    (f := fun s b => segAdvance b (modSeg b (fun l => { l with barrier := true }) s))
    (P := fun b y => y = { axisOf b s with seg := { (axisOf b s).seg with
      pc := (axisOf b s).seg.pc + 1, state := .running, barrier := true, budget := (axisOf b s).seg.budget - 1 } })
    (fun t b => ((onlyAxis_modAxis ..).trans (onlyAxis_segAdvance ..)).others)
    (fun t b => ((onlyAxis_modAxis ..).trans (onlyAxis_segAdvance ..)).apart)
    (fun t b hb happart haxis => by
      have hlt : b < t.mot.axes.length := by rw [apart_length happart, hsix]; exact (mem_setBits.1 hb).1
      rw [(((SegSet.refl b t).modSeg hlt fun l => { l with barrier := true }).advance hlt).axis, haxis])
  rw [syncAll_passes h]
  split
  · next hbit => exact hin b (mem_setBits.2 ⟨hb, hbit⟩)
  · next hbit => exact hout b fun hmem => hbit (mem_setBits.1 hmem).2

/-! ### The look-ahead -/

/-- The move that a MOVE takes in. -/
def takenMove (mask leader : Nat) (target : Int) (turn : Bool) (l : SegList) : SegMove :=
  { target := target, mask := mask, leader := leader, speed := l.speed, accel := l.accel, shape := l.shape
    barrier := l.barrier || turn, notify := [] }

/-- A MOVE in the look-ahead: its list stands at the next word. -/
theorem takeIn_set (ha : a < s.mot.axes.length) (mask leader : Nat) (target : Int) (turn : Bool) :
    OnlyAxis a s (takeIn a mask leader target turn s) ∧
    (axisOf a (takeIn a mask leader target turn s)).seg = { (axisOf a s).seg with
      moves := (axisOf a s).seg.moves ++ [takenMove mask leader target turn (axisOf a s).seg]
      barrier := false, pc := (axisOf a s).seg.pc + 1, state := .running, budget := (axisOf a s).seg.budget - 1 } ∧
    (axisOf a (takeIn a mask leader target turn s)).pos = (axisOf a s).pos := by
  have htaken := ((SegSet.refl a s).modSeg ha fun l => { l with
    moves := l.moves ++ [takenMove mask leader target turn (axisOf a s).seg], barrier := false }).advance ha
  have hplans (y : State) (hy : y = takeIn a mask leader target turn s) :
      y = segAdvance a (modSeg a (fun l => { l with
        moves := l.moves ++ [takenMove mask leader target turn (axisOf a s).seg], barrier := false }) s) ∨
      y = modAxis a (fun y => { y with goal := some .list }) (segAdvance a (modSeg a (fun l => { l with
        moves := l.moves ++ [takenMove mask leader target turn (axisOf a s).seg], barrier := false }) s)) := by
    rw [hy, takeIn]
    split
    · exact .inr rfl
    · exact .inl rfl
  rcases hplans _ rfl with h | h
  · rw [h]
    exact ⟨htaken.only, htaken.seg, by rw [htaken.axis]⟩
  · rw [h]
    refine ⟨htaken.only.modAxis _, ?_, ?_⟩
    · rw [axisOf_modAxis_only htaken.only ha, htaken.axis]
    · rw [axisOf_modAxis_only htaken.only ha, htaken.axis]

theorem onlyAxis_takeIn (a mask leader : Nat) (target : Int) (turn : Bool) (s : State) :
    OnlyAxis a s (takeIn a mask leader target turn s) := by
  rw [takeIn]
  split
  · exact ((onlyAxis_modAxis ..).trans (onlyAxis_segAdvance ..)).modAxis _
  · exact (onlyAxis_modAxis ..).trans (onlyAxis_segAdvance ..)

/-! ### The start of the next move (R294, R297) -/

theorem startKept_energiseAll (l : List Nat) (b : Nat) (s : State) :
    startKept (axisOf b (l.foldl (fun s b => energiseAxis b s) s)) = startKept (axisOf b s) :=
  foldl_keeps startKept (fun _ _ => startKept_energiseAxis ..) l s

theorem startKept_tieFollowers (m : SegMove) (b : Nat) (s : State) :
    startKept (axisOf b (tieFollowers m s)) = startKept (axisOf b s) :=
  foldl_keeps startKept (fun _ _ => axisOf_modAxis_of_eq startKept rfl b) _ s

/-- A start leaves every list and every position. -/
theorem startKept_startNext (a b : Nat) (s : State) : startKept (axisOf b (startNext a s)) = startKept (axisOf b s) := by
  unfold startNext
  dsimp only
  split
  · rfl
  · next m _ _ =>
    have hrequest (u : State) : startKept (axisOf b (modAxis a (fun y => { y with target := some m.target })
        (request11 a .list u))) = startKept (axisOf b u) :=
      (axisOf_modAxis_of_eq startKept rfl b).trans (startKept_request11 ..)
    split
    · rfl
    · split
      · rw [hrequest, startKept_energiseAxis]
      · split
        · rw [hrequest, startKept_tieFollowers, startKept_energiseAll, startKept_energiseAxis]
        · rw [startKept_energiseAll, startKept_energiseAxis]

/-- A next move without a link starts its axis alone. -/
theorem onlyAxis_startNext (h : ∀ m ∈ (axisOf a s).seg.moves.head?, m.mask = 0) : OnlyAxis a s (startNext a s) := by
  unfold startNext
  dsimp only
  split
  · exact OnlyAxis.refl a s
  · next m l hmoves =>
    rw [hmoves] at h
    split
    · exact OnlyAxis.refl a s
    · rw [if_pos (h m rfl)]
      exact ((onlyAxis_energiseAxis a s).trans (onlyAxis_request11 ..)).modAxis _

/-- The starts of a group leave every list and every position. -/
theorem startKept_startGroup (l : List Nat) (b : Nat) (s : State) :
    startKept (axisOf b (l.foldl (fun s b => startNext b s) s)) = startKept (axisOf b s) :=
  foldl_keeps startKept (fun _ _ => startKept_startNext ..) l s

/-! ### Linked moves (R297) -/

theorem wrap32_eq_bmod (v : Int) : wrap32 v = Int.bmod v (2 ^ 32) := by
  rw [wrap32, toSigned, toRaw, Int.bmod_def]
  have h : (2 ^ 32 : Int) = 4294967296 := by norm_num
  simp only [h, Nat.reducePow, Nat.reduceSub, Nat.cast_ofNat]
  split <;> split <;> omega

theorem wrap32_wrap32 (x : Int) : wrap32 (wrap32 x) = wrap32 x := by simp only [wrap32_eq_bmod, Int.bmod_bmod]

theorem wrap32_add_wrap32_sub (x y : Int) : wrap32 (x + wrap32 (y - x)) = wrap32 y := by
  simp only [wrap32_eq_bmod, Int.add_bmod_bmod, add_sub_cancel]

theorem wrap32_wrap32_sub (x y : Int) : wrap32 (wrap32 x - y) = wrap32 (x - y) := by
  simp only [wrap32_eq_bmod, Int.bmod_sub_bmod]

/-- The distance of the linked MOVE at which an axis stands. -/
def linkDistance (mask b : Nat) (s : State) : Option Int :=
  match standsAt b s with
  | some (.move abs m v) =>
    if m = mask ∧ (axisOf b s).seg.moves.length < 8 then some (wrap32 (moveTarget b abs v s - listPosition b s)) else none
  | _ => none

/-- The first of the greatest in size, from `x` on. -/
def firstLargest (size : Nat → Nat) (l : List Nat) (x : Nat) : Nat :=
  l.foldl (fun best b => if size best < size b then b else best) x

/-- The leading axis of a linked move: the one with the largest distance, of those as large the lowest. -/
def linkLeader (mask a : Nat) (s : State) : Nat :=
  firstLargest (fun b => ((linkDistance mask b s).getD 0).natAbs) (setBits mask 6) ((setBits mask 6).headD a)

theorem linkedMove_passes {mask : Nat}
    (h : (setBits mask 6).all (fun b => (linkDistance mask b s).isSome && mayPass (mask, none) b s) = true) :
    ∃ turns, linkedMove a mask s = (setBits mask 6).foldl (fun t b => takeIn b mask (linkLeader mask a s)
      (wrap32 (listPosition b t + (linkDistance mask b s).getD 0)) turns t) s :=
  ⟨_, if_pos h⟩

theorem firstLargest_spec (size : Nat → Nat) {l : List Nat} {x : Nat} (hl : l.Pairwise (· ≤ ·)) (hx : ∀ b ∈ l, x ≤ b) :
    firstLargest size l x ∈ x :: l ∧ ∀ b ∈ x :: l, size b ≤ size (firstLargest size l x) ∧
      (size b = size (firstLargest size l x) → firstLargest size l x ≤ b) := by
  induction l generalizing x with
  | nil => simp [firstLargest]
  | cons c l ih =>
    obtain ⟨hc, hl⟩ := List.pairwise_cons.1 hl
    have hxc := hx c List.mem_cons_self
    by_cases hsize : size x < size c
    · have hstep : firstLargest size (c :: l) x = firstLargest size l c := by simp [firstLargest, hsize]
      obtain ⟨hmem, hmax⟩ := ih hl hc
      rw [hstep]
      refine ⟨List.mem_cons_of_mem x hmem, fun b hb => ?_⟩
      rcases List.mem_cons.1 hb with rfl | hb
      · have hle := (hmax c List.mem_cons_self).1
        exact ⟨by omega, fun heq => by omega⟩
      · exact hmax b hb
    · have hstep : firstLargest size (c :: l) x = firstLargest size l x := by simp [firstLargest, hsize]
      obtain ⟨hmem, hmax⟩ := ih hl fun b hb => hx b (List.mem_cons_of_mem c hb)
      rw [hstep]
      refine ⟨by simp only [List.mem_cons] at hmem ⊢; tauto, fun b hb => ?_⟩
      simp only [List.mem_cons] at hb
      rcases hb with rfl | rfl | hb
      · exact hmax b List.mem_cons_self
      · obtain ⟨hle, heq⟩ := hmax x List.mem_cons_self
        exact ⟨by omega, fun h => Nat.le_trans (heq (by omega)) hxc⟩
      · exact hmax b (List.mem_cons_of_mem x hb)

theorem pairwise_setBits (v n : Nat) : (setBits v n).Pairwise (· ≤ ·) :=
  (List.pairwise_lt_range.imp fun h => Nat.le_of_lt h).filter _

/-- The leading axis is one of the mask, with the largest distance, and the lowest of those. -/
theorem linkLeader_spec {mask : Nat} (hmask : setBits mask 6 ≠ []) (a : Nat) (s : State) :
    linkLeader mask a s ∈ setBits mask 6 ∧ ∀ b ∈ setBits mask 6,
      ((linkDistance mask b s).getD 0).natAbs ≤ ((linkDistance mask (linkLeader mask a s) s).getD 0).natAbs ∧
      (((linkDistance mask b s).getD 0).natAbs = ((linkDistance mask (linkLeader mask a s) s).getD 0).natAbs →
        linkLeader mask a s ≤ b) := by
  have hsorted := pairwise_setBits mask 6
  rw [linkLeader]
  generalize setBits mask 6 = l at hmask hsorted ⊢
  cases l with
  | nil => exact absurd rfl hmask
  | cons x l =>
    have hspec := firstLargest_spec (fun b => ((linkDistance mask b s).getD 0).natAbs) (l := x :: l) (x := x) hsorted
      fun b hb => by
        rcases List.mem_cons.1 hb with rfl | hb
        · exact Nat.le_refl b
        · exact (List.pairwise_cons.1 hsorted).1 b hb
    exact ⟨by simpa using hspec.1, fun b hb => hspec.2 b (List.mem_cons_of_mem x hb)⟩

theorem setBits_ne_nil {mask : Nat} (hmask : mask ≠ 0) (hlt : mask < 64) : setBits mask 6 ≠ [] := by
  have hall : ∀ m : Fin 64, m.val ≠ 0 → setBits m 6 ≠ [] := by decide
  exact hall ⟨mask, hlt⟩ hmask

section
variable {mask : Nat} {f : Nat → Bool × Int} (hmask : mask ≠ 0) (hlt : mask < 64)
  (hstand : ∀ b ∈ setBits mask 6, standsAt b s = some (.move (f b).1 mask (f b).2) ∧ (axisOf b s).seg.moves.length < 8 ∧
    mayPass (mask, none) b s = true)

/-- The target of the linked MOVE at which an axis stands. -/
def linkTarget (f : Nat → Bool × Int) (b : Nat) (s : State) : Int :=
  wrap32 (if (f b).1 = true then (f b).2 else listPosition b s + (f b).2)

theorem wrap32_moveTarget (f : Nat → Bool × Int) (b : Nat) (s : State) :
    wrap32 (moveTarget b (f b).1 (f b).2 s) = linkTarget f b s := by
  unfold moveTarget linkTarget
  split
  · rfl
  · exact wrap32_wrap32 _

include hstand

theorem linkDistance_of_stands {b : Nat} (hb : b ∈ setBits mask 6) :
    linkDistance mask b s = some (wrap32 (linkTarget f b s - listPosition b s)) := by
  obtain ⟨hword, hroom, -⟩ := hstand b hb
  rw [← wrap32_moveTarget, wrap32_wrap32_sub]
  simp [linkDistance, hword, hroom]

theorem linkPasses : (setBits mask 6).all (fun b => (linkDistance mask b s).isSome && mayPass (mask, none) b s) = true := by
  refine List.all_eq_true.2 fun b hb => ?_
  simp [linkDistance_of_stands hstand hb, (hstand b hb).2.2]

/-- Each axis of the mask takes the move to its target in, under the leading axis, and goes on; no other axis changes. -/
theorem linkedMove_takes (hsix : s.mot.axes.length = 6) :
    (∀ b ∈ setBits mask 6, ∃ m, (axisOf b (linkedMove a mask s)).seg.moves = (axisOf b s).seg.moves ++ [m] ∧ m.mask = mask ∧
      m.leader = linkLeader mask a s ∧ m.target = linkTarget f b s ∧
      (axisOf b (linkedMove a mask s)).seg.pc = (axisOf b s).seg.pc + 1 ∧
      (axisOf b (linkedMove a mask s)).pos = (axisOf b s).pos) ∧
    (∀ b, b ∉ setBits mask 6 → axisOf b (linkedMove a mask s) = axisOf b s) := by
  obtain ⟨turns, hmoves⟩ := linkedMove_passes (a := a) (linkPasses hstand)
  rw [hmoves]
  refine foldl_each (s := s) (nodup_setBits mask 6) (P := fun b y => ∃ m, y.seg.moves = (axisOf b s).seg.moves ++ [m] ∧
    m.mask = mask ∧ m.leader = linkLeader mask a s ∧ m.target = linkTarget f b s ∧ y.seg.pc = (axisOf b s).seg.pc + 1 ∧
    y.pos = (axisOf b s).pos) (fun t b => (onlyAxis_takeIn ..).others)
    (fun t b => (onlyAxis_takeIn ..).apart) fun t b hb happart haxis => ?_
  have hlt : b < t.mot.axes.length := by rw [apart_length happart, hsix]; exact (mem_setBits.1 hb).1
  have hplace : listPosition b t = listPosition b s := by simp only [listPosition, haxis]
  obtain ⟨-, hseg, hpos⟩ := takeIn_set hlt mask (linkLeader mask a s)
    (wrap32 (listPosition b t + (linkDistance mask b s).getD 0)) turns
  rw [hseg, hpos, haxis]
  refine ⟨_, rfl, rfl, rfl, ?_, rfl, rfl⟩
  rw [linkDistance_of_stands hstand hb, hplace, takenMove]
  simp only [Option.getD_some, wrap32_add_wrap32_sub]
  rw [linkTarget, wrap32_wrap32]

end

/-! ### The instructions -/

section
variable (ha : a < s.mot.axes.length)
include ha

theorem segDo_nop : SegSet a { (axisOf a s).seg with
    pc := (axisOf a s).seg.pc + 1, state := .running, budget := (axisOf a s).seg.budget - 1 } s (segDo a .nop s) :=
  (SegSet.refl a s).advance ha

theorem segDo_speed (v : Nat) : SegSet a { (axisOf a s).seg with
    pc := (axisOf a s).seg.pc + 1, state := .running, budget := (axisOf a s).seg.budget - 1, speed := v } s
      (segDo a (.speed v) s) :=
  ((SegSet.refl a s).modSeg ha fun l => { l with speed := v }).advance ha

theorem segDo_accel (shape v : Nat) : SegSet a { (axisOf a s).seg with
    pc := (axisOf a s).seg.pc + 1, state := .running, budget := (axisOf a s).seg.budget - 1, accel := v, shape := shape } s
      (segDo a (.accel shape v) s) :=
  ((SegSet.refl a s).modSeg ha fun l => { l with accel := v, shape := shape }).advance ha

theorem segDo_jump (w : Nat) : SegSet a { (axisOf a s).seg with
    pc := w, state := .running, budget := (axisOf a s).seg.budget - 1 } s (segDo a (.jump w) s) :=
  (SegSet.refl a s).goto ha w

theorem segDo_loop (c w n : Nat) : SegSet a { (axisOf a s).seg with
    pc := if loopCount (axisOf a s).seg.cnt c n = 0 then (axisOf a s).seg.pc + 1 else w
    state := .running, budget := (axisOf a s).seg.budget - 1
    cnt := setAt (axisOf a s).seg.cnt c (loopCount (axisOf a s).seg.cnt c n) } s (segDo a (.loop c w n) s) := by
  have hcount := (SegSet.refl a s).modSeg ha fun l => { l with cnt := setAt l.cnt c (loopCount (axisOf a s).seg.cnt c n) }
  simp only [segDo]
  split
  · exact hcount.advance ha
  · exact hcount.goto ha w

theorem segDo_dwell_rest {us : Nat} (huntil : (axisOf a s).seg.dwellUntil = none) (hrest : listAtRest a s = true) :
    SegSet a { (axisOf a s).seg with state := .waiting, barrier := true, dwellUntil := some (s.clk + 1000 * us) } s
      (segDo a (.dwell us) s) := by
  simp only [segDo, huntil, hrest, Option.isSome_none, Bool.false_eq_true, if_false, if_true]
  exact (SegSet.refl a s).modSeg ha fun l => { l with
    state := .waiting, barrier := true, dwellUntil := some (s.clk + 1000 * us) }

theorem segDo_dwell_moving {us : Nat} (huntil : (axisOf a s).seg.dwellUntil = none) (hrest : listAtRest a s = false) :
    SegSet a { (axisOf a s).seg with state := .waiting, barrier := true } s (segDo a (.dwell us) s) := by
  have hdo : segDo a (.dwell us) s = segWaits a s := by simp [segDo, huntil, hrest]
  rw [hdo]
  exact segSet_segWaits ha

theorem segDo_wait_met {c : Nat} (h : segCondition a c s = true) : SegSet a { (axisOf a s).seg with
    pc := (axisOf a s).seg.pc + 1, state := .running, budget := (axisOf a s).seg.budget - 1, barrier := true } s
      (segDo a (.wait c) s) := by
  simp only [segDo, h, if_true]
  exact ((SegSet.refl a s).modSeg ha fun l => { l with barrier := true }).advance ha

theorem segDo_wait_unmet {c : Nat} (h : segCondition a c s = false) :
    SegSet a { (axisOf a s).seg with state := .waiting, barrier := true } s (segDo a (.wait c) s) := by
  simp only [segDo, h, Bool.false_eq_true, if_false]
  exact segSet_segWaits ha

theorem segDo_notify_ahead {code : Nat} {m : SegMove} {ms : List SegMove} (hmoves : (axisOf a s).seg.moves = ms ++ [m]) :
    SegSet a { (axisOf a s).seg with
      pc := (axisOf a s).seg.pc + 1, state := .running, budget := (axisOf a s).seg.budget - 1
      moves := ms ++ [{ m with notify := m.notify ++ [code] }] } s (segDo a (.notify code) s) := by
  have hnext := (SegSet.refl a s).advance ha
  have hahead : (axisOf a (segAdvance a s)).seg.moves.reverse = m :: ms.reverse := by rw [hnext.seg]; simp [hmoves]
  simp only [segDo, hahead, List.reverse_cons, List.reverse_reverse]
  exact hnext.modSeg ha fun l => { l with moves := ms ++ [{ m with notify := m.notify ++ [code] }] }

/-- A NOTIFY with no MOVE ahead sends its notice at once. -/
theorem segDo_notify_now {code : Nat} (hmoves : (axisOf a s).seg.moves = []) :
    (axisOf a (segDo a (.notify code) s)).seg = { (axisOf a s).seg with
      pc := (axisOf a s).seg.pc + 1, state := .running, budget := (axisOf a s).seg.budget - 1, notifyLast := code } ∧
    (∀ j, j ≠ a → axisOf j (segDo a (.notify code) s) = axisOf j s) ∧
    segDo a (.notify code) s = { s with
      mot := { s.mot with axes := (segDo a (.notify code) s).mot.axes }, mbox := (segDo a (.notify code) s).mbox } := by
  have hnext := ((SegSet.refl a s).advance ha).modSeg ha fun l => { l with notifyLast := code }
  have hahead : (axisOf a (segAdvance a s)).seg.moves.reverse = [] := by rw [((SegSet.refl a s).advance ha).seg]; simp [hmoves]
  have hdo : ∃ payload, segDo a (.notify code) s =
      mpMessage 0x83 payload (modSeg a (fun l => { l with notifyLast := code }) (segAdvance a s)) := by
    simp only [segDo, hahead, sendNotices, List.foldl_cons, List.foldl_nil]
    exact ⟨_, rfl⟩
  obtain ⟨payload, hdo⟩ := hdo
  have haxis (b : Nat) : axisOf b (segDo a (.notify code) s) =
      axisOf b (modSeg a (fun l => { l with notifyLast := code }) (segAdvance a s)) := by
    rw [hdo, mpMessage_frame]
    simp only [axisOf]
  refine ⟨by rw [haxis, hnext.seg], fun j hj => (haxis j).trans (hnext.only.others j hj), ?_⟩
  rw [hdo, mpMessage_frame]
  exact congrArg (fun t : State => { t with
    mbox := (mpMessage 0x83 payload (modSeg a (fun l => { l with notifyLast := code }) (segAdvance a s))).mbox }) hnext.only.frame

theorem segDo_halt_rest (hrest : listAtRest a s = true) : OnlyAxis a s (segDo a .halt s) ∧
    axisOf a (segDo a .halt s) = { axisOf a s with
      owner := .host, seg := { (axisOf a s).seg with state := .halted, barrier := false } } := by
  simp only [segDo, segEnd, hrest, if_true]
  exact ⟨onlyAxis_modAxis .., axisOf_modAxis_self s a _ ha⟩

theorem segDo_halt_moving (hrest : listAtRest a s = false) :
    SegSet a { (axisOf a s).seg with state := .waiting, barrier := true } s (segDo a .halt s) := by
  simp only [segDo, segEnd, hrest, Bool.false_eq_true, if_false]
  exact segSet_segWaits ha

theorem segDo_move_full {abs : Bool} {v : Int} (hfull : 8 ≤ (axisOf a s).seg.moves.length) :
    SegSet a { (axisOf a s).seg with state := .waiting } s (segDo a (.move abs 0 v) s) := by
  simp only [segDo, Nat.not_lt.2 hfull, if_false]
  exact (SegSet.refl a s).modSeg ha fun l => { l with state := .waiting }

/-- A MOVE of the axis alone enters the look-ahead, and the first of a look-ahead without a linked move starts no other axis. -/
theorem segDo_move_room {abs : Bool} {v : Int} (hroom : (axisOf a s).seg.moves.length < 8) :
    (axisOf a (segDo a (.move abs 0 v) s)).seg.moves =
      (axisOf a s).seg.moves ++ [takenMove 0 a (moveTarget a abs v s) false (axisOf a s).seg] ∧
    (axisOf a (segDo a (.move abs 0 v) s)).seg.pc = (axisOf a s).seg.pc + 1 ∧
    (axisOf a (segDo a (.move abs 0 v) s)).pos = (axisOf a s).pos ∧
    ((∀ m ∈ (axisOf a s).seg.moves, m.mask = 0) → OnlyAxis a s (segDo a (.move abs 0 v) s)) := by
  have hdo : segDo a (.move abs 0 v) s = startNext a (takeIn a 0 a (moveTarget a abs v s) false s) := if_pos hroom
  obtain ⟨htaken, hseg, hpos⟩ := takeIn_set ha 0 a (moveTarget a abs v s) false
  have hkept := startKept_startNext a a (takeIn a 0 a (moveTarget a abs v s) false s)
  rw [hdo]
  refine ⟨?_, ?_, ?_, fun hplain => htaken.trans (onlyAxis_startNext fun m hm => ?_)⟩
  · exact (congrArg (fun x => x.seg.moves) hkept).trans (congrArg SegList.moves hseg)
  · exact (congrArg (fun x => x.seg.pc) hkept).trans (congrArg SegList.pc hseg)
  · exact (congrArg Axis.pos hkept).trans hpos
  · have hmem := List.mem_of_mem_head? hm
    rw [hseg] at hmem
    rcases List.mem_append.1 hmem with hold | hnew
    · exact hplain m hold
    · rw [List.mem_singleton.1 hnew]
      rfl

end

theorem segDo_linked {mask : Nat} (hmask : mask ≠ 0) (abs : Bool) (v : Int) :
    segDo a (.move abs mask v) s = (setBits mask 6).foldl (fun s b => startNext b s) (linkedMove a mask s) := by
  cases mask with
  | zero => exact absurd rfl hmask
  | succ mask => rfl

/-- A linked MOVE leaves the positions, and each list of its mask goes on with the move taken in. -/
theorem segDo_linked_takes {mask : Nat} {f : Nat → Bool × Int} (hmask : mask ≠ 0) (abs : Bool) (v : Int)
    (hstand : ∀ b ∈ setBits mask 6, standsAt b s = some (.move (f b).1 mask (f b).2) ∧ (axisOf b s).seg.moves.length < 8 ∧
      mayPass (mask, none) b s = true) (hsix : s.mot.axes.length = 6) :
    (∀ b ∈ setBits mask 6, ∃ m, (axisOf b (segDo a (.move abs mask v) s)).seg.moves = (axisOf b s).seg.moves ++ [m] ∧
      m.mask = mask ∧ m.leader = linkLeader mask a s ∧ m.target = linkTarget f b s ∧
      (axisOf b (segDo a (.move abs mask v) s)).seg.pc = (axisOf b s).seg.pc + 1) ∧
    (∀ b, (axisOf b (segDo a (.move abs mask v) s)).pos = (axisOf b s).pos) := by
  obtain ⟨hin, hout⟩ := linkedMove_takes (a := a) hstand hsix
  have hkept (b : Nat) : startKept (axisOf b (segDo a (.move abs mask v) s)) = startKept (axisOf b (linkedMove a mask s)) := by
    rw [segDo_linked hmask]
    exact startKept_startGroup ..
  refine ⟨fun b hb => ?_, fun b => (congrArg Axis.pos (hkept b)).trans ?_⟩
  · obtain ⟨m, hmoves, hrest, hleader, htarget, hpc, -⟩ := hin b hb
    exact ⟨m, (congrArg (fun x => x.seg.moves) (hkept b)).trans hmoves, hrest, hleader, htarget,
      (congrArg (fun x => x.seg.pc) (hkept b)).trans hpc⟩
  · by_cases hb : b ∈ setBits mask 6
    · exact (hin b hb).choose_spec.2.2.2.2.2
    · exact congrArg (fun x => (startKept x).pos) (hout b hb)

/-- Settles O38: each row carries out the instruction at the word (`segStep_of_current`) as its lemma `segDo_…` says; SYNC acts on every
list of its mask (`axisOf_syncAll`), and a linked MOVE on every axis of its mask (`linkedMove_takes`, `linkLeader_spec`), whose start leaves
lists and positions (`startKept_startGroup`). -/
theorem segmentListInstructions : Obligations.SegmentListInstructions := by
  unfold Obligations.SegmentListInstructions
  refine ⟨fun a op s hshaped hop => ?_, fun a s hnone => ?_, fun a s hshaped =>
    ⟨fun huntil hlive hblocked hruns => ?_, fun huntil => ?_⟩⟩
  · have ha := axis_lt_of_shaped hshaped a
    have hdo {is : SegOp → Bool} (his : is op = true) :
        Host.Outcome.next (φ := Fault) (ρ := Refusal) (segStep a.val is s) = .next (segDo a op s) :=
      congrArg Host.Outcome.next (segStep_of_current hop his)
    dsimp only
    refine ⟨?_, ?_, ?_, ?_, ?_, ?_, ?_, ?_, ?_, ?_, ?_, ?_, ?_, ?_, ?_⟩
    · rintro rfl
      exact (segDo_nop ha).result (hdo rfl)
    · rintro v rfl
      exact (segDo_speed ha v).result (hdo rfl)
    · rintro shape v rfl
      exact (segDo_accel ha shape v).result (hdo rfl)
    · rintro w rfl
      exact (segDo_jump ha w).result (hdo rfl)
    · rintro c w n rfl
      exact (segDo_loop ha c w n).result (hdo rfl)
    · rintro us rfl huntil hrest
      exact (segDo_dwell_rest ha huntil hrest).result (hdo rfl)
    · rintro us rfl huntil hrest
      exact (segDo_dwell_moving ha huntil hrest).result (hdo rfl)
    · rintro c rfl hcondition
      exact (segDo_wait_met ha hcondition).result (hdo rfl)
    · rintro c rfl hcondition
      exact (segDo_wait_unmet ha hcondition).result (hdo rfl)
    · rintro mask tag rfl
      refine ⟨fun hwaits => ?_, fun hpasses => ?_⟩
      · have hset := (segSet_segWaits ha).holdBarred ha (mask, some tag)
        rw [← syncAll_waits hwaits] at hset
        exact hset.result (hdo rfl)
      · have hsix := axes_length_of_shaped hshaped
        have happart : apart false false (syncAll a mask tag s) = apart false false s := apart_syncAll ..
        exact ⟨_, hdo rfl, fun b hb => axisOf_syncAll hsix hpasses hb, (apart_axes_iff.1 happart).1⟩
    · rintro code rfl
      exact ⟨fun hmoves => ⟨_, hdo rfl, segDo_notify_now ha hmoves⟩,
        fun m ms hmoves => (segDo_notify_ahead ha hmoves).result (hdo rfl)⟩
    · rintro rfl hrest
      obtain ⟨honly, haxis⟩ := segDo_halt_rest ha hrest
      exact ⟨_, hdo rfl, honly.and, haxis⟩
    · rintro rfl hrest
      exact (segDo_halt_moving ha hrest).result (hdo rfl)
    · rintro abs v rfl
      refine ⟨fun hroom => ?_, fun hfull => (segDo_move_full ha hfull).result (hdo rfl)⟩
      obtain ⟨hmoves, hpc, hpos, honly⟩ := segDo_move_room ha (abs := abs) (v := v) hroom
      have happart : apart false false (segDo a (.move abs 0 v) s) = apart false false s := by simp [segDo, hroom]
      refine ⟨_, hdo rfl, ?_, hpc, hpos, fun hplain => (honly hplain).others, (apart_axes_iff.1 happart).1⟩
      rw [hmoves, takenMove, moveTarget, Bool.or_false]
    · rintro abs mask v f rfl hmask hlt hstand
      obtain ⟨hleads, hlargest⟩ := linkLeader_spec (setBits_ne_nil hmask hlt) a.val s
      obtain ⟨htakes, hpos⟩ := segDo_linked_takes (a := a.val) hmask abs v hstand (axes_length_of_shaped hshaped)
      have happart : apart false false (segDo a (.move abs mask v) s) = apart false false s := by
        rw [segDo_linked hmask]
        simp
      have hway {b : Nat} (hb : b ∈ setBits mask 6) : ((linkDistance mask b s).getD 0).natAbs =
          (wrap32 (linkTarget f b s - listPosition b s)).natAbs := by rw [linkDistance_of_stands hstand hb]; rfl
      refine ⟨_, linkLeader mask a s, hdo rfl, hleads, fun b hb => ?_, fun b _ => hpos b, (apart_axes_iff.1 happart).1⟩
      have hmost := hlargest b hb
      rw [hway hb, hway hleads] at hmost
      exact ⟨hmost.1, hmost.2, htakes b hb⟩
  · have hstays (is : SegOp → Bool) : Host.Outcome.next (φ := Fault) (ρ := Refusal) (segStep a.val is s) = .next s :=
      congrArg Host.Outcome.next (segStep_of_none hnone is)
    simp only [List.forall_mem_cons, List.not_mem_nil, false_implies, implies_true, and_true]
    exact ⟨hstays _, hstays _, hstays _, hstays _, hstays _, hstays _, hstays _, hstays _, hstays _, hstays _, hstays _⟩
  · have hset := ((SegSet.refl a.val s).modSeg (axis_lt_of_shaped hshaped a) fun l => { l with dwellUntil := none }).advance
      (axis_lt_of_shaped hshaped a)
    have hend : dwellEnd a.val s = segAdvance a.val (modSeg a.val (fun l => { l with dwellUntil := none }) s) :=
      if_pos (by simp [Option.isSome_iff_ne_none.2 huntil, hlive, hblocked, hruns])
    exact ⟨_, congrArg Host.Outcome.next hend, hset.axis, hset.only.and⟩
  · exact congrArg Host.Outcome.next (if_neg (by simp [huntil]))

end Sys2Proof.Machine
end

section
/-!
PROOFS. Stops of an axis: its list, its emergency ramp and its gates (11_motion R294, R301, R305, R308, R316).

A stop of one axis reaches the axes that move with it. `stopKept` reads what of an axis no stop changes, `listKept` what the end of its list
leaves, and an emergency ramp keeps on every axis what `EmergencyKeeps` asks of the three changes it makes.
-/
namespace Sys2Proof.Machine

variable {a b : Nat} {s t : State}

/-! ### Facts of axes that updates keep -/

/-- What an update of one axis keeps of that axis it keeps of every axis. -/
theorem axisOf_modAxis_inv {P : Axis → Prop} {f : Axis → Axis} (hf : P (axisOf a s) → P (f (axisOf a s)))
    (h : P (axisOf b s)) : P (axisOf b (modAxis a f s)) := by
  by_cases hb : b = a
  · subst hb
    by_cases hlt : b < s.mot.axes.length
    · rw [axisOf_modAxis_self s b f hlt]
      exact hf h
    · rw [modAxis, modifyAt_out f b _ (Nat.le_of_not_lt hlt)]
      exact h
  · rwa [axisOf_modAxis_ne s a b f hb]

theorem axisOf_foldl_inv {α : Type} {P : Axis → Prop} {f : State → α → State}
    (hf : ∀ t x, P (axisOf b t) → P (axisOf b (f t x))) (l : List α) (h : P (axisOf b s)) : P (axisOf b (l.foldl f s)) :=
  List.foldlRecOn (motive := fun t => P (axisOf b t)) l f h fun t ht x _ => hf t x ht

/-- What a function does at one of a list it has done at the end, where its other calls neither prevent it nor undo it. -/
theorem foldl_reaches {α : Type} {f : State → α → State} {l : List α} {x : α} (hx : x ∈ l) {Q P : State → Prop}
    (hbefore : ∀ t y, Q t → Q (f t y)) (hat : ∀ t, Q t → P (f t x)) (hafter : ∀ t y, P t → P (f t y)) (hs : Q s) :
    P (l.foldl f s) := by
  induction l generalizing s with
  | nil => exact absurd hx List.not_mem_nil
  | cons y l ih =>
    rcases List.mem_cons.1 hx with rfl | hx
    · exact List.foldlRecOn (motive := P) l f (hat s hs) fun t ht y _ => hafter t y ht
    · exact ih hx (hbefore s y hs)

/-! ### The end of a list (R294) -/

/-- An axis but for its list and its owner. -/
def listKept (x : Axis) : Axis := { x with seg := SegList.reset, owner := .host }

theorem listKept_modSeg (a b : Nat) (f : SegList → SegList) (s : State) :
    listKept (axisOf b (modSeg a f s)) = listKept (axisOf b s) := axisOf_modAxis_of_eq listKept rfl b

theorem listKept_countStopped (x : Axis) : listKept (countStopped x) = listKept x := by
  unfold countStopped
  split <;> rfl

theorem listKept_barOthers (a b : Nat) (s : State) : listKept (axisOf b (barOthers a s)) = listKept (axisOf b s) := by
  unfold barOthers
  split
  · rfl
  · exact foldl_keeps listKept (fun _ _ => listKept_modSeg ..) _ s

theorem listKept_stopList (a reason b : Nat) (s : State) :
    listKept (axisOf b (stopList a reason s)) = listKept (axisOf b s) := by
  unfold stopList
  dsimp only
  split
  · rfl
  · rw [listKept_modSeg, axisOf_modAxis_of_eq listKept rfl, axisOf_modAxis_of_eq listKept (listKept_countStopped _),
      foldl_keeps listKept (fun _ _ => listKept_modSeg ..), listKept_barOthers]

theorem stopList_idle (h : (axisOf a s).seg.live = false) (reason : Nat) : stopList a reason s = s := by simp [stopList, h]

/-! ### Ramps (R294, R305) -/

/-- An axis but for what a stop changes. -/
def stopKept (x : Axis) : Axis :=
  { x with
    seg := SegList.reset, owner := .host, state := .off, goal := none, target := none, captureNext := none, emergency := false
    stopRamp := false, profile := Profile.reset, followFast := 0, followEdge := none }

theorem stopKept_leaveFollow (a b : Nat) (s : State) : stopKept (axisOf b (leaveFollow a s)) = stopKept (axisOf b s) := by
  refine axisOf_modAxis_of_eq stopKept ?_ b
  dsimp only
  split <;> rfl

theorem stopKept_normalStop (a b : Nat) (s : State) : stopKept (axisOf b (normalStop a s)) = stopKept (axisOf b s) := by
  unfold normalStop
  dsimp only
  split
  · exact stopKept_leaveFollow a b s
  · rw [foldl_keeps stopKept (fun _ _ => axisOf_modAxis_of_eq stopKept rfl b), axisOf_modAxis_of_eq stopKept rfl,
      stopKept_leaveFollow]

theorem stopKept_stopList (a reason b : Nat) (s : State) :
    stopKept (axisOf b (stopList a reason s)) = stopKept (axisOf b s) :=
  show stopKept (listKept _) = stopKept (listKept _) from congrArg stopKept (listKept_stopList a reason b s)

/-- What the emergency ramp of any axis keeps of each axis: it holds after the axis leaves FOLLOW, takes the ramp, and stops. -/
structure EmergencyKeeps (P : Axis → Prop) : Prop where
  leave : ∀ x v, x.owner = .follow → P x →
    P { x with owner := .host, profile := { Profile.reset with vel := v }, followFast := 0, followEdge := none }
  ramp : ∀ x next, P x → P { x with goal := some .emergency, target := none, captureNext := next }
  stop : ∀ x r, P x → P { x with state := .stopping, emergency := true, stopRamp := r }

theorem emergencyKeeps_stopKept (y : Axis) : EmergencyKeeps (fun x => stopKept x = y) :=
  ⟨fun _ _ _ h => h, fun _ _ h => h, fun _ _ h => h⟩

/-- An axis that moves alone for the host. -/
def MovesAlone (x : Axis) : Prop := x.owner = .host ∧ x.link = none ∧ x.moving = true

theorem emergencyKeeps_movesAlone : EmergencyKeeps MovesAlone where
  leave _ _ howner h := absurd (howner.symm.trans h.1) (by decide)
  ramp _ _ h := ⟨h.1, h.2.1, by simp [Axis.moving]⟩
  stop _ _ h := ⟨h.1, h.2.1, by simp [Axis.moving]⟩

/-- An axis on its emergency ramp. -/
def RampsDown (x : Axis) : Prop := x.emergency = true ∧ x.state = .stopping

theorem emergencyKeeps_rampsDown : EmergencyKeeps RampsDown where
  leave _ _ _ h := h
  ramp _ _ h := h
  stop _ _ _ := ⟨rfl, rfl⟩

theorem endGroupMove_frame (s : State) :
    endGroupMove s = { s with mot := { s.mot with transport := (endGroupMove s).mot.transport } } := by
  unfold endGroupMove
  split <;> rfl

theorem weirStop_frame (s : State) : weirStop s = { s with
    host := (weirStop s).host, tim := (weirStop s).tim, pipe := (weirStop s).pipe
    mot := { s.mot with transport := (weirStop s).mot.transport } } := by
  unfold weirStop
  dsimp only
  split
  · rfl
  · split
    · rw [endGroupMove_frame]
      rfl
    · rfl

theorem axisOf_weirStop (b : Nat) (s : State) : axisOf b (weirStop s) = axisOf b s := by rw [weirStop_frame]; rfl

namespace EmergencyKeeps

variable {P : Axis → Prop} (h : EmergencyKeeps P)
include h

theorem emergencyStop (a : Nat) (hb : P (axisOf b s)) : P (axisOf b (emergencyStop a s)) := by
  have hleave : P (axisOf b (leaveFollow a s)) := by
    refine axisOf_modAxis_inv (fun ha => ?_) hb
    dsimp only
    split
    · next howner => exact h.leave _ _ howner ha
    · exact ha
  unfold Machine.emergencyStop
  dsimp only
  split
  · exact hleave
  · refine axisOf_foldl_inv (fun t c ht => axisOf_modAxis_inv (h.stop _ _) ht) _ ?_
    split
    · exact hleave
    · exact axisOf_modAxis_inv (h.ramp _ _) hleave

theorem groupEmergency (hb : P (axisOf b s)) : P (axisOf b (groupEmergency s)) := by
  unfold Machine.groupEmergency
  dsimp only
  split
  · exact hb
  · refine axisOf_foldl_inv (fun t c ht => ?_) _ hb
    split
    · exact ht
    · exact axisOf_modAxis_inv (h.stop _ _) ht

theorem emergencyOf (a : Nat) (hb : P (axisOf b s)) : P (axisOf b (emergencyOf a s)) := by
  unfold Machine.emergencyOf
  split
  · split
    · exact hb
    · exact h.groupEmergency (by rwa [axisOf_weirStop])
  · exact h.emergencyStop a hb

theorem emergencyAll (hb : P (axisOf b s)) : P (axisOf b (emergencyAll s)) :=
  axisOf_foldl_inv (fun _ c ht => h.emergencyOf c ht) _ hb

end EmergencyKeeps

theorem mem_groupAxes_self (howner : (axisOf a s).owner ≠ .pacer) (ha : a < 6) : a ∈ groupAxes a s := by
  simp [groupAxes_of_owner howner, axisNumbers, ha]

/-- Only an axis that the state holds moves. -/
theorem axis_lt_of_moving (h : (axisOf a s).moving = true) : a < s.mot.axes.length := by
  by_contra hlt
  rw [axisOf, List.getD_eq_default _ _ (Nat.le_of_not_lt hlt)] at h
  exact absurd h (by decide)

/-- An axis that moves alone takes its emergency ramp. -/
theorem rampsDown_emergencyStop (h : MovesAlone (axisOf a s)) (ha : a < 6) : RampsDown (axisOf a (emergencyStop a s)) := by
  obtain ⟨howner, hlink, hmoving⟩ := h
  simp only [emergencyStop, leaderOf_self hlink, leaveFollow_eq_self (show (axisOf a s).owner ≠ .follow by simp [howner]), hmoving,
    Bool.not_true, Bool.false_eq_true, if_false]
  refine foldl_reaches (x := a) (Q := fun t => (axisOf a t).moving = true) (P := fun t => RampsDown (axisOf a t))
    (mem_groupAxes_self (by simp [howner]) ha) ?_ ?_ ?_ ?_
  · exact fun t c ht => axisOf_modAxis_inv (P := fun x => x.moving = true) (fun _ => by simp [Axis.moving]) ht
  · intro t ht
    rw [axisOf_modAxis_self t a _ (axis_lt_of_moving ht)]
    exact ⟨rfl, rfl⟩
  · exact fun t c ht => axisOf_modAxis_inv (fun _ => ⟨rfl, rfl⟩) ht
  · split
    · exact hmoving
    · exact axisOf_modAxis_inv (P := fun x => x.moving = true) (fun _ => by simp [Axis.moving]) hmoving

theorem emergencyOf_host (howner : (axisOf a s).owner = .host) : emergencyOf a s = emergencyStop a s := by
  simp [emergencyOf, howner]

/-- A state but for what an emergency stop of all axes changes. -/
def besideStops (s : State) : State :=
  { s with mot := State.reset.mot, host := State.reset.host, tim := State.reset.tim, pipe := State.reset.pipe }

theorem besideStops_of_apart (h : apart false false t = apart false false s) : besideStops t = besideStops s :=
  show besideStops (apart false false t) = besideStops (apart false false s) from congrArg besideStops h

@[simp] theorem besideStops_weirStop (s : State) : besideStops (weirStop s) = besideStops s := by
  rw [weirStop_frame]
  rfl

theorem besideStops_groupEmergency (s : State) : besideStops (groupEmergency s) = besideStops s := by
  unfold groupEmergency
  dsimp only
  split
  · rfl
  · refine List.foldlRecOn (motive := fun t => besideStops t = besideStops s) _ _ rfl fun t ht c _ => ?_
    split
    · exact ht
    · exact (besideStops_of_apart (apart_modAxis ..)).trans ht

theorem besideStops_emergencyOf (a : Nat) (s : State) : besideStops (emergencyOf a s) = besideStops s := by
  unfold emergencyOf
  split
  · split
    · rfl
    · rw [besideStops_groupEmergency, besideStops_weirStop]
  · exact besideStops_of_apart (apart_emergencyStop ..)

theorem besideStops_emergencyAll (s : State) : besideStops (emergencyAll s) = besideStops s :=
  List.foldlRecOn (motive := fun t => besideStops t = besideStops s) _ _ rfl fun t ht c _ =>
    (besideStops_emergencyOf c t).trans ht

theorem besideStops_frame (h : besideStops t = besideStops s) :
    t = { s with mot := t.mot, host := t.host, tim := t.tim, pipe := t.pipe } := by
  have hparts : t = { besideStops t with mot := t.mot, host := t.host, tim := t.tim, pipe := t.pipe } := rfl
  exact hparts.trans (by rw [h]; rfl)

/-- Every enabled axis that moves alone is on its ramp after the emergency stop of all. -/
theorem rampsDown_emergencyAll (h : MovesAlone (axisOf a s)) (ha : a < 6) (henabled : axisEnabled a s = true) :
    RampsDown (axisOf a (emergencyAll s)) := by
  refine foldl_reaches (x := a) (Q := fun t => MovesAlone (axisOf a t))
    (P := fun t => RampsDown (axisOf a t)) (by simp [axisNumbers, ha, henabled]) ?_ ?_ ?_ h
  · exact fun t c ht => emergencyKeeps_movesAlone.emergencyOf c ht
  · intro t ht
    rw [emergencyOf_host ht.1]
    exact rampsDown_emergencyStop ht ha
  · exact fun t c ht => emergencyKeeps_rampsDown.emergencyOf c ht

/-- What the request of an emergency ramp changes. -/
def emergencyRamp (x : Axis) : Axis := { x with
  goal := some .emergency, target := none, captureNext := if x.owner = .capture then x.target else x.captureNext }

/-- The emergency ramp of an axis that moves alone. -/
theorem emergencyStop_alone (h : MovesAlone (axisOf a s)) (hemergency : (axisOf a s).emergency = false)
    (hgroup : groupAxes a s = [a]) : OnlyAxis a s (emergencyStop a s) ∧ axisOf a (emergencyStop a s) = { axisOf a s with
      goal := some .emergency, target := none, state := .stopping, emergency := true, stopRamp := false } := by
  obtain ⟨howner, hlink, hmoving⟩ := h
  have ha := axis_lt_of_moving hmoving
  have hramp := axisOf_modAxis_self s a emergencyRamp ha
  have honly := onlyAxis_modAxis a emergencyRamp s
  have hgroup' : groupAxes a (modAxis a emergencyRamp s) = [a] :=
    (groupAxes_congr (by simp [howner]) (by rw [hramp]; simp [emergencyRamp, howner])
      (axisOf_modAxis_of_eq (·.link) (f := emergencyRamp) rfl)).trans hgroup
  have hstop : emergencyStop a s = modAxis a (fun x => { x with state := .stopping, emergency := true, stopRamp := false })
      (modAxis a emergencyRamp s) := by
    simp only [emergencyStop, leaderOf_self hlink, leaveFollow_eq_self (show (axisOf a s).owner ≠ .follow by simp [howner]),
      hmoving, hemergency, Bool.not_true, Bool.false_eq_true, if_false, hgroup]
    rfl
  rw [hstop]
  refine ⟨honly.modAxis _, ?_⟩
  rw [axisOf_modAxis_only honly ha, hramp]
  simp [emergencyRamp, howner]

/-! ### A gate shutdown (R301, R308) -/

/-- An axis with its gates low in ERROR. -/
structure Shut (bit : Nat) (x y : Axis) : Prop where
  state : y.state = .error
  energised : y.energised = false
  current : y.current = 0
  vw : y.vw = 0
  referenced : y.referenced = false
  goal : y.goal = none
  link : y.link = none
  sticky : y.sticky = stick bit x.sticky
  errorCount : y.errorCount = x.errorCount + 1
  pos : y.pos = x.pos

/-- What the axes that move with an axis do as it enters ERROR. -/
def shutRest (a : Nat) (s : State) : State :=
  let rest := (groupAxes a s).filter (fun b => decide (b ≠ a))
  if (axisOf a s).owner = .pacer || rest = [] then s
  else if decide (leaderOf a s = a) then
    rest.foldl (fun s b => standStill .holding b (modAxis b (fun y => { y with link := none }) s)) s
  else normalStop a s

/-- The move of a capture that a shutdown ends. -/
def keepCapture (x : Axis) : Axis :=
  { x with captureNext := if x.owner = .capture && x.target.isSome then x.target else x.captureNext }

theorem gateShutdown_eq (a bit : Nat) (s : State) : gateShutdown a bit s =
    modAxis a (fun y => { y with sticky := stick bit y.sticky }) (enterError a (modAxis a keepCapture (shutRest a s))) := rfl

@[simp] theorem apart_shutRest (a : Nat) (s : State) {e u : Bool} : apart e u (shutRest a s) = apart e u s := by
  simp [shutRest]

theorem stopKept_shutRest (a : Nat) (s : State) : stopKept (axisOf a (shutRest a s)) = stopKept (axisOf a s) := by
  unfold shutRest
  dsimp only
  split
  · rfl
  · split
    · refine List.foldlRecOn (motive := fun t => stopKept (axisOf a t) = stopKept (axisOf a s)) _ _ rfl fun t ht b hb => ?_
      have hne : a ≠ b := fun h => by simp [h] at hb
      rw [standStill, axisOf_modAxis_ne _ _ _ _ hne, axisOf_modAxis_ne _ _ _ _ hne]
      exact ht
    · exact stopKept_normalStop ..

/-- The stop of an axis leaves another that rests and moves with none. -/
theorem axisOf_normalStop_resting (hmoving : (axisOf a s).moving = false) (hlink : (axisOf a s).link = none) (hne : a ≠ b)
    (howner : (axisOf b s).owner ≠ .pacer) : axisOf a (normalStop b s) = axisOf a s := by
  have hleave : axisOf a (leaveFollow b s) = axisOf a s := axisOf_modAxis_ne _ _ _ _ hne
  unfold normalStop
  dsimp only
  split
  · exact hleave
  · next hruns =>
    have hlead : a ≠ leaderOf b s := fun h => by rw [← h, hleave, hmoving] at hruns; simp at hruns
    set u := modAxis (leaderOf b s) _ (leaveFollow b s) with hu
    have hstays : axisOf a u = axisOf a s := (axisOf_modAxis_ne _ _ _ _ hlead).trans hleave
    have hlinks : (axisOf b u).link = (axisOf b s).link := congrArg Axis.link (a₁ := stopKept _) (a₂ := stopKept _)
      ((axisOf_modAxis_of_eq stopKept rfl b).trans (stopKept_leaveFollow b b s))
    have howner' : (axisOf b u).owner ≠ .pacer := axisOf_modAxis_inv (P := fun x => x.owner ≠ .pacer) (fun h => h)
      (axisOf_modAxis_inv (P := fun x => x.owner ≠ .pacer) (fun h => by dsimp only; split <;> simp_all) howner)
    refine (List.foldlRecOn (motive := fun t => axisOf a t = axisOf a u) _ _ rfl fun t ht c hc => ?_).trans hstays
    have hca : a ≠ c := fun h => by
      rw [groupAxes_of_owner howner', ← h] at hc
      simp only [List.mem_filter, decide_eq_true_eq, leaderOf_self (hstays ▸ hlink), leaderOf_of_link hlinks] at hc
      exact hlead hc.2
    exact (axisOf_modAxis_ne _ _ _ _ hca).trans ht

/-- So does all that an axis does with its group as it enters ERROR. -/
theorem axisOf_shutRest_resting (hmoving : (axisOf a s).moving = false) (hlink : (axisOf a s).link = none) (hne : a ≠ b) :
    axisOf a (shutRest b s) = axisOf a s := by
  unfold shutRest
  dsimp only
  split
  · rfl
  · next hrest =>
    have howner : (axisOf b s).owner ≠ .pacer := fun h => hrest (by simp [h])
    split
    · next hleads =>
      refine List.foldlRecOn (motive := fun t => axisOf a t = axisOf a s) _ _ rfl fun t ht c hc => ?_
      have hca : a ≠ c := fun h => by
        rw [groupAxes_of_owner howner, ← h] at hc
        simp only [List.mem_filter, decide_eq_true_eq, leaderOf_self hlink, of_decide_eq_true hleads] at hc
        exact hne hc.1.2
      rw [standStill, axisOf_modAxis_ne _ _ _ _ hca, axisOf_modAxis_ne _ _ _ _ hca]
      exact ht
    · exact axisOf_normalStop_resting hmoving hlink hne howner

/-- What the entry into ERROR changes of an axis, besides its gates and its list. -/
def errorEntry (x : Axis) : Axis :=
  { x with
    state := .error, vw := 0, profile := Profile.reset, goal := none, blending := none, referenced := false, target := none
    task := .none, emergency := false, errorAtStop := false, stopRamp := false, link := none
    owner := if x.owner = .follow then .host else x.owner, errorCount := x.errorCount + 1 }

theorem axisOf_enterError (a b : Nat) (s : State) :
    axisOf b (enterError a s) = axisOf b (modAxis a errorEntry (gatesLow a (stopList a 5 s))) := rfl

theorem enterError_ne (h : b ≠ a) (s : State) : listKept (axisOf b (enterError a s)) = listKept (axisOf b s) := by
  rw [axisOf_enterError, axisOf_modAxis_ne _ _ _ _ h, (onlyAxis_gatesLow a _).others b h, listKept_stopList]

theorem shut_gateShutdown (ha : a < s.mot.axes.length) (bit : Nat) :
    Shut bit (axisOf a s) (axisOf a (gateShutdown a bit s)) := by
  rw [gateShutdown_eq]
  set u := modAxis a keepCapture (shutRest a s) with hu
  have hlength {t : State} (h : apart true false t = apart true false s) : a < t.mot.axes.length := apart_length h ▸ ha
  have hparts : apart true false u = apart true false s := by simp [hu]
  have hkept : stopKept (axisOf a (stopList a 5 u)) = stopKept (axisOf a s) :=
    (stopKept_stopList ..).trans ((axisOf_modAxis_of_eq stopKept rfl a).trans (stopKept_shutRest a s))
  rw [axisOf_modAxis_self _ a _ (hlength (by simp [hparts])), axisOf_enterError,
    axisOf_modAxis_self _ a _ (hlength (by simp [hparts])), axisOf_gatesLow (hlength (by simp [hparts]))]
  have hsticky : (axisOf a (stopList a 5 u)).sticky = (axisOf a s).sticky :=
    congrArg Axis.sticky (a₁ := stopKept _) (a₂ := stopKept _) hkept
  have hcount : (axisOf a (stopList a 5 u)).errorCount = (axisOf a s).errorCount :=
    congrArg Axis.errorCount (a₁ := stopKept _) (a₂ := stopKept _) hkept
  have hpos : (axisOf a (stopList a 5 u)).pos = (axisOf a s).pos := congrArg Axis.pos (a₁ := stopKept _) (a₂ := stopKept _) hkept
  exact ⟨rfl, rfl, rfl, rfl, rfl, rfl, rfl, congrArg (stick bit) hsticky, congrArg (· + 1) hcount, hpos⟩

theorem gateShutdown_sticky (a bit : Nat) (s : State) : bitOf (gateShutdown a bit s).mot.sticky 5 = true :=
  bitOf_stick_self 5 _

/-- An axis that moves alone and runs no list is shut alone. -/
theorem gateShutdown_alone (hlist : (axisOf a s).seg.live = false) (hgroup : groupAxes a s = [a]) (hne : b ≠ a) (bit : Nat) :
    axisOf b (gateShutdown a bit s) = axisOf b s := by
  have hrest : shutRest a s = s := by simp [shutRest, hgroup]
  have hidle : (axisOf a (modAxis a keepCapture s)).seg.live = false :=
    axisOf_modAxis_inv (P := fun x => x.seg.live = false) (fun h => h) hlist
  rw [gateShutdown_eq, hrest, axisOf_modAxis_ne _ _ _ _ hne, axisOf_enterError, stopList_idle hidle,
    axisOf_modAxis_ne _ _ _ _ hne, (onlyAxis_gatesLow a _).others b hne, axisOf_modAxis_ne _ _ _ _ hne]

/-! ### A gate undervoltage (R308) -/

/-- An axis that a gate undervoltage has shut. -/
structure Down (x : Axis) : Prop where
  state : x.state = .error
  energised : x.energised = false
  referenced : x.referenced = false
  goal : x.goal = none
  link : x.link = none
  sticky : bitOf x.sticky 11 = true

theorem Shut.down {x y : Axis} (h : Shut 11 x y) : Down y :=
  ⟨h.state, h.energised, h.referenced, h.goal, h.link, by rw [h.sticky]; exact bitOf_stick_self 11 _⟩

theorem down_listKept {x : Axis} : Down (listKept x) ↔ Down x :=
  ⟨fun ⟨h1, h2, h3, h4, h5, h6⟩ => ⟨h1, h2, h3, h4, h5, h6⟩, fun ⟨h1, h2, h3, h4, h5, h6⟩ => ⟨h1, h2, h3, h4, h5, h6⟩⟩

/-- An axis that is shut stays so as another is. -/
theorem down_gateShutdown (hne : a ≠ b) (bit : Nat) (h : Down (axisOf a s)) : Down (axisOf a (gateShutdown b bit s)) := by
  have hmoving : (axisOf a s).moving = false := by simp [Axis.moving, h.state, h.goal]
  rw [gateShutdown_eq, axisOf_modAxis_ne _ _ _ _ hne, ← down_listKept, enterError_ne hne, axisOf_modAxis_ne _ _ _ _ hne,
    axisOf_shutRest_resting hmoving h.link hne, down_listKept]
  exact h

theorem down_shutdowns {l : List Nat} (ha : a ∈ l) (hlt : a < s.mot.axes.length) :
    Down (axisOf a (l.foldl (fun s b => gateShutdown b 11 s) s)) := by
  have hlength (t : State) (b : Nat) : (gateShutdown b 11 t).mot.axes.length = t.mot.axes.length :=
    apart_length (apart_gateShutdown (u := false) ..)
  refine (foldl_reaches (Q := fun t => a < t.mot.axes.length) (P := fun t => a < t.mot.axes.length ∧ Down (axisOf a t)) ha
    ?_ ?_ ?_ hlt).2
  · exact fun t b ht => by rwa [hlength]
  · exact fun t ht => ⟨by rwa [hlength], (shut_gateShutdown ht 11).down⟩
  · intro t b ht
    refine ⟨by rw [hlength]; exact ht.1, ?_⟩
    by_cases hb : a = b
    · exact hb ▸ (shut_gateShutdown ht.1 11).down
    · exact down_gateShutdown hb 11 ht.2

end Sys2Proof.Machine
end

section
/-!
PROOFS. The chopper cycles and gates of an axis and its load estimate (11_motion R281, R301 to R303): one equation per phase of `chopPhase`
and per side of `chopSides`.
-/
namespace Sys2Proof.Machine

variable {a : Nat} {target i : Int} {s : State} {c : ChopCycle}

/-! ### The phases (R302) -/

/-- The cycle at the start of an on-phase. -/
def onPhase (target : Int) (c : ChopCycle) : ChopCycle := { c with dir := target.sign, goal := target, on := true, age := 0 }

/-- The target in force: one of the other sign waits for the next on-phase. -/
def goalInForce (target : Int) (c : ChopCycle) : Int := if target.sign = c.dir then target else c.goal

/-- The cycle a nanosecond on in its phase. -/
def samePhase (target : Int) (c : ChopCycle) : ChopCycle := { c with age := c.age + 1, goal := goalInForce target c }

theorem chopPhase_zero (a : Nat) (i : Int) (s : State) (c : ChopCycle) :
    chopPhase a 0 i s c = { c with dir := 0, goal := 0, on := false, age := 0 } := by
  simp [chopPhase]

theorem chopPhase_begin (htarget : target ≠ 0) (hdir : c.dir = 0) : chopPhase a target i s c = onPhase target c := by
  simp [chopPhase, htarget, hdir, onPhase]

section
variable (htarget : target ≠ 0) (hdir : c.dir ≠ 0)
include htarget hdir

theorem chopPhase_on_ends (hon : c.on = true) (hends : onPhaseEnds a (c.age + 1) (goalInForce target c) i s = true) :
    chopPhase a target i s c = { samePhase target c with on := false, age := 0 } := by
  unfold goalInForce at hends
  simp [chopPhase, htarget, hdir, hon, hends, samePhase, goalInForce]

theorem chopPhase_on_runs (hon : c.on = true) (hruns : onPhaseEnds a (c.age + 1) (goalInForce target c) i s = false) :
    chopPhase a target i s c = samePhase target c := by
  unfold goalInForce at hruns
  simp [chopPhase, htarget, hdir, hon, hruns, samePhase, goalInForce]

theorem chopPhase_off_ends (hoff : c.on = false) (hends : chopOffNs a s ≤ c.age + 1) :
    chopPhase a target i s c = onPhase target c := by
  simp [chopPhase, htarget, hdir, hoff, hends, onPhase]

theorem chopPhase_off_runs (hoff : c.on = false) (hruns : c.age + 1 < chopOffNs a s) :
    chopPhase a target i s c = samePhase target c := by
  simp [chopPhase, htarget, hdir, hoff, Nat.not_le.2 hruns, samePhase, goalInForce]

end

/-- An on-phase ends at its target after the blanking, or at its longest (R302). -/
theorem onPhaseEnds_iff {age : Nat} {goal : Int} : onPhaseEnds a age goal i s = true ↔
    val (Obj.CHOP_BLANK a) s ≤ age ∧ goal.natAbs ≤ i.natAbs ∨ 64 * (100 * val (Obj.CHOP_OFF_TIME a) s) ≤ age := by
  unfold onPhaseEnds chopOffNs
  simp only [Bool.or_eq_true, Bool.and_eq_true, decide_eq_true_eq]

/-! ### The sides (R281) -/

theorem chopSides_on (h : c.on = true) : chopSides a s c = (decide (c.dir = 1), decide (c.dir = -1)) := by
  simp [chopSides, h]

theorem chopSides_fast (hoff : c.on = false) (hfast : 100 * c.age < val (Obj.CHOP_FAST_FRACTION a) s * chopOffNs a s) :
    chopSides a s c = (decide (c.dir = -1), decide (c.dir = 1)) := by
  have hneg : -c.dir = 1 ↔ c.dir = -1 := by omega
  simp [chopSides, hoff, hfast, hneg]

theorem chopSides_slow (hoff : c.on = false) (hslow : val (Obj.CHOP_FAST_FRACTION a) s * chopOffNs a s ≤ 100 * c.age) :
    chopSides a s c = (false, false) := by
  simp [chopSides, hoff, Nat.not_lt.2 hslow]

theorem chopSides_zero (hoff : c.on = false) (hdir : c.dir = 0) : chopSides a s c = (false, false) := by
  simp [chopSides, hoff, hdir]

theorem chopStep_eq {n : ChopCycle} (h : chopPhase a target i s c = n) : chopStep a target i s c = { n with
    high := chopSides a s n
    since := (if (chopSides a s n).1 = c.high.1 then c.since.1 + 1 else 0,
      if (chopSides a s n).2 = c.high.2 then c.since.2 + 1 else 0) } := by
  rw [chopStep, h]

/-! ### A nanosecond of a cycle -/

section
variable (htarget : target ≠ 0) (hdir : c.dir ≠ 0)
include htarget hdir

theorem chopStep_on (hon : c.on = true) :
    (chopStep a target i s c).goal = goalInForce target c ∧
    (¬ c.age + 1 < val (Obj.CHOP_BLANK a) s → (goalInForce target c).natAbs ≤ i.natAbs →
      (chopStep a target i s c).on = false ∧ (chopStep a target i s c).age = 0 ∧ (chopStep a target i s c).dir = c.dir) ∧
    (64 * (100 * val (Obj.CHOP_OFF_TIME a) s) ≤ c.age + 1 →
      (chopStep a target i s c).on = false ∧ (chopStep a target i s c).age = 0 ∧ (chopStep a target i s c).dir = c.dir) ∧
    (c.age + 1 < val (Obj.CHOP_BLANK a) s ∨ i.natAbs < (goalInForce target c).natAbs →
      c.age + 1 < 64 * (100 * val (Obj.CHOP_OFF_TIME a) s) →
      (chopStep a target i s c).on = true ∧ (chopStep a target i s c).age = c.age + 1 ∧
        (chopStep a target i s c).dir = c.dir) := by
  refine ⟨?_, fun hblanked hreached => ?_, fun hlongest => ?_, fun hbelow hshort => ?_⟩
  · cases hends : onPhaseEnds a (c.age + 1) (goalInForce target c) i s with
    | true => rw [chopStep_eq (chopPhase_on_ends htarget hdir hon hends)]; rfl
    | false => rw [chopStep_eq (chopPhase_on_runs htarget hdir hon hends)]; rfl
  · have hends := onPhaseEnds_iff.2 (.inl ⟨Nat.le_of_not_lt hblanked, hreached⟩)
    rw [chopStep_eq (chopPhase_on_ends htarget hdir hon hends)]
    exact ⟨rfl, rfl, rfl⟩
  · rw [chopStep_eq (chopPhase_on_ends htarget hdir hon (onPhaseEnds_iff.2 (.inr hlongest)))]
    exact ⟨rfl, rfl, rfl⟩
  · have hruns : onPhaseEnds a (c.age + 1) (goalInForce target c) i s = false := by
      rw [← Bool.not_eq_true, onPhaseEnds_iff]
      omega
    rw [chopStep_eq (chopPhase_on_runs htarget hdir hon hruns)]
    exact ⟨hon, rfl, rfl⟩

theorem chopStep_off (hoff : c.on = false) :
    (100 * val (Obj.CHOP_OFF_TIME a) s ≤ c.age + 1 →
      (chopStep a target i s c).on = true ∧ (chopStep a target i s c).age = 0 ∧
        (chopStep a target i s c).dir = target.sign ∧ (chopStep a target i s c).goal = target) ∧
    (c.age + 1 < 100 * val (Obj.CHOP_OFF_TIME a) s →
      (chopStep a target i s c).on = false ∧ (chopStep a target i s c).age = c.age + 1 ∧
        (chopStep a target i s c).dir = c.dir) := by
  refine ⟨fun hends => ?_, fun hruns => ?_⟩
  · rw [chopStep_eq (chopPhase_off_ends htarget hdir hoff hends)]
    exact ⟨rfl, rfl, rfl, rfl⟩
  · rw [chopStep_eq (chopPhase_off_runs htarget hdir hoff hruns)]
    exact ⟨hoff, rfl, rfl⟩

end

/-! ### The gates -/

theorem halfBridgeGates_ne (a : Nat) (high : Bool) (since : Nat) (s : State) :
    halfBridgeGates a high since s ≠ (true, true) := by
  unfold halfBridgeGates
  split
  · decide
  · cases high <;> decide

theorem axisGates_idle (h : (axisOf a s).energised = false) : axisGates a s = List.replicate 4 (false, false) := by
  simp [axisGates, h]

theorem axisGates_energised (h : (axisOf a s).energised = true) : axisGates a s =
    [halfBridgeGates a (axisOf a s).chopA.high.1 (axisOf a s).chopA.since.1 s,
      halfBridgeGates a (axisOf a s).chopA.high.2 (axisOf a s).chopA.since.2 s,
      halfBridgeGates a (axisOf a s).chopB.high.1 (axisOf a s).chopB.since.1 s,
      halfBridgeGates a (axisOf a s).chopB.high.2 (axisOf a s).chopB.since.2 s] := by
  simp [axisGates, h]

theorem axisGates_ne {g : Bool × Bool} (h : g ∈ axisGates a s) : g ≠ (true, true) := by
  cases henergised : (axisOf a s).energised with
  | false =>
    rw [axisGates_idle henergised] at h
    rw [List.eq_of_mem_replicate h]
    decide
  | true =>
    rw [axisGates_energised henergised] at h
    simp only [List.mem_cons, List.not_mem_nil, or_false] at h
    rcases h with rfl | rfl | rfl | rfl <;> exact halfBridgeGates_ne _ _ _ _

/-! ### The load estimate (R303) -/

/-- The axis runs at no less than LOAD_MIN_SPEED. -/
def LoadRuns (a : Nat) (s : State) : Prop :=
  ((axisOf a s).state = .moving ∨ (axisOf a s).state = .stopping) ∧
    (Frac.ofNat (val (Obj.LOAD_MIN_SPEED a) s)).le (axisSpeed a s) = true

section
variable {uA uB iA iB : Int} (hmc : mcRuns s = true)
include hmc

theorem loadEstimate_slow (h : ¬ LoadRuns a s) : loadEstimate a uA uB iA iB s =
    modAxis a (fun y => { y with loadValid := false, lastCurrents := none, stallSince := none }) s := by
  have hruns : (decide ((axisOf a s).state = .moving ∨ (axisOf a s).state = .stopping) &&
      (Frac.ofNat (val (Obj.LOAD_MIN_SPEED a) s)).le (axisSpeed a s)) = false := by
    simpa [LoadRuns] using h
  simp only [loadEstimate, hmc, hruns, Bool.not_true, Bool.not_false, Bool.false_eq_true, if_false, if_true]

theorem loadEstimate_first (h : LoadRuns a s) (hlast : (axisOf a s).lastCurrents = none) :
    loadEstimate a uA uB iA iB s = modAxis a (fun y => { y with lastCurrents := some (iA, iB) }) s := by
  have hruns : (decide ((axisOf a s).state = .moving ∨ (axisOf a s).state = .stopping) &&
      (Frac.ofNat (val (Obj.LOAD_MIN_SPEED a) s)).le (axisSpeed a s)) = true := by simpa [LoadRuns] using h
  simp only [loadEstimate, hmc, hruns, hlast, Bool.not_true, Bool.false_eq_true, if_false]

/-- An estimate with the currents of the one before it takes the angle between the current and the back-EMF, where both have one. -/
theorem loadEstimate_next {jA jB : Int} (h : LoadRuns a s) (hlast : (axisOf a s).lastCurrents = some (jA, jB)) :
    ∃ angle fresh, ∃ since : Axis → Option Nat,
      loadEstimate a uA uB iA iB s = modAxis a (fun y => { y with
        loadAngle := angle, loadValid := true, lastCurrents := some (iA, iB), stallSince := since y }) { s with fresh := fresh } ∧
      (¬ (iA = 0 ∧ iB = 0) → ¬ (backEmf a uA iA (iA - jA) s = 0 ∧ backEmf a uB iB (iB - jB) s = 0) →
        angle = wrapAngle (900 + (if (axisOf a s).forward = true then 1 else -1) *
          angleOf (iB * backEmf a uB iB (iB - jB) s + iA * backEmf a uA iA (iA - jA) s)
            (iA * backEmf a uB iB (iB - jB) s - iB * backEmf a uA iA (iA - jA) s))) := by
  have hruns : (decide ((axisOf a s).state = .moving ∨ (axisOf a s).state = .stopping) &&
      (Frac.ofNat (val (Obj.LOAD_MIN_SPEED a) s)).le (axisSpeed a s)) = true := by simpa [LoadRuns] using h
  simp only [loadEstimate, hmc, hruns, hlast, Bool.not_true, Bool.false_eq_true, if_false]
  split
  · next hnone => exact ⟨_, _, _, rfl, fun hi he => by simp [hi, he] at hnone⟩
  · exact ⟨_, _, _, rfl, fun _ _ => rfl⟩

end

end Sys2Proof.Machine
end

section
/-!
PROOFS. Driver faults, the stall and the watchdogs of the processors (11_motion R301, R303, R305, R308, 16_management R392).
-/
namespace Sys2Proof.Machine

variable {a b : Nat} {s t : State} {e : Event}

/-! ### Events beside the axes -/

@[simp] theorem axisOf_logEvent (b : Nat) (e : Event) (s : State) : axisOf b (logEvent e s) = axisOf b s := by
  rw [logEvent_frame]
  rfl

/-- The frame of an event among updates of axes. -/
theorem frame_of_logged {u : State} (hu : apart false false u = apart false false s)
    (ht : apart false false t = apart false false (logEvent e u)) :
    t = { s with mot := { s.mot with axes := t.mot.axes }, ecat := t.ecat, ev := t.ev, mbox := t.mbox } := by
  have hframe := (apart_axes_iff.1 ht).1
  rw [hframe, logEvent_frame, (apart_axes_iff.1 hu).1]

/-! ### Driver faults (R301, R308) -/

/-- The frame of a fault of a driver. -/
theorem frame_of_fault (h : apart true false t = apart true false s) (e : Event) : logEvent e t = { s with
    mot := { s.mot with axes := (logEvent e t).mot.axes, sticky := (logEvent e t).mot.sticky }
    ecat := (logEvent e t).ecat, ev := (logEvent e t).ev, mbox := (logEvent e t).mbox } := by
  rw [logEvent_frame, (apart_errors_iff.1 h).1]

/-- A fault of a driver: its axis is shut and one event is logged. -/
theorem driverFault (a : Fin 6) (bit : Nat) (e : Event) (hshaped : Shaped s = true) :
    ∃ t, logEvent e (gateShutdown a bit s) = t ∧ Shut bit (axisOf a s) (axisOf a t) ∧ bitOf t.mot.sticky 5 = true ∧
    eventCount t = eventCount s + 1 ∧
    ((axisOf a s).seg.live = false → groupAxes a s = [a.val] → ∀ j, j ≠ a.val → axisOf j t = axisOf j s) ∧
    t = { s with
      mot := { s.mot with axes := t.mot.axes, sticky := t.mot.sticky }, ecat := t.ecat, ev := t.ev, mbox := t.mbox } := by
  have hshut := shut_gateShutdown (axis_lt_of_shaped hshaped a) bit
  have hsticky := gateShutdown_sticky a bit s
  have halone {j : Nat} := gateShutdown_alone (a := a.val) (b := j) (s := s) (bit := bit)
  have hparts := apart_gateShutdown (u := false) a.val bit s
  generalize gateShutdown a.val bit s = u at hshut hsticky halone hparts ⊢
  have hcount : eventCount u = eventCount s := by rw [(apart_errors_iff.1 hparts).1]; rfl
  refine ⟨_, rfl, ?_, ?_, ?_, fun hlist hgroup j hj => ?_, frame_of_fault hparts e⟩
  · rwa [axisOf_logEvent]
  · rw [logEvent_frame]
    exact hsticky
  · rw [eventCount_logEvent, hcount]
  · rw [axisOf_logEvent]
    exact halone hlist hgroup hj

/-- A state that has met a gate undervoltage. -/
def markUv (s : State) : State := { s with mot := { s.mot with gateUv := true } }

/-- A gate undervoltage: every enabled axis is shut and one event is logged. -/
theorem gateUndervoltage_acts (hshaped : Shaped s = true) (hdomain : domainOn 3 s = true) (huv : s.mot.gateUv = false) :
    ∃ t, gateUndervoltage s = t ∧ t.mot.gateUv = true ∧ eventCount t = eventCount s + 1 ∧
    (∀ a < 6, axisEnabled a s = true → Down (axisOf a t)) ∧
    t = { s with
      mot := { s.mot with axes := t.mot.axes, sticky := t.mot.sticky, gateUv := true }
      ecat := t.ecat, ev := t.ev, mbox := t.mbox } := by
  have hacts : gateUndervoltage s = logEvent ⟨0x0901, noSource, []⟩ (markUv
      ((axisNumbers.filter (fun a => axisEnabled a s)).foldl (fun s a => gateShutdown a 11 s) s)) :=
    if_neg (by simp [hdomain, huv])
  have hdown {a : Nat} (ha : a < 6) (henabled : axisEnabled a s = true) :
      Down (axisOf a ((axisNumbers.filter (fun a => axisEnabled a s)).foldl (fun s a => gateShutdown a 11 s) s)) :=
    down_shutdowns (by simp [axisNumbers, ha, henabled]) (by rwa [axes_length_of_shaped hshaped])
  have hparts : apart true false ((axisNumbers.filter (fun a => axisEnabled a s)).foldl (fun s a => gateShutdown a 11 s) s) =
      apart true false s := apart_foldl (fun t a => apart_gateShutdown ..) _ _
  generalize (axisNumbers.filter (fun a => axisEnabled a s)).foldl (fun s a => gateShutdown a 11 s) s = u at hacts hdown hparts
  have hu := (apart_errors_iff.1 hparts).1
  refine ⟨_, hacts, ?_, ?_, fun a ha henabled => ?_, ?_⟩
  · rw [logEvent_frame]
    rfl
  · rw [eventCount_logEvent, hu]
    rfl
  · rw [axisOf_logEvent]
    exact hdown ha henabled
  · rw [logEvent_frame, hu]
    rfl

/-! ### The stall (R303, R305) -/

/-- What a stall counts. -/
def stalled (x : Axis) : Axis :=
  { x with sticky := stick 8 x.sticky, referenced := false, stallCount := x.stallCount + 1, stallSince := none }

/-- The state in which a stall acts: it is counted and its event is logged. -/
def stallLogged (a : Nat) (s : State) : State := logEvent ⟨0x0903, a, []⟩ (modAxis a stalled s)

theorem axisOf_stallLogged (ha : a < s.mot.axes.length) : axisOf a (stallLogged a s) = stalled (axisOf a s) := by
  rw [stallLogged, axisOf_logEvent, axisOf_modAxis_self s a _ ha]

theorem axisOf_stallLogged_ne (h : b ≠ a) (s : State) : axisOf b (stallLogged a s) = axisOf b s := by
  rw [stallLogged, axisOf_logEvent, axisOf_modAxis_ne _ _ _ _ h]

theorem eventCount_stallLogged (a : Nat) (s : State) : eventCount (stallLogged a s) = eventCount s + 1 :=
  eventCount_logEvent ..

theorem val_stallLogged (r : Ref) (a : Nat) (s : State) : val r (stallLogged a s) = val r s := by
  rw [stallLogged, logEvent_frame]
  rfl

/-- An axis on its emergency ramp enters ERROR at its end. -/
def markStop (a : Nat) (s : State) : State :=
  if (axisOf a s).emergency then modAxis a (fun y => { y with errorAtStop := true }) s else s

section
variable (hsince : (axisOf a s).stallSince ≠ none) (hmc : mcRuns s = true)
include hsince hmc

theorem stall_due : ((axisOf a s).stallSince.isNone || !mcRuns s) = false := by
  simp [hmc, Option.isSome_iff_ne_none, hsince]

/-- STALL_ACTION 0: the stall is counted alone. -/
theorem stallAxis_flags (h : val (Obj.STALL_ACTION a) s = 0) : stallAxis a s = stallLogged a s := by
  have hdue := stall_due hsince hmc
  have haction : val (Obj.STALL_ACTION a) (stallLogged a s) = 0 := by rw [val_stallLogged, h]
  unfold stallLogged stalled at haction
  simp only [stallAxis, hdue, haction, Bool.false_eq_true, if_false]
  rfl

/-- STALL_ACTION 1: the axis and those that move with it take their ramp, and enter ERROR at its end. -/
theorem stallAxis_ramps (h : val (Obj.STALL_ACTION a) s = 1) : stallAxis a s =
    (groupAxes a (stallLogged a s)).foldl (fun s b =>
      if (axisOf b s).emergency then modAxis b (fun y => { y with errorAtStop := true }) s else s)
      (emergencyOf a (stallLogged a s)) := by
  have hdue := stall_due hsince hmc
  have haction : val (Obj.STALL_ACTION a) (stallLogged a s) = 1 := by rw [val_stallLogged, h]
  unfold stallLogged stalled at haction
  simp only [stallAxis, hdue, haction, Bool.false_eq_true, if_false]
  rfl

/-- STALL_ACTION 2: every axis takes its ramp, and the axis enters ERROR at the end of its own. -/
theorem stallAxis_all (h : val (Obj.STALL_ACTION a) s = 2) :
    stallAxis a s = markStop a (emergencyAll (stallLogged a s)) := by
  have hdue := stall_due hsince hmc
  have haction : val (Obj.STALL_ACTION a) (stallLogged a s) = 2 := by rw [val_stallLogged, h]
  unfold stallLogged stalled at haction
  simp only [stallAxis, hdue, haction, Bool.false_eq_true, if_false]
  rfl

end

theorem groupAxes_stallLogged (howner : (axisOf a s).owner ≠ .pacer) (ha : a < s.mot.axes.length) :
    groupAxes a (stallLogged a s) = groupAxes a s := by
  refine groupAxes_congr howner ?_ fun b => ?_
  · rw [axisOf_stallLogged ha]
    exact howner
  · rw [stallLogged, axisOf_logEvent]
    exact axisOf_modAxis_of_eq (·.link) (f := stalled) rfl b

/-- STALL_ACTION 1 on an axis that moves alone. -/
theorem stallAxis_ramps_alone (hsince : (axisOf a s).stallSince ≠ none) (hmc : mcRuns s = true)
    (haction : val (Obj.STALL_ACTION a) s = 1) (h : MovesAlone (axisOf a s)) (hemergency : (axisOf a s).emergency = false)
    (hgroup : groupAxes a s = [a]) : OnlyAxis a (stallLogged a s) (stallAxis a s) ∧
    axisOf a (stallAxis a s) = { stalled (axisOf a s) with
      goal := some .emergency, target := none, state := .stopping, emergency := true, stopRamp := false
      errorAtStop := true } := by
  have ha := axis_lt_of_moving h.2.2
  have haxis := axisOf_stallLogged ha
  have hgroup' : groupAxes a (stallLogged a s) = [a] := by rw [groupAxes_stallLogged (by simp [h.1]) ha, hgroup]
  obtain ⟨honly, hramp⟩ := emergencyStop_alone (s := stallLogged a s) (by rw [haxis]; exact h) (by rw [haxis]; exact hemergency)
    hgroup'
  have hlt : a < (stallLogged a s).mot.axes.length := axis_lt_of_moving (by rw [haxis]; exact h.2.2)
  have hstall : stallAxis a s =
      modAxis a (fun y => { y with errorAtStop := true }) (emergencyStop a (stallLogged a s)) := by
    rw [stallAxis_ramps hsince hmc haction, hgroup', emergencyOf_host (by rw [haxis]; exact h.1)]
    simp [hramp]
  rw [hstall]
  refine ⟨honly.modAxis _, ?_⟩
  rw [axisOf_modAxis_only honly hlt, hramp, haxis]

theorem markStop_inv {P : Axis → Prop} (hP : ∀ x, P x → P { x with errorAtStop := true }) (h : P (axisOf b s)) :
    P (axisOf b (markStop a s)) := by
  unfold markStop
  split
  · exact axisOf_modAxis_inv (hP _) h
  · exact h

theorem errorAtStop_markStop (h : RampsDown (axisOf a s)) : (axisOf a (markStop a s)).errorAtStop = true := by
  have ha : a < s.mot.axes.length := axis_lt_of_moving (by simp [Axis.moving, h.2])
  rw [markStop, if_pos h.1, axisOf_modAxis_self s a _ ha]

theorem besideStops_markStop (a : Nat) (s : State) : besideStops (markStop a s) = besideStops s := by
  unfold markStop
  split
  · exact besideStops_of_apart (apart_modAxis ..)
  · rfl

/-- What a stall with STALL_ACTION 2 leaves of each axis. -/
theorem stopKept_stallAll (a b : Nat) (s : State) : ∃ mark,
    stopKept (axisOf b (markStop a (emergencyAll (stallLogged a s)))) =
      { stopKept (axisOf b (stallLogged a s)) with errorAtStop := mark } := by
  have hall : stopKept (axisOf b (emergencyAll (stallLogged a s))) = stopKept (axisOf b (stallLogged a s)) :=
    (emergencyKeeps_stopKept (stopKept (axisOf b (stallLogged a s)))).emergencyAll rfl
  refine markStop_inv (P := fun x => ∃ mark, stopKept x = { stopKept (axisOf b (stallLogged a s)) with errorAtStop := mark })
    (fun x hx => ?_) ⟨_, hall⟩
  obtain ⟨mark, hmark⟩ := hx
  exact ⟨true, congrArg (fun y => { y with errorAtStop := true }) hmark⟩

theorem stalled_stallAll (ha : a < s.mot.axes.length) :
    (axisOf a (markStop a (emergencyAll (stallLogged a s)))).sticky = stick 8 (axisOf a s).sticky ∧
    (axisOf a (markStop a (emergencyAll (stallLogged a s)))).referenced = false ∧
    (axisOf a (markStop a (emergencyAll (stallLogged a s)))).stallCount = (axisOf a s).stallCount + 1 ∧
    (axisOf a (markStop a (emergencyAll (stallLogged a s)))).stallSince = none := by
  obtain ⟨mark, hkept⟩ := stopKept_stallAll a a s
  rw [axisOf_stallLogged ha] at hkept
  exact ⟨congrArg Axis.sticky (a₁ := stopKept _) hkept, congrArg Axis.referenced (a₁ := stopKept _) hkept,
    congrArg Axis.stallCount (a₁ := stopKept _) hkept, congrArg Axis.stallSince (a₁ := stopKept _) hkept⟩

theorem pos_energised_stallAll (a b : Nat) (s : State) :
    (axisOf b (markStop a (emergencyAll (stallLogged a s)))).pos = (axisOf b s).pos ∧
    (axisOf b (markStop a (emergencyAll (stallLogged a s)))).energised = (axisOf b s).energised := by
  obtain ⟨mark, hkept⟩ := stopKept_stallAll a b s
  have hlogged {β : Type} (v : Axis → β) (hv : ∀ x, v (stalled x) = v x) : v (axisOf b (stallLogged a s)) = v (axisOf b s) := by
    rw [stallLogged, axisOf_logEvent]
    exact axisOf_modAxis_of_eq v (hv _) b
  exact ⟨(congrArg Axis.pos (a₁ := stopKept _) hkept).trans (hlogged Axis.pos fun _ => rfl),
    (congrArg Axis.energised (a₁ := stopKept _) hkept).trans (hlogged Axis.energised fun _ => rfl)⟩

/-- An axis that moves alone is on its ramp after the stall of any with STALL_ACTION 2, and the one that stalled enters ERROR. -/
theorem rampsDown_stallAll (h : MovesAlone (axisOf b (stallLogged a s))) (hb : b < 6) (henabled : axisEnabled b s = true) :
    RampsDown (axisOf b (markStop a (emergencyAll (stallLogged a s)))) ∧
    (b = a → (axisOf b (markStop a (emergencyAll (stallLogged a s)))).errorAtStop = true) := by
  have henabled' : axisEnabled b (stallLogged a s) = true := by rw [stallLogged, logEvent_frame]; exact henabled
  have hramps := rampsDown_emergencyAll h hb henabled'
  refine ⟨markStop_inv (fun _ hx => hx) hramps, ?_⟩
  rintro rfl
  exact errorAtStop_markStop hramps

theorem stallAll_frame (a : Nat) (s : State) : ∃ t, markStop a (emergencyAll (stallLogged a s)) = t ∧
    eventCount t = eventCount s + 1 ∧
    t = { s with mot := t.mot, host := t.host, tim := t.tim, pipe := t.pipe, ecat := t.ecat, ev := t.ev, mbox := t.mbox } := by
  have hframe := besideStops_frame ((besideStops_markStop a _).trans (besideStops_emergencyAll (stallLogged a s)))
  generalize markStop a (emergencyAll (stallLogged a s)) = t at hframe
  refine ⟨t, rfl, ?_, ?_⟩
  · rw [hframe]
    exact eventCount_stallLogged a s
  · rw [hframe, stallLogged, logEvent_frame]
    rfl

theorem movesAlone_stallLogged (h : MovesAlone (axisOf b s)) : MovesAlone (axisOf b (stallLogged a s)) := by
  rw [stallLogged, axisOf_logEvent]
  exact axisOf_modAxis_inv (fun h => h) h

/-! ### The watchdog of the MC (R308) -/

/-- An axis whose motion a held MC has ended. -/
def calmed (x : Axis) : Axis :=
  { x with
    vw := 0, profile := Profile.reset, goal := none, blending := none, target := none, task := .none, emergency := false
    errorAtStop := false, stopRamp := false, captureNext := none, link := none, fade := none, parkAfterFade := false
    loadValid := false, lastCurrents := none, stallSince := none
    referenced := x.referenced && !(decide (x.state = .moving) || decide (x.state = .stopping)) }

/-- An axis that keeps its phase angle at HOLD_CURRENT, of `hold`. -/
def heldAt (hold clk : Nat) (x : Axis) : Axis :=
  { calmed x with
    state := .holding, current := hold, currentTarget := hold, holdDelayOver := true, stillSince := some clk }

theorem hardwareStop_idle (h : (axisOf a s).energised = false) :
    hardwareStop a s = modAxis a (fun _ => calmed (axisOf a s)) s := if_pos (by simp [h])

theorem hardwareStop_held (h : (axisOf a s).energised = true) (hretain : val (Obj.RETAIN_MODE a) s = 2) :
    hardwareStop a s = modAxis a (fun _ => heldAt (100 * val (Obj.HOLD_CURRENT a) s) s.clk (axisOf a s)) s :=
  (if_neg (by simp [h])).trans (if_pos hretain)

/-- What the loss of its current at a stop makes of an axis. -/
def dropped (moved : Bool) (x : Axis) : Axis :=
  if moved then { x with state := .error, referenced := false, errorCount := x.errorCount + 1 }
  else { x with state := .off, referenced := false }

/-- Whether an axis is in motion or on a ramp. -/
def inMotion (x : Axis) : Bool := decide (x.state = .moving) || decide (x.state = .stopping)

theorem hardwareStop_released (h : (axisOf a s).energised = true) (hretain : val (Obj.RETAIN_MODE a) s ≠ 2) :
    ∃ t, t = modAxis a (dropped (inMotion (axisOf a s))) (gatesLow a (modAxis a (fun _ => calmed (axisOf a s)) s)) ∧
      (hardwareStop a s = t ∨ hardwareStop a s = { t with mot := { t.mot with sticky := stick 5 t.mot.sticky } }) := by
  refine ⟨_, rfl, ?_⟩
  cases hmoved : inMotion (axisOf a s) with
  | true => exact .inr ((if_neg (by simp [h])).trans ((if_neg hretain).trans (if_pos hmoved)))
  | false => exact .inl ((if_neg (by simp [h])).trans ((if_neg hretain).trans (if_neg (Bool.eq_false_iff.1 hmoved))))

theorem axisOf_hardwareStop_released (h : (axisOf a s).energised = true) (hretain : val (Obj.RETAIN_MODE a) s ≠ 2) (b : Nat) :
    axisOf b (hardwareStop a s) = axisOf b
      (modAxis a (dropped (inMotion (axisOf a s))) (gatesLow a (modAxis a (fun _ => calmed (axisOf a s)) s))) := by
  obtain ⟨t, ht, hstop | hstop⟩ := hardwareStop_released h hretain
  · rw [hstop, ht]
  · rw [← ht, hstop]
    rfl

/-- What the stop of a held MC makes of an axis. -/
structure HardStopped (s : State) (a : Nat) (x y : Axis) : Prop where
  vw : y.vw = 0
  pos : y.pos = x.pos
  held : x.energised = true → val (Obj.RETAIN_MODE a) s = 2 →
    y.state = .holding ∧ y.energised = true ∧ y.current = 100 * val (Obj.HOLD_CURRENT a) s
  released : x.energised = true → val (Obj.RETAIN_MODE a) s ≠ 2 →
    y.energised = false ∧ y.state = if x.state = .moving ∨ x.state = .stopping then .error else .off
  idle : x.energised = false → y.state = x.state

theorem hardStopped_hardwareStop (ha : a < s.mot.axes.length) :
    HardStopped s a (axisOf a s) (axisOf a (hardwareStop a s)) := by
  cases henergised : (axisOf a s).energised with
  | false =>
    rw [hardwareStop_idle henergised, axisOf_modAxis_self s a _ ha]
    exact ⟨rfl, rfl, fun h => by simp [h] at henergised, fun h => by simp [h] at henergised, fun _ => rfl⟩
  | true =>
    by_cases hretain : val (Obj.RETAIN_MODE a) s = 2
    · rw [hardwareStop_held henergised hretain, axisOf_modAxis_self s a _ ha]
      exact ⟨rfl, rfl, fun _ _ => ⟨rfl, henergised, rfl⟩, fun _ h => absurd hretain h, fun h => by simp [h] at henergised⟩
    · have hcalm := onlyAxis_modAxis a (fun _ => calmed (axisOf a s)) s
      have hlow := hcalm.trans (onlyAxis_gatesLow a _)
      rw [axisOf_hardwareStop_released henergised hretain, axisOf_modAxis_only hlow ha,
        axisOf_gatesLow (by rwa [hcalm.length]), axisOf_modAxis_self s a _ ha]
      have hmoved : (axisOf a s).state = .moving ∨ (axisOf a s).state = .stopping ↔ inMotion (axisOf a s) = true := by
        simp [inMotion]
      cases hm : inMotion (axisOf a s) with
      | true =>
        exact ⟨rfl, rfl, fun _ h => absurd h hretain, fun _ _ => ⟨rfl, (if_pos (hmoved.2 hm)).symm⟩,
          fun h => by simp [h] at henergised⟩
      | false =>
        exact ⟨rfl, rfl, fun _ h => absurd h hretain,
          fun _ _ => ⟨rfl, (if_neg fun h => Bool.eq_false_iff.1 hm (hmoved.1 h)).symm⟩, fun h => by simp [h] at henergised⟩

theorem axisOf_hardwareStop_ne (h : b ≠ a) (s : State) : axisOf b (hardwareStop a s) = axisOf b s := by
  cases henergised : (axisOf a s).energised with
  | false => rw [hardwareStop_idle henergised, axisOf_modAxis_ne _ _ _ _ h]
  | true =>
    by_cases hretain : val (Obj.RETAIN_MODE a) s = 2
    · rw [hardwareStop_held henergised hretain, axisOf_modAxis_ne _ _ _ _ h]
    · rw [axisOf_hardwareStop_released henergised hretain, axisOf_modAxis_ne _ _ _ _ h, (onlyAxis_gatesLow a _).others b h,
        axisOf_modAxis_ne _ _ _ _ h]

@[simp] theorem apart_hardwareStop (a : Nat) (s : State) {u : Bool} : apart true u (hardwareStop a s) = apart true u s := by
  cases henergised : (axisOf a s).energised with
  | false => rw [hardwareStop_idle henergised, apart_modAxis]
  | true =>
    by_cases hretain : val (Obj.RETAIN_MODE a) s = 2
    · rw [hardwareStop_held henergised hretain, apart_modAxis]
    · obtain ⟨t, ht, hstop | hstop⟩ := hardwareStop_released henergised hretain
      · simp [hstop, ht]
      · rw [hstop, apart_stick, ht]
        simp

theorem hardStopped_listKept {x y : Axis} : HardStopped s a x (listKept y) ↔ HardStopped s a x y :=
  ⟨fun h => ⟨h.vw, h.pos, h.held, h.released, h.idle⟩, fun h => ⟨h.vw, h.pos, h.held, h.released, h.idle⟩⟩

theorem HardStopped.of_apart {e u : Bool} {x y : Axis} (h : apart e u t = apart e u s) (hy : HardStopped t a x y) :
    HardStopped s a x y := by
  have hval (r : Ref) := val_of_apart h r
  exact ⟨hy.vw, hy.pos, by simpa only [hval] using hy.held, by simpa only [hval] using hy.released, hy.idle⟩

/-- The list of each axis ended, and each axis the host's. -/
def freeAxes (s : State) : State := axisNumbers.foldl (fun s a => modAxis a (fun x => { x with owner := .host }) (stopList a 4 s)) s

theorem mcStop_eq (s : State) : mcStop s = setTransport (fun _ => Transport.reset)
    (freeAxes (axisNumbers.foldl (fun s a => hardwareStop a s) { s with mot := { s.mot with mcHeld := true } })) := rfl

theorem axisOf_setTransport (b : Nat) (f : Transport → Transport) (s : State) : axisOf b (setTransport f s) = axisOf b s := rfl

theorem listKept_freeAxes (b : Nat) (s : State) : listKept (axisOf b (freeAxes s)) = listKept (axisOf b s) :=
  foldl_keeps listKept (fun _ _ => (axisOf_modAxis_of_eq listKept rfl b).trans (listKept_stopList ..)) _ s

theorem mcStop_frame (s : State) : mcStop s = { s with mot := (mcStop s).mot, mbox := (mcStop s).mbox } ∧
    (mcStop s).mot.mcHeld = true := by
  have happart : apart true true (mcStop s) = apart true true { s with mot := { s.mot with mcHeld := true } } := by
    rw [mcStop_eq, apart_setTransport, freeAxes, apart_foldl fun t c => by simp, apart_foldl fun t c => by simp]
  have hframe := frame_of_apart_update happart
  constructor
  · rw [hframe]
  · rw [hframe]

theorem hardStopped_all (hsix : s.mot.axes.length = 6) (ha : a < 6) :
    HardStopped s a (axisOf a s) (axisOf a (axisNumbers.foldl (fun s a => hardwareStop a s) s)) := by
  refine (foldl_each (e := true) (u := false) (P := fun b y => HardStopped s b (axisOf b s) y) List.nodup_range
    (fun t b j hj => axisOf_hardwareStop_ne hj t) (fun t b => apart_hardwareStop b t) fun t b hb happart haxis => ?_).1 a
    (List.mem_range.2 ha)
  have hlt : b < t.mot.axes.length := by rw [apart_length happart, hsix]; exact List.mem_range.1 hb
  have hstop := (hardStopped_hardwareStop hlt).of_apart happart
  rwa [haxis] at hstop

theorem hardStopped_mcStop (hsix : s.mot.axes.length = 6) (ha : a < 6) :
    HardStopped s a (axisOf a s) (axisOf a (mcStop s)) := by
  have hstop := hardStopped_all (s := { s with mot := { s.mot with mcHeld := true } }) hsix ha
  have haxis : listKept (axisOf a (mcStop s)) = listKept (axisOf a
      (axisNumbers.foldl (fun s a => hardwareStop a s) { s with mot := { s.mot with mcHeld := true } })) := by
    rw [mcStop_eq, axisOf_setTransport, listKept_freeAxes]
  rw [← hardStopped_listKept, haxis, hardStopped_listKept]
  exact ⟨hstop.vw, hstop.pos, hstop.held, hstop.released, hstop.idle⟩

theorem emptyRings_frame (l : List Nat) (s : State) : emptyRings l s = { s with mbox := (emptyRings l s).mbox } := by
  induction l generalizing s with
  | nil => rfl
  | cons d l ih => exact ih (modDir d (fun x => { x with ring := [] }) s)

/-- The watchdog of the MC stops every axis at its position before the device enters FAULT. -/
theorem execMcWatchdog_stops (hshaped : Shaped s = true) (hrunning : running s = true) (hdomain : domainOn 3 s = true)
    (hheld : s.mot.mcHeld = false) : ∃ t, execMcWatchdog s = .next (raise [⟨0x0C03, 2, []⟩] t) ∧ t.mot.mcHeld = true ∧
      (∀ a < 6, HardStopped s a (axisOf a s) (axisOf a t)) ∧ t = { s with mot := t.mot, mbox := t.mbox } := by
  have hacts : execMcWatchdog s = .next (raise [⟨0x0C03, 2, []⟩] (emptyRings [4, 6] (mcStop s))) := by
    simp only [execMcWatchdog, hrunning, hdomain, hheld, Bool.not_false, Bool.and_self, if_true]
  obtain ⟨hframe, hmarked⟩ := mcStop_frame s
  have hstop {a : Nat} (ha : a < 6) := hardStopped_mcStop (axes_length_of_shaped hshaped) ha
  generalize mcStop s = u at hacts hframe hmarked hstop
  refine ⟨_, hacts, ?_, fun a ha => ?_, ?_⟩
  · rw [emptyRings_frame]
    exact hmarked
  · rw [emptyRings_frame]
    exact hstop ha
  · rw [emptyRings_frame, hframe]

end Sys2Proof.Machine
end

section
/-!
PROOFS. The protection of the motors, the stall and the watchdogs, as the statement has them (11_motion R281, R301 to R305, R308, R316,
16_management R392).
-/
namespace Sys2Proof.Machine

/-- Settles O37: a cycle follows its phase and its sides (`chopStep_on`, `chopStep_off`, `chopSides_…`), a fault shuts its axis
(`driverFault`, `down_shutdowns`), an estimate follows `loadEstimate_…`, a stall ramps its axis (`stallAxis_ramps_alone`) or all
(`rampsDown_emergencyAll`), and a held MC stops every axis (`hardStopped_mcStop`). -/
theorem motionProtectionAndStall : Obligations.MotionProtectionAndStall := by
  unfold Obligations.MotionProtectionAndStall
  refine ⟨fun a target i c s => ?_, fun a s => ⟨fun h g hg => ?_, fun g hg => axisGates_ne hg, fun h => axisGates_energised h⟩,
    fun a s hshaped hdomain henergised => ?_, fun a s h => ?_, fun s hshaped hdomain huv => ?_,
    fun a uA uB iA iB s hshaped hmc => ?_, fun a s hshaped hmc hsince => ?_, fun a s hsince => ?_,
    fun s hshaped hrunning hdomain hheld => ?_, fun s h => ?_, fun s hrunning hdomain hheld => ?_, fun s h => ?_⟩
  · dsimp only
    refine ⟨?_, fun htarget hdir => ?_, fun htarget hdir hon => chopStep_on htarget hdir hon,
      fun htarget hdir hoff => chopStep_off htarget hdir hoff, fun hon => chopSides_on hon,
      fun hoff _ hfast => chopSides_fast hoff hfast, fun hoff hslow => chopSides_slow hoff hslow, rfl, rfl⟩
    · rintro rfl
      rw [chopStep_eq (chopPhase_zero a i s c)]
      exact ⟨rfl, chopSides_zero rfl rfl⟩
    · rw [chopStep_eq (chopPhase_begin htarget hdir)]
      exact ⟨rfl, rfl, rfl, rfl⟩
  · rw [axisGates_idle h] at hg
    exact List.eq_of_mem_replicate hg
  · dsimp only
    refine ⟨?_, fun hslow hlarge => ?_⟩
    · obtain ⟨t, ht, hshut, hsticky, hcount, halone, hframe⟩ := driverFault a 9 ⟨0x0900, a, []⟩ hshaped
      exact ⟨t, congrArg Host.Outcome.next ((if_pos (by simp [hdomain, henergised])).trans ht), hshut.state, hshut.energised,
        hshut.current, hshut.vw, hshut.referenced, hshut.sticky, hshut.errorCount, hshut.pos, hsticky, hcount, halone, hframe⟩
    · obtain ⟨t, ht, hshut, hsticky, hcount, halone, hframe⟩ := driverFault a 10 ⟨0x0902, a, []⟩ hshaped
      exact ⟨t, congrArg Host.Outcome.next ((if_pos (by simp [hdomain, henergised, hslow, hlarge])).trans ht), hshut.state,
        hshut.energised, hshut.current, hshut.vw, hshut.referenced, hshut.sticky, hshut.errorCount, hshut.pos, hsticky, hcount,
        halone, hframe⟩
  · exact ⟨congrArg Host.Outcome.next (if_neg (by rcases h with h | h <;> simp [h])),
      congrArg Host.Outcome.next (if_neg (by rcases h with h | h <;> simp [h]))⟩
  · obtain ⟨t, ht, hmarked, hcount, hdown, hframe⟩ := gateUndervoltage_acts hshaped hdomain huv
    refine ⟨t, congrArg Host.Outcome.next ht, hmarked, hcount, fun a ha henabled => ?_, hframe⟩
    have hshut := hdown a ha henabled
    exact ⟨hshut.state, hshut.energised, hshut.referenced, hshut.sticky⟩
  · dsimp only
    have ha := axis_lt_of_shaped hshaped a
    refine ⟨fun hslow => ⟨_, congrArg Host.Outcome.next (loadEstimate_slow hmc hslow), ?_⟩, fun hruns hlast =>
      ⟨_, congrArg Host.Outcome.next (loadEstimate_first hmc hruns hlast), ?_⟩, fun jA jB eA eB hruns hlast hA hB => ?_⟩
    · exact ⟨⟨(onlyAxis_modAxis ..).others, rfl⟩, axisOf_modAxis_self s a _ ha⟩
    · exact ⟨⟨(onlyAxis_modAxis ..).others, rfl⟩, axisOf_modAxis_self s a _ ha⟩
    · obtain ⟨angle, fresh, since, hestimate, hangle⟩ := loadEstimate_next hmc hruns hlast
      have haxis := axisOf_modAxis_self { s with fresh := fresh } a (fun y => { y with
        loadAngle := angle, loadValid := true, lastCurrents := some (iA, iB), stallSince := since y }) ha
      refine ⟨_, congrArg Host.Outcome.next hestimate, ⟨fun j hj => axisOf_modAxis_ne _ _ _ _ hj, rfl⟩, ?_, ?_, fun hi he => ?_⟩
      · rw [haxis]
      · rw [haxis]
      · rw [haxis, hA, hB]
        subst hA hB
        exact hangle hi he
  · dsimp only
    have ha := axis_lt_of_shaped hshaped a
    have hothers {j : Nat} (hj : j ≠ a.val) := axisOf_stallLogged_ne hj s
    refine ⟨fun haction => ?_, fun haction howner hmoving hlink hemergency hgroup => ?_, fun haction => ?_⟩
    · exact ⟨_, congrArg Host.Outcome.next (stallAxis_flags hsince hmc haction), axisOf_stallLogged ha,
        eventCount_stallLogged a s, fun j hj => hothers hj, frame_of_logged (apart_modAxis ..) rfl⟩
    · obtain ⟨honly, haxis⟩ := stallAxis_ramps_alone hsince hmc haction ⟨howner, hlink, hmoving⟩ hemergency hgroup
      refine ⟨_, rfl, haxis, ?_, fun j hj => (honly.others j hj).trans (hothers hj), frame_of_logged (apart_modAxis ..) honly.apart⟩
      rw [honly.frame]
      exact eventCount_stallLogged a s
    · obtain ⟨t, ht, hcount, hframe⟩ := stallAll_frame a.val s
      obtain ⟨hsticky, hreferenced, hstalls, hsettled⟩ := stalled_stallAll ha
      have hplace (b : Nat) := pos_energised_stallAll a.val b s
      rw [ht] at hsticky hreferenced hstalls hsettled
      simp only [ht] at hplace
      have hramps {b : Nat} (hb : b < 6) (henabled : axisEnabled b s = true) (h : MovesAlone (axisOf b s)) :
          RampsDown (axisOf b t) ∧ (b = a.val → (axisOf b t).errorAtStop = true) :=
        ht ▸ rampsDown_stallAll (movesAlone_stallLogged h) hb henabled
      refine ⟨t, congrArg Host.Outcome.next ((stallAxis_all hsince hmc haction).trans ht), ?_, hreferenced, hstalls, hsettled, hcount,
        fun b hb henabled hmoving howner hlink => ?_, fun b _ => hplace b, hframe⟩
      · rw [hsticky]
        exact bitOf_stick_self 8 _
      · obtain ⟨⟨hemergency, hstate⟩, hmark⟩ := hramps hb henabled ⟨howner, hlink, hmoving⟩
        exact ⟨hemergency, hstate, hmark⟩
  · exact congrArg Host.Outcome.next (if_pos (by simp [hsince]))
  · obtain ⟨t, ht, hmarked, hstops, hframe⟩ := execMcWatchdog_stops hshaped hrunning hdomain hheld
    refine ⟨t, ht, hmarked, fun a ha => ?_, hframe⟩
    have hstop := hstops a ha
    exact ⟨hstop.vw, hstop.pos, hstop.held, hstop.released, hstop.idle⟩
  · exact congrArg Host.Outcome.next (if_neg (by rcases h with h | h <;> simp [h]))
  · refine ⟨holdPc s, congrArg Host.Outcome.next (if_pos (by simp [hrunning, hdomain, hheld])), emptyRings_frame ..⟩
  · exact congrArg Host.Outcome.next (if_neg (by rcases h with h | h <;> simp [h]))

end Sys2Proof.Machine
end
